-- ==== Sys2Proof/Word.lean ====
section
/-!
DEFINITION. Words of the VL9612: bytes, 32-bit and 64-bit words (R5), the 80-bit stored word of the
three memory tiers (R145, R171), and the one shape in which the model holds sparse storage.
-/
namespace Sys2Proof

abbrev Byte := BitVec 8
abbrev W16 := BitVec 16
abbrev W32 := BitVec 32
abbrev W64 := BitVec 64
/-- One stored word of T0, T1 or T2: 64 data bits, poison, 14 check bits, parity (R171). -/
abbrev W80 := BitVec 80
/-- Canonical sparse storage: pairs of a number and a value, numbers strictly rising, and no value
equal to what an unlisted number reads as. The operations are in Machine/Ops.lean. -/
abbrev Tab (α : Type) := List (Nat × α)

end Sys2Proof
end

