-- ==== Sys2Proof/Wire.lean ====
section
/-!
DEFINITION. What arrives at the block from outside: the names and records that the operands of
`Instr` are made of (issue streams, flit bodies, bell frames, predictions, boot inputs).
-/
namespace Sys2Proof

/-- The three issue streams of a face (R99 and "Scalar sequencer"). -/
inductive IssueStream | f | b | u
deriving DecidableEq, Repr

/-- A memory tier (R145). -/
inductive Tier | t0 | t1 | t2
deriving DecidableEq, Repr

/-- A supply rail (R483). -/
inductive Rail | vinB0 | vinB1 | vinB2 | vinB3 | vinM | vddIo | vddAna | vddAux | vddLas
deriving DecidableEq, Repr

/-- One 8-byte word in transit with its poison bit (R467). -/
structure PWord where
  data   : W64
  poison : Bool
deriving DecidableEq, Repr

/-- Body of a DESC flit (R271, *CTRL subtypes* 0x01): the sender's device address, the collective (group slot and
issue count), the piece's byte offset and count, and the member shafts of the bond at the sender. -/
structure DescBody where
  sender  : Nat
  group   : Nat
  issue   : Nat
  member  : Nat
  offset  : Nat
  bytes   : Nat
  members : List Nat
deriving DecidableEq, Repr

/-- Body of a GRANT flit: the receive context granted, or a refusal status (R272). -/
structure GrantBody where
  context : Nat
  refusal : Nat
deriving DecidableEq, Repr

/-- Body of a CLOSE flit: DATA flits sent on each member, the poisoned word offsets, and the
all-poisoned flag (R273). -/
structure CloseBody where
  sent    : List Nat
  poison  : List Nat
  allBad  : Bool
deriving DecidableEq, Repr

/-- Body of a SIG flit: the sender's device address, the group slot and issue count, and the
signature of R240 as the digest-free list of the fields it names. -/
structure SigBody where
  sender : Nat
  group  : Nat
  issue  : Nat
  fields : List W64
deriving DecidableEq, Repr

/-- Body of an ABORT flit: the sender, the collective it ends (R253), and, where a rule gives every rank one status, that
status; 0 elsewhere (log 26). -/
structure AbortBody where
  sender : Nat
  group  : Nat
  issue  : Nat
  status : Nat
deriving DecidableEq, Repr

/-- Body of an IDENT flit (R271 subtype 0x11): device address, shaft number, active half. -/
structure IdentBody where
  addr  : Nat
  shaft : Nat
  half  : Bool
deriving DecidableEq, Repr

/-- What a flit carries behind its header (R267, *CTRL subtypes*). -/
inductive FlitBody
  | idle
  | data   (payload : List Byte)
  | desc   (b : DescBody)
  | grant  (b : GrantBody)
  | close  (b : CloseBody)
  | xdone
  | sig    (b : SigBody)
  | abort  (b : AbortBody)
  | xoff
  | xon
  | ident  (b : IdentBody)
  | nonce  (n : BitVec 128)
  | tag    (t : BitVec 128)
deriving DecidableEq, Repr

/-- A flit: its 64-bit header (R268) and what follows it. -/
structure Flit where
  hdr  : W64
  body : FlitBody
deriving DecidableEq, Repr

/-- How a flit arrives, beside its header and body: its CRC-32C is the one of its bytes, and the places (0 to 543) of the
symbols received wrong in the codeword whose last symbol comes with it (R267, R270). -/
structure FlitRx where
  crcOk : Bool
  wrong : List Nat
deriving DecidableEq, Repr

/-- An IDLE flit as it arrives: its header alone (R268). -/
structure IdleRx where
  hdr : W64
  rx  : FlitRx
deriving DecidableEq, Repr

/-- A bell burst as the receiver sees it: the slot of the bell cycle it arrived in, the places (0 to 65) of the symbols
received wrong in its codeword, and the eight words of the frame that the codeword holds (R290, R291, R293). -/
structure BellRx where
  slot  : Nat
  wrong : List Nat
  words : List W64
deriving DecidableEq, Repr

/-- What the winder's prediction gives for one control period (R395), from coefficients that lie in module
flash: draws in milliwatts. Compute is a grid: the draw at operating point n and duty d percent stands at
26 * (18 - n) + d. Memory and links have 26 draws each, by duty. Then the draw of the unthrottled share, and
the measured and the predicted input power of the last period. -/
structure Prediction where
  fixed     : Nat
  compute   : List Nat
  memory    : List Nat
  links     : List Nat
  measured  : Nat
  predicted : Nat
deriving DecidableEq, Repr

/-- A signed image as module flash or a host buffer holds it: its bytes (R429). -/
abbrev ImageBytes := List Byte

/-- What boot finds on the part (R391, R421, R435): whether each step that flash data or the analog
parts decide has succeeded. -/
structure BootInputs where
  flashReadable : Bool
  /-- the authenticator that the replay-protected region of flash returns (R432). -/
  regionTag     : BitVec 256
  /-- the seed that the PUF and the helper data give; none when reconstruction fails (R435). -/
  seed          : Option (BitVec 256)
  pllAndRailsOk : Bool
  /-- voltage table of the per-part image: bench, operating point, face supply in mV (R391). -/
  voltages      : List (Nat × Nat × Nat)
  perPartImage  : ImageBytes
deriving DecidableEq, Repr

/-- Which background initialisation ends (R423). -/
inductive MemUnit | stack (s : Fin 12) | t2All
deriving DecidableEq, Repr

/-- Whose host-memory read timed out (R448). -/
inductive HostReader
  | ring (r : Fin 256)
  | queue (q : Fin 41)
  | command (r : Fin 256) (seq : W32)
deriving DecidableEq, Repr

/-- Whose replies or entries an interrupt covers (R367, R368). -/
inductive IrqSource | ring (r : Fin 256) | queue (q : Fin 41)
deriving DecidableEq, Repr

/-- What a peer answers to a request for the bytes of a version entry (R318): the words of the
shard, or the status with which the fetch ends. -/
inductive PeerAnswer | words (ws : List PWord) | ends (status : Nat)
deriving DecidableEq, Repr

/-- What draws a device in S1 or S2 back to S0 (R413). -/
inductive WakeCause | packet | bar2 | desc | mctp
deriving DecidableEq, Repr

/-- The part of DEV_TIME that is read (R498). -/
inductive TimeHalf | whole | low | high
deriving DecidableEq, Repr

/-- Sideband vendor message framing (R459): instance byte and the two reserved bytes, and whether the
packet's PEC is right (R456). -/
structure VendorHdr where
  inst     : Byte
  reserved : W16
  pecOk    : Bool
deriving DecidableEq, Repr

/-- A request on the sideband that may have to wait (R413, R458 to R460). -/
inductive MctpReq
  | setEid (eid : Byte)
  | getEid
  | version (typ : Byte)
  | types
  | vendorTypes (selector : Byte)
  | telemetry (h : VendorHdr)
  | capSb (h : VendorHdr) (cap : W16)
  | powerReq (h : VendorHdr) (target : Byte)
  | warmReset (h : VendorHdr)
  | extract (h : VendorHdr) (first : W16) (count : Byte)
  | reserved (h : VendorHdr) (cmd : Byte)
deriving DecidableEq, Repr

end Sys2Proof
end

