-- ==== Sys2Proof/Syntax.lean ====
section
/-!
DEFINITION. The commands of the block: one constructor for each row of spec/opcode_table.json.

* A face instruction names a face and an issue stream. Its word is the one the sequencer fetches from
  the stream's own instruction buffer at its pc (R120, R142), so every field of the encoding is an operand.
* A Lervo command names a ring. Its packet is the one at the ring's submission head in host memory
  (R358, R363), so every parameter word is an operand.
* An event carries what the outside supplies with it.
-/
namespace Sys2Proof

inductive Instr
  /-- TLOAD (R126). Loads an operand tile from T0 into an operand buffer, transposing it when T is 1 and reading scale entries for INT8 and INT4. -/
  | tload (f : Fin 128) (st : IssueStream)
  /-- MMA (R127). Delivers groups of two operand buffers into an accumulator, starting at logical group index G0. -/
  | mma (f : Fin 128) (st : IssueStream)
  /-- DRAIN (R128). Reads an accumulator through acc_drain, converts it and writes it to T0 or to vector registers, leaving the accumulator empty. -/
  | drain (f : Fin 128) (st : IssueStream)
  /-- ACC_CLEAR (R513). Empties an accumulator without writing anything, once pending insertions are done. -/
  | accClear (f : Fin 128) (st : IssueStream)
  /-- V_ADD (R131). Element-wise FP32 addition with one RNE rounding. -/
  | vAdd (f : Fin 128) (st : IssueStream)
  /-- V_SUB (R131). Element-wise FP32 subtraction with one RNE rounding. -/
  | vSub (f : Fin 128) (st : IssueStream)
  /-- V_MUL (R131). Element-wise FP32 multiplication with one RNE rounding. -/
  | vMul (f : Fin 128) (st : IssueStream)
  /-- V_FMA (R131). Element-wise fused multiply-add with one rounding. -/
  | vFma (f : Fin 128) (st : IssueStream)
  /-- V_MAX (R131). Element-wise maximum that returns the canonical NaN if either operand is NaN. -/
  | vMax (f : Fin 128) (st : IssueStream)
  /-- V_MIN (R131). Element-wise minimum that returns the canonical NaN if either operand is NaN. -/
  | vMin (f : Fin 128) (st : IssueStream)
  /-- V_NEG (R131). Exact element-wise negation, which writes a zero result as +0. -/
  | vNeg (f : Fin 128) (st : IssueStream)
  /-- V_ABS (R131). Exact element-wise absolute value. -/
  | vAbs (f : Fin 128) (st : IssueStream)
  /-- V_SEL (R131). Bit-exact move that takes each element from va or b according to a mask bit. -/
  | vSel (f : Fin 128) (st : IssueStream)
  /-- V_MOV (R131). Bit-exact element move that preserves NaN payloads and -0. -/
  | vMov (f : Fin 128) (st : IssueStream)
  /-- V_CMPEQ (R131). FP32 equality compare into a mask register. -/
  | vCmpeq (f : Fin 128) (st : IssueStream)
  /-- V_CMPLT (R131). FP32 less-than compare into a mask register. -/
  | vCmplt (f : Fin 128) (st : IssueStream)
  /-- V_CMPLE (R131). FP32 less-or-equal compare into a mask register. -/
  | vCmple (f : Fin 128) (st : IssueStream)
  /-- V_ICMPEQ (R131). INT32 equality compare into a mask register. -/
  | vIcmpeq (f : Fin 128) (st : IssueStream)
  /-- V_ICMPLT (R131). INT32 less-than compare into a mask register. -/
  | vIcmplt (f : Fin 128) (st : IssueStream)
  /-- V_IADD (R131). Wrapping INT32 addition. -/
  | vIadd (f : Fin 128) (st : IssueStream)
  /-- V_ISUB (R131). Wrapping INT32 subtraction. -/
  | vIsub (f : Fin 128) (st : IssueStream)
  /-- V_IMUL (R131). Wrapping INT32 multiplication. -/
  | vImul (f : Fin 128) (st : IssueStream)
  /-- V_AND (R131). Bitwise AND on INT32 elements. -/
  | vAnd (f : Fin 128) (st : IssueStream)
  /-- V_OR (R131). Bitwise OR on INT32 elements. -/
  | vOr (f : Fin 128) (st : IssueStream)
  /-- V_XOR (R131). Bitwise XOR on INT32 elements. -/
  | vXor (f : Fin 128) (st : IssueStream)
  /-- V_SHL (R131). INT32 left shift, with the count taken modulo 32. -/
  | vShl (f : Fin 128) (st : IssueStream)
  /-- V_SHR (R131). INT32 arithmetic right shift, with the count taken modulo 32. -/
  | vShr (f : Fin 128) (st : IssueStream)
  /-- V_CVT_I2F (R131). Converts INT32 elements to FP32. -/
  | vCvtI2f (f : Fin 128) (st : IssueStream)
  /-- V_CVT_F2I (R131). Converts FP32 elements to INT32 with RNE and saturation, setting SAT when it saturates. -/
  | vCvtF2i (f : Fin 128) (st : IssueStream)
  /-- V_ROUND (R131). Rounds FP32 elements to FP16 or BF16 values under RND and G, keeping them in FP32 form. -/
  | vRound (f : Fin 128) (st : IssueStream)
  /-- V_IOTA (R131). Writes each element's own index as INT32. -/
  | vIota (f : Fin 128) (st : IssueStream)
  /-- V_EXP2 (R80). Evaluates the reference exp2 on each element. -/
  | vExp2 (f : Fin 128) (st : IssueStream)
  /-- V_EXP (R81). Evaluates the reference exp on each element. -/
  | vExp (f : Fin 128) (st : IssueStream)
  /-- V_LOG2 (R83). Evaluates the reference log2 on each element. -/
  | vLog2 (f : Fin 128) (st : IssueStream)
  /-- V_LOG (R84). Evaluates the reference log on each element. -/
  | vLog (f : Fin 128) (st : IssueStream)
  /-- V_RECIP (R85). Evaluates the reference reciprocal on each element. -/
  | vRecip (f : Fin 128) (st : IssueStream)
  /-- V_RSQRT (R86). Evaluates the reference rsqrt on each element. -/
  | vRsqrt (f : Fin 128) (st : IssueStream)
  /-- V_DIV (R85). Divides as round_rne_fp32(va × recip(b)). -/
  | vDiv (f : Fin 128) (st : IssueStream)
  /-- V_RSUM (R132). Tree-sum reduction into element 0 of the destination. -/
  | vRsum (f : Fin 128) (st : IssueStream)
  /-- V_RSUMSQ (R87). Tree sum of rounded squares into element 0. -/
  | vRsumsq (f : Fin 128) (st : IssueStream)
  /-- V_RDOT (R87). Tree sum of rounded products into element 0. -/
  | vRdot (f : Fin 128) (st : IssueStream)
  /-- V_RMAX (R132). Exact maximum reduction into element 0. -/
  | vRmax (f : Fin 128) (st : IssueStream)
  /-- V_RMIN (R132). Exact minimum reduction into element 0. -/
  | vRmin (f : Fin 128) (st : IssueStream)
  /-- V_SOFTMAX (R133). Soft maximum over one masked row at offset o, writing the empty-row flag into a mask bit. -/
  | vSoftmax (f : Fin 128) (st : IssueStream)
  /-- V_LOGSOFTMAX (R133). Log soft maximum over one masked row, writing the empty-row flag into a mask bit. -/
  | vLogsoftmax (f : Fin 128) (st : IssueStream)
  /-- V_RMSNORM (R90). RMS norm over one row, using inv_n and eps from the extension word. -/
  | vRmsnorm (f : Fin 128) (st : IssueStream)
  /-- V_LAYERNORM (R90). Layer norm over one row, using inv_n and eps from the extension word. -/
  | vLayernorm (f : Fin 128) (st : IssueStream)
  /-- V_LD (R134). Loads and widens elements from T0 into a vector register. -/
  | vLd (f : Fin 128) (st : IssueStream)
  /-- V_ST (R134). Converts a vector register and stores it to T0, with block-wise masking for V8 and V4. -/
  | vSt (f : Fin 128) (st : IssueStream)
  /-- M_LD (R134). Loads vl mask bits from T0 into a mask register. -/
  | mLd (f : Fin 128) (st : IssueStream)
  /-- M_ST (R134). Stores vl mask bits from a mask register to T0. -/
  | mSt (f : Fin 128) (st : IssueStream)
  /-- M_AND (R131). ANDs two mask registers into a third. -/
  | mAnd (f : Fin 128) (st : IssueStream)
  /-- M_OR (R131). ORs two mask registers into a third. -/
  | mOr (f : Fin 128) (st : IssueStream)
  /-- M_XOR (R131). XORs two mask registers into a third. -/
  | mXor (f : Fin 128) (st : IssueStream)
  /-- M_NOT (R131). Inverts a mask register into another. -/
  | mNot (f : Fin 128) (st : IssueStream)
  /-- S_NOP (R135). Scalar no-operation. -/
  | sNop (f : Fin 128) (st : IssueStream)
  /-- S_ADD (R135). 64-bit wrapping scalar addition. -/
  | sAdd (f : Fin 128) (st : IssueStream)
  /-- S_SUB (R135). 64-bit wrapping scalar subtraction. -/
  | sSub (f : Fin 128) (st : IssueStream)
  /-- S_MUL (R135). 64-bit wrapping scalar multiplication. -/
  | sMul (f : Fin 128) (st : IssueStream)
  /-- S_AND (R135). 64-bit scalar bitwise AND. -/
  | sAnd (f : Fin 128) (st : IssueStream)
  /-- S_OR (R135). 64-bit scalar bitwise OR. -/
  | sOr (f : Fin 128) (st : IssueStream)
  /-- S_XOR (R135). 64-bit scalar bitwise XOR. -/
  | sXor (f : Fin 128) (st : IssueStream)
  /-- S_SHL (R135). Scalar left shift, with the count taken modulo 64. -/
  | sShl (f : Fin 128) (st : IssueStream)
  /-- S_SHR (R135). Scalar arithmetic right shift. -/
  | sShr (f : Fin 128) (st : IssueStream)
  /-- S_SHRL (R135). Scalar logical right shift. -/
  | sShrl (f : Fin 128) (st : IssueStream)
  /-- S_ADDI (R135). Adds a signed immediate to a scalar register. -/
  | sAddi (f : Fin 128) (st : IssueStream)
  /-- S_LI (R135). Loads a sign-extended immediate, or the extension word, into a scalar register. -/
  | sLi (f : Fin 128) (st : IssueStream)
  /-- S_SETVL (R130). Sets the stream's vl from a register, raising VL_RANGE when out of range. -/
  | sSetvl (f : Fin 128) (st : IssueStream)
  /-- S_SETVLI (R130). Sets the stream's vl from an immediate. -/
  | sSetvli (f : Fin 128) (st : IssueStream)
  /-- S_BR (R135). Unconditional relative branch, checked against BRANCH_RANGE. -/
  | sBr (f : Fin 128) (st : IssueStream)
  /-- S_BEQ (R135). Branches if two scalar registers are equal. -/
  | sBeq (f : Fin 128) (st : IssueStream)
  /-- S_BNE (R135). Branches if two scalar registers differ. -/
  | sBne (f : Fin 128) (st : IssueStream)
  /-- S_BLT (R135). Branches on a signed less-than comparison. -/
  | sBlt (f : Fin 128) (st : IssueStream)
  /-- S_BGE (R135). Branches on a signed greater-or-equal comparison. -/
  | sBge (f : Fin 128) (st : IssueStream)
  /-- S_LOOP (R135). Decrements a scalar register and branches while it is non-zero. -/
  | sLoop (f : Fin 128) (st : IssueStream)
  /-- S_END (R135). Ends the slice and the program once the stream's engine work and pending signals are done. -/
  | sEnd (f : Fin 128) (st : IssueStream)
  /-- DMA_T1_T0 (R136). Starts a DMA from a claim virtual address to T0. -/
  | dmaT1T0 (f : Fin 128) (st : IssueStream)
  /-- DMA_T0_T1 (R136). Starts a DMA from T0 to a claim virtual address. -/
  | dmaT0T1 (f : Fin 128) (st : IssueStream)
  /-- DMA_T0_T0 (R111). Starts a DMA from T0 to the T0 of another face of the same claim. -/
  | dmaT0T0 (f : Fin 128) (st : IssueStream)
  /-- DMA_GATHER (R136). Gathers indexed rows from claim memory into consecutive T0 rows. -/
  | dmaGather (f : Fin 128) (st : IssueStream)
  /-- DMA_SCATTER (R136). Scatters consecutive T0 rows to indexed claim addresses in index-list order. -/
  | dmaScatter (f : Fin 128) (st : IssueStream)
  /-- DMA_DONE (R104). A DMA descriptor writes its last byte, frees its slot and signals its semaphore. -/
  | dmaDone (f : Fin 128) (slot : Fin 16)
  /-- SEM_WAIT (R104). Stalls the stream until a semaphore reaches n, then subtracts n. -/
  | semWait (f : Fin 128) (st : IssueStream)
  /-- SEM_WAIT_RELEASE (R105). A stalled SEM_WAIT finds its count satisfied after that cycle's signals and proceeds. -/
  | semWaitRelease (f : Fin 128) (st : IssueStream)
  /-- SEM_SIGNAL (R137). Queues a semaphore signal to be applied after the stream's earlier engine work completes. -/
  | semSignal (f : Fin 128) (st : IssueStream)
  /-- SEM_SIGNAL_APPLY (R137). A pending signal is applied in program order, raising SEM_OVERFLOW when the count would overflow. -/
  | semSignalApply (f : Fin 128) (st : IssueStream)
  /-- TICK_FENCE (R138). Ends the slice once earlier work completes; the next slice takes its bound from slice-table entry ENTRY. -/
  | tickFence (f : Fin 128) (st : IssueStream)
  /-- FLAG_CLR (R139). Clears the selected bits of the stream's FLAGS register. -/
  | flagClr (f : Fin 128) (st : IssueStream)
  /-- POST (R112). Reduces a vector to a 64-bit summary and sends it with a branch-table number to the headframe. -/
  | post (f : Fin 128) (st : IssueStream)
  /-- POST_ANSWER (R113). A headframe core evaluates the branch table and returns the chosen target to the posting stream. -/
  | postAnswer (f : Fin 128)
  /-- AWAIT (R112). Takes the answer to the stream's own POST, waiting for it if needed, and jumps to the chosen target. -/
  | await (f : Fin 128) (st : IssueStream)
  /-- SLICE_OVERRUN (R116). The stream watchdog passes the slice's bound and cuts the slice off. -/
  | sliceOverrun (f : Fin 128) (st : IssueStream)
  /-- SLICE_COMPLETE (R371). The headframe receives a slice end and rewrites that program's completion record with FLAGS. -/
  | sliceComplete (f : Fin 128) (st : IssueStream)
  /-- REQUEST_END (R365). The last program of a request ends or fails; the device writes the completion records and the deferred reply. -/
  | requestEnd (req : Nat)
  /-- TICK_BOUNDARY (R334). A claim's tick boundary arrives: accruals, stream transitions, admission, batch formation, promise checks and slice issue, in order. -/
  | tickBoundary (c : Fin 8)
  /-- WINDOW_BOUNDARY (R351). A tally window ends after N ticks: windows roll, pending N changes apply and window records are written. -/
  | windowBoundary (c : Fin 8)
  /-- TICK_PERIOD_CHANGE (R332). A pending TICK_SET takes effect at boundary TAKE_AT. -/
  | tickPeriodChange (c : Fin 8)
  /-- SAMPLER_ROW (R515). After a step's last slice, the sampler samples one batch row by R227. -/
  | samplerRow (batch : Nat) (poison : Bool) (main draft : List (List W32))
  /-- RETIRE_POINT (R217). The headframe commits a step's outcome for every live row: history, POS, counts, depth, ledger, tally and DONE. -/
  | retirePoint (batch : Nat)
  /-- PARK_EFFECT (R226). A pending park takes effect: the history goes to the host buffer and the stream ends DONE. -/
  | parkEffect (stream : Fin 131072)
  /-- TURN_EFFECT (R31). A turn takes effect at a boundary: the claim is quiesced, generation state discarded and the PERMUTE set issued. -/
  | turnEffect (c : Fin 8)
  /-- TURN_FINISH (R31). The turn's PERMUTE set ends: the program set is replaced and the new shift begins, or R34 applies on failure. -/
  | turnFinish (c : Fin 8)
  /-- SWEEP_START (R187). A sweep starts at the first boundary at which its four conditions hold, and any pending canary word takes effect. -/
  | sweepStart (c : Fin 8)
  /-- BLOCK_UPDATE (R190). A near-bank unit checks a parameter block, hoists its pages and updates its segments under its rule. -/
  | blockUpdate (c : Fin 8) (block : Nat)
  /-- SWEEP_END (R193). Every block has been updated or has failed: the step number advances and the reply carries the counts. -/
  | sweepEnd (c : Fin 8)
  /-- REPLICA_ASSAY_START (R208). A waiting replica assay starts once no sweep of the claim is in progress. -/
  | replicaAssayStart (c : Fin 8) (assay : W32)
  /-- REPLICA_ASSAY_DONE (R209). The assay's digests and comparisons finish, absent peers are counted and the reply is written. -/
  | replicaAssayDone (c : Fin 8) (assay : W32) (gathered : List (Nat × List (BitVec 256)))
  /-- HOIST_DONE (R161). A hoist writes its last chunk; the page becomes CLEAN and stalled accesses resume. -/
  | hoistDone (c : Fin 8) (page : Nat)
  /-- WRITEBACK_DONE (R150). A write-back writes its last chunk to T2; the page becomes T2 and its frame is freed. -/
  | writebackDone (c : Fin 8) (page : Nat)
  /-- FETCH_DEADLINE (R162). An access's fetch deadline passes with the page not CLEAN, failing the request. -/
  | fetchDeadline (stall : Nat)
  /-- PATROL_SCRUB (R177). Background scrub reads and corrects a line of T1, T2 or T0 at its rate. -/
  | patrolScrub (tier : Tier) (f : Fin 128) (addr : Nat)
  /-- OBJ_DESTROY_EFFECT (R150). Once accesses already translated to a destroyed object's pages complete, the pages become UNMAPPED. -/
  | objDestroyEffect (c : Fin 8) (obj : Fin 4096)
  /-- HOIST_EVICT_EFFECT (R164). Once accesses already translated complete, the page returns to T2 or begins its write-back. -/
  | hoistEvictEffect (c : Fin 8) (page : Nat)
  /-- WEIGHT_REPAIR (R327). An uncorrectable weight leaf is rewritten from T2 or a mirror peer, or else marked. -/
  | weightRepair (c : Fin 8) (obj : Fin 4096) (leaf : Nat) (mirror : PeerAnswer)
  /-- COLL_START (R240). A collective starts on its group and exchanges signatures with its peers. -/
  | collStart (c : Fin 8) (coll : Nat)
  /-- COLL_RETIRE (R238). A collective retires once its bytes are acknowledged and written, and its completion record is written. -/
  | collRetire (c : Fin 8) (coll : Nat)
  /-- COLL_TIMEOUT (R253). No progress from a peer for TIMEOUT ends the collective and sends an abort. -/
  | collTimeout (c : Fin 8) (coll : Nat)
  /-- PERMUTE_FENCE_CLEAR (R256). A PERMUTE set's fence clears once the set is complete, older collectives have retired and the barrier has passed. -/
  | permuteFenceClear (c : Fin 8)
  /-- EPOCH_FENCE_TIMEOUT (R256). The fence has not cleared within TIMEOUT, and every member fails. -/
  | epochFenceTimeout (c : Fin 8)
  /-- PERMUTE_STAGED (R262). The step 2 barrier completes, and staging is copied into the destination extents. -/
  | permuteStaged (c : Fin 8)
  /-- PERMUTE_COMPLETE (R262). The final barrier completes; every member completes and the claim's epoch changes. -/
  | permuteComplete (c : Fin 8)
  /-- DATA (R283). A DATA flit is received, checked and then written or relayed. -/
  | data (s : Fin 52) (hdr : W64) (payload : List Byte) (crc : W32) (wrong : List Nat)
  /-- IDLE (R268). An IDLE flit is received and its ACK is taken. -/
  | idle (s : Fin 52) (flit : IdleRx)
  /-- DESC (R272). A transfer-opening DESC is received and granted once its pages are translated and ready. -/
  | desc (s : Fin 52) (hdr : W64) (rx : FlitRx) (body : DescBody)
  /-- GRANT (R272). A GRANT accepts or refuses a transfer. -/
  | grant (s : Fin 52) (hdr : W64) (rx : FlitRx) (body : GrantBody)
  /-- CLOSE (R273). CLOSE lists the poisoned words; the receiver writes them poisoned, finishes and sends XDONE. -/
  | close (s : Fin 52) (hdr : W64) (rx : FlitRx) (body : CloseBody)
  /-- XDONE (R273). XDONE acknowledges a whole transfer at the sender. -/
  | xdone (s : Fin 52) (hdr : W64) (rx : FlitRx)
  /-- SIG (R240). A collective signature is received and compared. -/
  | sig (s : Fin 52) (hdr : W64) (rx : FlitRx) (body : SigBody)
  /-- ABORT (R253). A collective abort is received and the operation completes with COLL_ABORTED. -/
  | abort (s : Fin 52) (hdr : W64) (rx : FlitRx) (body : AbortBody)
  /-- XOFF (R276). Stops the flits of one claim tag within 16 flit times. -/
  | xoff (s : Fin 52) (hdr : W64) (rx : FlitRx)
  /-- XON (R276). Resumes the flits of one claim tag. -/
  | xon (s : Fin 52) (hdr : W64) (rx : FlitRx)
  /-- IDENT (R277). Peer identity is exchanged; the shaft becomes UP or HALF, or R279 applies on a change. -/
  | ident (s : Fin 52) (hdr : W64) (rx : FlitRx) (body : IdentBody)
  /-- NONCE (R280). A claim authentication nonce is received. -/
  | nonce (s : Fin 52) (hdr : W64) (rx : FlitRx) (n : BitVec 128)
  /-- TAG (R280). A GMAC authentication tag is checked, and the claim channel opens when both tags verify. -/
  | tag (s : Fin 52) (hdr : W64) (rx : FlitRx) (t : BitVec 128)
  /-- REPLAY_TIMEOUT (R271). No ACK advance for 2 µs resends every unacknowledged flit; after eight resends the shaft retrains. -/
  | replayTimeout (s : Fin 52)
  /-- SHAFT_RETRAIN (R278). A retrain of steps 4 and 5 and IDENT completes at the shaft's width. -/
  | shaftRetrain (s : Fin 52)
  /-- SHAFT_BRINGUP_STEP (R277). A bring-up step (laser, lock, tune, train, deskew) completes or its training attempt repeats every 1 s. -/
  | shaftBringupStep (s : Fin 52) (good : BitVec 8)
  /-- LANE_FAIL (R286). A lane fails, and the shaft goes to HALF or DOWN. -/
  | laneFail (s : Fin 52) (lane : Fin 8)
  /-- LOSS_OF_SIGNAL (R279). Loss of signal for more than 10 ms closes claim channels and clears routing bits. -/
  | lossOfSignal (s : Fin 52)
  /-- BELL_SLOT (R292). The device's owned or contention slot comes round and it sends its highest-priority queued frame. -/
  | bellSlot (slot : Fin 80)
  /-- PRESENCE (R300). A PRESENCE frame is received and slot timing and cycle-master state are updated. -/
  | presence (rx : BellRx)
  /-- JOIN (R299). A JOIN echo is received and gives one loop-delay sample. -/
  | join (rx : BellRx)
  /-- TICK (R304). A TICK frame sets the member's target claim time and its slew. -/
  | tick (rx : BellRx)
  /-- BARRIER (R311). A barrier token is received and the barrier completes when every rank is held. -/
  | barrier (rx : BellRx)
  /-- LAG (R307). A lag notice is received, posting LAG_NOTICE and applying any sympathy limit. -/
  | lag (rx : BellRx)
  /-- GOSSIP (R310). A GOSSIP frame is compared with the receiver's own digest for the same round. -/
  | gossip (rx : BellRx)
  /-- REPLICA (R312). A REPLICA frame's digest prefix is compared with the receiver's own. -/
  | replica (rx : BellRx)
  /-- TICK_FRAME_SEND (R303). The tick master queues a TICK frame every 32 bell cycles. -/
  | tickFrameSend (c : Fin 8)
  /-- TICK_MASTER_LOST (R306). No TICK frame for 2,048 bell cycles posts TICK_MASTER_LOST. -/
  | tickMasterLost (c : Fin 8)
  /-- CYCLE_MASTER_TAKEOVER (R300). The cycle master's slot is empty for 8 bell cycles, and the next lowest address takes over. -/
  | cycleMasterTakeover
  /-- ADDR_CONFLICT (R300). The own echo fails in 4 consecutive bell cycles, counting ADDR_CONFLICT and posting BELL_EVENT. -/
  | addrConflict
  /-- BELL_NO_SIGNAL (R298). No bell signal for 1 ms during join makes the device cycle master. -/
  | bellNoSignal
  /-- LAG_NOTICE_SEND (R307). A throttle reason active for 32 bell cycles, or its repeat or end, queues a LAG frame. -/
  | lagNoticeSend (c : Fin 8) (expect : W32)
  /-- SYMPATHY_EXPIRE (R308). A sympathy limit ends when EXPECT elapses or no repeat arrives within 2,048 bell cycles. -/
  | sympathyExpire (c : Fin 8) (src : Fin 64)
  /-- WEIGHT_LOAD_DONE (R319). A load's last byte lands and its digest is compared; the entry is loaded or the load fails. -/
  | weightLoadDone (c : Fin 8) (slot : Fin 4) (entry : Fin 1024) (peer : PeerAnswer)
  /-- VERSION_SWITCH_EFFECT (R321). At boundary TAKE_AT, the named slot becomes CURRENT and the old one DRAINING. -/
  | versionSwitchEffect (c : Fin 8)
  /-- VERSION_AUDIT (R326). At an audit-interval boundary, the tree digest of the next entry is started. -/
  | versionAudit (c : Fin 8)
  /-- VERSION_AUDIT_DONE (R326). An audit digest finishes and mismatches are counted and posted. -/
  | versionAuditDone (c : Fin 8)
  /-- CORE_WATCHDOG (R473). A headframe core's watchdog expires, which is device-fatal. -/
  | coreWatchdog (core : Fin 4) (pc : W64)
  /-- FABRIC_CRC_FAIL (R463). A fabric or bridge flit fails CRC-16 and is resent; sixteen consecutive failures are device-fatal. -/
  | fabricCrcFail (bench : Fin 4) (again : Bool)
  /-- T2_FENCE (R466). A T2 controller with a single-device error pattern is fenced and its claims end. -/
  | t2Fence (t2c : Fin 8)
  /-- SUMP_FLASH_WRITE (R474). Posted sump records are written to module flash within 10 ms. -/
  | sumpFlashWrite
  /-- CONTROL_PERIOD (R395). Every 20 µs the winder predicts draws and arbitrates the operating point and bubble duties. -/
  | controlPeriod (p : Prediction)
  /-- OP_RAISE_SETTLED (R390). After the face supply settles, the frequency is raised one step. -/
  | opRaiseSettled
  /-- THERMAL_LOOP (R409). Every 1 ms the thermal loop lowers or raises CAP_THERM. -/
  | thermalLoop (meanPower : Nat)
  /-- TEMPERATURE_SAMPLE (R410). Sensors are sampled every 100 µs, and recovery begins or ends. -/
  | temperatureSample (hottest : Int)
  /-- THERMTRIP (R411). A sensor reaches 105 °C; THERMTRIP_N is asserted and the device stops. -/
  | thermtrip (sensor : Fin 224) (reading : Int)
  /-- LAMP_CANARY_FAIL (R392). A timing canary fails; the bench trim rises, bubbles start, or the bench is margin-capped. -/
  | lampCanaryFail (bench : Fin 4)
  /-- LAMP_TRIM_LOWER (R392). A bench clean for 1 s lowers its trim by 2.5 mV. -/
  | lampTrimLower (bench : Fin 4)
  /-- TRIM_SAVE (R392). Trims are saved to module flash once per hour in S0. -/
  | trimSave
  /-- DROOP_DETECT (R399). A droop detector starts compute bubbles on its face. -/
  | droopDetect (f : Fin 128)
  /-- RAIL_CURRENT_SAMPLE (R400). Rail currents are measured every 1 µs, and overcurrent starts bubbles. -/
  | railCurrentSample (rails : List Rail)
  /-- INTERRUPT_COALESCE_TIMEOUT (R367). COAL_US passes after the first unsignalled reply, and an interrupt is sent. -/
  | interruptCoalesceTimeout (src : IrqSource)
  /-- HOST_READ_TIMEOUT (R448). A host-memory read is not completed within 50 ms and fails. -/
  | hostReadTimeout (who : HostReader)
  /-- PERST_N_ASSERT (R424). PERST_N assertion starts a fundamental reset. -/
  | perstNAssert
  /-- PERST_N_DEASSERT (R421). PERST_N deassertion latches straps and starts the boot sequence. -/
  | perstNDeassert (smbAddr : BitVec 2) (srns : Bool)
  /-- ADIT_READY (R421). The adit link is trained and configuration space is ready. -/
  | aditReady
  /-- FIRMWARE_READY (R421). Boot reaches firmware-ready, or stops with a boot failure cause. -/
  | firmwareReady (inp : BootInputs)
  /-- MEMORY_INIT_DONE (R423). A T1 stack or the T2 controllers finish background initialisation. -/
  | memoryInitDone (u : MemUnit)
  /-- HOT_RESET (R424). A PCIe hot reset ends rings, output queues and IDE streams. -/
  | hotReset
  /-- FUNCTION_LEVEL_RESET (R369). A PCIe FLR disables the function's rings, queues and window. -/
  | functionLevelReset (fn : Fin 33)
  /-- POWER_STATE_ENTERED (R413). Entry to S1 to S4 completes and the reply is written. -/
  | powerStateEntered
  /-- POWER_EXIT_EVENT (R413). A packet, BAR2 access, shaft DESC or MCTP request in S1 or S2 starts the return to S0. -/
  | powerExitEvent (cause : WakeCause)
  /-- S0_RETURN (R413). The device is back in S0 within the exit time, and the waking event takes effect. -/
  | s0Return
  /-- WAKE_N (R419). WAKE_N held low for 1 µs in S3 starts resume. -/
  | wakeN
  /-- SMBUS_ADDRESS_MATCH (R419). An SMBus address match in S3 wakes the device and NACKs the following bytes. -/
  | smbusAddressMatch (addr : BitVec 7)
  /-- S3_RESUME (R420). Resume from S3 runs a warm reset with retained granules kept. -/
  | s3Resume (inp : BootInputs)
  /-- RAIL_LOSS (R488). A VIN rail below tolerance for 20 µs stops the device, asserts FAULT_N and flushes the sump. -/
  | railLoss (rail : Rail) (auxHolds : Bool)
  /-- VDD_LAS_REMOVED (R487). VDD_LAS removal takes every shaft OFF and posts SHAFT_EVENTs. -/
  | vddLasRemoved
  /-- VDD_LAS_GOOD (R487). VDD_LAS becomes good and bring-up starts for enabled shafts. -/
  | vddLasGood
  /-- TAP_INSTRUCTION_LOAD (R445). A TAP instruction is loaded, with BYPASS substituted while PERST_N is deasserted. -/
  | tapInstructionLoad (code : Byte)
  /-- TAP_RESET (R490). TRST_N or VDD_AUX power-up resets the TAP to Test-Logic-Reset with IDCODE. -/
  | tapReset
  /-- IDE_INTEGRITY_FAIL (R443). A TLP fails IDE integrity; its stream goes Insecure and a sump record is written. -/
  | ideIntegrityFail (stream : Fin 2)
  /-- IDE_KM (R443). IDE_KM inside a secured SPDM session sets the keys of an IDE stream. -/
  | ideKm (stream : Fin 2)
  /-- DOE_DISCOVERY (R455). A DOE Discovery request is answered. -/
  | doeDiscovery (index : Byte)
  /-- DOE_ABORT (R455). A DOE mailbox abort discards the object in progress. -/
  | doeAbort
  /-- GET_VERSION (R437). SPDM GET_VERSION request. -/
  | getVersion (msg : List Byte)
  /-- GET_CAPABILITIES (R437). SPDM GET_CAPABILITIES request. -/
  | getCapabilities (msg : List Byte)
  /-- NEGOTIATE_ALGORITHMS (R437). SPDM algorithm negotiation. -/
  | negotiateAlgorithms (msg : List Byte)
  /-- GET_DIGESTS (R437). SPDM certificate digests request. -/
  | getDigests (msg : List Byte)
  /-- GET_CERTIFICATE (R437). Returns the Ed25519 or ML-DSA-65 certificate chain by slot. -/
  | getCertificate (msg : List Byte) (slot : Nat) (offset len : Nat)
  /-- CHALLENGE (R437). SPDM challenge, signed with Ed25519, keeping the signed message M. -/
  | challenge (msg : List Byte)
  /-- GET_MEASUREMENTS (R438). Returns measurement blocks 1 to 5. -/
  | getMeasurements (msg : List Byte) (index : Byte) (signed : Bool)
  /-- KEY_EXCHANGE (R437). SPDM ECDHE key exchange. -/
  | keyExchange (msg : List Byte)
  /-- FINISH (R437). SPDM session FINISH. -/
  | finish (msg : List Byte)
  /-- END_SESSION (R437). Ends an SPDM session. -/
  | endSession (msg : List Byte)
  /-- VENDOR_DEFINED_REQUEST (R439). Returns the ML-DSA-65 signature over the kept message M. -/
  | vendorDefinedRequest (msg : List Byte) (vendor : W16) (payload : Byte)
  /-- SET_ENDPOINT_ID (R458). MCTP control: set endpoint ID. -/
  | setEndpointId (pecOk : Bool) (eid : Byte)
  /-- GET_ENDPOINT_ID (R458). MCTP control: get endpoint ID. -/
  | getEndpointId (pecOk : Bool)
  /-- GET_MCTP_VERSION_SUPPORT (R458). MCTP control: version support. -/
  | getMctpVersionSupport (pecOk : Bool) (typ : Byte)
  /-- GET_MESSAGE_TYPE_SUPPORT (R458). MCTP control: message type support. -/
  | getMessageTypeSupport (pecOk : Bool)
  /-- GET_VENDOR_MESSAGE_SUPPORT (R458). MCTP control: Get Vendor Defined Message Support. -/
  | getVendorMessageSupport (pecOk : Bool) (selector : Byte)
  /-- TELEMETRY_GET (R459). Sideband request that returns the telemetry block snapshot. -/
  | telemetryGet (h : VendorHdr)
  /-- CAP_SB_SET (R460). Sideband request that sets CAP_SB and returns the floor. -/
  | capSbSet (h : VendorHdr) (cap : W16)
  /-- POWER_REQ (R460). Sideband request for S2 or S4, acting as POWER_STATE_SET. -/
  | powerReq (h : VendorHdr) (target : Byte)
  /-- WARM_RESET (R460). Sideband warm reset, answered by the always-on responder even when device-fatal. -/
  | warmReset (h : VendorHdr)
  /-- SUMP_EXTRACT (R459). Sideband read of up to 15 sump records. -/
  | sumpExtract (h : VendorHdr) (first : W16) (count : Byte)
  /-- BAR2_READ (R453). A read through the T1 window is checked per word against the window, tags and poison. -/
  | bar2Read (fn : Fin 33) (offset : Nat) (len : Nat)
  /-- BAR2_WRITE (R453). A write through the T1 window is checked per word and merged or poisoned. -/
  | bar2Write (fn : Fin 33) (offset : Nat) (bytes : List Byte) (ep : Bool)
  /-- SQ_TAIL (R361). The submission doorbell write makes packets available, or sets ERR 0x3. -/
  | sqTail (fn : Fin 33) (r : Fin 256) (v : W64)
  /-- CQ_HEAD (R361). The completion doorbell write frees reply entries. -/
  | cqHead (fn : Fin 33) (r : Fin 256) (v : W64)
  /-- OUTQ_HEAD (R501). An output queue's head doorbell frees entries. -/
  | outqHead (fn : Fin 33) (q : Fin 41) (v : W64)
  /-- RING_ENABLE (R357). A write of ENABLE = 1 resets ring indices and enters STATE 2, or STATE 3 if a field is out of range. -/
  | ringEnable (fn : Fin 33) (r : Fin 256) (w3 : W64)
  /-- RING_DISABLE (R357). A write of ENABLE = 0 stops consumption, clears SQ_TAIL and enters STATE 1. -/
  | ringDisable (fn : Fin 33) (r : Fin 256)
  /-- FN_CLAIM_WRITE (R452). A write of a function claim register clears that function's window entries. -/
  | fnClaimWrite (fn : Fin 33) (target : Fin 33) (v : W64)
  /-- WINDOW_ENTRY_WRITE (R452). A window entry write maps a granule, or is refused and sets ENTRY_ERR. -/
  | windowEntryWrite (fn : Fin 33) (target : Fin 33) (slot : Fin 64) (v : W64)
  /-- SUMP_DROPPED_READ (R499). A read of SUMP_DROPPED returns the count and clears it. -/
  | sumpDroppedRead (fn : Fin 33)
  /-- WINDOW_DROP_READ (R503). A read of WINDOW_DROP returns the count and clears it. -/
  | windowDropRead (fn : Fin 33) (target : Fin 33)
  /-- DEV_TIME_READ (R498). A 4-byte read of the low half of DEV_TIME latches the high half. -/
  | devTimeRead (fn : Fin 33) (half : TimeHalf)
  /-- MSIX_UNMASK (R451). Unmasking a vector sends its pending interrupt. -/
  | msixUnmask (fn : Fin 33) (vec : Fin 512)
  /-- REGISTER_WRITE (R8). A write to any other BAR0 register field, under its access code. -/
  | registerWrite (fn : Fin 33) (offset : Nat) (size : Nat) (v : W64)
  /-- MUSTER (R372). Writes a consistent 16 KiB summary of the device, rings and claims. -/
  | muster (r : Fin 256)
  /-- OUTQ_SET (R368). Configures an output queue. -/
  | outqSet (r : Fin 256)
  /-- RING_GRANT (R354). Binds a ring to a class, a function and a claim. -/
  | ringGrant (r : Fin 256)
  /-- RING_REVOKE (R354). Unbinds a disabled, idle ring. -/
  | ringRevoke (r : Fin 256)
  /-- CLAIM_CREATE (R343). Creates a claim from its descriptor after the checks. -/
  | claimCreate (r : Fin 256)
  /-- CLAIM_DESTROY (R346). Ends a claim, clears its memory and frees its tags. -/
  | claimDestroy (r : Fin 256)
  /-- CLAIM_RESET (R426). Ends a claim and recreates it from its original descriptor. -/
  | claimReset (r : Fin 256)
  /-- CLAIM_CLEAR_DONE (R346). The clearing write of a destroyed or reset claim's memory ends and the tags are cleared. -/
  | claimClearDone (r : Fin 256)
  /-- CLAIM_QUERY (R378). Returns the claim descriptor with seed and key as 0. -/
  | claimQuery (r : Fin 256)
  /-- REGION_RETIRE (R179). Retires a T1 or T2 frame into the flash list. -/
  | regionRetire (r : Fin 256)
  /-- REGION_RESTORE (R179). Removes a frame from the retired list. -/
  | regionRestore (r : Fin 256)
  /-- REGION_LIST (R179). Returns the retired-frame list. -/
  | regionList (r : Fin 256)
  /-- SHAFT_ADDR_SET (R269). Sets the device address while every shaft is OFF or DOWN. -/
  | shaftAddrSet (r : Fin 256)
  /-- SHAFT_CTL (R277). Enables or disables shafts. -/
  | shaftCtl (r : Fin 256)
  /-- SHAFT_QUERY (R281). Returns a shaft's status word and counters. -/
  | shaftQuery (r : Fin 256)
  /-- SHAFT_SHARE_SET (R275). Sets the local and relay credit shares of a shaft. -/
  | shaftShareSet (r : Fin 256)
  /-- SHAFT_AUTH (R280). Retries claim authentication on a shaft. -/
  | shaftAuth (r : Fin 256)
  /-- ROUTE_SET (R282). Writes a routing-table entry after its checks. -/
  | routeSet (r : Fin 256)
  /-- BELL_JOIN (R298). Joins the bell star at a named address. -/
  | bellJoin (r : Fin 256)
  /-- BELL_LEAVE (R298). Stops bell transmission at the end of the current bell cycle. -/
  | bellLeave (r : Fin 256)
  /-- BELL_CLAIM_SET (R301). Sets a claim's bell membership, tick master and SYMPATHY bit. -/
  | bellClaimSet (r : Fin 256)
  /-- BELL_QUERY (R313). Returns the bell status word and counters. -/
  | bellQuery (r : Fin 256)
  /-- OBJ_CREATE (R153). Creates an object and maps its pages to the named frames. -/
  | objCreate (r : Fin 256)
  /-- OBJ_DESTROY (R380). Starts the destruction of an object. -/
  | objDestroy (r : Fin 256)
  /-- OBJ_QUERY (R152). Returns an object descriptor. -/
  | objQuery (r : Fin 256)
  /-- OBJ_SET_PIN (R152). Changes an object's PIN attribute. -/
  | objSetPin (r : Fin 256)
  /-- PAGE_QUERY (R149). Returns a page-table entry. -/
  | pageQuery (r : Fin 256)
  /-- HOIST_PREFETCH (R162). Hoists named pages under the fetch deadline, replying when each is resident or has failed. -/
  | hoistPrefetch (r : Fin 256)
  /-- HOIST_EVICT (R164). Checks and requests eviction of a page to T2. -/
  | hoistEvict (r : Fin 256)
  /-- HOIST_FRAMES_ADD (R160). Adds frames to the claim's free-frame set. -/
  | hoistFramesAdd (r : Fin 256)
  /-- HOIST_FRAMES_REMOVE (R160). Removes frames not yet taken from the free-frame set. -/
  | hoistFramesRemove (r : Fin 256)
  /-- FETCH_DEADLINE_SET (R162). Sets the claim's fetch deadline. -/
  | fetchDeadlineSet (r : Fin 256)
  /-- BRANCH_TABLE_LOAD (R381). Loads a POST branch table. -/
  | branchTableLoad (r : Fin 256)
  /-- VERSION_BUILD (R317). Puts a slot in BUILDING from a version root, sharing unchanged entries. -/
  | versionBuild (r : Fin 256)
  /-- WEIGHT_LOAD (R318). Fills an entry's shard from host, peer or BAR2 data, or reloads a marked object. -/
  | weightLoad (r : Fin 256)
  /-- VERSION_CANCEL (R510). Returns a BUILDING or READY slot to EMPTY. -/
  | versionCancel (r : Fin 256)
  /-- VERSION_SWITCH (R321). Schedules a READY slot to become CURRENT at TAKE_AT. -/
  | versionSwitch (r : Fin 256)
  /-- VERSION_QUERY (R316). Returns a version slot's status. -/
  | versionQuery (r : Fin 256)
  /-- VERSION_AUDIT_SET (R326). Sets the claim's audit interval. -/
  | versionAuditSet (r : Fin 256)
  /-- SERVE_SET (R212). Sets the serving configuration, checks the step programs and initialises tub tags and the vein table. -/
  | serveSet (r : Fin 256)
  /-- ADMIT_SET (R336). Sets the admission configuration and checks the sampler bounds. -/
  | admitSet (r : Fin 256)
  /-- STREAM_OPEN (R213). Opens a stream in a slot, copying its prompt into the history. -/
  | streamOpen (r : Fin 256)
  /-- STREAM_CANCEL (R233). Sets a live stream CANCELLING and masks its row. -/
  | streamCancel (r : Fin 256)
  /-- STREAM_PARK (R225). Requests a park that hands the stream's history to the host. -/
  | streamPark (r : Fin 256)
  /-- STREAM_RELEASE (R215). Returns an ended stream's slot to FREE. -/
  | streamRelease (r : Fin 256)
  /-- STREAM_QUERY (R213). Returns a tag-board entry. -/
  | streamQuery (r : Fin 256)
  /-- TALLY_SET (R347). Writes a tally slot's budgets and ACTIVE bit. -/
  | tallySet (r : Fin 256)
  /-- TALLY_QUERY (R347). Returns a tally slot's twelve words. -/
  | tallyQuery (r : Fin 256)
  /-- TALLY_WINDOW_SET (R351). Makes a change of the window length pending. -/
  | tallyWindowSet (r : Fin 256)
  /-- TICK_SET (R332). Schedules a tick period change at TAKE_AT on the tick master. -/
  | tickSet (r : Fin 256)
  /-- STEER_BASIS_LOAD (R384). Copies the steer basis into a T1-home object. -/
  | steerBasisLoad (r : Fin 256)
  /-- STEER_SET (R232). Writes a tenant's steer record into the steer table. -/
  | steerSet (r : Fin 256)
  /-- PASS_START (R385). Starts a learning request of several programs. -/
  | passStart (r : Fin 256)
  /-- PASS_ABORT (R385). Fails every slice of a named request with REQUEST_ABORTED. -/
  | passAbort (r : Fin 256)
  /-- SWEEP (R187). Accepts an update sweep over a block table. -/
  | sweep (r : Fin 256)
  /-- STEP_SET (R180). Sets the claim's step number while no sweep is in progress. -/
  | stepSet (r : Fin 256)
  /-- TURN (R33). Accepts a turn to the other shift, with its epoch, PERMUTE list and program set. -/
  | turn (r : Fin 256)
  /-- REPLICA_ASSAY (R208). Requests tree digests of ranges and their comparison with peers. -/
  | replicaAssay (r : Fin 256)
  /-- COLL_GROUP_SET (R239). Loads a rank group into a group slot. -/
  | collGroupSet (r : Fin 256)
  /-- COLL_ISSUE (R241). Issues a collective descriptor after its checks. -/
  | collIssue (r : Fin 256)
  /-- CANARY_SET (R514). Writes a pending canary control word and table address. -/
  | canarySet (r : Fin 256)
  /-- CANARY_QUERY (R201). Returns the canary control word and the still counters. -/
  | canaryQuery (r : Fin 256)
  /-- CANARY_CLEAR (R205). Zeroes the mode B canary table. -/
  | canaryClear (r : Fin 256)
  /-- LEDGER_CHECK (R210). Compares recomputed log-probabilities with ledger records by bit pattern. -/
  | ledgerCheck (r : Fin 256)
  /-- CAP_SET (R406). Sets CAP_HOST, reporting CAP_BELOW_FLOOR when below the floor. -/
  | capSet (r : Fin 256)
  /-- CAP_FLOOR (R405). Returns the current floor. -/
  | capFloor (r : Fin 256)
  /-- WINDER_PRIORITY_SET (R396). Replaces the winder's class priority order. -/
  | winderPrioritySet (r : Fin 256)
  /-- OP_FIX (R401). Enters or leaves fixed-frequency mode. -/
  | opFix (r : Fin 256)
  /-- OP_LIMIT (R402). Sets the highest operating point the winder may choose. -/
  | opLimit (r : Fin 256)
  /-- WINDER_QUERY (R505). Returns the winder summary. -/
  | winderQuery (r : Fin 256)
  /-- POWER_STATE_SET (R413). Starts entry to power state S1 to S4. -/
  | powerStateSet (r : Fin 256)
  /-- MARGIN_CLEAR (R392). Clears the margin caps and trims of the named benches. -/
  | marginClear (r : Fin 256)
  /-- FW_STAGE (R433). Erases the inactive slot and starts writing and verifying an image into it. -/
  | fwStage (r : Fin 256)
  /-- FW_STAGE_DONE (R433). Staging ends with the image verified or the slot erased. -/
  | fwStageDone (r : Fin 256)
  /-- FW_ACTIVATE (R434). Selects the staged slot, replies and performs a warm reset. -/
  | fwActivate (r : Fin 256)
  /-- FW_QUERY (R387). Returns the active and staged image versions. -/
  | fwQuery (r : Fin 256)
  /-- SUMP_READ (R474). Returns sump records in index order. -/
  | sumpRead (r : Fin 256)
  /-- FLIT_SLOT (R274). A shaft transmitter's flit slot of its 64-slot frame comes round and carries its owner's flit, a hop-scoped CTRL flit or IDLE, with share changes taking effect at the frame boundary. -/
  | flitSlot (s : Fin 52)
  /-- COLLISION (R294). A received bell burst, including an echo of the device's own contention frame, fails FEC or CRC and is dropped, counted and backed off or dropped after 16 collisions. -/
  | collision (rx : BellRx) (own : Bool)
  /-- BELL_RECEIVER_LOCK (R298). During BELL_JOIN the bell receiver locks onto the star's signal and the join goes on to follow the cycle master's slot timing. -/
  | bellReceiverLock
  /-- PEER_WEIGHT_REQUEST (R318). A peer's request for the bytes of a version entry, made for a WEIGHT_LOAD from source 1 or a mirror fetch, arrives and is served or answered PEER_NOT_READY. -/
  | peerWeightRequest (s : Fin 52) (peer : Nat) (ctag : W16) (vid : W16) (entry : Nat)
  /-- RAIL_WITHIN_TOLERANCE (R485). A supply rail reaches tolerance at power-up, driving its PWRGD output and enabling or keeping off the regulators and benches under the sequencing rules. -/
  | railWithinTolerance (rail : Rail) (late : Bool)
  /-- VDD_AUX_REMOVED (R489). VDD_AUX is removed, which powers off the always-on domain and deasserts THERMTRIP_N so that a fresh power-up can follow. -/
  | vddAuxRemoved
  /-- RESERVED_OPCODE (R373). A command packet whose opcode no table lists is consumed and completes with CLASS_DENIED or RESERVED_FIELD. -/
  | reservedOpcode (r : Fin 256)
  /-- RESERVED_INSTRUCTION (R121). An instruction with a reserved CLASS or OP issues and raises BAD_ENCODING, failing its slice. -/
  | reservedInstruction (f : Fin 128) (st : IssueStream)
  /-- RESERVED_VENDOR_COMMAND (R459). A sideband vendor message with a reserved command byte is answered with BAD_ENCODING. -/
  | reservedVendorCommand (h : VendorHdr) (cmd : Byte)
  /-- UNSUPPORTED_REQUEST (R447). A TLP asking for an unsupported service such as ATS, PRI, AtomicOps, MSI or INTx is completed with Unsupported Request. -/
  | unsupportedRequest (fn : Fin 33)
  /-- UNSUPPORTED_DATA_OBJECT (R455). A DOE request of a data object type other than Discovery, SPDM or secured SPDM is discarded with no response. -/
  | unsupportedDataObject (vendor : W16) (typ : Byte)
deriving DecidableEq, Repr

end Sys2Proof
end

