-- ==== Sys2Proof/Config.lean ====
section
/-!
DEFINITION. What the manual leaves to the part, and the model's free values. Every constant here is
opaque: nothing in Lean can tell its value, so a statement that holds, holds for every value.
-/
namespace Sys2Proof

/-- The n-th free value: a value that the manual says is undefined after an operation the device
completes (R118, R253, R319), or a count of cycles the model does not time (R371).
`State.freeCtr` says which is next. -/
opaque Config.freeWord : Nat → W64
/-- The stored word that each place of T0 holds after the n-th loss of its contents (R412). -/
opaque Config.lostWord : Nat → Nat → W80
/-- The overflow bitmap of a scale entry's tensor in a claim, by claim number and entry address: the bitmap's first
byte and the tile's number. R59 has the run-time place them and name them in the tensor's descriptor, which no rule
lays out and no instruction names (log 59). -/
opaque Config.overflowTile : Nat → Nat → Nat × Nat
/-- Entries of the scale tables that a claim's tensor descriptors name in a step, by claim and step number: address,
and INT4 rather than INT8 (R59, R63, log 59). -/
opaque Config.scaleTables : Nat → Nat → List (Nat × Bool)
/-- What a register field whose value comes from flash reads before firmware-ready, by the register's offset: R10 calls it
undefined until then. -/
opaque Config.flashWord : Nat → W64
/-- The cells of the boundary register at the lands THERMTRIP_N and FAULT_N: the BSDL file gives the order (R493, log 8). -/
opaque Config.tripCell : Nat
opaque Config.faultCell : Nat
/-- The cell of every other signal land of the chain, by the land's number in *Signal lands* (R493, log 8). -/
opaque Config.landCell : Nat → Nat
/-- The peer of a shaft, by its device address and shaft number, holds no local share for a claim tag, but relays its flits: a fact
of the other device, which never sends a NONCE for the tag (R275, R280, R284, log 37). -/
opaque Config.relayPeer : Nat → Nat → W16 → Bool
/-- The 244 payload bytes of an IDLE flit, and the 243 that follow the subtype of a CTRL flit: the manual says what they hold and
not where (R267, log 70). The arguments are the subtype and the numbers that the flit carries. -/
opaque Config.ctrlTail : Nat → List Nat → List Byte
/-- The check symbols, so many of them, that the codes of the fibres give to data symbols (R267, R291, log 70). -/
opaque Config.rsCheck : Nat → List Nat → List Nat
/-- The code lengths that the ore codec chooses for a chunk with these exponent counts (R170 leaves
the choice open; they are used only where R169 allows them). -/
opaque Config.codeLengths : List Nat → List Nat
/-- The n-th seed that the on-die entropy source gives the random generator: entropy, then nonce (R436). -/
opaque Config.entropy : Nat → BitVec 384
/-- The public key in the device's leaf certificate of slot 0 (Ed25519) or 1 (ML-DSA-65) (R435, R436). -/
opaque Config.leafKey : Nat → List Byte
/-- A certificate of slot 0 or 1, in DER: level 0 root, 1 intermediate, 2 leaf, and the bytes of its subject that the
device decides, which for a leaf are the serial number (R436). -/
opaque Config.certificate : Nat → Nat → List Byte → List Byte
/-- The hashes of the vendor's two public keys that the boot ROM of A0 holds (R428). -/
opaque Config.romEdHash : BitVec 256
opaque Config.romPqHash : BitVec 256
/-- SHA3-256 of the boot ROM contents (R438, block 1). -/
opaque Config.romDigest : BitVec 256
/-- The exponent of the time that the device gives itself for a response of SPDM (R437 leaves it open). -/
opaque Config.spdmTime : Byte
/-- The MCTP version entry of the endpoint, and the version of its vendor command set (R458). -/
opaque Config.mctpVersion : W32
opaque Config.vendorSet : W16
/-- A selective IDE stream covers a host request: stream number, BAR2 rather than BAR0, function and byte offset. The address ranges
that the host programs for a stream are in no rule (R443, log 56). -/
opaque Config.ideCovers : Nat → Bool → Nat → Nat → Bool
/-- SMBus address and MCTP endpoint id of the requester on the sideband, and the message tag, which no command carries (R456, R458). -/
opaque Config.smbusPeer : BitVec 7
opaque Config.peerEid : Byte
opaque Config.peerTag : BitVec 3
end Sys2Proof
end

