-- ==== Sys2Proof/Machine/Bits.lean ====
section
/-!
DEFINITION. Bit fields, little-endian bytes (R5), sparse storage and CRC-32C (R267): the plainest
operations, which every other file uses.
-/
namespace Sys2Proof.Machine
open Sys2Proof

/-- Field [hi:lo] of a number (R5, R15). -/
def bits (x hi lo : Nat) : Nat := (x >>> lo) % 2 ^ (hi + 1 - lo)
/-- Field [hi:lo] of a 64-bit word. -/
def fld (w : W64) (hi lo : Nat) : Nat := bits w.toNat hi lo
/-- Bit n of a 64-bit word. -/
def bit (w : W64) (n : Nat) : Bool := w.toNat.testBit n
/-- A value placed at bit `lo`, for building words from fields. -/
def at' (v lo : Nat) : Nat := v <<< lo
def b2n (b : Bool) : Nat := if b then 1 else 0
/-- A 64-bit word from the sum of its placed fields. -/
def w64 (n : Nat) : W64 := BitVec.ofNat 64 n
def w32 (n : Nat) : W32 := BitVec.ofNat 32 n
/-- Signed value of the low `w` bits of a number. -/
def sext (n w : Nat) : Int := if n.testBit (w - 1) then (n % 2 ^ w : Nat) - (2 ^ w : Nat) else (n % 2 ^ w : Nat)
def ceilDiv (a b : Nat) : Nat := (a + b - 1) / b
/-- A counter that stays at 2^64 - 1 once there. -/
def sat64 (n : Nat) : Nat := min n (2 ^ 64 - 1)
def lookup? {β : Type} (l : List (Nat × β)) (k : Nat) : Option β := (l.find? (fun p => p.1 == k)).map Prod.snd

/-! ### Bytes, least significant first (R5) -/

def byte (n : Nat) : Byte := BitVec.ofNat 8 n
/-- The number that bytes spell, first byte least significant. -/
def leNat : List Byte → Nat
  | [] => 0
  | b :: bs => b.toNat + 256 * leNat bs
/-- The `n` bytes of a number, least significant first. -/
def leBytes : Nat → Nat → List Byte
  | 0, _ => []
  | n + 1, v => byte v :: leBytes n (v / 256)
/-- Bytes of a list of 64-bit words. -/
def wordsBytes (ws : List W64) : List Byte := ws.flatMap (fun w => leBytes 8 w.toNat)
/-- A list cut into runs of `n`, structurally on `fuel`. -/
def chunkF {α : Type} (n : Nat) : Nat → List α → List (List α)
  | 0, _ => []
  | _, [] => []
  | fuel + 1, xs => xs.take n :: chunkF n fuel (xs.drop n)
def chunks {α : Type} (n : Nat) (xs : List α) : List (List α) := chunkF n xs.length xs
/-- 64-bit words of a list of bytes. -/
def bytesWords (bs : List Byte) : List W64 := (chunks 8 bs).map (fun c => w64 (leNat c))

/-! ### Sparse storage -/

/-- What number `k` reads as: the listed value, or `d`. -/
def Tab.get {α : Type} (d : α) : Tab α → Nat → α
  | [], _ => d
  | (i, v) :: t, k => if i = k then v else Tab.get d t k
/-- Number `k` made to read as `v`: the form stays canonical. -/
def Tab.set {α : Type} [DecidableEq α] (d : α) : Tab α → Nat → α → Tab α
  | [], k, v => if v = d then [] else [(k, v)]
  | (i, w) :: t, k, v =>
    if i < k then (i, w) :: Tab.set d t k v
    else if i = k then (if v = d then t else (k, v) :: t)
    else if v = d then (i, w) :: t
    else (k, v) :: (i, w) :: t
/-- The listed numbers. -/
def Tab.keys {α : Type} (t : Tab α) : List Nat := t.map Prod.fst
/-- Numbers strictly rising from `lo`, and no value equal to `d`. -/
def Tab.okFrom {α : Type} [DecidableEq α] (d : α) : Nat → Tab α → Bool
  | _, [] => true
  | lo, (k, v) :: t => decide (lo ≤ k) && decide (v ≠ d) && Tab.okFrom d (k + 1) t
/-- The canonical form of sparse storage. -/
def Tab.wf {α : Type} [DecidableEq α] (d : α) (t : Tab α) : Bool := Tab.okFrom d 0 t
/-- A run of values written from number `k` on. -/
def Tab.setRun {α : Type} [DecidableEq α] (d : α) (t : Tab α) (k : Nat) : List α → Tab α
  | [] => t
  | v :: vs => Tab.setRun d (Tab.set d t k v) (k + 1) vs
/-- A number put into an ascending list. -/
def insSorted (n : Nat) : List Nat → List Nat
  | [] => [n]
  | m :: ms => if n < m then n :: m :: ms else if n = m then m :: ms else m :: insSorted n ms

/-! ### Checks over bytes -/

def crcStep (c : Nat) : Nat := if c % 2 = 1 then (c / 2) ^^^ 0x82F63B78 else c / 2
/-- CRC-32C of R267, reflected form of the polynomial 0x1EDC_6F41. -/
def crc32c (bs : List Byte) : W32 :=
  let c := bs.foldl (fun c b => Nat.repeat crcStep 8 (c ^^^ b.toNat)) 0xFFFFFFFF
  w32 (c ^^^ 0xFFFFFFFF)

/-- The 6-bit reversal of a slot number (R274). -/
def rev6 (s : Nat) : Nat :=
  (List.range 6).foldl (fun a i => a + (if s.testBit i then 2 ^ (5 - i) else 0)) 0

end Sys2Proof.Machine
end

