-- ==== Sys2Proof/Machine/Codec.lean ====
section
/-!
DEFINITION. The memory code (R171 to R173) and the ore codec (R166 to R170).
-/
namespace Sys2Proof.Machine
open Sys2Proof

/-! ### The memory code -/

/-- Remainder modulo g(x) of a polynomial of degree below `14 + n`. -/
def polyRem : Nat → Nat → Nat
  | 0, v => v
  | n + 1, v => polyRem n (if v.testBit (14 + n) then v ^^^ (0x4377 <<< n) else v)
/-- Parity of the low `n` bits. -/
def parityF : Nat → Nat → Nat
  | 0, _ => 0
  | n + 1, v => (v % 2 + parityF n (v / 2)) % 2
/-- `encode80` (R172). -/
def encode80 (d : W64) (p : Bool) : W80 :=
  let low := b2n p * 2 ^ 64 + d.toNat
  let c := polyRem 65 (low * 2 ^ 14)
  let w := c * 2 ^ 65 + low
  BitVec.ofNat 80 (parityF 79 w * 2 ^ 79 + w)
/-- The stored word of a word in transit: a poisoned one has data 0 (R175). -/
def storeP (w : PWord) : W80 := if w.poison then encode80 0 true else encode80 w.data false
/-- Outcome of reading a stored word (R173). -/
inductive Ecc | clean | fixed (n : Nat) | bad
deriving DecidableEq, Repr
/-- Word bit of code position k (R173). -/
def codeBit (k : Nat) : Nat := if k ≤ 13 then 65 + k else if k ≤ 77 then k - 14 else 64
def xpow (i : Nat) : Nat := polyRem 65 (2 ^ i)
def flip (w : W80) (n : Nat) : W80 := w ^^^ BitVec.ofNat 80 (2 ^ n)
/-- The pair of positions whose sum is the syndrome. -/
def pairFor (s : Nat) : Option (Nat × Nat) :=
  (List.range 79).findSome? fun i => ((List.range 79).find? fun j => i < j && (xpow i ^^^ xpow j) == s).map fun j => (i, j)
/-- `decode80` (R173): the word as corrected, and what the read found. -/
def decode80 (w : W80) : W80 × Ecc :=
  let n := w.toNat
  let v := (n % 2 ^ 65) * 2 ^ 14 + n / 2 ^ 65 % 2 ^ 14
  let s := polyRem 65 v
  let t := parityF 80 n
  let one := (List.range 79).find? fun i => xpow i == s
  if s = 0 then (if t = 0 then (w, .clean) else (flip w 79, .fixed 1))
  else if t = 1 then
    match one with | some i => (flip w (codeBit i), .fixed 1) | none => (w, .bad)
  else match pairFor s with
    | some (i, j) => (flip (flip w (codeBit i)) (codeBit j), .fixed 2)
    | none => match one with | some i => (flip (flip w (codeBit i)) 79, .fixed 2) | none => (w, .bad)
/-- The word a read returns: an uncorrectable word reads as poisoned (R175). -/
def readP (w : W80) : PWord :=
  match decode80 w with
  | (_, .bad) => ⟨0, true⟩
  | (c, _) => if c.toNat.testBit 64 then ⟨0, true⟩ else ⟨BitVec.ofNat 64 (c.toNat % 2 ^ 64), false⟩

/-! ### The ore codec -/

/-- Code length of exponent x in the header of a coded chunk (R167). -/
def lenOf (s : List Byte) (x : Nat) : Nat :=
  let b := (s.getD (16 + x / 2) 0).toNat
  if x % 2 = 0 then b % 16 else b / 16
/-- `canonical_codes` (R168): (exponent, code, length) by length, then exponent. -/
def canonF (len : Nat → Nat) : Nat → Nat → Nat → List (Nat × Nat × Nat)
  | 0, _, _ => []
  | fuel + 1, l, code =>
    let xs := (List.range 256).filter fun x => len x == l
    (xs.zipIdx.map fun p => (p.1, code + p.2, l)) ++ canonF len fuel (l + 1) (2 * (code + xs.length))
def canonical (len : Nat → Nat) : List (Nat × Nat × Nat) := canonF len 15 1 0
/-- Sum of 2^(15 - length): 2^15 when the code is complete (R169). -/
def kraft (len : Nat → Nat) : Nat :=
  (List.range 256).foldl (fun a x => if len x = 0 then a else a + 2 ^ (15 - len x)) 0
/-- The lengths that R169 allows. -/
def lensOk (len : Nat → Nat) : Bool :=
  let present := (List.range 256).filter fun x => len x != 0
  present.all (fun x => decide (len x ≤ 15)) &&
  (kraft len == 2 ^ 15 || (present.length == 1 && present.all fun x => len x == 1))
def bitsOf (s : List Byte) : Nat := leNat ((s.drop 4).take 4)
/-- The header checks of R169. -/
def headerOk (s : List Byte) : Bool :=
  let at1 := fun n => (s.getD n 0).toNat
  at1 0 == 1 && at1 2 == 0 && at1 3 == 0 && ((s.drop 8).take 8).all (· == 0) &&
  decide (32768 ≤ bitsOf s) && decide (bitsOf s ≤ 260928) &&
  at1 1 == (List.range 256).foldl (fun a x => max a (lenOf s x)) 0 && lensOk (lenOf s)
/-- One code read from the stream: the exponent and the rest. -/
def symbolF (codes : List (Nat × Nat × Nat)) : Nat → Nat → Nat → List Bool → Option (Nat × List Bool)
  | 0, _, _, _ => none
  | _, _, _, [] => none
  | fuel + 1, v, n, b :: bs =>
    let v := 2 * v + b2n b
    match codes.find? (fun c => c.2.1 == v && c.2.2 == n + 1) with
    | some c => some (c.1, bs)
    | none => symbolF codes fuel v (n + 1) bs
/-- The values of a chunk from their sign-and-fraction bytes and the code stream (R168). -/
def valuesF (codes : List (Nat × Nat × Nat)) : List Byte → List Bool → Option (List Byte)
  | [], bits => if bits.isEmpty then some [] else none
  | f :: fs, bits =>
    match symbolF codes 15 0 0 bits with
    | none => none
    | some (x, rest) =>
      (valuesF codes fs rest).map fun out =>
        let v := f.toNat / 128 * 32768 + x * 128 + f.toNat % 128
        byte v :: byte (v / 256) :: out
/-- `decode_chunk` (R168): none for a codec error. -/
def decodeChunk (s : List Byte) : Option (List Byte) :=
  if !headerOk s then none else
  let stream := ((s.drop 32912).flatMap fun b => (List.range 8).map fun i => b.toNat.testBit i).take (bitsOf s)
  valuesF (canonical (lenOf s)) ((s.drop 144).take 32768) stream
/-- Bits, first in bit 0, as bytes padded to a multiple of 64 bits. -/
def packBits (bs : List Bool) : List Byte :=
  let n := 64 * ceilDiv bs.length 64
  (chunks 8 (bs ++ List.replicate (n - bs.length) false)).map fun c =>
    byte (c.zipIdx.foldl (fun a p => a + b2n p.1 * 2 ^ p.2) 0)
/-- A chunk coded with the lengths of `Config.codeLengths`; none when it is to be stored raw (R170). -/
def encodeChunk (bs : List Byte) : Option (List Byte) :=
  let vals := (chunks 2 bs).map leNat
  let exps := vals.map fun v => v / 128 % 256
  let lens := Config.codeLengths ((List.range 256).map fun x => exps.count x)
  let len := fun x => lens.getD x 0
  if !(lensOk len && exps.all fun x => len x != 0) then none else
  let codes := canonical len
  let stream := exps.flatMap fun x =>
    match codes.find? (fun c => c.1 == x) with
    | some c => (List.range c.2.2).map fun i => c.2.1.testBit (c.2.2 - 1 - i)
    | none => []
  let out : List Byte := [byte 1, byte ((List.range 256).foldl (fun a x => max a (len x)) 0), 0, 0]
    ++ leBytes 4 stream.length ++ List.replicate 8 0
    ++ (List.range 128).map (fun i => byte (len (2 * i) + 16 * len (2 * i + 1)))
    ++ vals.map (fun v => byte (v / 32768 * 128 + v % 128)) ++ packBits stream
  if 65528 < out.length then none else some out

end Sys2Proof.Machine
end

