-- ==== Sys2Proof/Machine/Crypto.lean ====
section
/-!
DEFINITION. SHA3-256 (FIPS 202), which the assay engine computes, and AES-128-GMAC (SP 800-38D), which
authenticates claims on shafts (R280). PRESUMED: the manual names these standards and does not restate them.
-/
namespace Sys2Proof.Machine
open Sys2Proof

/-! ### SHA3-256 -/

def rol (n k : Nat) : Nat := (n <<< (k % 64) ||| n >>> (64 - k % 64)) % 2 ^ 64
/-- Round constants of Keccak-f[1600], from its degree-8 shift register. -/
def lfsrF : Nat → Nat → List Bool
  | 0, _ => []
  | n + 1, r => r.testBit 0 :: lfsrF n (let t := r * 2; if t < 256 then t else t ^^^ 0x171)
def roundConst (i : Nat) : Nat :=
  (List.range 7).foldl (fun a j => if (lfsrF 168 1).getD (7 * i + j) false then a + 2 ^ (2 ^ j - 1) else a) 0
/-- Lane offsets of the rotation step, lane x + 5y. -/
def rotOff : List Nat :=
  [0, 1, 62, 28, 27, 36, 44, 6, 55, 20, 3, 10, 43, 25, 39, 41, 45, 15, 21, 8, 18, 2, 61, 56, 14]
def keccakRound (a : List Nat) (rc : Nat) : List Nat :=
  let l := fun (v : List Nat) n => v.getD n 0
  let c := (List.range 5).map fun x => l a x ^^^ l a (x + 5) ^^^ l a (x + 10) ^^^ l a (x + 15) ^^^ l a (x + 20)
  let d := (List.range 5).map fun x => l c ((x + 4) % 5) ^^^ rol (l c ((x + 1) % 5)) 1
  let b := (List.range 25).map fun n =>
    -- B[y, 2x + 3y] comes from A[x, y]: for n = X + 5 Y, y = X and 2x = Y - 3X modulo 5
    let y := n % 5
    let x := (3 * (n / 5 + 2 * y)) % 5
    let s := x + 5 * y
    rol (l a s ^^^ l d x) (rotOff.getD s 0)
  let chi := (List.range 25).map fun n =>
    let y := n / 5
    let x := n % 5
    l b n ^^^ ((2 ^ 64 - 1 - l b ((x + 1) % 5 + 5 * y)) &&& l b ((x + 2) % 5 + 5 * y))
  match chi with
  | h :: t => (h ^^^ rc) :: t
  | [] => []
def keccakF (a : List Nat) : List Nat := (List.range 24).foldl (fun s i => keccakRound s (roundConst i)) a
/-- Padding 01 then pad10*1 to the rate of 136 bytes. -/
def sha3Pad (m : List Byte) : List Byte :=
  let n := 136 - m.length % 136
  if n = 1 then m ++ [0x86] else m ++ [0x06] ++ List.replicate (n - 2) 0 ++ [0x80]
/-- SHA3-256: 32 bytes. -/
def sha3Bytes (m : List Byte) : List Byte :=
  let final := (chunks 136 (sha3Pad m)).foldl (fun s blk =>
    let ws := (chunks 8 blk).map leNat
    keccakF (s.zipIdx.map fun p => p.1 ^^^ ws.getD p.2 0)) (List.replicate 25 0)
  (final.take 4).flatMap (leBytes 8)
/-- The digest as a number, its first byte least significant. -/
def sha3 (m : List Byte) : BitVec 256 := BitVec.ofNat 256 (leNat (sha3Bytes m))

/-! ### AES-128 and GMAC -/

def xtime (a : Nat) : Nat := let t := a * 2; if t < 256 then t else t ^^^ 0x11B
/-- Product in GF(2^8). -/
def gmul8 (a b : Nat) : Nat :=
  ((List.range 8).foldl (fun p i => (if b.testBit i then p.1 ^^^ p.2 else p.1, xtime p.2)) (0, a)).1
/-- The S-box: inverse (254th power), then the affine map. -/
def sbox (a : Nat) : Nat :=
  let sq := fun x => gmul8 x x
  let a2 := sq a; let a4 := sq a2; let a8 := sq a4; let a16 := sq a8; let a32 := sq a16; let a64 := sq a32
  let a128 := sq a64
  let i := gmul8 (gmul8 (gmul8 a2 a4) (gmul8 a8 a16)) (gmul8 (gmul8 a32 a64) a128)
  let r := fun k => (i * 2 ^ k ||| i / 2 ^ (8 - k)) % 256
  i ^^^ r 1 ^^^ r 2 ^^^ r 3 ^^^ r 4 ^^^ 0x63
/-- The round keys: the last four-word key, and ten more rounds. -/
def expandF : Nat → Nat → List Nat → List (List Nat)
  | 0, _, k => [k]
  | n + 1, rc, k =>
    let g := fun i => k.getD i 0
    let t := [sbox (g 13) ^^^ rc, sbox (g 14), sbox (g 15), sbox (g 12)]
    let w0 := (List.range 4).map fun i => g i ^^^ t.getD i 0
    let w1 := (List.range 4).map fun i => g (4 + i) ^^^ w0.getD i 0
    let w2 := (List.range 4).map fun i => g (8 + i) ^^^ w1.getD i 0
    let w3 := (List.range 4).map fun i => g (12 + i) ^^^ w2.getD i 0
    k :: expandF n (xtime rc) (w0 ++ w1 ++ w2 ++ w3)
def mixCol (c : List Nat) : List Nat :=
  let g := fun i => c.getD (i % 4) 0
  (List.range 4).map fun i => gmul8 (g i) 2 ^^^ gmul8 (g (i + 1)) 3 ^^^ g (i + 2) ^^^ g (i + 3)
/-- AES-128 of one block of 16 bytes. -/
def aes128 (key blk : List Nat) : List Nat :=
  let ks := expandF 10 1 key
  let xk := fun s r => List.zipWith (· ^^^ ·) s (ks.getD r [])
  (List.range 10).foldl (fun s r =>
    let s := s.map sbox
    let s := (List.range 16).map fun n => s.getD ((n + 4 * (n % 4)) % 16) 0
    let s := if r = 9 then s else (chunks 4 s).flatMap mixCol
    xk s (r + 1)) (xk blk 0)
/-- Big-endian number of bytes. -/
def beNat (bs : List Nat) : Nat := bs.foldl (fun a b => a * 256 + b) 0
def beBytes (n v : Nat) : List Nat := (List.range n).map fun i => v / 256 ^ (n - 1 - i) % 256
/-- Product in GF(2^128), bit 0 of the field being the most significant bit. -/
def gmul128 (x y : Nat) : Nat :=
  ((List.range 128).foldl (fun p i =>
    (if x.testBit (127 - i) then p.1 ^^^ p.2 else p.1,
     if p.2 % 2 = 1 then p.2 / 2 ^^^ (0xE1 <<< 120) else p.2 / 2)) (0, y)).1
/-- AES-128-GMAC under a 96-bit IV. -/
def gmac (key iv msg : List Byte) : BitVec 128 :=
  let k := key.map BitVec.toNat
  let h := beNat (aes128 k (List.replicate 16 0))
  let m := msg.map BitVec.toNat
  let blocks := (chunks 16 m).map fun c => beNat (c ++ List.replicate (16 - c.length) 0)
  let g := (blocks ++ [msg.length * 8 * 2 ^ 64]).foldl (fun y b => gmul128 (y ^^^ b) h) 0
  let e := beNat (aes128 k (iv.map BitVec.toNat ++ [0, 0, 0, 1]))
  BitVec.ofNat 128 (g ^^^ e)

end Sys2Proof.Machine
end

