-- ==== Sys2Proof/Machine/Signatures.lean ====
section
/-!
DEFINITION. The named standards behind the device's identity (R430, R432, R435 to R437): SHAKE and HMAC over SHA3-256,
Hash_DRBG (SP 800-90A), SHA-512, Ed25519 (RFC 8032), ML-DSA-65 (FIPS 204), P-384 and AES-256-GCM. PRESUMED: the manual
names these standards and does not restate them (log 57).
-/
namespace Sys2Proof.Machine
open Sys2Proof

/-- The characters of an ASCII string, with no terminator (R435). -/
def ascii (t : String) : List Byte := t.toList.map fun c => byte c.toNat
/-- Big-endian bytes. -/
def beBytesB (n v : Nat) : List Byte := (leBytes n v).reverse
def beNatB (bs : List Byte) : Nat := leNat bs.reverse
/-- b to the power e modulo m, for exponents below 2^384. -/
def powMod (m b e : Nat) : Nat :=
  ((List.range 384).foldl (fun a i => (if e.testBit i then a.1 * a.2 % m else a.1, a.2 * a.2 % m)) (1 % m, b % m)).1
/-- Inverse modulo a prime. -/
def invMod (m b : Nat) : Nat := powMod m b (m - 2)

/-! ### SHAKE and HMAC-SHA3-256 -/

/-- Keccak state after absorbing a padded message at a rate in bytes. -/
def absorb (rate : Nat) (m : List Byte) : List Nat :=
  (chunks rate m).foldl (fun st blk =>
    let ws := (chunks 8 blk).map leNat
    keccakF (st.zipIdx.map fun p => p.1 ^^^ ws.getD p.2 0)) (List.replicate 25 0)
/-- So many blocks squeezed from a state. -/
def squeeze (rate : Nat) : Nat → List Nat → List Byte
  | 0, _ => []
  | n + 1, st => (st.flatMap (leBytes 8)).take rate ++ squeeze rate n (keccakF st)
/-- Padding 1111 then pad10*1. -/
def shakePad (rate : Nat) (m : List Byte) : List Byte :=
  let n := rate - m.length % rate
  if n = 1 then m ++ [0x9F] else m ++ [0x1F] ++ List.replicate (n - 2) 0 ++ [0x80]
/-- SHAKE256: n bytes. -/
def shake256 (m : List Byte) (n : Nat) : List Byte := (squeeze 136 (ceilDiv n 136) (absorb 136 (shakePad 136 m))).take n
/-- SHAKE128: n bytes. -/
def shake128 (m : List Byte) (n : Nat) : List Byte := (squeeze 168 (ceilDiv n 168) (absorb 168 (shakePad 168 m))).take n
/-- HMAC over SHA3-256, whose block is 136 bytes. -/
def hmac (key msg : List Byte) : List Byte :=
  let k := if 136 < key.length then sha3Bytes key else key
  let k := k ++ List.replicate (136 - k.length) 0
  sha3Bytes (k.map (· ^^^ 0x5C) ++ sha3Bytes (k.map (· ^^^ 0x36) ++ msg))

/-! ### Hash_DRBG on SHA3-256, with a seed length of 440 bits -/

/-- Hash_df to 440 bits. -/
def hashDf (m : List Byte) : Nat :=
  beNatB (((List.range 2).flatMap fun i => sha3Bytes ([byte (i + 1)] ++ beBytesB 4 440 ++ m)).take 55)
/-- The working value and the constant that a seed gives. -/
def drbgSeed (seed : List Byte) : Nat × Nat :=
  let v := hashDf seed
  (v, hashDf ([0x00] ++ beBytesB 55 v))
/-- 16 bytes generated from a working value. -/
def drbgOut (v : Nat) : BitVec 128 := BitVec.ofNat 128 (leNat ((sha3Bytes (beBytesB 55 v)).take 16))
/-- The working value after the request numbered `n` since the seed. -/
def drbgNext (v c n : Nat) : Nat := (v + beNatB (sha3Bytes ([0x03] ++ beBytesB 55 v)) + c + n) % 2 ^ 440

/-! ### SHA-512 -/

def firstPrimes : List Nat := ((List.range 410).filter fun n => 2 ≤ n && (List.range n).all fun d => d < 2 || n % d != 0)
/-- The first 64 bits of the fractional part of a root of degree k. -/
def rootFrac (k p : Nat) : Nat :=
  ((List.range 72).foldl (fun r i => let t := r + 2 ^ (71 - i); if t ^ k ≤ p * 2 ^ (64 * k) then t else r) 0) % 2 ^ 64
def ror64 (x n : Nat) : Nat := (x >>> n ||| x <<< (64 - n)) % 2 ^ 64
/-- Message schedule, the newest word first. -/
def schedule512 : Nat → List Nat → List Nat
  | 0, ws => ws
  | n + 1, ws =>
    let g := fun i => ws.getD (i - 1) 0
    let a := g 15
    let b := g 2
    let s0 := ror64 a 1 ^^^ ror64 a 8 ^^^ a >>> 7
    let s1 := ror64 b 19 ^^^ ror64 b 61 ^^^ b >>> 6
    schedule512 n ((g 16 + s0 + g 7 + s1) % 2 ^ 64 :: ws)
def round512 (v : List Nat) (kw : Nat) : List Nat :=
  let g := fun i => v.getD i 0
  let e := g 4
  let a := g 0
  let t1 := g 7 + (ror64 e 14 ^^^ ror64 e 18 ^^^ ror64 e 41) + ((e &&& g 5) ^^^ ((2 ^ 64 - 1 - e) &&& g 6)) + kw
  let t2 := (ror64 a 28 ^^^ ror64 a 34 ^^^ ror64 a 39) + ((a &&& g 1) ^^^ (a &&& g 2) ^^^ (g 1 &&& g 2))
  ((t1 + t2) % 2 ^ 64) :: a :: g 1 :: g 2 :: ((g 3 + t1) % 2 ^ 64) :: [e, g 5, g 6]
/-- SHA-512: 64 bytes. -/
def sha512 (m : List Byte) : List Byte :=
  let z := (239 - m.length % 128) % 128
  let p := m ++ [0x80] ++ List.replicate z 0 ++ beBytesB 16 (m.length * 8)
  let ks := firstPrimes.map (rootFrac 3)
  let h := (chunks 128 p).foldl (fun h blk =>
    let ws := (schedule512 64 ((chunks 8 blk).map beNatB).reverse).reverse
    let v := (List.zipWith (· + ·) ks ws).foldl round512 h
    List.zipWith (fun a b => (a + b) % 2 ^ 64) h v) ((firstPrimes.take 8).map (rootFrac 2))
  h.flatMap (beBytesB 8)

/-! ### Ed25519 -/

def edP : Nat := 2 ^ 255 - 19
def edL : Nat := 2 ^ 252 + 27742317777372353535851937790883648493
def edD : Nat := (edP - 121665 * invMod edP 121666 % edP) % edP
/-- A point in extended coordinates. -/
structure EdPoint where
  x : Nat
  y : Nat
  z : Nat
  t : Nat
def edAdd (p q : EdPoint) : EdPoint :=
  let a := (p.y + edP - p.x) * (q.y + edP - q.x) % edP
  let b := (p.y + p.x) * (q.y + q.x) % edP
  let c := 2 * p.t * q.t * edD % edP
  let d := 2 * p.z * q.z % edP
  let e := b + edP - a
  let f := d + edP - c
  let g := d + c
  let h := b + a
  ⟨e * f % edP, g * h % edP, f * g % edP, e * h % edP⟩
def edMul (n : Nat) (p : EdPoint) : EdPoint :=
  ((List.range 256).foldl (fun (a : EdPoint × EdPoint) i => (if n.testBit i then edAdd a.1 a.2 else a.1, edAdd a.2 a.2))
    (⟨0, 1, 1, 0⟩, p)).1
/-- The point that 32 bytes encode. -/
def edDecode (bs : List Byte) : Option EdPoint :=
  let n := leNat bs
  let y := n % 2 ^ 255
  let u := (y * y + edP - 1) % edP
  let v := (edD * y % edP * y + 1) % edP
  let w := u * powMod edP v 3 % edP * powMod edP (u * powMod edP v 7) ((edP - 5) / 8) % edP
  let r := v * w % edP * w % edP
  let x := if r = u then w else w * powMod edP 2 ((edP - 1) / 4) % edP
  if bs.length ≠ 32 ∨ edP ≤ y ∨ (r ≠ u ∧ (r + u) % edP ≠ 0) ∨ (x = 0 ∧ n.testBit 255) then none else
  let x := if (x % 2 == 1) == n.testBit 255 then x else edP - x
  some ⟨x, y, 1, x * y % edP⟩
def edEncode (p : EdPoint) : List Byte :=
  let i := invMod edP p.z
  leBytes 32 (p.y * i % edP + 2 ^ 255 * (p.x * i % edP % 2))
def edSame (p q : EdPoint) : Bool := p.x * q.z % edP == q.x * p.z % edP && p.y * q.z % edP == q.y * p.z % edP
/-- The base point: y = 4/5, x even. -/
def edBase : EdPoint := (edDecode (leBytes 32 (4 * invMod edP 5 % edP))).getD ⟨0, 1, 1, 0⟩
/-- The clamped scalar and the nonce key of a private key. -/
def edExpand (key : List Byte) : Nat × List Byte :=
  let h := sha512 key
  let a := leNat (h.take 32) % 2 ^ 255
  ((a - a % 8) % 2 ^ 254 + 2 ^ 254, h.drop 32)
def edPublic (key : List Byte) : List Byte := edEncode (edMul (edExpand key).1 edBase)
def ed25519Sign (key msg : List Byte) : List Byte :=
  let (a, k) := edExpand key
  let r := leNat (sha512 (k ++ msg)) % edL
  let rb := edEncode (edMul r edBase)
  let h := leNat (sha512 (rb ++ edPublic key ++ msg)) % edL
  rb ++ leBytes 32 ((r + h * a) % edL)
/-- Verification, by the group equation times the cofactor 8. -/
def ed25519Verify (pub msg sig : List Byte) : Bool :=
  let rb := sig.take 32
  let n := leNat (sig.drop 32)
  match edDecode pub, edDecode rb with
  | some a, some r =>
    let h := leNat (sha512 (rb ++ pub ++ msg)) % edL
    sig.length == 64 && decide (n < edL) && edSame (edMul 8 (edMul n edBase)) (edMul 8 (edAdd r (edMul h a)))
  | _, _ => false

/-! ### ML-DSA-65 -/

def dsaQ : Nat := 8380417
def dsaG2 : Nat := 261888
abbrev Poly := List Nat
def polyAdd (a b : Poly) : Poly := List.zipWith (fun x y => (x + y) % dsaQ) a b
def polySub (a b : Poly) : Poly := List.zipWith (fun x y => (x + dsaQ - y) % dsaQ) a b
def polyDot (a b : List Poly) : Poly :=
  (List.zipWith (List.zipWith fun x y => x * y % dsaQ) a b).foldl polyAdd (List.replicate 256 0)
/-- The residue nearest 0. -/
def centred (m x : Nat) : Int := let r : Nat := x % m; if m / 2 < r then (r : Int) - m else r
def residue (z : Int) : Nat := (z % dsaQ).toNat
def polyNorm (a : Poly) : Nat := a.foldl (fun n x => max n (centred dsaQ x).natAbs) 0
/-- Reversal of eight bits. -/
def brv8 (n : Nat) : Nat := (List.range 8).foldl (fun a i => 2 * a + bits n i i) 0
/-- The points of the transform: odd powers of 1753. -/
def dsaPoint (i : Nat) : Nat := powMod dsaQ 1753 (2 * brv8 i + 1)
/-- The values of a polynomial at the 256 points. -/
def ntt (a : Poly) : Poly :=
  (List.range 256).map fun i => let x := dsaPoint i; a.foldr (fun c acc => (acc * x + c) % dsaQ) 0
/-- Coefficients from the values: each is the sum of the values times the next power of the inverse points. -/
def invNttF (ps : List Nat) : Nat → Poly → Poly
  | 0, _ => []
  | n + 1, a => a.foldl (· + ·) 0 % dsaQ * invMod dsaQ 256 % dsaQ :: invNttF ps n (List.zipWith (fun v p => v * p % dsaQ) a ps)
/-- The polynomial with these values. -/
def invNtt (a : Poly) : Poly := invNttF ((List.range 256).map fun i => invMod dsaQ (dsaPoint i)) 256 a
/-- A uniform polynomial from at most 298 draws of three bytes. -/
def rejNtt (seed : List Byte) : Poly :=
  ((((chunks 3 (shake128 seed 894)).map fun c => leNat c % 2 ^ 23).filter fun z => z < dsaQ)).take 256
/-- Row r of the matrix A. -/
def expandRow (rho : List Byte) (r : Nat) : List Poly := (List.range 5).map fun c => rejNtt (rho ++ [byte c, byte r])
/-- A short polynomial, coefficients -4 to 4. -/
def rejShort (rho : List Byte) (r : Nat) : Poly :=
  let halves : List Nat := (shake256 (rho ++ leBytes 2 r) 481).flatMap fun b => [b.toNat % 16, b.toNat / 16]
  ((halves.filter fun v => decide (v < 9)).take 256).map fun (v : Nat) => residue (4 - (v : Int))
/-- Coefficients of w bits each, least significant first. -/
def dsaPack (w : Nat) (a : List Nat) : List Byte := leBytes (w * a.length / 8) (a.foldr (fun x n => x + n * 2 ^ w) 0)
def dsaUnpack (w n : Nat) (bs : List Byte) : List Nat := let v := leNat bs; (List.range n).map fun i => bits v (w * i + w - 1) (w * i)
/-- The challenge polynomial: 49 coefficients of 1 or -1, at most 121 draws of places. -/
def ballF : List Byte → Nat → Nat → Poly → Poly
  | [], _, _, c => c
  | j :: rest, i, sg, c =>
    if 256 ≤ i then c
    else if i < j.toNat then ballF rest i sg c
    else
      let c := c.set i (c.getD j.toNat 0)
      ballF rest (i + 1) (sg / 2) (c.set j.toNat (if sg % 2 = 1 then dsaQ - 1 else 1))
def inBall (ct : List Byte) : Poly :=
  let h := shake256 ct 129
  ballF (h.drop 8) 207 (leNat (h.take 8)) (List.replicate 256 0)
/-- High and low parts by 2 gamma2. -/
def decompose (x : Nat) : Nat × Int :=
  let r0 := centred (2 * dsaG2) x
  if (x : Int) - r0 = dsaQ - 1 then (0, r0 - 1) else ((((x : Int) - r0) / (2 * dsaG2)).toNat, r0)
def useHint (h x : Nat) : Nat :=
  let d := decompose x
  if h = 0 then d.1 else if 0 < d.2 then (d.1 + 1) % 16 else (d.1 + 15) % 16
/-- Hints of six polynomials: places of the ones, then the six running counts; none when malformed. -/
def unpackHint (bs : List Byte) : Option (List Poly) :=
  let v := bs.map BitVec.toNat
  let ends := v.drop 55
  let cut := fun i => (if i = 0 then 0 else ends.getD (i - 1) 0, ends.getD i 0)
  let rising := fun (l : List Nat) => (l.zip (l.drop 1)).all fun p => decide (p.1 < p.2)
  let rows := (List.range 6).map fun i => (v.take (cut i).2).drop (cut i).1
  if (List.range 6).all (fun i => decide ((cut i).1 ≤ (cut i).2 ∧ (cut i).2 ≤ 55)) && rows.all rising &&
      ((v.take 55).drop (ends.getD 5 0)).all (· == 0) then
    some (rows.map fun r => (List.range 256).map fun n => b2n (r.contains n))
  else none
def packHint (h : List Poly) : List Byte :=
  let rows := h.map fun p => (List.range 256).filter fun n => p.getD n 0 == 1
  let all := rows.flatten
  (all ++ List.replicate (55 - all.length) 0 ++ ((List.range 6).map fun i => (rows.take (i + 1)).flatten.length)).map byte
/-- The message with an empty context, under the hash of the public key. -/
def dsaMu (tr msg : List Byte) : List Byte := shake256 (tr ++ [0, 0] ++ msg) 64
def dsaChallenge (mu : List Byte) (w1 : List Poly) : List Byte := shake256 (mu ++ w1.flatMap (dsaPack 4)) 48
/-- Verification with an empty context. -/
def mldsa65Verify (pub msg sig : List Byte) : Bool :=
  let rho := pub.take 32
  let t1 := (List.range 6).map fun i => dsaUnpack 10 256 ((pub.drop (32 + 320 * i)).take 320)
  let ct := sig.take 48
  let z := (List.range 5).map fun i => (dsaUnpack 20 256 ((sig.drop (48 + 640 * i)).take 640)).map fun (v : Nat) => residue (2 ^ 19 - (v : Int))
  match unpackHint (sig.drop 3248) with
  | none => false
  | some h =>
    let c := ntt (inBall ct)
    let zh := z.map ntt
    let w1 := (List.range 6).map fun r =>
      let t := ntt ((t1.getD r []).map fun x => x * 8192 % dsaQ)
      let w := invNtt (polySub (polyDot (expandRow rho r) zh) (List.zipWith (fun x y => x * y % dsaQ) c t))
      List.zipWith useHint (h.getD r []) w
    pub.length == 1952 && sig.length == 3309 && z.all (fun p => decide (polyNorm p < 2 ^ 19 - 196)) &&
    ct == dsaChallenge (dsaMu (shake256 pub 64) msg) w1
/-- A key pair as signing needs it: rho, K, the short vectors, and t. -/
structure DsaKey where
  rho : List Byte
  kk  : List Byte
  s1  : List Poly
  s2  : List Poly
  t   : List Poly
/-- ML-DSA.KeyGen_internal. -/
def dsaKey (xi : List Byte) : DsaKey :=
  let h := shake256 (xi ++ [6, 5]) 128
  let rho := h.take 32
  let short := (h.drop 32).take 64
  let s1 := (List.range 5).map (rejShort short)
  let s2 := (List.range 6).map fun r => rejShort short (5 + r)
  let s1h := s1.map ntt
  { rho, kk := h.drop 96, s1, s2
    t := (List.range 6).map fun r => polyAdd (invNtt (polyDot (expandRow rho r) s1h)) (s2.getD r []) }
/-- High part of a coefficient of t. -/
def power2High (x : Nat) : Nat := (((x : Int) - centred 8192 x) / 8192).toNat
def dsaPublicOf (k : DsaKey) : List Byte := k.rho ++ k.t.flatMap fun p => dsaPack 10 (p.map power2High)
def mldsaPublic (xi : List Byte) : List Byte := dsaPublicOf (dsaKey xi)
/-- The signing loop, at most so many tries. -/
def dsaTry (k : DsaKey) (mu rnd : List Byte) : Nat → Nat → List Byte
  | 0, _ => []
  | n + 1, kappa =>
    let y := (List.range 5).map fun r =>
      (dsaUnpack 20 256 (shake256 (rnd ++ leBytes 2 (kappa + r)) 640)).map fun (v : Nat) => residue (2 ^ 19 - (v : Int))
    let yh := y.map ntt
    let w := (List.range 6).map fun r => invNtt (polyDot (expandRow k.rho r) yh)
    let ct := dsaChallenge mu (w.map fun p => p.map fun x => (decompose x).1)
    let c := ntt (inBall ct)
    let by' := fun (p : Poly) => invNtt (List.zipWith (fun x y => x * y % dsaQ) c (ntt p))
    let z := List.zipWith polyAdd y (k.s1.map by')
    let low := List.zipWith polySub w (k.s2.map by')
    let ct0 := k.t.map fun p => by' (p.map fun x => residue (centred 8192 x))
    let h : List Poly := List.zipWith (List.zipWith fun a b => b2n ((decompose a).1 != (decompose ((a + b) % dsaQ)).1)) low ct0
    let r0 := low.foldl (fun m p => p.foldl (fun m x => max m (decompose x).2.natAbs) m) 0
    if z.any (fun p => decide (2 ^ 19 - 196 ≤ polyNorm p)) || decide (dsaG2 - 196 ≤ r0) ||
        ct0.any (fun p => decide (dsaG2 ≤ polyNorm p)) || decide (55 < h.flatten.count 1) then
      dsaTry k mu rnd n (kappa + 5)
    else ct ++ z.flatMap (fun p => dsaPack 20 (p.map fun x => (2 ^ 19 - centred dsaQ x).toNat)) ++ packHint h
/-- A signature with an empty context, under 32 random bytes. -/
def mldsa65Sign (xi msg rnd : List Byte) : List Byte :=
  let k := dsaKey xi
  let mu := dsaMu (shake256 (dsaPublicOf k) 64) msg
  dsaTry k mu (shake256 (k.kk ++ rnd ++ mu) 64) 814 0

/-! ### ECDHE on secp384r1 -/

def p384 : Nat := 2 ^ 384 - 2 ^ 128 - 2 ^ 96 + 2 ^ 32 - 1
def p384N : Nat := 0xFFFFFFFFFFFFFFFFFFFFFFFFFFFFFFFFFFFFFFFFFFFFFFFFC7634D81F4372DDF581A0DB248B0A77AECEC196ACCC52973
def p384B : Nat := 0xB3312FA7E23EE7E4988E056BE3F82D19181D9C6EFE8141120314088F5013875AC656398D8A2ED19D2A85C8EDD3EC2AEF
def p384G : Nat × Nat := (0xAA87CA22BE8B05378EB1C71EF320AD746E1D3B628BA79B9859F741E082542A385502F25DBF55296C3A545E3872760AB7, 0x3617DE4A96262C6F5D9E98BF9292DC29F8F41DBD289A147CE9DA3113B5F0B8C00A60B1CE1D7E819D7A431D7C90EA0E5F)
/-- The sum of two points of the curve; none is the point at infinity. -/
def p384Add : Option (Nat × Nat) → Option (Nat × Nat) → Option (Nat × Nat)
  | none, q => q
  | p, none => p
  | some (x, y), some (u, v) =>
    if x = u ∧ (y + v) % p384 = 0 then none else
    let s := if x = u then (3 * x * x + p384 - 3) * invMod p384 (2 * y) % p384
             else (v + p384 - y) * invMod p384 (u + p384 - x) % p384
    let w := (s * s + 2 * p384 - x - u) % p384
    some (w, (s * (x + p384 - w) + p384 - y) % p384)
def p384Mul (n : Nat) (p : Nat × Nat) : Option (Nat × Nat) :=
  ((List.range 384).foldl (fun (a : Option (Nat × Nat) × Option (Nat × Nat)) i =>
    (if n.testBit i then p384Add a.1 a.2 else a.1, p384Add a.2 a.2)) (none, some p)).1
def p384On (p : Nat × Nat) : Bool :=
  decide (p.1 < p384) && decide (p.2 < p384) && (p.2 * p.2) % p384 == (p.1 * p.1 * p.1 + (p384 - 3) * p.1 + p384B) % p384
/-- The public value of a private key, x then y, big-endian. -/
def ecdhePublic (d : Nat) : List Byte :=
  match p384Mul d p384G with | some (x, y) => beBytesB 48 x ++ beBytesB 48 y | none => List.replicate 96 0
/-- The shared secret with a peer's public value; none when that is no point of the curve. -/
def ecdheShared (d : Nat) (peer : List Byte) : Option (List Byte) :=
  let p := (beNatB (peer.take 48), beNatB (peer.drop 48))
  if peer.length ≠ 96 ∨ !p384On p then none else
  some (match p384Mul d p with | some q => beBytesB 48 q.1 | none => List.replicate 48 0)

/-! ### AES-256-GCM -/

/-- Round keys of AES-256, four words each: the last eight words, newest first by round. -/
def expand256F : Nat → Nat → List Nat → List Nat
  | 0, _, _ => []
  | n + 1, rc, k =>
    let g := fun i => k.getD i 0
    let xw := fun (a : List Nat) i => (List.range 4).map fun j => a.getD j 0 ^^^ g (4 * i + j)
    let w0 := xw [sbox (g 29) ^^^ rc, sbox (g 30), sbox (g 31), sbox (g 28)] 0
    let w1 := xw w0 1
    let w2 := xw w1 2
    let w3 := xw w2 3
    let w4 := xw (w3.map sbox) 4
    let w5 := xw w4 5
    let w6 := xw w5 6
    let w7 := xw w6 7
    let new := w0 ++ w1 ++ w2 ++ w3 ++ w4 ++ w5 ++ w6 ++ w7
    new ++ expand256F n (xtime rc) new
/-- AES-256 of one block of 16 bytes. -/
def aes256 (key blk : List Nat) : List Nat :=
  let ks := chunks 16 (key ++ expand256F 7 1 key)
  let xk := fun s r => List.zipWith (· ^^^ ·) s (ks.getD r [])
  (List.range 14).foldl (fun s r =>
    let s := s.map sbox
    let s := (List.range 16).map fun n => s.getD ((n + 4 * (n % 4)) % 16) 0
    let s := if r = 13 then s else (chunks 4 s).flatMap mixCol
    xk s (r + 1)) (xk blk 0)
/-- AES-256-GCM: the cipher text and the tag of 16 bytes. -/
def gcmSeal (key iv aad msg : List Byte) : List Byte :=
  let k := key.map BitVec.toNat
  let e := fun (b : List Nat) => aes256 k b
  let ivn := iv.map BitVec.toNat
  let h := beNat (e (List.replicate 16 0))
  let ct := ((chunks 16 (msg.map BitVec.toNat)).zipIdx.map fun p =>
    List.zipWith (· ^^^ ·) p.1 (e (ivn ++ beBytes 4 (p.2 + 2)))).flatten
  let blocks := fun (l : List Nat) => (chunks 16 l).map fun c => beNat (c ++ List.replicate (16 - c.length) 0)
  let g := (blocks (aad.map BitVec.toNat) ++ blocks ct ++ [aad.length * 8 * 2 ^ 64 + msg.length * 8]).foldl
    (fun y b => gmul128 (y ^^^ b) h) 0
  ct.map byte ++ (beBytes 16 (g ^^^ beNat (e (ivn ++ [0, 0, 0, 1])))).map byte

end Sys2Proof.Machine
end

