-- ==== Sys2Proof/Machine/State.lean ====
section
/-!
DEFINITION. The state of the VL9612: everything the manual gives the device, as plain data, and
`State.reset`, the device right after a fundamental reset (R424). Each field's line gives its width,
its rule and its value at reset.
-/
namespace Sys2Proof.Machine
open Sys2Proof

/-! ## Numbers inside the engines -/

/-- An exact value on its way through an engine (R15, R70): NaN, an infinity, or `m * 2 ^ e`. -/
inductive Xr
  | nan
  | inf (neg : Bool)
  | fin (m : Int) (e : Int)
deriving DecidableEq, Repr

/-- A format code of *Format codes* (R122). -/
inductive Fmt | fp32 | fp16 | bf16 | int8 | int4 | v8 | v4 | int32
deriving DecidableEq, Repr

/-! ## Faces -/

/-- An operand buffer (R93, R125): its format, 64 rows of K values, and the scale of each 64-element
K span. -/
structure OpBuf where
  /-- [4] format of the loaded tile (R93). Reset: FP32, with no tile loaded. -/
  fmt    : Fmt := .fp32
  /-- [1] a tile has been loaded since program start (R127). Reset: 0. -/
  full   : Bool := false
  /-- [36,864 bytes] the tile, row by row in K order (R126). Reset: empty. -/
  rows   : List (List Xr) := []
  /-- [64 bits each] SCALE of each 64-element K span, INT8 and INT4 (R93, R126). Reset: empty. -/
  scales : List Xr := []
deriving DecidableEq, Repr

/-- An accumulator with its node store (R73, R91, R95). -/
structure Acc where
  /-- [1] at least one group received since the last drain (R96). Reset: 0. -/
  full  : Bool := false
  /-- [4] the path, by the operand format (R127). Reset: FP32, with no group received. -/
  fmt   : Fmt := .fp32
  /-- [1] exact integer accumulation, IM (R127). Reset: 0. -/
  im    : Bool := false
  /-- [24] the next logical group index expected (R73). Reset: 0. -/
  next  : Nat := 0
  /-- [13] groups received since the last drain (R94). Reset: 0. -/
  count : Nat := 0
  /-- [12 tiles] the node store, top first: each a 64 x 64 tile of FP32, row-major, and its size (R95). Reset: empty. -/
  nodes : List (List W32 × Nat) := []
  /-- [48 bits each] exact integer sums, row-major, with IM = 1 (R42). Reset: empty. -/
  ints  : List Int := []
deriving DecidableEq, Repr

/-- What a DMA slot carries (R110, R136). -/
inductive DmaKind | t1t0 | t0t1 | t0t0 | gather | scatter
deriving DecidableEq, Repr

/-- A DMA descriptor slot (R110, R136). -/
structure Dma where
  /-- [1] the slot holds a descriptor (R110). Reset: 0. -/
  busy   : Bool := false
  /-- [3] transfer kind (R136). Reset: T1 to T0. -/
  kind   : DmaKind := .t1t0
  /-- [48] source address (R136). Reset: 0. -/
  src    : Nat := 0
  /-- [48] destination address (R136). Reset: 0. -/
  dst    : Nat := 0
  /-- [24] length in bytes, or row length (R136). Reset: 0. -/
  len    : Nat := 0
  /-- [16] rows of a gather or scatter (R136). Reset: 0. -/
  count  : Nat := 0
  /-- [32 bits each] the row-index list (R136), read at issue: DESIGN CHOICE (log 17). Reset: empty. -/
  index  : List Nat := []
  /-- [7] destination face of DMA_T0_T0 (R136). Reset: 0. -/
  face   : Nat := 0
  /-- [1] SIG (R104). Reset: 0. -/
  signal : Bool := false
  /-- [6] semaphore number (R104). Reset: 0. -/
  sem    : Nat := 0
  /-- [1] RF: the semaphore is on the destination face (R106). Reset: 0. -/
  remote : Bool := false
  /-- [32] request that owns the slot (R118). Reset: 0. -/
  req    : Nat := 0
  /-- [3] claim in whose address space it moves (R111). Reset: 0. -/
  claim  : Nat := 0
  /-- [12] tenant of its request (R154). Reset: none. -/
  tenant : Option Nat := none
deriving DecidableEq, Repr

/-- Why a stream does not issue (R104, R107, R110, R112). -/
inductive Stall
  | run
  | sem (n : Nat) (count : Nat)
  | post
  | await
  | dmaSlot
  | fence
deriving DecidableEq, Repr

/-- One issue stream of a face with the slice that runs on it (R99 to R107, R115, R142). -/
structure Lane where
  /-- [1] a program occupies the stream (R142). Reset: 0. -/
  busy    : Bool := false
  /-- [1] a slice of it is issued and has not ended (R107). Reset: 0. -/
  live    : Bool := false
  /-- [1] the program has ended with S_END or by a failure (R135, R371). Reset: 0. -/
  ended   : Bool := false
  /-- [1] a slice end is on its way to the headframe (R371). Reset: 0. -/
  report  : Bool := false
  /-- [32] request it belongs to (R115). Reset: 0. -/
  req     : Nat := 0
  /-- [8] program index within the request (R371). Reset: 0. -/
  prog    : Nat := 0
  /-- [3] claim (R344). Reset: 0. -/
  claim   : Nat := 0
  /-- [11] program counter, in words (R99). Reset: 0. -/
  pc      : Nat := 0
  /-- [11] vector length register (R98, R130). Reset: 1,024. -/
  vl      : Nat := 1024
  /-- [8] FLAGS (R139). Reset: 0. -/
  flags   : BitVec 8 := 0
  /-- [2,048 words] instruction buffer (R121, R142). Reset: empty. -/
  code    : List W64 := []
  /-- [2,048] its words whose fetch meets a parity error (R121). Reset: none. -/
  badCode : List Nat := []
  /-- [32] VREG_OWN (R142). Reset: 0. -/
  vown    : BitVec 32 := 0
  /-- [16] SREG_OWN. Reset: 0. -/
  sown    : BitVec 16 := 0
  /-- [8] MREG_OWN. Reset: 0. -/
  mown    : BitVec 8 := 0
  /-- [8] ACC_OWN. Reset: 0. -/
  aown    : BitVec 8 := 0
  /-- [64] SEM_OWN. Reset: 0. -/
  semown  : W64 := 0
  /-- [4] BUF_OWN (R125). Reset: 0. -/
  bown    : BitVec 4 := 0
  /-- [32 bits each] BOUND of each slice-table entry (R115, R142). Reset: empty. -/
  bounds  : List Nat := []
  /-- [8] slice-table entry of the next slice (R138). Reset: 0. -/
  entry   : Nat := 0
  /-- [64] PROG_TAG (R142). Reset: 0. -/
  progTag : W64 := 0
  /-- [32] slices completed (R371). Reset: 0. -/
  slices  : Nat := 0
  /-- [64] device time of the boundary at which its slice was issued (R352). Reset: 0. -/
  start   : Nat := 0
  /-- [4 entries] pending signals: semaphore and count, in program order (R137). Reset: empty. -/
  signals : List (Nat × Nat) := []
  /-- what the stream waits for (R104, R110, R112). Reset: nothing. -/
  stall   : Stall := .run
  /-- [256 bits each] mode B counts of this slice: tensor id and four counters (R205). Reset: empty. -/
  counts  : Tab (List Nat) := []
deriving DecidableEq, Repr

/-- The outstanding POST of a face (R112, R113). -/
structure Post where
  /-- stream that posted (R112). -/
  stream  : IssueStream
  /-- [32] request that posted (R113). -/
  req     : Nat
  /-- [3] its claim (R113). -/
  claim   : Nat
  /-- [64] summary (R140). -/
  summary : W64
  /-- [8] branch-table number (R112). -/
  table   : Nat
  /-- [11] the core's answer: a target, once given (R113). -/
  answer  : Option Nat
deriving DecidableEq, Repr

/-- One of the 128 compute clusters (R91). -/
structure Face where
  /-- [8 MiB, 80-bit words] T0 (R108). Reset: every word data 0, P 0 (R421 step 5). -/
  t0     : Tab W80 := []
  /-- T0 has lost its contents and not been written since as a whole (R412): every word is held as its
  difference from the free value of that loss. Reset: none. -/
  lost   : Option Nat := none
  /-- the request that last wrote each T0 word, so that R118 knows whose contents are undefined. Reset: none. -/
  t0By   : Tab Nat := []
  /-- [32 x 1,024 x 32] v0 to v31, element i of vn at 1,024 n + i (R98). Reset: DESIGN CHOICE 0 (log 3). -/
  v      : Tab W32 := []
  /-- [8 x 1,024] m0 to m7 (R91). Reset: DESIGN CHOICE 0 (log 3). -/
  m      : Tab (BitVec 1024) := []
  /-- [16 x 64] s0 to s15 (R91). Reset: DESIGN CHOICE 0 (log 3). -/
  s      : Tab W64 := []
  /-- [64 x 16] semaphore counters (R104). Reset: DESIGN CHOICE 0 (log 3). -/
  sem    : Tab Nat := []
  /-- [8] a0 to a7 (R91). Reset: empty. -/
  acc    : Tab Acc := []
  /-- [4] operand buffers A0, A1, B0, B1 (R91). Reset: empty. -/
  buf    : Tab OpBuf := []
  /-- issue streams F, B, U (R99). Reset: idle. -/
  f      : Lane := {}
  b      : Lane := {}
  u      : Lane := {}
  /-- [16] DMA descriptor slots (R110). Reset: free. -/
  dma    : Tab Dma := []
  /-- the outstanding POST (R112). Reset: none. -/
  post   : Option Post := none
  /-- bubbles of R392 or R399 are being inserted. Reset: 0. -/
  droop  : Bool := false
  /-- device time and length in face cycles of the droop bubbles of the last 1 µs (R397, R399). Reset: none. -/
  bubbles : List (Nat × Nat) := []
  /-- [32] vector registers, [8] mask registers and [16] scalar registers whose read meets a parity error (R99).
  No row brings such a fault about. Reset: 0. -/
  parV   : BitVec 32 := 0
  parM   : BitVec 8 := 0
  parS   : BitVec 16 := 0
deriving DecidableEq, Repr

/-! ## Claims: memory, versions, serving, learning, collectives -/

/-- *Page states* (R150). -/
inductive PageState | unmapped | t1 | t2 | hoisting | clean | dirty | writeback
deriving DecidableEq, Repr

/-- A page-table entry (R149). -/
structure Pte where
  /-- [4] STATE. Reset: UNMAPPED. -/
  state : PageState := .unmapped
  /-- [12] OBJ. Reset: 0. -/
  obj   : Nat := 0
  /-- [20] T2F. Reset: 0. -/
  t2f   : Nat := 0
  /-- [19] T1F. Reset: 0. -/
  t1f   : Nat := 0
  /-- [32] RAW. Reset: 0. -/
  raw   : W32 := 0
deriving DecidableEq, Repr

/-- An object descriptor (R152). -/
structure Obj where
  /-- the object number is in use (R380). Reset: 0. -/
  live   : Bool := false
  /-- [27] BASE. Reset: 0. -/
  base   : Nat := 0
  /-- [24] PAGES. Reset: 0. -/
  pages  : Nat := 0
  /-- [12] TENANT. Reset: 0. -/
  tenant : Nat := 0
  /-- [1] MARKED. Reset: 0. -/
  marked : Bool := false
  /-- [1] PRIV. Reset: 0. -/
  priv   : Bool := false
  /-- [1] PIN. Reset: 0. -/
  pin    : Bool := false
  /-- [1] CMP. Reset: 0. -/
  cmp    : Bool := false
  /-- [2] HOME: T2-home when 1. Reset: T1. -/
  t2home : Bool := false
  /-- destruction waits for its pages: the ring and SEQ of the OBJ_DESTROY (R150). Reset: none. -/
  dying  : Option (Nat × W32) := none
deriving DecidableEq, Repr

/-- Who waits on a page (R158, R162, R163). -/
inductive Waiter
  | dma (face slot : Nat)
  | block (index : Nat)
  | prefetch (ring : Nat) (seq : W32)
  | transfer (context : Nat)
  | step (batch : Nat)
  | park (stream : Nat)
  | request (req : Nat)
  | hyper
  /-- the history or tub map of a stream that waits for its admission (R224). -/
  | opening (stream : Nat)
  /-- the tub map of an ended stream, by its address (R219). -/
  | tubs (map : Nat)
  /-- a record that the device produces, with the events that follow it (R512). -/
  | record (addr : Nat) (words : List W64) (events : List (Nat × List Nat))
  /-- the completion record of a collective that has ended, with its event (R238, R252). -/
  | ended (coll : Nat) (addr : Nat) (words : List W64) (events : List (Nat × List Nat))
  /-- bytes that a command leaves in a history, tub map or table, by their address, for a tenant or none (R154, R214, R512). -/
  | store (tenant : Option Nat) (addr : Nat) (bytes : List Byte)
  /-- counts to be added to a tensor's record in the canary table (R205). -/
  | counts (tensor : Nat) (n : List Nat)
  /-- a replica assay, by its number (R208). -/
  | assay (id : W32)
  /-- a ledger check, by its command (R210). -/
  | ledger (ring : Nat) (seq : W32)
  /-- a WEIGHT_LOAD, by its command (R318). -/
  | load (ring : Nat) (seq : W32)
  /-- a peer's request for the bytes of a version entry (R318). -/
  | serve (peer vid entry : Nat)
deriving DecidableEq, Repr

/-- A stalled access with its fetch deadline (R158, R162). -/
structure Wait where
  /-- [32] its number in the device's list. -/
  id    : Nat
  /-- [3] claim. -/
  claim : Nat
  /-- [27] page. -/
  page  : Nat
  /-- [64] device time at which it stalled (R162). -/
  since : Nat
  who   : Waiter
deriving DecidableEq, Repr

/-- A hoist or write-back, running or queued (R158, R159, R161). -/
structure Hoist where
  claim  : Nat
  page   : Nat
  /-- a write-back to T2 rather than a hoist (R150). -/
  back   : Bool
  /-- started by a near-bank unit (R165). -/
  near   : Bool
  /-- [4] engine, once one is idle (R159). -/
  engine : Option Nat
  /-- [19] frame taken, once one is free (R159). -/
  frame  : Option Nat
  /-- bench of the face, or quarter of the unit, that asked (R159). -/
  bench  : Option Nat
  quarter : Option Nat
  /-- OBJ_DESTROY waits for its end (R150). -/
  doomed : Bool
  /-- a further access arrived in WRITEBACK and starts a new hoist after it (R158). -/
  again  : Bool
  /-- the command that asked for an eviction (R164). -/
  cmd    : Option (Nat × W32)
  /-- its chunks are in the frame and it waits for a weight repair (R327). -/
  landed : Bool := false
  /-- [32] the access that started it (R163). -/
  init   : Nat := 0
  /-- a near-bank hoist whose block has ended: the frame goes back when it ends (R165). -/
  release : Bool := false
  /-- status that the fetch brings to the access that started it (R163). -/
  status : Nat := 0
  /-- a repair has rewritten a leaf of it: the page becomes DIRTY (R327). -/
  mended : Bool := false
deriving DecidableEq, Repr

/-- *Version slot states* (R314). -/
inductive VerState | empty | building | ready | current | draining
deriving DecidableEq, Repr

/-- One entry of a version root as the device read it, and whether it is loaded (R315, R319). -/
structure VEntry where
  obj    : Nat
  bytes  : Nat
  digest : BitVec 256
  loaded : Bool
deriving DecidableEq, Repr

/-- A version slot (R314, R316). -/
structure Ver where
  /-- [3] STATE. Reset: EMPTY. -/
  state     : VerState := .empty
  /-- [16] VID. Reset: 0. -/
  vid       : Nat := 0
  /-- [12] mirror peer, when MIRROR_EN. Reset: none. -/
  mirror    : Option Nat := none
  /-- [48] SWITCH_AT. Reset: 0. -/
  switchAt  : Nat := 0
  /-- [16] AUDIT_FAIL. Reset: 0. -/
  auditFail : Nat := 0
  /-- [48] ROOT. Reset: 0. -/
  root      : Nat := 0
  /-- [1,024] entries (R315). Reset: none. -/
  entries   : List VEntry := []
  /-- boundary at which it became DRAINING (R322). Reset: 0. -/
  drained   : Nat := 0
deriving DecidableEq, Repr

/-- A WEIGHT_LOAD in progress (R318, R328). -/
structure Load where
  slot   : Nat
  entry  : Nat
  source : Nat
  arg    : Nat
  ring   : Nat
  seq    : W32
  /-- a reload of a MARKED object under R328. -/
  reload : Bool
  /-- the root entry that is loaded, whatever becomes of the slot (R328). -/
  ent    : VEntry
  /-- device time of its start: a peer without progress is silent from then on (R318). -/
  since  : Nat
deriving DecidableEq, Repr

/-- One program of a program list: image address and face (R383). -/
structure ProgRef where
  addr : Nat
  face : Nat
deriving DecidableEq, Repr

/-- The serving configuration (R212, R383). -/
structure Serve where
  vocab     : Nat
  batchRows : Nat
  chunk     : Nat
  tubBytes  : Nat
  pool      : Nat
  tags      : Nat
  vein      : Nat
  veinLog2  : Nat
  counts    : Nat
  steerTab  : Nat
  steerBuf  : Nat
  steerBase : Nat
  batchTab  : Nat
  pre       : List ProgRef
  dec       : List ProgRef
  /-- the largest BOUND of the loaded step programs (R212, R332). -/
  maxBound  : Nat
deriving DecidableEq, Repr

/-- The admission configuration (R336). -/
structure Admit where
  td     : Nat
  lanesD : Nat
  tp     : Nat
  lanesP : Nat
deriving DecidableEq, Repr

/-- A turn from its TURN command to its end (R31, R187). -/
structure Turn where
  epoch    : Nat
  learning : Bool
  /-- the descriptors of its PERMUTE set, as read at consumption (R264, R375). -/
  permutes : List (List W64)
  serve    : Option Serve
  slot     : Nat
  vid      : Nat
  root     : Nat
  entries  : List VEntry
  ring     : Nat
  seq      : W32
  /-- consumption stamp (R31). -/
  stamp    : Nat
  /-- due at the present boundary (R31). -/
  due      : Bool
  /-- step 1 of R31 has been taken. -/
  begun    : Bool
  /-- status with which its PERMUTE set failed (R34). -/
  failed   : Nat
  /-- status of the fetch for which a completion record of its set was dropped (R512). -/
  dropped  : Nat
deriving DecidableEq, Repr

/-- What one block of a sweep adds to its layer: an updated parameter, a changed one, and the mode A sums
(R202, R206). -/
structure LayerSum where
  block   : Nat
  layer   : Nat
  touched : Bool
  changed : Bool
  su      : W32
  sw      : W32
deriving DecidableEq, Repr

/-- The outcome of reading one hyperparameter record (R186). -/
structure HyperRec where
  group  : Nat
  status : Nat
  words  : List W64
deriving DecidableEq, Repr

/-- A sweep from SWEEP to its end (R187 to R193). -/
structure Sweep where
  /-- the block table as read at consumption: eight words each (R184, R375). -/
  descs   : List (List W64)
  hyper   : Nat
  fails   : Nat
  flen    : Nat
  ring    : Nat
  seq     : W32
  /-- consumption stamp (R187). -/
  stamp   : Nat
  due     : Bool
  started : Bool
  recs    : List HyperRec
  done    : List Nat
  updated : Nat
  failed  : Nat
  sums    : List LayerSum
  /-- pages hoisted for a block: block and page (R165). -/
  near    : List (Nat × Nat)
  /-- status of the fetch for which a failure entry was dropped (R512). -/
  dropped : Nat
  /-- pages of scale entries whose fetch failed at its end (R63, R162). -/
  skip    : List Nat := []
deriving DecidableEq, Repr

/-- A REPLICA_ASSAY (R208, R209). -/
structure Assay where
  id       : W32
  ranges   : List (Nat × Nat)
  compare  : Nat
  peers    : List Nat
  timeout  : Nat
  out      : Nat
  ring     : Nat
  seq      : W32
  /-- consumption stamp (R187, R208). -/
  stamp    : Nat
  /-- device time of its start (R209). -/
  since    : Nat
  running  : Bool
  digests  : List (BitVec 256)
  /-- device address, range and prefix of each REPLICA frame that has come (R312). -/
  heard    : List (Nat × Nat × W64)
  /-- devices to which the GATHER of COMPARE = 2 has given the own digests (R208). -/
  given    : List Nat := []
deriving DecidableEq, Repr

/-- A LEDGER_CHECK in progress (R210). -/
structure Ledger where
  records : Nat
  values  : Nat
  count   : Nat
  /-- 0 the untempered log-probability, 1 the sampling one. -/
  field   : Nat
  version : Nat
  ring    : Nat
  seq     : W32
deriving DecidableEq, Repr

/-- A rank group (R239, R240). -/
structure Group where
  /-- [12 bits each] device addresses by rank. -/
  ranks  : List Nat
  /-- [12] own rank. -/
  self   : Nat
  /-- [32] collectives issued on the slot (R240). -/
  issued : Nat
deriving DecidableEq, Repr

/-- Operations of *Collective operations* (R242). -/
inductive CollOp | send | recv | broadcast | gather | reduceScatter | allReduce | dispatch | combine | permute
deriving DecidableEq, Repr

/-- A transfer that a collective sends to one peer (R271 to R273). -/
structure SendXfer where
  /-- [12] sender context. -/
  ctx     : Nat
  /-- [12] rank it goes to. -/
  rank    : Nat
  /-- byte offset of the piece in the run of bytes for that rank. -/
  off     : Nat
  words   : List PWord
  /-- receive context granted. -/
  granted : Option Nat
  /-- XDONE has arrived. -/
  acked   : Bool
  /-- member shafts of a direct transfer, fixed by the DESC (R283); none for a routed one. -/
  members : List Nat
deriving DecidableEq, Repr

/-- A piece of bytes that arrived for a collective: sender's rank, piece offset, words (R245, R262). -/
structure Piece where
  rank  : Nat
  off   : Nat
  words : List PWord
deriving DecidableEq, Repr

/-- A collective from COLL_ISSUE to its completion record (R238 to R254). -/
structure Coll where
  /-- its number on the device. -/
  id       : Nat
  /-- [32] issue count on its group (R240). -/
  issue    : Nat
  /-- [72 bytes] its descriptor (R241). -/
  desc     : List W64
  op       : CollOp
  group    : Nat
  epoch    : Nat
  /-- consumption stamp of its COLL_ISSUE, or of its turn (R187, R256). -/
  stamp    : Nat
  /-- started: its signature has been sent (R240). -/
  started  : Bool
  /-- the own signature, once started (R240). -/
  sig      : List W64
  /-- device addresses whose signature agreed (R240). -/
  sigs     : List Nat
  /-- 0 before data moves; 1 the first exchange runs; 2 the second exchange runs (R250, R251). -/
  phase    : Nat
  sends    : List SendXfer
  got      : List Piece
  /-- device time from which a peer without progress is silent (R253). -/
  progress : Nat
  /-- device time of the last progress from a rank, where it has made any since then (R253). -/
  heard    : List (Nat × Nat)
  /-- WAIT_NS, and the device time up to which it has been counted (R252). -/
  waitNs   : Nat
  waitAt   : Nat
  /-- BYTES (R252). -/
  bytes    : Nat
  poison   : Bool
  lvar     : Bool
  /-- PEERLOST (R263). -/
  lost     : Bool
  overcap  : Nat
  /-- ended, while its completion record waits for its page (R238, R512). -/
  ending   : Bool
deriving DecidableEq, Repr

/-- A PERMUTE set (R255, R256, R262). -/
structure PSet where
  epoch   : Nat
  setm    : Nat
  group   : Nat
  timeout : Nat
  members : List Nat
  /-- issue count of the first member (R311). -/
  issue   : Nat
  /-- device time of the first member's issue (R256). -/
  since   : Nat
  /-- command-order stamp of the first member's issue (R187). -/
  stamp   : Nat
  /-- barriers completed: 0 before the fence, 1 after it, 2 after step 2 (R256, R262). -/
  phase   : Nat
  /-- tokens held: bell address + 64 × phase, and HEARD (R311). -/
  tokens  : List (Nat × W64)
  /-- device time at which the barrier of step 2 completed (R263). -/
  passed  : Nat
  /-- ranks that ended after the barrier of step 2 (R263). -/
  gone    : List Nat
  /-- issued by a turn (R264). -/
  turn    : Bool
  /-- objects of its members, once its data moves (R259). -/
  objs    : List Nat
deriving DecidableEq, Repr

/-- A receive context of the shaft controllers (R272). -/
structure RxCtx where
  claim   : Nat
  /-- number of the collective. -/
  coll    : Nat
  /-- shaft that the DESC came over (R275). -/
  via     : Nat
  /-- device address of the sender, and its context. -/
  sender  : Nat
  sctx    : Nat
  off     : Nat
  bytes   : Nat
  /-- member shafts at the sender; none for a routed transfer (R283). -/
  members : List Nat
  /-- DATA payloads by the sender's member, in arrival order (R283). -/
  seen    : List (Nat × List Byte)
  /-- the CLOSE, once it has arrived (R273). -/
  closed  : Option CloseBody
deriving DecidableEq, Repr

/-- A tally slot, or the claim's own tally (R347). -/
structure Tally where
  /-- [32] GEN_BUDGET. Reset: 0. -/
  genBudget    : Nat := 0
  /-- [32] PROMPT_BUDGET. Reset: 0. -/
  promptBudget : Nat := 0
  /-- [1] HELD. Reset: 0. -/
  held         : Bool := false
  /-- [1] ACTIVE. Reset: 0. -/
  active       : Bool := false
  /-- [64] PROMPT. Reset: 0. -/
  prompt       : Nat := 0
  /-- [64] GEN. Reset: 0. -/
  gen          : Nat := 0
  /-- [64 and fraction] FACE_US, in nanoseconds. Reset: 0. -/
  faceNs       : Nat := 0
  /-- [64 and fraction] T1_BS, in byte-microseconds. Reset: 0. -/
  t1ByteUs     : Nat := 0
  /-- [64 and fraction] ENERGY_MJ, in microjoules. Reset: 0. -/
  energyUj     : Nat := 0
  /-- [64] UNDELIV. Reset: 0. -/
  undeliv      : Nat := 0
  /-- [64] PROMISE_MISS. Reset: 0. -/
  promiseMiss  : Nat := 0
  /-- [64] HELD_TICKS. Reset: 0. -/
  heldTicks    : Nat := 0
  /-- [64] WIN_GEN. Reset: 0. -/
  winGen       : Nat := 0
  /-- [64] WIN_PROMPT. Reset: 0. -/
  winPrompt    : Nat := 0
  /-- the eight counters as the window began, for the window record (R350). Reset: 0 each. -/
  snap         : List Nat := []
  /-- held at some time in the window (R350). Reset: 0. -/
  wasHeld      : Bool := false
deriving DecidableEq, Repr

/-- The shift of a claim (R30, R34). -/
inductive Shift | generation | learning | none
deriving DecidableEq, Repr

/-- A lag or sympathy limit in force (R308). -/
structure Sympathy where
  claim  : Nat
  src    : Nat
  op     : Nat
  /-- device time at which EXPECT elapses; none when unknown. -/
  ends   : Option Nat
  /-- device time of the last notice. -/
  heard  : Nat
deriving DecidableEq, Repr

/-- One row of a batch (R217, *Batch row record*). -/
structure Row where
  stream  : Nat
  /-- [12] its tenant (R349). -/
  tenant  : Nat
  depth   : Nat
  pos     : Nat
  count   : Nat
  /-- tubs of the positions it computes (R218, R221). -/
  tubs    : List Nat
  /-- masked by a cancel (R233). -/
  masked  : Bool
  /-- the sampler has read the row (R515). -/
  sampled : Bool
  /-- tokens yielded, with DRAFT flag, LP_SAMPLE and LP_MODEL (R227, R230, R235). -/
  tokens  : List (Nat × Bool × W32 × W32)
  /-- drafted tokens accepted (R230). -/
  accepted : Nat
  /-- status with which the row alone fails (R227). -/
  failed  : Nat
deriving DecidableEq, Repr

/-- A step in flight (R217, R337). -/
structure Batch where
  id      : Nat
  claim   : Nat
  prefill : Bool
  slot    : Nat
  vid     : Nat
  rows    : List Row
  /-- boundary at which it was formed, and its tick count (R337). -/
  formed  : Nat
  ticks   : Nat
  /-- request that runs its programs. -/
  req     : Nat
  /-- its rows are written to the batch table, with their tubs (R217, R512). -/
  ready   : Bool
  /-- every slice has ended. -/
  swept   : Bool
  /-- index of its table in the batch table (R212). -/
  place   : Nat
  /-- face time of its slices in ns (R349). -/
  faceNs  : Nat
  failed  : Nat
  /-- pages whose fetch failed, with its status: the commit writes no history word to them, and a park of such a history replies
  with the status (R163, R512). -/
  skip    : List (Nat × Nat)
deriving DecidableEq, Repr

/-- One program of a request (R142, R371). -/
structure Prog where
  addr   : Nat
  face   : Nat
  stream : IssueStream
  /-- scalar overrides of PASS_START (R385) or the version root (R323): register and value. -/
  regs   : List (Nat × W64)
  /-- [64] semaphores that it has declared on its face, once started (R106). -/
  semown : W64 := 0
  /-- [64] PROG_TAG of its header, once its image has been read (R142, R371). -/
  tag    : W64 := 0
  started : Bool
  ended  : Bool
  /-- the last completion record's words (R371). -/
  record : List W64
deriving DecidableEq, Repr

/-- A request (R115, R335, R371). -/
structure Req where
  id     : Nat
  claim  : Nat
  /-- tenant whose PRIV objects it may reach (R154). -/
  tenant : Option Nat
  progs  : List Prog
  /-- the PASS_START that started it; none for a step. -/
  cmd    : Option (Nat × W32)
  /-- completion area: host flag and address (R371, R374). -/
  area   : Bool × Nat
  /-- consumption stamp of its command, or the boundary's time for a step (R335). -/
  stamp  : Nat
  started : Bool
  /-- status of the first failing slice (R118). -/
  failed : Nat
  /-- tenants' rows: batch id for a step. -/
  batch  : Option Nat
  /-- status of the fetch for which a record of it was dropped (R512). -/
  dropped : Nat := 0
  /-- its override list, until it is read: address and entries (R385, R512). -/
  ovl    : Option (Nat × Nat) := none
deriving DecidableEq, Repr

/-- A running lag episode of a claim (R307). -/
structure LagEpisode where
  start : Nat
  last  : Nat
deriving DecidableEq, Repr

/-- A claim: one isolated partition of the device (R27, R343). -/
structure Claim where
  /-- the claim exists (R343). Reset: 0. -/
  live     : Bool := false
  /-- ended by a claim-fatal error; keeps its resources (R470). Reset: 0. -/
  dead     : Bool := false
  /-- its memory is being cleared: command, and whether it is recreated (R346, R426). Reset: none. -/
  clearing : Option (Nat × W32 × Bool) := none
  /-- creation waits for initialisation: command (R423). Reset: none. -/
  creating : Option (Nat × W32) := none
  /-- [768 bytes] its descriptor as created (R378). Reset: empty. -/
  desc     : List Byte := []
  /-- [1] master mode: extended (R197, R198). Reset: compact. -/
  extended : Bool := false
  /-- [16] claim tag (R268). Reset: 0. -/
  ctag     : W16 := 0
  /-- [64] claim seed (R53). Reset: 0. -/
  seed     : W64 := 0
  /-- [128] claim key (R441). Reset: 0. -/
  key      : BitVec 128 := 0
  /-- [128] claim salt (R222). Reset: 0. -/
  salt     : BitVec 128 := 0
  /-- [16] face units (R19). Reset: 0. -/
  units    : BitVec 16 := 0
  /-- [768] T1 granules (R21). Reset: 0. -/
  t1g      : BitVec 768 := 0
  /-- [2,048] T2 granules (R157). Reset: 0. -/
  t2g      : BitVec 2048 := 0
  /-- [128] stream-slot blocks (R28). Reset: 0. -/
  sblk     : BitVec 128 := 0
  /-- [128] tally-slot blocks (R28). Reset: 0. -/
  tblk     : BitVec 128 := 0
  /-- [1 to 64] system frames (R148). Reset: none. -/
  sys      : List Nat := []
  /-- [2] shift (R30, R34). Reset: generation. -/
  shift    : Shift := .generation
  /-- [32] layout epoch (R255). Reset: 0. -/
  epoch    : Nat := 0
  /-- [64] step number (R180). Reset: 0. -/
  step     : Nat := 0
  /-- page table by page number (R148, R149). Reset: all UNMAPPED. -/
  pages    : Tab Pte := []
  /-- object table, 4,096 descriptors (R152). Reset: none. -/
  objs     : Tab Obj := []
  /-- [393,216] free-frame set, ascending (R160). Reset: empty. -/
  free     : List Nat := []
  /-- [17] fetch deadline in µs (R162). Reset: 2,000. -/
  deadline : Nat := 2000
  /-- branch tables: 16 entries of constant and second word (R113, R381). Reset: none loaded. -/
  branch   : Tab (List (W64 × W64)) := []
  /-- four version slots (R314). Reset: EMPTY. -/
  vers     : Tab Ver := []
  /-- WEIGHT_LOADs in progress (R318). Reset: none. -/
  loads    : List Load := []
  /-- pending VERSION_SWITCH: slot, TAKE_AT, ring, SEQ (R321). Reset: none. -/
  switch   : Option (Nat × Nat × Nat × W32) := none
  /-- marked-leaf list, 256 entries of object and leaf (R327). Reset: empty. -/
  marked   : List (Nat × Nat) := []
  /-- objects all of whose leaves count as marked (R327). Reset: none. -/
  markAll  : List Nat := []
  /-- leaves under repair: object and leaf (R327). Reset: none. -/
  repairs  : List (Nat × Nat) := []
  /-- the same leaves with the device time at which their repair started: object, leaf, time (R318, R327). Reset: none. -/
  repairAt : List (Nat × Nat × Nat) := []
  /-- [32] audit interval (R326). Reset: 0. -/
  auditInt : Nat := 0
  /-- round-robin position of the audit (R326). Reset: 0. -/
  auditPos : Nat := 0
  /-- tick number plus 1 at which the last audit started (R326). Reset: 0. -/
  auditAt  : Nat := 0
  /-- audit in progress: slot and entry (R326). Reset: none. -/
  audit    : Option (Nat × Nat × VEntry) := none
  /-- serving configuration (R212). Reset: none. -/
  serve    : Option Serve := none
  /-- admission configuration (R336). Reset: none. -/
  admission   : Option Admit := none
  /-- ended streams whose tubs go at the next boundary: tub map, its entries, unused reservation (R219). Reset: none. -/
  freeing  : List (Nat × Nat × Nat) := []
  /-- VEIN_FULL counter (R224). Reset: 0. -/
  veinFull : Nat := 0
  /-- turn in progress (R187). Reset: none. -/
  turn     : Option Turn := none
  /-- sweep in progress (R187). Reset: none. -/
  sweep    : Option Sweep := none
  /-- [64] canary control word in force (R201, R514). Reset: STILL_THRESH 0, RATIO_HI 0x7FFF, RATIO_LO 0x8000, MODE 0. -/
  canary   : W64 := 0x00007FFF80000000
  /-- [48] canary table address in force (R205, R514). Reset: none named. -/
  canTab   : Option Nat := none
  /-- pending control word and table address (R514). Reset: none. -/
  canPend  : Option (W64 × Nat) := none
  /-- [256 x 16] still counters (R206). Reset: 0. -/
  still    : Tab Nat := []
  /-- [256] mode A alarm states (R207). Reset: clear. -/
  alarm    : Tab Bool := []
  /-- [64] step number applied by the last sweep (R506). Reset: 0. -/
  lastStep : Nat := 0
  /-- [64] GEN of the canary summary (R504, R506). Reset: 0. -/
  canGen   : Nat := 0
  /-- [64] CONTROL of the canary summary as last updated (R506). Reset: 0. -/
  canCtl   : W64 := 0
  /-- scale entries that drains have used since the last advance: address, and INT4 rather than INT8 (R63). Reset: none. -/
  scales   : List (Nat × Bool) := []
  /-- ledger checks in progress (R210). Reset: none. -/
  ledgers  : List Ledger := []
  /-- replica assays (R208). Reset: none. -/
  assays   : List Assay := []
  /-- 64 rank-group slots (R239). Reset: empty. -/
  groups   : Tab (Option Group) := []
  /-- collectives issued and not retired (R238). Reset: none. -/
  colls    : List Coll := []
  /-- signatures that arrived before their collective started (R240). Reset: none. -/
  sigBox   : List SigBody := []
  /-- aborts that arrived before their collective was issued (R253). Reset: none. -/
  aborts   : List AbortBody := []
  /-- PERMUTE set in flight (R255). Reset: none. -/
  pset     : Option PSet := none
  /-- [14] tick period in µs (R331). Reset: 250. -/
  period   : Nat := 250
  /-- [64] ORIGIN, claim time in ns (R302). Reset: 0. -/
  origin   : Nat := 0
  /-- [48] ORIGIN_NUM (R302). Reset: 0. -/
  originNum : Nat := 0
  /-- [48] current tick number (R331). Reset: 0. -/
  tick     : Nat := 0
  /-- tick boundary 0 has come (R331). Reset: 0. -/
  ticking  : Bool := false
  /-- pending TICK_SET: old period and origin, TAKE_AT (R332). Reset: none. -/
  tickPend : Option (Nat × Nat × Nat × Nat) := none
  /-- offset of claim time from device time, in 1/64 ns (R302, R304). Reset: 0. -/
  offset   : Int := 0
  /-- error still to be slewed, in 1/64 ns (R304). Reset: 0. -/
  slew     : Int := 0
  /-- device time up to which the slew has been applied (R304). Reset: 0. -/
  slewAt   : Nat := 0
  /-- members: bell address and device address (R301). Reset: none. -/
  members  : List (Nat × Nat) := []
  /-- [6] tick master's bell address (R301). Reset: 0. -/
  master   : Nat := 0
  /-- [1] SYMPATHY (R301). Reset: 0. -/
  sympathy : Bool := false
  /-- a TICK frame has been accepted since BELL_CLAIM_SET (R333). Reset: 0. -/
  tickSeen : Bool := false
  /-- device time of the last accepted TICK frame (R306). Reset: 0. -/
  tickAt   : Nat := 0
  /-- bell cycles since the last TICK frame was queued, as tick master (R303). Reset: 32, so that one is due. -/
  tickCyc  : Nat := 32
  /-- TICK_MASTER_LOST has been posted since (R306). Reset: 0. -/
  tickLost : Bool := false
  /-- [64] own bell frame counter (R296). Reset: 0. -/
  fcnt     : Nat := 0
  /-- [64 each] last accepted counter, by SRC (R296). Reset: 0. -/
  fseen    : Tab Nat := []
  /-- lag episode announced (R307). Reset: none. -/
  lag      : Option LagEpisode := none
  /-- own digests of the last two rounds: TICKNUM, digest, TRANSIT (R309, R310). Reset: none. -/
  digests  : List (Nat × BitVec 256 × Bool) := []
  /-- sources whose GOSSIP of the last round has arrived (R310). Reset: none. -/
  gossip   : List Nat := []
  /-- the claim's own tally (R347). Reset: 0. -/
  tally    : Tally := {}
  /-- [16] tally window length N (R351). Reset: 4,000. -/
  winN     : Nat := 4000
  /-- pending N and its consumption stamp (R351). Reset: none. -/
  winPend  : Option (Nat × Nat) := none
  /-- [48] window base W (R351). Reset: 0. -/
  winBase  : Nat := 0
  /-- [48] current window number (R351). Reset: 0. -/
  winNum   : Nat := 0
  /-- the window roll of the coming boundary has been done (R334). Reset: 0. -/
  rolled   : Bool := false
  /-- [64] GEN of the tally summary (R504, R507). Reset: 0. -/
  talGen   : Nat := 0
  /-- [48] TICK and WINDOW of the tally summary as last updated (R507). Reset: 0. -/
  talTick  : Nat := 0
  talWin   : Nat := 0
  /-- CLAIM_TALLY and HELD slots of the tally summary as last updated (R507). Reset: 0. -/
  talSum   : List Nat := []
  talHeld  : List Nat := []
deriving DecidableEq, Repr

/-- *Stream states* (R215). -/
inductive StreamState
  | free | opened | prefill | decode | held | cancelling | done | cancelled | failed | shiftEnded
deriving DecidableEq, Repr

/-- A tag-board entry (R213, *Tag-board entry*) and what the device keeps beside it. -/
structure Stream where
  /-- [4] STATE. Reset: FREE. -/
  state   : StreamState := .free
  /-- [3] CLAIM. Reset: 0. -/
  claim   : Nat := 0
  /-- [12] TENANT. Reset: 0. -/
  tenant  : Nat := 0
  /-- [1] VPIN. Reset: 0. -/
  vpin    : Bool := false
  /-- [1] STEER. Reset: 0. -/
  steer   : Bool := false
  /-- [1] KVFMT. Reset: 0. -/
  kvfmt   : Bool := false
  /-- [1] CNTP. Reset: 0. -/
  cntp    : Bool := false
  /-- [4] DEPTH. Reset: 0. -/
  depth   : Nat := 0
  /-- [2] REJ_RUN. Reset: 0. -/
  rejRun  : Nat := 0
  /-- [3] ACC_RUN. Reset: 0. -/
  accRun  : Nat := 0
  /-- [5] PROBE. Reset: 0. -/
  probe   : Nat := 0
  /-- [24] POS. Reset: 0. -/
  pos     : Nat := 0
  /-- [24] PROMPT. Reset: 0. -/
  prompt  : Nat := 0
  /-- [24] LIMIT. Reset: 0. -/
  limit   : Nat := 0
  /-- [16] PERIOD. Reset: 0. -/
  period  : Nat := 0
  /-- [48] DUE. Reset: 0. -/
  due     : Nat := 0
  /-- [16] VERSION. Reset: 0. -/
  version : Nat := 0
  /-- [32] TEMP. Reset: 0. -/
  temp    : W32 := 0
  /-- [32] TOP_P. Reset: 0. -/
  topP    : W32 := 0
  /-- [32] MIN_P. Reset: 0. -/
  minP    : W32 := 0
  /-- [11] TOP_K. Reset: 0. -/
  topK    : Nat := 0
  /-- [1] STOP_EN. Reset: 0. -/
  stopEn  : Bool := false
  /-- [20] STOP_ID. Reset: 0. -/
  stopId  : Nat := 0
  /-- [32] REP. Reset: 0. -/
  rep     : W32 := 0
  /-- [32] PRES. Reset: 0. -/
  pres    : W32 := 0
  /-- [32] FREQ. Reset: 0. -/
  freq    : W32 := 0
  /-- [32] GEN. Reset: 0. -/
  gen     : Nat := 0
  /-- [4] UNDELIV. Reset: 0. -/
  undeliv : Nat := 0
  /-- [48] TMAP. Reset: 0. -/
  tmap    : Nat := 0
  /-- [48] HIST. Reset: 0. -/
  hist    : Nat := 0
  /-- [64] OPENED. Reset: 0. -/
  opened  : Nat := 0
  /-- [64] TAG. Reset: 0. -/
  tag     : W64 := 0
  /-- [32] HELD ticks. Reset: 0. -/
  heldT   : Nat := 0
  /-- [8] END. Reset: 0. -/
  fin     : Nat := 0
  /-- unused tub reservation (R218). Reset: 0. -/
  reserve : Nat := 0
  /-- a token has been committed since DUE was last set (R342). Reset: 0. -/
  fed     : Bool := false
  /-- a promise miss has been posted in this window (R342). Reset: 0. -/
  missed  : Bool := false
  /-- step in flight (R217). Reset: none. -/
  batch   : Option Nat := none
  /-- version slot it is pinned to (R236). Reset: none. -/
  pinned  : Option Nat := none
  /-- pending park: ring, SEQ, host buffer (R225). Reset: none. -/
  park    : Option (Nat × W32 × Nat) := none
deriving DecidableEq, Repr

/-! ## Rings, queues, functions -/

/-- Ring classes (R354). -/
inductive RingClass | management | claim | serving | training
deriving DecidableEq, Repr

/-- A command consumed and not yet replied (R356 OUTSTANDING, R359). -/
structure Cmd where
  seq    : W32
  opcode : Nat
  quiet  : Bool
  /-- a function-level reset has discarded its reply (R369). -/
  gone   : Bool := false
  /-- [64] device time of consumption (R359 TIME). -/
  time   : Nat
deriving DecidableEq, Repr

/-- A ring pair (R354 to R366). -/
structure Ring where
  /-- bound to a class, function and claim (R354). Reset: 0, and ring 0 bound. -/
  bound   : Bool := false
  /-- [2] CLASS. Reset: management. -/
  cls     : RingClass := .management
  /-- [6] owning function (R354). Reset: physical. -/
  fn      : Nat := 0
  /-- [3] CLAIM. Reset: 0. -/
  claim   : Nat := 0
  /-- its claim was destroyed (R379). Reset: 0. -/
  orphan  : Bool := false
  /-- [64] w0 SQ_BASE. Reset: 0. -/
  w0      : W64 := 0
  /-- [64] w1 CQ_BASE. Reset: 0. -/
  w1      : W64 := 0
  /-- [64] w2 SHADOW. Reset: 0. -/
  w2      : W64 := 0
  /-- [64] w3 without ENABLE: SQ_LOG2, CQ_LOG2, VECTOR, COAL_N, COAL_US. Reset: 0. -/
  w3      : W64 := 0
  /-- [64] w4 START_SEQ. Reset: 0. -/
  w4      : W64 := 0
  /-- [1] ENABLE (R357). Reset: 0. -/
  enable  : Bool := false
  /-- [4] ERR; non-zero in STATE 3. Reset: 0. -/
  err     : Nat := 0
  /-- [64] LOST (R369). Reset: 0. -/
  lost    : Nat := 0
  /-- [16] SQ_TAIL doorbell (R361). Reset: 0. -/
  sqTail  : Nat := 0
  /-- [16] SQ_HEAD (R362). Reset: 0. -/
  sqHead  : Nat := 0
  /-- [16] CQ_TAIL (R362). Reset: 0. -/
  cqTail  : Nat := 0
  /-- [16] CQ_HEAD doorbell (R361). Reset: 0. -/
  cqHead  : Nat := 0
  /-- [32] last sequence consumed (R362). Reset: 0. -/
  last    : W32 := 0
  /-- SEQs of the PASS_STARTs consumed since the ring was enabled, which PASS_ABORT asks for (R385). Reset: none. -/
  passes  : List W32 := []
  /-- OUTSTANDING commands in order of consumption (R356). Reset: none. -/
  out     : List Cmd := []
  /-- replies not marked QUIET since the last interrupt (R367). Reset: 0. -/
  unsig   : Nat := 0
  /-- device time of the first of them (R367). Reset: 0. -/
  unsigAt : Nat := 0
deriving DecidableEq, Repr

/-- An output queue (R368). -/
structure OutQ where
  /-- configured by OUTQ_SET. Reset: 0. -/
  conf    : Bool := false
  /-- [6] owning function. Reset: 0. -/
  fn      : Nat := 0
  /-- [64] base. Reset: 0. -/
  base    : W64 := 0
  /-- [5] log2 of its entry count. Reset: 0. -/
  log2    : Nat := 0
  /-- [64] shadow block. Reset: 0. -/
  shadow  : W64 := 0
  /-- [11] vector. Reset: 0. -/
  vector  : Nat := 0
  /-- [8] COAL_N. Reset: 0. -/
  coalN   : Nat := 0
  /-- [10] COAL_US. Reset: 0. -/
  coalUs  : Nat := 0
  /-- [16] TAIL. Reset: 0. -/
  tail    : Nat := 0
  /-- [16] head doorbell (R501). Reset: 0. -/
  head    : Nat := 0
  /-- [64] DROPS. Reset: 0. -/
  drops   : Nat := 0
  /-- host access of the queue failed, ERR 0x4 (R448). Reset: 0. -/
  err     : Bool := false
  /-- entries since the last interrupt (R367). Reset: 0. -/
  unsig   : Nat := 0
  /-- device time of the first of them. Reset: 0. -/
  unsigAt : Nat := 0
deriving DecidableEq, Repr

/-- A function of the adit (R449, R452, R503). -/
structure Fn where
  /-- [3] FC_CLAIM (R452). Reset: 0. -/
  fcClaim  : Nat := 0
  /-- [1] FC_VALID. Reset: 0. -/
  fcValid  : Bool := false
  /-- [1] ENTRY_ERR. Reset: 0. -/
  entryErr : Bool := false
  /-- [64 x 64] window table (R452). Reset: 0. -/
  window   : Tab W64 := []
  /-- [64] WINDOW_DROP (R503). Reset: 0. -/
  drop     : Nat := 0
  /-- [32] latched high half of DEV_TIME (R498). Reset: none. -/
  latch    : Option Nat := none
deriving DecidableEq, Repr

/-- An MSI-X table entry (R502). -/
structure Msix where
  /-- [64] message address. Reset: 0. -/
  addr   : W64 := 0
  /-- [32] message data. Reset: 0. -/
  data   : W32 := 0
  /-- [32] vector control; bit 0 masks. Reset: PRESUMED masked (log 4). -/
  ctrl   : W32 := 1
  /-- [1] pending (R451). Reset: 0. -/
  pend   : Bool := false
deriving DecidableEq, Repr

/-- Completion status of a read on the adit (R447, R453). -/
inductive CplStatus | success | unsupported | abort | retry
deriving DecidableEq, Repr

/-- The last completion the adit returned (R453, R495). -/
structure Cpl where
  status : CplStatus
  data   : List W64
  ep     : Bool
deriving DecidableEq, Repr

/-! ## Shafts and bell -/

/-- *Shaft states* (R277). -/
inductive ShaftState | off | laser | tune | train | up | half | down
deriving DecidableEq, Repr

/-- Authentication of one claim on one shaft (R280). -/
structure Auth where
  /-- own nonce, once sent. -/
  mine  : Option (BitVec 128) := none
  /-- the peer's nonce, once received. -/
  peer  : Option (BitVec 128) := none
  /-- the peer's tag verified. -/
  ok    : Bool := false
  /-- SHAFT_AUTH that waits for the outcome. -/
  cmd   : Option (Nat × W32) := none
deriving DecidableEq, Repr

/-- A shaft controller (R265 to R286). -/
structure Shaft where
  /-- enabled by SHAFT_CTL (R277). Reset: PRESUMED enabled (log 5). -/
  enabled  : Bool := true
  /-- [3] STATE (R277, R281). Reset: OFF. -/
  state    : ShaftState := .off
  /-- [12] PEER (R281). Reset: 0xFFF. -/
  peer     : Nat := 0xFFF
  /-- [6] PEER_SHAFT. Reset: 0x3F. -/
  peerS    : Nat := 0x3F
  /-- [8] LANE_FAIL. Reset: 0. -/
  laneFail : BitVec 8 := 0
  /-- [1] HALF_SEL. Reset: 0. -/
  halfSel  : Bool := false
  /-- width to retrain to: half (R278, R286). Reset: 0. -/
  toHalf   : Bool := false
  /-- it retrains, rather than trains for the first time or after DOWN (R278). Reset: 0. -/
  retrains : Bool := false
  /-- [13] place of the next flit's first bit in the stream of received codewords, of 5,140 data bits each (R267).
  Reset: 0. -/
  rxBit    : Nat := 0
  /-- the codeword received last was uncorrectable (R270). Reset: 0. -/
  cwBad    : Bool := false
  /-- [8] AUTH, claim channels open (R280, R281). Reset: 0. -/
  auth     : BitVec 8 := 0
  /-- authentication in progress by claim (R280). Reset: none. -/
  auths    : Tab Auth := []
  /-- [16 x 64] counters in the order of R281 and R377. Reset: 0. -/
  count    : Tab Nat := []
  /-- [8 x 7] local shares by claim (R274). Reset: 0. -/
  share    : Tab Nat := []
  /-- [8] relay shares: tag and share (R275). Reset: none. -/
  relay    : List (W16 × Nat) := []
  /-- shares that take effect at the next frame boundary (R275). Reset: none. -/
  pend     : Option (Tab Nat × List (W16 × Nat)) := none
  /-- hundredths of a link bubble that have come due (R397). Reset: 0. -/
  bubble   : Nat := 0
  /-- [6] flit slot of the frame (R274). Reset: 0. -/
  slot     : Nat := 0
  /-- flits queued: claim tag, flit, and the shaft that a relayed one came over (R274, R276). Reset: none. -/
  queue    : List (W16 × Flit × Option Nat) := []
  /-- lanes are trained and codeword lock is found: IDENT may be exchanged (R277). Reset: 0. -/
  locked   : Bool := false
  /-- hop-scoped flits queued (R274). Reset: none. -/
  ctrl     : List Flit := []
  /-- the flit last put on the fibre (R274). Reset: none. -/
  sent     : Option Flit := none
  /-- [13] data bits put on the fibre that fill no whole codeword yet, and those bits, bit 0 first (R267). Reset: 0. -/
  txLen    : Nat := 0
  txBits   : Nat := 0
  /-- the codeword that the last flit filled, as lanes carry it: lane and its symbols in order (R267). Reset: none. -/
  txCode   : List (Nat × List Nat) := []
  /-- [10] next SEQ to send (R268). Reset: DESIGN CHOICE 0 (log 6). -/
  seq      : Nat := 0
  /-- [512] replay buffer: SEQ, flit, oldest first (R271). Reset: empty. -/
  replay   : List (Nat × Flit) := []
  /-- flits of the replay buffer being resent (R271). Reset: none. -/
  resend   : List (Nat × Flit) := []
  /-- words of the replay buffer that read with errors: SEQ, word of the flit (0 its header, 1 to 31 its payload), and the flipped
  bits of its 80-bit word (R271). No row brings such an error about. Reset: none. -/
  flips    : List (Nat × Nat × W80) := []
  /-- resends of the oldest flit without an ACK advance (R271). Reset: 0. -/
  tries    : Nat := 0
  /-- [10] last in-order good SEQ received (R268). Reset: DESIGN CHOICE 0x3FF (log 6). -/
  good     : Nat := 0x3FF
  /-- NAK goes in the next outgoing flit (R270). Reset: 0. -/
  nak      : Bool := false
  /-- later flits are discarded until the replay arrives (R270). Reset: 0. -/
  gap      : Bool := false
  /-- claim tags the peer has stopped (R276). Reset: none. -/
  stopped  : List W16 := []
  /-- flits held in the receive queue by claim tag (R276). Reset: 0. -/
  rx       : List (W16 × Nat) := []
  /-- tags for which XOFF has been sent (R276). Reset: none. -/
  xoffed   : List W16 := []
deriving DecidableEq, Repr

/-- *Bell status word* STATE (R313). -/
inductive BellState | off | lock | check | measure | joined
deriving DecidableEq, Repr

/-- A queued bell frame: priority, claim, words, collisions met, contention slots to skip (R294). -/
structure BellQ where
  prio  : Nat
  claim : Nat
  words : List W64
  hits  : Nat
  skip  : Nat
deriving DecidableEq, Repr

/-- The bell port (R289 to R313). -/
structure Bell where
  /-- [3] STATE. Reset: OFF. -/
  state   : BellState := .off
  /-- [6] ADDR. Reset: 0. -/
  addr    : Nat := 0
  /-- [6] MASTER, the cycle master's address. Reset: 0. -/
  master  : Nat := 0
  /-- the device acts as cycle master (R300). Reset: 0. -/
  isMaster : Bool := false
  /-- [25] LOOP, in 1/64 ns (R299). Reset: 0. -/
  loop    : Nat := 0
  /-- loop-delay samples of the present measurement (R299). Reset: none. -/
  samples : List Nat := []
  /-- spreads of more than 1 ns met (R299). Reset: 0. -/
  spreads : Nat := 0
  /-- bell cycles followed, checked or sent in the present state (R298). Reset: 0. -/
  cycles  : Nat := 0
  /-- on at entry to S2: it joins again at its return (R414). Reset: 0. -/
  rejoin  : Bool := false
  /-- device time at which the last JOIN frame was sent (R299). Reset: 0. -/
  sentAt  : Nat := 0
  /-- the named slot was seen occupied while it was checked (R298). Reset: 0. -/
  busy    : Bool := false
  /-- own echoes that failed in a row (R300). Reset: 0. -/
  bad     : Nat := 0
  /-- the BELL_JOIN in progress (R298). Reset: none. -/
  cmd     : Option (Nat × W32) := none
  /-- [7] slot that comes round next, once the slot timing is known (R290). Reset: none. -/
  next    : Option Nat := none
  /-- a burst has come in the cycle master's slot of this bell cycle (R300). Reset: 0. -/
  heard   : Bool := false
  /-- bell cycles in a row in which the cycle master's slot stayed empty (R300). Reset: 0. -/
  quiet   : Nat := 0
  /-- transmission stops at the end of the bell cycle (R298). Reset: 0. -/
  leaving : Bool := false
  /-- queued frames (R294). Reset: none. -/
  queue   : List BellQ := []
  /-- the frame last sent in the own slot, or the JOIN frame last sent (R292, R299). Reset: none. -/
  sent    : List W64 := []
  /-- the frame last sent in a contention slot (R294). Reset: none. -/
  away    : List W64 := []
  /-- the frame sent in a contention slot whose echo has not come (R294). Reset: none. -/
  flying  : Option BellQ := none
  /-- by address, the bell cycles for which a device heard in its slot still counts as joined (R300). Reset: 0. -/
  seen    : Tab Nat := []
  /-- [9 x 64] counters of R313 in their order. Reset: 0. -/
  count   : Tab Nat := []
deriving DecidableEq, Repr

/-! ## Winder, power, security -/

/-- A throttle reason (R403). -/
structure Reason where
  /-- active. Reset: 0. -/
  on    : Bool := false
  /-- [64] episode start in device time. Reset: 0. -/
  start : Nat := 0
  /-- [64] accumulated µs. Reset: 0. -/
  total : Nat := 0
deriving DecidableEq, Repr

/-- The power and clock governor (R389 to R411). -/
structure Winder where
  /-- [5] device operating point (R26, R389). Reset: 0 (start-up, R410). -/
  op       : Nat := 0
  /-- operating point the supply is being raised for (R390). Reset: none. -/
  raise    : Option Nat := none
  /-- [5] compute, memory and link bubble duty in percent (R397). Reset: 0. -/
  dutyC    : Nat := 0
  dutyM    : Nat := 0
  dutyL    : Nat := 0
  /-- [13] CAP_HOST in W (R393). Reset: 3,600. -/
  capHost  : Nat := 3600
  /-- [13] CAP_SB (R393). Reset: 3,600. -/
  capSb    : Nat := 3600
  /-- [13] CAP_THERM (R393). Reset: 3,600. -/
  capTherm : Nat := 3600
  /-- class order, highest priority first: 0 links, 1 memory, 2 compute (R396). Reset: 0, 1, 2. -/
  order    : List Nat := [0, 1, 2]
  /-- fixed-frequency mode and its point (R401). Reset: off. -/
  fix      : Option Nat := none
  /-- [5] OP_LIMIT (R402). Reset: 18. -/
  limit    : Nat := 18
  /-- sympathy limits in force (R308). Reset: none. -/
  symp     : List Sympathy := []
  /-- margin cap of each bench (R392). Reset: none; kept in flash. -/
  margin   : Tab (Option Nat) := []
  /-- trim of each bench in 0.5 mV (R392). Reset: 0; kept in flash. -/
  trim     : Tab Int := []
  /-- trims as last saved to flash (R392). Reset: 0. -/
  saved    : Tab Int := []
  /-- the eight throttle reasons (R403). Reset: inactive. -/
  reasons  : Tab Reason := []
  /-- [13] floor in W (R405). Reset: DESIGN CHOICE 0 (log 7). -/
  floor    : Nat := 0
  /-- device time since which the cap is unmet (R407). Reset: none. -/
  unmet    : Option Nat := none
  /-- start-up, test and recovery are in force (R410); the spec gives no command that requests a test (log 36). Reset: start-up. -/
  startup  : Bool := true
  test     : Bool := false
  recovery : Bool := false
  /-- [5] one MMA every N cycles (R410). Reset: 16. -/
  mmaEvery : Nat := 16
  /-- hottest sensor in 0.25 °C (R408). Reset: DESIGN CHOICE 0 (log 7). -/
  hottest  : Int := 0
  /-- device time since which it has stayed at or below 88 °C (R410). Reset: none. -/
  cool     : Option Nat := none
  /-- droop and current bubbles in this control period (R399, R400). Reset: 0. -/
  droop    : Bool := false
  current  : Bool := false
  /-- [5] duty of the current bubbles on each bench in percent (R400). Reset: 0. -/
  currentB : Tab Nat := []
  /-- a sympathy limit alone made the host-request reason active in the last control period (R404). Reset: 0. -/
  sympOnly : Bool := false
  /-- device time of the last canary failure or lowered trim of each bench (R392). Reset: 0. -/
  cleanAt  : Tab Nat := []
  /-- mean input power of the last 10 ms in W (R460 PIN_W). Reset: DESIGN CHOICE 0 (log 7). -/
  pin      : Nat := 0
  /-- input power measured in each of the last 500 control periods, in mW, newest first (R394, R460). Reset: none. -/
  recent   : List Nat := []
  /-- [64] GEN of the winder summary (R504, R505). Reset: 0. -/
  gen      : Nat := 0
  /-- the 32 words of the winder summary as last updated (R505). Reset: 0. -/
  sum      : List W64 := []
deriving DecidableEq, Repr

/-- Power states (R412). -/
inductive Power | s0 | s1 | s2 | s3 | s4
deriving DecidableEq, Repr

/-- Stages of boot (R421). -/
inductive Boot | held | straps | adit | ready | stopped
deriving DecidableEq, Repr

/-- A power-state entry in progress (R413): target, the command or sideband request, and the
128-byte retained list (R416). -/
structure Entry where
  target   : Power
  cmd      : Option (Nat × W32)
  retained : List Byte
  /-- a wake latched during entry (R418). -/
  wake     : Bool
deriving DecidableEq, Repr

/-- A firmware slot: VERSION, SVN and measurement of the verified image it holds (R428, R433). -/
structure FwImage where
  version : Nat
  svn     : Nat
  digest  : BitVec 256
deriving DecidableEq, Repr

/-- One copy of the slot selector in module flash (R431). -/
structure SelCopy where
  /-- sequence number. -/
  seq   : Nat
  /-- it names slot B. -/
  slotB : Bool
  /-- its SHA3-256 check holds. -/
  good  : Bool
deriving DecidableEq, Repr

/-- Module flash, boot and identity (R391, R421 to R436). -/
structure Boots where
  /-- stage of boot (R421). Reset: held in reset. -/
  stage    : Boot := .held
  /-- [4] BOOT_CAUSE (R422). Reset: 0. -/
  cause    : Nat := 0
  /-- [2] SMB_ADDR strap (R480). Reset: DESIGN CHOICE 0 until latched (log 8). -/
  smbAddr  : BitVec 2 := 0
  /-- [1] ADIT_SRNS strap (R480). Reset: DESIGN CHOICE 0 until latched (log 8). -/
  srns     : Bool := false
  /-- firmware slots A and B (R428). Reset: flash; DESIGN CHOICE A holds version 1 (log 8). -/
  slotA    : Option FwImage := some ⟨1, 0, 0⟩
  slotB    : Option FwImage := none
  /-- the two copies of the slot selector (R431). Reset: flash; DESIGN CHOICE both name A, the first one newer (log 8). -/
  sel0     : SelCopy := ⟨1, false, true⟩
  sel1     : SelCopy := ⟨0, false, true⟩
  /-- the running firmware image (R431). Reset: none until boot. -/
  running  : Option FwImage := none
  /-- [256] measurement of the per-part image (R438). Reset: 0 until boot. -/
  perPart  : BitVec 256 := 0
  /-- the voltage table in use: face supply in mV of bench b at operating point n, at 19 b + n (R391). Reset: none. -/
  volts    : Tab Nat := []
  /-- [32 each] anti-rollback counters 0 and 1 (R432). Reset: flash; 0 at manufacture. -/
  ctr0     : Nat := 0
  ctr1     : Nat := 0
  /-- [32 each] reserved counters 2 to 7, which never advance (R432). Reset: flash; 0 at manufacture. -/
  ctrRest  : List Nat := List.replicate 6 0
  /-- [256] the seed from which the key store's keys come (R435). Reset: none until boot. -/
  seed     : Option (BitVec 256) := none
  /-- FW_STAGE in progress: ring, SEQ, host address, length (R433). Reset: none. -/
  staging  : List (Nat × W32 × Nat × Nat) := []
  /-- [64] SERIAL (R496). Reset: flash; DESIGN CHOICE 0 (log 8). -/
  serial   : W64 := 0
  /-- a wake has started the resume from S3 (R419). Reset: 0. -/
  waking   : Bool := false
  /-- a warm reset is due after a reply (R434, R460). Reset: 0. -/
  warm     : Bool := false
  /-- [12] stacks whose initialisation is complete (R423). Reset: none. -/
  t1init   : BitVec 12 := 0
  /-- [1] T2_INIT (R497). Reset: 0. -/
  t2init   : Bool := false
  /-- granules retained across S3, not cleared (R417, R420). Reset: none. -/
  keptT1   : BitVec 768 := 0
  keptT2   : BitVec 8 := 0
deriving DecidableEq, Repr

/-- Pins and rails (R479 to R493). -/
structure Pins where
  /-- PERST_N is asserted (R421). Reset: 1. -/
  perst    : Bool := true
  /-- FAULT_N is asserted (R422, R471). Reset: 0. -/
  fault    : Bool := false
  /-- THERMTRIP_N is asserted (R411). Reset: 0. -/
  trip     : Bool := false
  /-- all domains but aon are stopped (R411, R488). Reset: 0. -/
  stopped  : Bool := false
  /-- rails within tolerance (R485). Reset: DESIGN CHOICE all but VDD_LAS (log 8). -/
  good     : List Rail := [.vinB0, .vinB1, .vinB2, .vinB3, .vinM, .vddIo, .vddAna, .vddAux]
  /-- benches kept unpowered (R486). Reset: none. -/
  offB     : List Nat := []
  /-- [8] TAP instruction (R490). Reset: 0x01 IDCODE. -/
  tap      : Byte := 0x01
  /-- the TAP controller is in Test-Logic-Reset (R490). Reset: 1. -/
  tapReset : Bool := true
  /-- a TAP instruction other than BYPASS or IDCODE was loaded (R438, R445). Reset: 0. -/
  tapUsed  : Bool := false
  /-- [96] boundary register (R493). Reset: DESIGN CHOICE 0 (log 8). -/
  bound    : BitVec 96 := 0
deriving DecidableEq, Repr

/-- One IDE stream (R443). -/
inductive Ide | insecure | secure | failed
deriving DecidableEq, Repr

/-- A handshake or a session (R437): DSP0274's key schedule runs on these. -/
structure Session where
  /-- session id of the requester, then of the device, in this order from the low half. -/
  sid    : Nat
  /-- SPDM version, 0x12 or 0x13. -/
  ver    : Nat
  /-- the handshake secret. -/
  secret : List Byte
  /-- transcripts: KEY_EXCHANGE with its response but the verify data, then whole, then with FINISH and its response. -/
  th     : List Byte
  thKex  : List Byte
  thFin  : List Byte := []
  /-- responses sealed in the present phase. -/
  count  : Nat := 0
deriving DecidableEq, Repr

/-- The SPDM responder, DOE mailbox and MCTP endpoint (R437 to R443, R455 to R460). -/
structure Sideband where
  /-- SPDM session established by FINISH (R437). Reset: none. -/
  session  : Bool := false
  /-- handshake between KEY_EXCHANGE and FINISH (R437). Reset: none. -/
  exchange : Bool := false
  /-- version, capabilities and algorithms negotiated (R437). Reset: 0. -/
  stage    : Nat := 0
  /-- the SPDM transcript from GET_VERSION to ALGORITHMS (R439). Reset: empty. -/
  transcript : List Byte := []
  /-- negotiated SPDM version, 0x12 or 0x13 (R437). Reset: DESIGN CHOICE 0x12 until negotiated (log 31). -/
  ver      : Nat := 0x12
  /-- GET_DIGESTS and GET_CERTIFICATE since the last CHALLENGE, with their responses (R439). Reset: empty. -/
  certMsgs : List Byte := []
  /-- unsigned GET_MEASUREMENTS in a row, with their responses (R439). Reset: empty. -/
  measMsgs : List Byte := []
  /-- the handshake in progress or the session (R437). Reset: none. -/
  keys     : Option Session := none
  /-- the kept message M (R439). Reset: none. -/
  kept     : Option (List Byte) := none
  /-- IDE streams 0 and 1 (R443). Reset: Insecure. -/
  ide0     : Ide := .insecure
  ide1     : Ide := .insecure
  /-- the object in the DOE mailbox's response side (R455). Reset: none. -/
  doe      : Option (List Byte) := none
  /-- [8] MCTP endpoint id (R458). Reset: 0. -/
  eid      : Byte := 0
  /-- the last message sent on the sideband (R459). Reset: none. -/
  reply    : Option (List Byte) := none
  /-- its SMBus packets, with PEC (R456, R458). Reset: none. -/
  packets  : List (List Byte) := []
  /-- requests that wait for the exit from S1 or S2, or for the end of a power entry (R413, R460). Reset: none. -/
  held     : List MctpReq := []
  /-- the last transaction was NACKed (R456, R457). Reset: 0. -/
  nack     : Bool := false
deriving DecidableEq, Repr

/-- The error log (R474, R475). -/
structure Sump where
  /-- [4,096 x 64 bytes] records by index (R474). Reset: flash; DESIGN CHOICE empty (log 8). -/
  recs    : Tab (List W64) := []
  /-- [12] SUMP_HEAD. Reset: flash; DESIGN CHOICE 0 (log 8). -/
  head    : Nat := 0
  /-- [32] SUMP_WRITTEN. Reset: 0. -/
  written : Nat := 0
  /-- [64] SUMP_DROPPED. Reset: 0. -/
  dropped : Nat := 0
  /-- indices of the records in the write buffer, posted and not yet in flash (R474). Reset: none. -/
  pending : List Nat := []
  /-- indices of the records that wait for room in the buffer (R474). Reset: none. -/
  waiting : List Nat := []
  /-- records posted since device time last restarted (R475). Reset: 0. -/
  since   : Nat := 0
  /-- [12] SV_EN and SV_VECTOR (R499). Reset: 0. -/
  svEn    : Bool := false
  svVec   : Nat := 0
  /-- corrected events per tracked frame: tier and frame, count, words corrected once (R178). Reset: none. -/
  track   : List ((Nat × Nat) × Nat × List Nat) := []
  /-- tracked frames in which the present scrub pass has found an error (R178). Reset: none. -/
  passErr : List (Nat × Nat) := []
  /-- lines that the present scrub pass has read: frame f of tier t at 3 f + t, one bit a line (R177, R178). Reset: none. -/
  passed  : Tab Nat := []
deriving DecidableEq, Repr

/-- The random generator: Hash_DRBG with SHA3-256 (R436). -/
structure Gen where
  /-- the model's own: draws and seeds so far. Reset: DESIGN CHOICE 0 (log 2). -/
  draws   : Nat := 0
  seeds   : Nat := 0
  /-- [440 each] working value and constant. Reset: none until seeded. -/
  v       : Nat := 0
  c       : Nat := 0
  /-- the next request since the seed; 0 before the first. Reset: 0. -/
  request : Nat := 0
deriving DecidableEq, Repr

/-! ## The device -/

/-- The whole device. -/
structure State where
  /-- commands waiting, first in, first out: the queue of the block. Reset: empty. -/
  pending : List Instr := []
  /-- [64] device time in ns (R329). Reset: 0. -/
  time    : Nat := 0
  /-- headframe cycles since the last rising edge of `aon` (R329). Reset: 0. -/
  elapsed : Nat := 0
  /-- stamp of the last consumed packet; no two packets share one (R363). Reset: none. -/
  stamp   : Option Nat := none
  /-- the model's own: number of the next free value. Reset: DESIGN CHOICE 0 (log 2). -/
  freeCtr : Nat := 0
  /-- the random generator (R436). Reset: not seeded. -/
  rand    : Gen := {}
  /-- the model's own: next number for requests, batches, collectives, waits, contexts. Reset: DESIGN CHOICE 1 (log 2). -/
  nextId  : Nat := 1
  /-- [768 GiB, 80-bit words] T1 by word index (R145, R155). Reset: every word 0, as R423 writes it (log 9). -/
  t1      : Tab W80 := []
  /-- [2 TiB, 80-bit words] T2 by word index (R145, R157). Reset: every word 0 (log 9). -/
  t2      : Tab W80 := []
  /-- host memory as the device reads and writes it: bytes (R447). Reset: DESIGN CHOICE 0 (log 9). -/
  host    : List Host.Cell := []
  /-- host ranges whose access fails: address and length (R448). Reset: none. -/
  hostBad : List (Nat × Nat) := []
  /-- [6] virtual functions that the host has enabled, 0 to 32 (R449). Reset: DESIGN CHOICE 32 (log 55). -/
  vfs     : Nat := 32
  /-- an Advisory Non-Fatal Error has been logged through AER (R448). Reset: 0. -/
  aer     : Bool := false
  /-- 128 faces (R91). Reset: idle. -/
  faces   : Tab Face := []
  /-- eight claims (R27). Reset: none. -/
  claims  : Tab Claim := []
  /-- 131,072 tag-board entries (R213). Reset: FREE. -/
  streams : Tab Stream := []
  /-- 4,096 tally slots (R347). Reset: 0. -/
  tallies : Tab Tally := []
  /-- requests (R115). Reset: none. -/
  reqs    : List Req := []
  /-- steps in flight (R217). Reset: none. -/
  batches : List Batch := []
  /-- hoists and write-backs in arrival order (R159). Reset: none. -/
  hoists  : List Hoist := []
  /-- stalled accesses (R158). Reset: none. -/
  waits   : List Wait := []
  /-- prefetches: ring, SEQ, claim, pages left, resident, failed (R162). Reset: none. -/
  fetches : List (Nat × W32 × Nat × List Nat × Nat × Nat) := []
  /-- evictions accepted and not yet in effect: claim, page, ring, SEQ (R164). Reset: none. -/
  evicts  : List (Nat × Nat × Nat × W32) := []
  /-- [4,096] retired frames in flash: T2 and frame (R179). Reset: flash; DESIGN CHOICE none (log 8). -/
  retired : List (Bool × Nat) := []
  /-- fenced T2 controllers (R466). Reset: none. -/
  fenced  : List Nat := []
  /-- 256 ring pairs (R354). Reset: ring 0 bound, the rest unbound. -/
  rings   : Tab Ring := []
  /-- ring that the round robin served last (R363). Reset: DESIGN CHOICE 0 (log 10). -/
  turnRing : Nat := 0
  /-- 41 output queues (R368, R501). Reset: not configured. -/
  outqs   : Tab OutQ := []
  /-- 33 functions (R449). Reset: no claim. -/
  fns     : Tab Fn := []
  /-- MSI-X entries, function f vector v at 512 f + v (R502). Reset: masked. -/
  msix    : Tab Msix := []
  /-- the last completion returned by the adit (R453). Reset: none. -/
  cpl     : Option Cpl := none
  /-- 52 shafts (R265). Reset: OFF. -/
  shafts  : Tab Shaft := []
  /-- [12] device address (R269). Reset: DESIGN CHOICE 0 (log 6). -/
  devAddr : Nat := 0
  /-- [4,096 x 64] routing table (R282). Reset: 0. -/
  routes  : Tab W64 := []
  /-- [4,096] receive contexts (R272). Reset: free. -/
  rxctx   : Tab (Option RxCtx) := []
  /-- DESCs that wait for a context or for pages: shaft, header, body (R272). Reset: none. -/
  descs   : List (Nat × W64 × DescBody) := []
  /-- the last answer to a peer's request for weight bytes: shaft, peer, answer (R318). Reset: none. -/
  served  : Option (Nat × Nat × PeerAnswer) := none
  /-- the bell port (R289). Reset: off. -/
  bell    : Bell := {}
  /-- the winder (R389). Reset: start-up. -/
  winder  : Winder := {}
  /-- [3] power state (R412). Reset: S0. -/
  power   : Power := .s0
  /-- claims of which an access in the background has failed its ownership check, and which end with the command, or at the
  latest with the next tick boundary (R345). Reset: none. -/
  foul     : List (Nat × Nat) := []
  /-- words of a T2 controller found with errors: controller, the device on whose lanes all their erroneous bits lie (5 for a word
  beyond correction, whose bits are not known), and device time (R466). Reset: none. -/
  t2Errs   : List (Nat × Nat × Nat) := []
  /-- power-state entry in progress (R413). Reset: none. -/
  entry   : Option Entry := none
  /-- return to S0 in progress (R413). Reset: none. -/
  exit    : Option WakeCause := none
  /-- boot, firmware and flash (R421). Reset: held in reset. -/
  boot    : Boots := {}
  /-- pins and rails (R479). Reset: PERST_N asserted. -/
  pins    : Pins := {}
  /-- SPDM, DOE and MCTP (R437, R455, R458). Reset: idle. -/
  side    : Sideband := {}
  /-- the sump (R474). Reset: empty. -/
  sump    : Sump := {}
  /-- [1] DEV_FATAL (R497). Reset: 0. -/
  fatal   : Bool := false
  /-- fabric CRC failures of one flit in a row, by bench (R463). Reset: 0. -/
  fabric  : Tab Nat := []
deriving DecidableEq, Repr

/-- The device right after a fundamental reset, held there by PERST_N: ring 0 is the management ring
of the physical function (R354); everything else as each field's line says. -/
def State.reset : State := { rings := [(0, { bound := true })] }

/-- Reasons for which the block stops. No row of the table stops it, since the manual gives every one
an effect, so no meaning raises this one; it names the one thing the model cannot carry out. -/
inductive Fault
  /-- A physical address beyond the tiers (R155, R157). Raised by no meaning: every path checks its
  address first. Safe. -/
  | noSuchWord
deriving DecidableEq, Repr

/-- Reasons for which the model gives no meaning. -/
inductive Refusal
  /-- The row has no meaning in the model yet; raised by its arm of Dispatch.lean. Safe. -/
  | notModelled (mnemonic : String)
deriving DecidableEq, Repr

/-- The outcome of one step of this block. -/
abbrev Res := Host.Outcome State Fault Refusal

end Sys2Proof.Machine
end

