-- ==== Sys2Proof/Machine/Status.lean ====
section
/-!
DEFINITION. The status codes of R388, one number for each name of the manual.
-/
namespace Sys2Proof.Machine

def stOk : Nat := 0x0000
def stReservedField : Nat := 0x0001
def stBadSeq : Nat := 0x0002
def stBadEncoding : Nat := 0x0003
def stClassDenied : Nat := 0x0004
def stClaimDenied : Nat := 0x0005
def stRingBusy : Nat := 0x0006
def stNoClaim : Nat := 0x0007
def stHostAccessFail : Nat := 0x0008
def stFormatPair : Nat := 0x0101
def stBlockAxisNotK : Nat := 0x0102
def stBufEmpty : Nat := 0x0103
def stAccOrder : Nat := 0x0104
def stAccDepth : Nat := 0x0105
def stRegOwner : Nat := 0x0106
def stRegConflict : Nat := 0x0107
def stRegParity : Nat := 0x0108
def stVlRange : Nat := 0x0109
def stAddrRange : Nat := 0x010A
def stAlign : Nat := 0x010B
def stLayoutSplitsBlock : Nat := 0x010C
def stBadScale : Nat := 0x010D
def stBranchRange : Nat := 0x010E
def stSemOverflow : Nat := 0x010F
def stSemOwner : Nat := 0x0110
def stDmaForeign : Nat := 0x0111
def stPostPending : Nat := 0x0112
def stAwaitNoPost : Nat := 0x0113
def stNoBranchTable : Nat := 0x0114
def stSliceOverTick : Nat := 0x0115
def stSliceOverrun : Nat := 0x0116
def stBadHeader : Nat := 0x0117
def stRequestAborted : Nat := 0x0118
def stAddrUnmapped : Nat := 0x0201
def stTenantDenied : Nat := 0x0202
def stNotColocated : Nat := 0x0203
def stFetchDeadline : Nat := 0x0204
def stCodecError : Nat := 0x0205
def stPoisonRead : Nat := 0x0206
def stObjOverlap : Nat := 0x0207
def stBadAttribute : Nat := 0x0208
def stFrameNotOwned : Nat := 0x0209
def stFrameInUse : Nat := 0x020A
def stFrameRetired : Nat := 0x020B
def stNoTableSpace : Nat := 0x020C
def stPagePinned : Nat := 0x020D
def stPageBusy : Nat := 0x020E
def stWrongTier : Nat := 0x020F
def stRetireFull : Nat := 0x0210
def stOwnerFault : Nat := 0x0211
def stObjBusy : Nat := 0x0212
def stNotResident : Nat := 0x0213
def stSweepInProgress : Nat := 0x0301
def stBadBlock : Nat := 0x0302
def stTurnInProgress : Nat := 0x0303
def stWrongShift : Nat := 0x0304
def stStreamBusy : Nat := 0x0401
def stStreamNotOwned : Nat := 0x0402
def stBadToken : Nat := 0x0403
def stBadSampler : Nat := 0x0404
def stAlreadyDone : Nat := 0x0405
def stStreamCancelled : Nat := 0x0406
def stNonfiniteLogits : Nat := 0x0407
def stWeightPoisoned : Nat := 0x0408
def stVeinTooLarge : Nat := 0x0409
def stPeriodInfeasible : Nat := 0x040A
def stTenantNotOwned : Nat := 0x040B
def stAdmitInfeasible : Nat := 0x040C
def stStepLate : Nat := 0x040D
def stNoServeConfig : Nat := 0x040E
def stBadGroup : Nat := 0x0501
def stGroupBusy : Nat := 0x0502
def stCollMismatch : Nat := 0x0503
def stCollAborted : Nat := 0x0504
def stCollTimeout : Nat := 0x0505
def stReducePartsInvalid : Nat := 0x0506
def stRouteInvalid : Nat := 0x0507
def stLayoutInvalid : Nat := 0x0508
def stStagingSmall : Nat := 0x0509
def stEpochStale : Nat := 0x050A
def stEpochAhead : Nat := 0x050B
def stEpochFenceTimeout : Nat := 0x050C
def stPermuteBusy : Nat := 0x050D
def stNoRoute : Nat := 0x050E
def stNoCredit : Nat := 0x050F
def stShaftDown : Nat := 0x0510
def stShaftBusy : Nat := 0x0511
def stShareBusy : Nat := 0x0512
def stNoBellPeer : Nat := 0x0513
def stBellAddrBusy : Nat := 0x0514
def stBellBusy : Nat := 0x0515
def stBellLoopUnstable : Nat := 0x0516
def stVersionSlotsFull : Nat := 0x0601
def stVersionInUse : Nat := 0x0602
def stVersionBusy : Nat := 0x0603
def stVersionNotReady : Nat := 0x0604
def stVersionLate : Nat := 0x0605
def stDigestBad : Nat := 0x0606
def stPeerNotReady : Nat := 0x0607
def stNotTickMaster : Nat := 0x0701
def stTickBusy : Nat := 0x0702
def stClaimLimit : Nat := 0x0703
def stResourceBusy : Nat := 0x0704
def stPowerBusy : Nat := 0x0801
def stImageBad : Nat := 0x0901
def stRollback : Nat := 0x0902
def stFwBusy : Nat := 0x0903
def stCapBelowFloor : Nat := 0x0F01

/-- The codes of R388: no others exist. -/
def statusRuns : List (Nat × Nat) :=
  [(0x0000, 9), (0x0101, 24), (0x0201, 19), (0x0301, 4), (0x0401, 14), (0x0501, 22), (0x0601, 7), (0x0701, 4), (0x0801, 1),
   (0x0901, 3), (0x0F01, 1)]
/-- The codes beside OK, in ascending order. -/
def failCodes : List Nat := (statusRuns.flatMap fun r => (List.range r.2).map (r.1 + ·)).filter (· != 0)
def listedStatus (n : Nat) : Bool := statusRuns.any fun r => r.1 ≤ n && n < r.1 + r.2

end Sys2Proof.Machine
end

