-- ==== Sys2Proof/Machine/Ops.lean ====
section
/-!
DEFINITION. The named operations over the device's state: access to each table, host memory on the
adit, interrupts, output queues, replies, the sump, and the free values.
-/
namespace Sys2Proof.Machine
open Sys2Proof

/-! ### One entry of each table -/

def face (s : State) (f : Nat) : Face := Tab.get {} s.faces f
def setFace (s : State) (f : Nat) (x : Face) : State := { s with faces := Tab.set {} s.faces f x }
def claim (s : State) (c : Nat) : Claim := Tab.get {} s.claims c
def setClaim (s : State) (c : Nat) (x : Claim) : State := { s with claims := Tab.set {} s.claims c x }
def stream (s : State) (n : Nat) : Stream := Tab.get {} s.streams n
def setStream (s : State) (n : Nat) (x : Stream) : State := { s with streams := Tab.set {} s.streams n x }
def tally (s : State) (n : Nat) : Tally := Tab.get {} s.tallies n
def setTally (s : State) (n : Nat) (x : Tally) : State := { s with tallies := Tab.set {} s.tallies n x }
def ring (s : State) (r : Nat) : Ring := Tab.get {} s.rings r
def setRing (s : State) (r : Nat) (x : Ring) : State := { s with rings := Tab.set {} s.rings r x }
def outq (s : State) (q : Nat) : OutQ := Tab.get {} s.outqs q
def setOutq (s : State) (q : Nat) (x : OutQ) : State := { s with outqs := Tab.set {} s.outqs q x }
def fnOf (s : State) (n : Nat) : Fn := Tab.get {} s.fns n
def setFn (s : State) (n : Nat) (x : Fn) : State := { s with fns := Tab.set {} s.fns n x }
def shaft (s : State) (n : Nat) : Shaft := Tab.get {} s.shafts n
def setShaft (s : State) (n : Nat) (x : Shaft) : State := { s with shafts := Tab.set {} s.shafts n x }
def pte (k : Claim) (p : Nat) : Pte := Tab.get {} k.pages p
def setPte (k : Claim) (p : Nat) (x : Pte) : Claim := { k with pages := Tab.set {} k.pages p x }
def obj (k : Claim) (n : Nat) : Obj := Tab.get {} k.objs n
def setObj (k : Claim) (n : Nat) (x : Obj) : Claim := { k with objs := Tab.set {} k.objs n x }
def ver (k : Claim) (n : Nat) : Ver := Tab.get {} k.vers n
def setVer (k : Claim) (n : Nat) (x : Ver) : Claim := { k with vers := Tab.set {} k.vers n x }
def group (k : Claim) (n : Nat) : Option Group := Tab.get none k.groups n
/-- The claims that exist, in order. -/
def liveClaims (s : State) : List Nat := (List.range 8).filter fun c => (claim s c).live
/-- A claim in service: it exists, and no claim-fatal error or clearing has taken it (R470). -/
def inService (k : Claim) : Bool := k.live && !k.dead && k.clearing.isNone && k.creating.isNone
/-- The shift a claim is in: none while a turn is being carried out (R31). -/
def shiftNow (k : Claim) : Shift := if k.turn.any (·.begun) then .none else k.shift
def lane (x : Face) : IssueStream → Lane | .f => x.f | .b => x.b | .u => x.u
def setLane (x : Face) (st : IssueStream) (l : Lane) : Face :=
  match st with | .f => { x with f := l } | .b => { x with b := l } | .u => { x with u := l }
/-- The fixed order of the issue streams (R102). -/
def streamsBFU : List IssueStream := [.b, .f, .u]
def modLane (s : State) (f : Nat) (st : IssueStream) (g : Lane → Lane) : State :=
  let x := face s f; setFace s f (setLane x st (g (lane x st)))
/-- The claim whose face units hold face f (R19). -/
def faceClaim (s : State) (f : Nat) : Option Nat :=
  (List.range 8).find? fun c => (claim s c).live && (claim s c).units.getLsbD (f / 8)
/-- Ownership tags of T1 and T2 granules (R344). -/
def ownsT1 (k : Claim) (g : Nat) : Bool := k.live && k.t1g.getLsbD g
def ownsT2 (k : Claim) (g : Nat) : Bool := k.live && k.t2g.getLsbD g
def freshId (s : State) : Nat × State := (s.nextId, { s with nextId := s.nextId + 1 })
/-- The next free value (R118, R253, R319, R371). -/
def freeValue (s : State) : W64 × State := (Config.freeWord s.freeCtr, { s with freeCtr := s.freeCtr + 1 })
/-- The generator ready for a request: seeded on first use, and again after 2^20 requests (R436). -/
def seeded (g : Gen) : Gen :=
  let e := leBytes 48 (Config.entropy g.seeds).toNat
  let put := fun (p : Nat × Nat) => { g with seeds := g.seeds + 1, v := p.1, c := p.2, request := 1 }
  if g.request = 0 then put (drbgSeed e)
  else if 2 ^ 20 < g.request then put (drbgSeed ([0x01] ++ beBytesB 55 g.v ++ e))
  else g
/-- The next draw of the random generator (R436). -/
def draw (s : State) : BitVec 128 × State :=
  let g := seeded s.rand
  (drbgOut g.v, { s with rand := { g with draws := g.draws + 1, v := drbgNext g.v g.c g.request, request := g.request + 1 } })

/-! ### Host memory on the adit -/

/-- A host access succeeds unless it meets a range whose access fails (R448). -/
def hostOk (s : State) (a n : Nat) : Bool := s.hostBad.all fun r => a + n ≤ r.1 || r.1 + r.2 ≤ a
def hostRead (s : State) (a n : Nat) : List Byte := (List.range n).map fun i => Tab.get 0 s.host (a + i)
def hostWord (s : State) (a : Nat) : W64 := w64 (leNat (hostRead s a 8))
def hostWrite (s : State) (a : Nat) (bs : List Byte) : State := { s with host := Tab.setRun 0 s.host a bs }

/-- Vectors of a function's MSI-X table (R451). -/
def vectors (fn : Nat) : Nat := if fn = 0 then 512 else 48
/-- An interrupt: the message write, or the pending bit while the vector is masked (R451). -/
def interrupt (s : State) (fn vec : Nat) : State :=
  let k := 512 * fn + vec
  let e := Tab.get {} s.msix k
  if e.ctrl.getLsbD 0 then { s with msix := Tab.set {} s.msix k { e with pend := true } }
  else hostWrite s e.addr.toNat (leBytes 4 e.data.toNat)

/-! ### The sump (R474, R475) -/

/-- The fields of a sump record that its poster gives. -/
structure SumpRec where
  cls    : Nat
  unit   : Nat
  inst   : Nat := 0
  status : Nat := 0
  advice : Nat := 0
  claim  : Option Nat := none
  kind   : Nat
  tier   : Nat := 3
  addr   : Nat := 0
  cmd    : Option (Nat × W32) := none
  stream : Option Nat := none
  d4     : Nat := 0
  d5     : Nat := 0
deriving DecidableEq, Repr

/-- The eight words of *Sump record*, with the CRC over bytes 0 to 59. -/
def sumpWords (r : SumpRec) (time count : Nat) : List W64 :=
  let w0 := at' r.cls 62 + at' r.unit 56 + at' (r.inst % 256) 48 + at' r.status 32 + at' r.advice 28
    + at' (b2n r.claim.isSome) 27 + at' (r.claim.getD 0) 24 + at' (min count 255) 16 + at' r.kind 12
  let w3 := (match r.cmd with | some (g, q) => at' g 56 + at' q.toNat 24 + at' 1 18 | none => 0)
    + (match r.stream with | some n => at' 1 17 + n | none => 0)
  let ws := [w64 w0, w64 time, w64 (at' r.tier 48 + r.addr), w64 w3, w64 r.d4, w64 r.d5, 0]
  let crc := crc32c (wordsBytes ws ++ leBytes 4 0)
  ws ++ [w64 (at' crc.toNat 32)]
/-- Bits of word 0 that R475 compares: CLASS, UNIT, INSTANCE, KIND, and ADVICE. -/
def sumpKey (w0 : W64) : Nat × Nat × Nat × Nat := (fld w0 63 56, fld w0 55 48, fld w0 15 12, fld w0 31 28)
/-- Index of the last corrected record of the same unit, instance, kind and address, among those posted since device time last
restarted (R475). -/
def sumpTwin (s : State) (ws : List W64) : Option Nat :=
  let w := fun (l : List W64) n => l.getD n 0
  (List.range (min s.sump.since 4096)).findSome? fun i =>
    let k := (s.sump.head + 4095 - i) % 4096
    let l := Tab.get [] s.sump.recs k
    if sumpKey (w l 0) = sumpKey (w ws 0) ∧ w l 2 = w ws 2 then some k else none
/-- A record put at SUMP_HEAD, where it is visible from now on; `flash` for one written to flash at once. Any other enters the write
buffer, or waits for room in it (R474). -/
def sumpPut (u : Sump) (ws : List W64) (flash : Bool) : Sump :=
  let room := decide (u.pending.length < 64)
  { u with recs := Tab.set [] u.recs u.head ws, head := (u.head + 1) % 4096
           written := min (u.written + 1) (2 ^ 32 - 1), since := u.since + 1
           pending := if !flash && room then u.pending ++ [u.head] else u.pending
           waiting := if !flash && !room then u.waiting ++ [u.head] else u.waiting }
/-- COUNT of a record raised by one, saturating at 255, and its CRC made anew (R475). -/
def sumpBump (ws : List W64) : List W64 :=
  let w0 := ws.getD 0 0
  let n := min (fld w0 23 16 + 1) 255
  let ws := w64 (w0.toNat - at' (fld w0 23 16) 16 + at' n 16) :: ws.drop 1
  ws.take 7 ++ [w64 (at' (crc32c ((wordsBytes ws).take 60)).toNat 32)]
/-- A sump record posted: coalesced, dropped, made to wait, or written (R474, R475). -/
def postSump (s : State) (r : SumpRec) : State :=
  let ws := sumpWords r s.time 1
  let twin := if r.cls = 0 ∧ r.advice = 0 then sumpTwin s ws else none
  let twin := twin.filter fun k => s.time ≤ ((Tab.get [] s.sump.recs k).getD 1 0).toNat + 1000000000
  match twin with
  | some k => { s with sump := { s.sump with recs := Tab.set [] s.sump.recs k (sumpBump (Tab.get [] s.sump.recs k)) } }
  | none =>
    let u := s.sump
    let v := if 64 ≤ u.pending.length ∧ r.cls = 0 then { u with dropped := sat64 (u.dropped + 1) } else sumpPut u ws (r.cls == 3)
    let s := { s with sump := v }
    if 2 ≤ r.cls ∧ s.sump.svEn then interrupt s 0 s.sump.svVec else s
/-- The claim a ring serves, and the claim an output queue belongs to: the claim concerned by their failures. -/
def ringHolder (s : State) (r : Nat) : Option Nat := if (ring s r).cls = .management then none else some (ring s r).claim
def queueHolder (q : Nat) : Option Nat := if q = 0 then none else some ((q - 1) / 5)
/-- A failed access of host memory, for a claim, and a command where one fails by it (R448). -/
def logHost (s : State) (k : Option Nat) (c : Option (Nat × W32)) (status : Nat) : State :=
  postSump { s with aer := true } { cls := 0, unit := 0x09, kind := 12, claim := k, cmd := c, status := status }

/-! ### Interrupt coalescing and output queues (R367, R368) -/

/-- Whether an interrupt goes now, after one more signalled item; and the count that remains. -/
def coalesce (n us unsig : Nat) : Bool × Nat :=
  if unsig + 1 ≥ n ∨ us = 0 then (true, 0) else (false, unsig + 1)
/-- Output queue of kind q of claim c; kind 0 is the device's (R368). -/
def queueId (kind c : Nat) : Nat := if kind = 0 then 0 else 5 * c + kind
def queueKind (q : Nat) : Nat := if q = 0 then 0 else (q - 1) % 5 + 1
/-- Bytes of an entry of a queue kind (R368). -/
def entryBytes (kind : Nat) : Nat := if kind = 3 then 576 else if kind = 2 ∨ kind = 4 then 32 else 64
def outqUsed (x : OutQ) : Nat := (x.tail + 2 ^ x.log2 - x.head) % 2 ^ x.log2
def outqShadow (x : OutQ) : List Byte := leBytes 8 x.tail ++ leBytes 8 x.drops ++ List.replicate 48 0
/-- An entry written to an output queue, then the shadow, then the interrupt (R368). -/
def postQueue (s : State) (q : Nat) (entry : List Byte) : State :=
  let x := outq s q
  if !x.conf || x.err then s
  else if outqUsed x + 1 ≥ 2 ^ x.log2 then
    let x := { x with drops := sat64 (x.drops + 1) }
    hostWrite (setOutq s q x) x.shadow.toNat (outqShadow x)
  else
    let a := x.base.toNat + entryBytes (queueKind q) * x.tail
    if !(hostOk s a entry.length && hostOk s x.shadow.toNat 64) then
      logHost (setOutq s q { x with err := true }) (queueHolder q) none 0
    else
      let y := { x with tail := (x.tail + 1) % 2 ^ x.log2 }
      let (now, unsig) := coalesce x.coalN x.coalUs x.unsig
      let z := { y with unsig := unsig, unsigAt := if x.unsig = 0 then s.time else x.unsigAt }
      let s := hostWrite (hostWrite (setOutq s q z) a entry) x.shadow.toNat (outqShadow y)
      if now then interrupt s x.fn x.vector else s
/-- An event record on the management queue, or on a claim's event queue (*Event record*). -/
def postEvent (s : State) (c : Option Nat) (code : Nat) (args : List Nat) : State :=
  let w0 := at' code 48 + at' (c.getD 0) 45
  let ws := w64 w0 :: w64 s.time :: (args.map w64 ++ List.replicate (6 - args.length) 0)
  postQueue s (match c with | some c => queueId 1 c | none => 0) (wordsBytes ws)

/-! ### Replies (R359, R362, R366, R367) -/

/-- The completion watermark: below the oldest command without a reply (R362). -/
def watermark (x : Ring) : W32 := match x.out with | c :: _ => c.seq - 1 | [] => x.last
def ringShadow (x : Ring) : List Byte :=
  leBytes 8 (x.sqHead + at' x.cqTail 16) ++ leBytes 8 ((watermark x).toNat + at' x.last.toNat 32) ++ List.replicate 48 0
def sqSize (x : Ring) : Nat := 2 ^ fld x.w3 60 56
def cqSize (x : Ring) : Nat := 2 ^ fld x.w3 55 51
/-- Replies written and not yet freed. -/
def cqUsed (x : Ring) : Nat := (x.cqTail + cqSize x - x.cqHead % cqSize x) % cqSize x
def replyBytes (c : Cmd) (status r0 r1 : Nat) : List Byte :=
  wordsBytes [w64 (at' status 48 + at' c.opcode 36 + c.seq.toNat), w64 c.time, w64 r0, w64 r1]
/-- A reply written: the reply, the shadow and the interrupt. A reply that a function-level reset discarded
adds 1 to LOST (R369); a ring in STATE 3 with ERR 0x4 gets none (R357). -/
def sendReply (s : State) (r : Nat) (c : Cmd) (status r0 r1 : Nat) : State :=
  let x := ring s r
  if c.gone then setRing s r { x with lost := sat64 (x.lost + 1) }
  else if x.err = 4 then s
  else
    let a := (x.w1.toNat / 4096) * 4096 + 32 * x.cqTail
    let sh := x.w2.toNat / 64 * 64
    if !(hostOk s a 32 && hostOk s sh 64) then logHost (setRing s r { x with err := 4 }) (ringHolder s r) none 0
    else
      let y := { x with cqTail := (x.cqTail + 1) % cqSize x }
      let (now, unsig) := if c.quiet then (false, x.unsig) else coalesce (fld x.w3 39 32) (fld x.w3 31 22) x.unsig
      let z := { y with unsig := unsig, unsigAt := if x.unsig = 0 then s.time else x.unsigAt }
      let s := hostWrite (hostWrite (setRing s r z) a (replyBytes c status r0 r1)) sh (ringShadow y)
      if now then interrupt s x.fn (fld x.w3 50 40) else s
/-- The reply of a consumed command: the command leaves OUTSTANDING, and its reply is written; after a device-fatal error there is
none (R471). -/
def reply (s : State) (r : Nat) (seq : W32) (status r0 r1 : Nat) : State :=
  if s.fatal then s else
  let x := ring s r
  match x.out.find? (fun c => c.seq == seq) with
  | none => s
  | some c => sendReply (setRing s r { x with out := x.out.erase c }) r c status r0 r1
/-- The reply of a command named by its ring and SEQ, if there is one. -/
def replyTo (s : State) (c : Option (Nat × W32)) (status r0 r1 : Nat) : State :=
  match c with | some (r, q) => reply s r q status r0 r1 | none => s
/-- When a command still outstanding was consumed (R321, R331). -/
def cmdTime (s : State) (r : Nat) (q : W32) : Nat :=
  match (ring s r).out.find? (fun c => c.seq == q) with | some c => c.time | none => 0
/-- STATE of a ring (R356). -/
def ringState (x : Ring) : Nat := if !x.bound then 0 else if x.err ≠ 0 then 3 else if x.enable then 2 else 1

/-! ### Claim time (R302, R330) -/

/-- Claim time, in 1/64 ns, of tick boundary n under the period in force at it. -/
def boundaryClaim (k : Claim) (n : Nat) : Int :=
  match k.tickPend with
  | some (oldP, oldO, oldN, takeAt) =>
    if n < takeAt then 64 * ((oldO : Int) + ((n : Int) - oldN) * oldP * 1000)
    else 64 * ((k.origin : Int) + ((n : Int) - k.originNum) * k.period * 1000)
  | none => 64 * ((k.origin : Int) + ((n : Int) - k.originNum) * k.period * 1000)
/-- Tick period of the tick that begins at boundary n (R332). -/
def periodAt (k : Claim) (n : Nat) : Nat :=
  match k.tickPend with | some (p, _, _, takeAt) => if n < takeAt then p else k.period | none => k.period
def ceilInt (a b : Int) : Int := -((-a) / b)
/-- Direction of the slew; its rate is 0.5 ns per µs, 32 units of 1/64 ns (R304). -/
def slewSign (k : Claim) : Int := if k.slew < 0 then -1 else 1
/-- Offset at device time t, in 1/64 ns: the slew has run since `slewAt`. -/
def offsetAt (k : Claim) (t : Nat) : Int :=
  k.offset + slewSign k * min (k.slew.natAbs : Int) (max 0 (32 * ((t : Int) - k.slewAt) / 1000))
/-- Claim time at device time t, in 1/64 ns (R302). -/
def claimTime (k : Claim) (t : Nat) : Int := 64 * (t : Int) + offsetAt k t
/-- Device time of tick boundary n: rounded up to a whole nanosecond, under the offset at that time (R330). -/
def boundaryTime (k : Claim) (n : Nat) : Nat :=
  let c := boundaryClaim k n
  let d := ceilInt (c - k.offset - k.slew) 64
  if k.slew = 0 ∨ 1000 * (k.slew.natAbs : Int) ≤ 32 * (d - k.slewAt) then d.toNat
  else (ceilInt (1000 * (c - k.offset) + slewSign k * 32 * k.slewAt) (64000 + 32 * slewSign k)).toNat
/-- The claim holds a tally slot (R28, R344). -/
def ownsTally (k : Claim) (t : Nat) : Bool := k.tblk.getLsbD (t / 32)
/-- Headframe cycles, of 2/3 ns, that have passed at a device time since the last edge of `aon` before it (R329). -/
def cyclesAt (t : Nat) : Nat := ceilDiv (3 * (t % 40)) 2
/-- Device time moved on to an instant that is due. -/
def advanceTo (s : State) (t : Nat) : State :=
  if s.time < t then { s with time := t, elapsed := cyclesAt t } else s

end Sys2Proof.Machine
end

