-- ==== Sys2Proof/Machine/Clock.lean ====
section
/-!
DEFINITION. The passing of device time (R329).
-/
namespace Sys2Proof.Machine
open Sys2Proof

/-- Device time counts in S0, S1 and S2 (R329), while the aon clock and its supply run. -/
def timeRuns (s : State) : Bool :=
  match s.power with | .s0 => true | .s1 => true | .s2 => true | _ => false
/-- A rising edge of the aon clock: device time counts multiples of 40 ns, modulo 2^64; what a stamp has added since the
last edge ends with it, and the headframe cycles count anew (R329). -/
def clockEdge (s : State) : State :=
  if timeRuns s && !s.pins.perst then { s with time := (s.time / 40 * 40 + 40) % 2 ^ 64, elapsed := 0 } else s

end Sys2Proof.Machine
end

