-- ==== Sys2Proof/Machine/Fp.lean ====
section
/-!
DEFINITION. Exact values, rounding and the IEEE-style formats (R35 to R40, R50 to R52), FP32 arithmetic
with one rounding (R131), the group tree (R72, R74, R75) and the generator of R54.
-/
namespace Sys2Proof.Machine
open Sys2Proof

/-! ### Exact values -/

def Xr.zero : Xr := .fin 0 0
def Xr.ofInt (n : Int) : Xr := .fin n 0
/-- `floor(log2 |x|)` of a non-zero finite value. -/
def Xr.lg (m e : Int) : Int := (Nat.log2 m.natAbs : Nat) + e
def Xr.isNan : Xr → Bool | .nan => true | _ => false
def Xr.isInf : Xr → Bool | .inf _ => true | _ => false
def Xr.isZero : Xr → Bool | .fin m _ => m == 0 | _ => false
def Xr.isNeg : Xr → Bool | .nan => false | .inf n => n | .fin m _ => decide (m < 0)
def Xr.neg : Xr → Xr | .nan => .nan | .inf n => .inf !n | .fin m e => .fin (-m) e
def Xr.abs : Xr → Xr | .nan => .nan | .inf _ => .inf false | .fin m e => .fin m.natAbs e
/-- Exact product; an infinity times zero is invalid (R38). -/
def Xr.mul : Xr → Xr → Xr
  | .nan, _ => .nan
  | _, .nan => .nan
  | .inf a, y => if y.isZero then .nan else .inf (a != y.isNeg)
  | x, .inf b => if x.isZero then .nan else .inf (x.isNeg != b)
  | .fin m e, .fin n f => .fin (m * n) (e + f)
/-- Two finite values on their common exponent. -/
def Xr.align (m e n f : Int) : Int × Int × Int :=
  let k := min e f
  (m * 2 ^ (e - k).toNat, n * 2 ^ (f - k).toNat, k)
/-- Exact sum; infinities of opposite sign are invalid (R38). -/
def Xr.add : Xr → Xr → Xr
  | .nan, _ => .nan
  | _, .nan => .nan
  | .inf a, .inf b => if a = b then .inf a else .nan
  | .inf a, _ => .inf a
  | _, .inf b => .inf b
  | .fin m e, .fin n f =>
    if m = 0 then .fin n f else if n = 0 then .fin m e
    else let (a, b, k) := Xr.align m e n f; .fin (a + b) k
def Xr.sub (x y : Xr) : Xr := x.add y.neg
/-- Scaling by a power of two, exact. -/
def Xr.scale (x : Xr) (k : Int) : Xr := match x with | .fin m e => .fin m (e + k) | y => y
/-- The order of finite values and infinities; false when either is NaN (R131). -/
def Xr.lt : Xr → Xr → Bool
  | .nan, _ => false
  | _, .nan => false
  | .inf a, .inf b => a && !b
  | .inf a, _ => a
  | _, .inf b => !b
  | .fin m e, .fin n f => let (a, b, _) := Xr.align m e n f; decide (a < b)
def Xr.eqv : Xr → Xr → Bool
  | .nan, _ => false
  | _, .nan => false
  | .inf a, .inf b => a == b
  | .fin m e, .fin n f => let (a, b, _) := Xr.align m e n f; a == b
  | _, _ => false
def Xr.le (x y : Xr) : Bool := x.lt y || x.eqv y

/-! ### Rounding (R51) -/

/-- `round_rne` of `m * 2^e` on the grid `2^u`, for a magnitude `m`, in grid steps. -/
def rneQ (m : Nat) (e u : Int) : Nat :=
  if u ≤ e then m <<< (e - u).toNat
  else
    let k := (u - e).toNat
    let q := m >>> k
    let d := m % 2 ^ k
    let half := 2 ^ (k - 1)
    if half < d ∨ (d = half ∧ q % 2 = 1) then q + 1 else q
/-- `round_sr` of the same with the 16-bit draw `r`. -/
def srQ (m : Nat) (e u : Int) (r : Nat) : Nat :=
  if u ≤ e then m <<< (e - u).toNat
  else let k := (u - e).toNat; (m * 65536 + r * 2 ^ k) >>> (k + 16)
/-- Rounding under the mode: none for RNE, a draw for SR. -/
def roundQ (sr : Option Nat) (m : Nat) (e u : Int) : Nat :=
  match sr with | none => rneQ m e u | some r => srQ m e u r

/-! ### FP32, FP16, BF16 -/

/-- A row of *IEEE-style field layouts*: fraction bits and bias. -/
structure FpKind where
  p    : Nat
  bias : Nat
deriving DecidableEq, Repr

def fpk32 : FpKind := ⟨23, 127⟩
def fpk16 : FpKind := ⟨10, 15⟩
def fpkB : FpKind := ⟨7, 127⟩

/-- `convert_fp` (R52). -/
def convertFp (k : FpKind) (sr : Option Nat) (x : Xr) : Xr :=
  match x with
  | .nan => .nan
  | .inf s => .inf s
  | .fin m e =>
    if m = 0 then .zero else
    let g := Xr.lg m e
    if g < 1 - (k.bias : Int) then .zero else
    let u := g - k.p
    let q := roundQ sr m.natAbs e u
    if (k.bias : Int) + 1 ≤ Xr.lg q u then .inf (decide (m < 0))
    else .fin (if m < 0 then -(q : Int) else q) u
/-- Bits of a value that the format holds; NaN is canonical (R38) and zero +0 (R37). -/
def encodeFp (k : FpKind) (x : Xr) : Nat :=
  let ones := 2 * k.bias + 1
  let sbit := (ones + 1) <<< k.p
  match x with
  | .nan => ones <<< k.p + 1 <<< (k.p - 1)
  | .inf s => ones <<< k.p + (if s then sbit else 0)
  | .fin m e =>
    if m = 0 then 0 else
    let g := Xr.lg m e
    let f := rneQ m.natAbs e (g - k.p)
    ((g + k.bias).toNat) <<< k.p + f % 2 ^ k.p + (if m < 0 then sbit else 0)
/-- The value that bits read as; subnormals read as +0 (R36). -/
def decodeFp (k : FpKind) (n : Nat) : Xr :=
  let ones := 2 * k.bias + 1
  let f := n % 2 ^ k.p
  let x := (n >>> k.p) % (ones + 1)
  let s := (n >>> k.p) / (ones + 1) % 2 = 1
  if x = ones then (if f = 0 then .inf s else .nan)
  else if x = 0 then .zero
  else
    let m : Int := (f + 2 ^ k.p : Nat)
    .fin (if s then -m else m) ((x : Int) - k.bias - k.p)

/-- The FP32 value of a 32-bit element. -/
def x32 (w : W32) : Xr := decodeFp fpk32 w.toNat
/-- `round_rne_fp32`, kept as an exact value. -/
def rne (x : Xr) : Xr := convertFp fpk32 none x
/-- The 32-bit element of an exact value, rounded by `round_rne_fp32`. -/
def r32 (x : Xr) : W32 := w32 (encodeFp fpk32 (rne x))
/-- Fused multiply-add with one rounding (R79, R131). -/
def fmaX (a b c : Xr) : Xr := rne ((a.mul b).add c)
def mulX (a b : Xr) : Xr := rne (a.mul b)
def addX (a b : Xr) : Xr := rne (a.add b)
def subX (a b : Xr) : Xr := rne (a.sub b)

/-! ### Sums (R72, R74, R75) -/

/-- One level of the tree: an odd last value meets the padding +0. -/
def pairUp : List Xr → List Xr
  | a :: b :: t => addX a b :: pairUp t
  | [a] => [rne a]
  | [] => []
def treeF : Nat → List Xr → Xr
  | 0, v => v.headD .zero
  | _, [] => .zero
  | _, [a] => rne a
  | fuel + 1, v => treeF fuel (pairUp v)
/-- `tree_sum` (R72). -/
def treeSum (v : List Xr) : Xr := treeF v.length v
def pow2ceil (n : Nat) : Nat := if n ≤ 1 then 1 else 2 ^ (Nat.log2 (n - 1) + 1)
/-- A part (g0, n) of a sum of `g` groups is a whole subtree (R74). -/
def wholePart (g : Nat) (p : Nat × Nat) : Bool :=
  let m := pow2ceil p.2
  p.1 % m == 0 && (p.2 == m || p.1 + p.2 == g)
/-- Parts in ascending g0 cover 0 to g - 1 exactly once; a part of no group covers nothing (R75). -/
def partsCover (g : Nat) (ps : List (Nat × Nat)) : Bool :=
  (ps.filter fun p => p.2 != 0).foldl (fun a p => if a = some p.1 then some (p.1 + p.2) else none) (some 0) = some g
/-- `node(lo, size)` of R75, on `fuel` = log2 of the size. -/
def nodeF (g : Nat) (parts : List ((Nat × Nat) × Xr)) : Nat → Nat → Xr
  | fuel, lo =>
    if g ≤ lo then .zero else
    match parts.find? (fun p => p.1.1 == lo && pow2ceil p.1.2 == 2 ^ fuel) with
    | some p => p.2
    | none =>
      match fuel with
      | 0 => .zero
      | k + 1 => addX (nodeF g parts k lo) (nodeF g parts k (lo + 2 ^ k))
/-- `combine_parts`: the value, and whether it is layout-variant (R75, R76). -/
def combineParts (g : Nat) (parts : List ((Nat × Nat) × Xr)) : Xr × Bool :=
  if parts.all (fun p => wholePart g p.1) then (nodeF g parts (Nat.log2 (pow2ceil g)) 0, false)
  else (treeSum (parts.map Prod.snd), true)

/-! ### The generator (R54) -/

/-- Philox-4x32 at work: counter words a, b, c, d and key words k, l. -/
structure Philox where
  a : Nat
  b : Nat
  c : Nat
  d : Nat
  k : Nat
  l : Nat
deriving DecidableEq, Repr
/-- One round. -/
def philoxRound (x : Philox) : Philox :=
  let p0 := 0xD2511F53 * x.a
  let p1 := 0xCD9E8D57 * x.c
  { a := (p1 >>> 32) ^^^ x.b ^^^ x.k, b := p1 % 2 ^ 32, c := (p0 >>> 32) ^^^ x.d ^^^ x.l, d := p0 % 2 ^ 32
    k := (x.k + 0x9E3779B9) % 2 ^ 32, l := (x.l + 0xBB67AE85) % 2 ^ 32 }
/-- `philox4x32_10` under a 64-bit key. -/
def philox (a b c d : Nat) (key : W64) : List Nat :=
  let x := Nat.repeat philoxRound 10 ⟨a, b, c, d, key.toNat % 2 ^ 32, key.toNat >>> 32⟩
  [x.a, x.b, x.c, x.d]
/-- `sr_draw` (R54): the 16-bit draw of a logical index. -/
def srDraw (seed : W64) (tensor step idx : Nat) : Nat :=
  let w := philox ((idx >>> 3) % 2 ^ 32) ((idx >>> 35) % 2 ^ 29) (tensor % 2 ^ 32) (step % 2 ^ 32) seed
  let word := w.getD ((idx % 8) / 2) 0
  if idx % 2 = 0 then word % 65536 else word >>> 16

end Sys2Proof.Machine
end

