-- ==== Sys2Proof/Machine/Formats.lean ====
section
/-!
DEFINITION. The stored formats (R35, R41, R43 to R49), conversion into them (R56, R57, R61), the scale
table entry (R59, R60, R63), and the bytes of a row of elements in each format.
-/
namespace Sys2Proof.Machine
open Sys2Proof

/-- *Format codes*; none for a reserved code (R122). -/
def fmtOf (n : Nat) : Option Fmt :=
  match n with
  | 0 => some .fp32 | 1 => some .fp16 | 2 => some .bf16 | 3 => some .int8
  | 4 => some .int4 | 5 => some .v8 | 6 => some .v4 | 7 => some .int32
  | _ => none
def Fmt.isBlock : Fmt → Bool | .v8 => true | .v4 => true | _ => false
def Fmt.isInt : Fmt → Bool | .int8 => true | .int4 => true | _ => false
/-- Bits per element. -/
def Fmt.bits : Fmt → Nat
  | .fp32 => 32 | .int32 => 32 | .fp16 => 16 | .bf16 => 16 | .int8 => 8 | .v8 => 8 | .int4 => 4 | .v4 => 4
/-- Groups of 32 that one operand buffer holds (R93, R126). -/
def Fmt.capacity : Fmt → Nat | .v4 => 32 | .int4 => 32 | .fp16 => 8 | .bf16 => 8 | _ => 16
/-- Bytes of a seam group (R49). -/
def Fmt.group : Fmt → Nat | .v8 => 136 | _ => 72

/-! ### Elements read -/

/-- A V8 element under its block's seam exponent (R43). -/
def v8Val (seam b : Nat) : Xr :=
  if seam = 0xFF then .nan else
  let e := b / 16 % 8
  if e = 0 then .zero else
  let m : Int := ((16 + b % 16 : Nat) : Int)
  .fin (if b < 128 then m else -m) ((e : Int) - 7 + ((seam : Int) - 127))
/-- A V4 element (R46). -/
def v4Val (seam q : Nat) : Xr :=
  if seam = 0xFF then .nan else .fin (sext q 4) ((seam : Int) - 127)
/-- Offset of slot `t` of a run of seam groups: its elements, and its seam byte (R49). -/
def slotAt (f : Fmt) (t : Nat) : Nat × Nat :=
  let w := if f = .v8 then 16 else 8
  (f.group * (t / 8) + w * (t % 8), f.group * (t / 8) + 8 * w + t % 8)
/-- The spans of bytes (offset, count) that `n` elements from block slot `b` occupy (R41, R49, R126). -/
def rowSpans (f : Fmt) (b n : Nat) : List (Nat × Nat) :=
  if f.isBlock then
    (List.range (ceilDiv n 16)).flatMap fun j =>
      let p := slotAt f (b + j); [(p.1, if f = .v8 then 16 else 8), (p.2, 1)]
  else [(0, ceilDiv (n * f.bits) 8)]
/-- 4-bit halves of bytes, low half first (R41). -/
def nibbles (bs : List Byte) : List Nat := bs.flatMap fun b => [b.toNat % 16, b.toNat / 16]
/-- The `n` element values of a row that starts at `a`, read through `rd address count`. -/
def rowVals (f : Fmt) (rd : Nat → Nat → List Byte) (a b n : Nat) : List Xr :=
  let raw := fun w => (chunks w (rd a (n * w))).map leNat
  match f with
  | .fp32 => (raw 4).map (decodeFp fpk32)
  | .int32 => (raw 4).map fun v => .ofInt (sext v 32)
  | .fp16 => (raw 2).map (decodeFp fpk16)
  | .bf16 => (raw 2).map (decodeFp fpkB)
  | .int8 => (raw 1).map fun v => .ofInt (sext v 8)
  | .int4 => ((nibbles (rd a (ceilDiv n 2))).take n).map fun v => .ofInt (sext v 4)
  | .v8 => ((List.range (ceilDiv n 16)).flatMap fun j =>
      let p := slotAt f (b + j)
      let seam := leNat (rd (a + p.2) 1)
      (rd (a + p.1) 16).map fun v => v8Val seam v.toNat).take n
  | .v4 => ((List.range (ceilDiv n 16)).flatMap fun j =>
      let p := slotAt f (b + j)
      let seam := leNat (rd (a + p.2) 1)
      (nibbles (rd (a + p.1) 8)).map (v4Val seam)).take n

/-! ### Conversion -/

/-- The largest magnitude of finite values, as a value; none when some value is not finite. -/
def blockMax (xs : List Xr) : Option Xr :=
  xs.foldl (fun a x => match a, x with
    | some m, .fin n e => let y := Xr.fin n.natAbs e; some (if m.lt y then y else m)
    | _, _ => none) (some .zero)
/-- The seam that `convert_v8_block` and `convert_v4_block` choose: none for a non-finite block. `top`
is the largest element magnitude in units of 2^-drop. -/
def seamOf (m e : Int) (bias : Int) (top : Int) (drop : Int) : Option Nat :=
  let em := Xr.lg m e
  let s := em + bias + (if (Xr.fin top (em - drop)).lt (.fin m e) then 1 else 0)
  if 254 < s then none else some s.toNat
/-- One element of `convert_v8_block`. -/
def v8Elem (seam : Nat) (sr : Option Nat) (x : Xr) : Nat :=
  match x with
  | .fin m e =>
    let e := e - ((seam : Int) - 127)
    if m = 0 then 0 else
    let g := Xr.lg m e
    if g < -2 then 0 else
    let q := roundQ sr m.natAbs e (g - 4)
    let up : Nat := if q < 32 then 0 else 1
    let f := q / 2 ^ up % 16
    (if m < 0 then 128 else 0) + ((g + up + 3).toNat % 8) * 16 + f
  | _ => 0
/-- One element of `convert_v4_block`. -/
def v4Elem (seam : Nat) (sr : Option Nat) (x : Xr) : Nat :=
  match x with
  | .fin m e =>
    let q := roundQ sr m.natAbs (e - ((seam : Int) - 127)) 0
    (((if m < 0 then -(q : Int) else q) % 16 + 16) % 16).toNat
  | _ => 0
/-- A block of 16 exact values converted to V8 or V4: seam byte and elements (R56, R57). -/
def convertBlock (f : Fmt) (xs : List Xr) (draw : Nat → Option Nat) : Nat × List Nat :=
  let bad := (0xFF, xs.map fun _ => 0)
  match blockMax xs with
  | some (.fin m e) =>
    if m = 0 then (0, xs.map fun _ => 0) else
    let seam := if f = .v8 then seamOf m e 123 31 4 else seamOf m e 125 7 2
    match seam with
    | none => bad
    | some s => (s, xs.zipIdx.map fun p => (if f = .v8 then v8Elem else v4Elem) s (draw p.2) p.1)
  | _ => bad
/-- Two 4-bit values to a byte, low half first, padded with 0 (R41). -/
def packNibbles : List Nat → List Byte
  | a :: b :: t => byte (a % 16 + 16 * (b % 16)) :: packNibbles t
  | [a] => [byte (a % 16)]
  | [] => []

/-! ### Scale table entries (R59 to R65) -/

def scaleValid (e : W64) : Bool :=
  let x := fld e 62 55
  !bit e 63 && fld e 54 32 == 0 && x != 0 && x != 0xFF
/-- log2 of SCALE. -/
def scaleExp (e : W64) : Int := (fld e 62 55 : Int) - 127
/-- Outcome of one integer conversion: the element, |q| for PEAK, overflow, NaN (R61). -/
structure IntConv where
  q      : Int
  peak   : Nat
  ovf    : Bool
  nonfin : Bool
deriving DecidableEq, Repr
/-- Conversion to INT8 (`half` 128) or INT4 (`half` 8) under a scale of `2^k` (R61). -/
def convertInt (half : Nat) (k : Int) (sr : Option Nat) (x : Xr) : IntConv :=
  match x with
  | .nan => ⟨0, 0, false, true⟩
  | .inf s => ⟨if s then -(half : Int) else half - 1, 255, true, false⟩
  | .fin m e =>
    let a := roundQ sr m.natAbs (e - k) 0
    let q : Int := if m < 0 then -(a : Int) else a
    if q < -(half : Int) then ⟨-(half : Int), min a 255, true, false⟩
    else if (half : Int) - 1 < q then ⟨half - 1, min a 255, true, false⟩
    else ⟨q, min a 255, false, false⟩
/-- A scale entry from its fields. -/
def scaleWord (scale clean peak : Nat) (used nonfin ovf : Bool) : W64 :=
  w64 (at' scale 32 + at' clean 16 + at' peak 8 + at' (b2n used) 2 + at' (b2n nonfin) 1 + b2n ovf)
/-- A conversion's marks merged into the entry: OR of the bits, maximum of PEAK (R61, R129). -/
def scaleMerge (e : W64) (cs : List IntConv) : W64 :=
  scaleWord (fld e 63 32) (fld e 21 16) (cs.foldl (fun a c => max a c.peak) (fld e 15 8)) true
    (bit e 1 || cs.any (·.nonfin)) (bit e 0 || cs.any (·.ovf))
/-- `advance_entry` (R63); an entry with USED clear is not changed. -/
def advanceEntry (e : W64) (range : Nat) : W64 :=
  if !bit e 2 then e else
  let sc := fld e 63 32
  let x := sc / 2 ^ 23 % 256
  let clean := fld e 21 16
  let (sc', clean') :=
    if bit e 0 then (if x < 254 then sc + 2 ^ 23 else sc, 0)
    else if bit e 1 then (sc, 0)
    else if fld e 15 8 < range / 4 then
      if clean + 1 = 64 then (if 1 < x then sc - 2 ^ 23 else sc, 0) else (sc, clean + 1)
    else (sc, 0)
  scaleWord sc' clean' 0 false false false

/-! ### Rows written -/

/-- Little-endian bytes of a value in a whole-byte float format. -/
def fpBytes (k : FpKind) (w : Nat) (sr : Option Nat) (x : Xr) : List Byte :=
  leBytes w (encodeFp k (convertFp k sr x))
/-- Bytes at their offsets. -/
def placed (off : Nat) (bs : List Byte) : List (Nat × Byte) := bs.zipIdx.map fun p => (off + p.2, p.1)
/-- The bytes of a row of blocks, each present block converted from 16 values and written at its slot.
Blocks that are none are not written (R134). Also tells whether a non-finite block was written. -/
def blockRow (f : Fmt) (b : Nat) (blocks : List (Option (List Xr))) (draw : Nat → Option Nat) :
    List (Nat × Byte) × Bool :=
  blocks.zipIdx.foldl (fun acc p =>
    match p.1 with
    | none => acc
    | some xs =>
      let c := convertBlock f xs (fun i => draw (16 * p.2 + i))
      let at2 := slotAt f (b + p.2)
      let elems := if f = .v8 then c.2.map byte else packNibbles c.2
      (acc.1 ++ placed at2.1 elems ++ [(at2.2, byte c.1)], acc.2 || c.1 == 0xFF)) ([], false)
/-- A list of values padded with zeros and cut into blocks of 16 (R47). -/
def blocksOf (xs : List Xr) : List (List Xr) :=
  (chunks 16 xs).map fun c => c ++ List.replicate (16 - c.length) .zero

/-- What a conversion adds to the canary's record of its tensor: ELEMS, ZEROS, SATS, NONFIN (R205). -/
structure ConvCount where
  elems  : Nat := 0
  zeros  : Nat := 0
  sats   : Nat := 0
  nonfin : Nat := 0
deriving DecidableEq, Repr
def ConvCount.add (a b : ConvCount) : ConvCount := ⟨a.elems + b.elems, a.zeros + b.zeros, a.sats + b.sats, a.nonfin + b.nonfin⟩
/-- Count of one float element as written. -/
def fpCount (y : Xr) : ConvCount := ⟨1, b2n y.isZero, 0, b2n (y.isNan || y.isInf)⟩
/-- Counts of FP32 elements as written. -/
def fpCounts (vs : List W32) : ConvCount := vs.foldl (fun a v => a.add (fpCount (x32 v))) {}
/-- Counts of INT32 elements as written. -/
def intCount (vs : List W32) : ConvCount := ⟨vs.length, (vs.filter (· == 0)).length, 0, 0⟩
/-- Counts of a row's blocks, over the elements that are no padding. -/
def blockCount (f : Fmt) (n : Nat) (blocks : List (Option (List Xr))) (draw : Nat → Option Nat) : ConvCount :=
  blocks.zipIdx.foldl (fun a p => match p.1 with
    | none => a
    | some xs =>
      let c := convertBlock f xs (fun i => draw (16 * p.2 + i))
      let real := (c.2.take (n - 16 * p.2))
      a.add (if c.1 = 0xFF then ⟨real.length, 0, 0, 16⟩ else ⟨real.length, real.count 0, 0, 0⟩)) {}
/-- Float and block formats: a row written at offset 0 from slot `b`: its bytes, whether a non-finite
block was written, and its counts. `on` tells which elements the mask leaves in (R134). -/
def convRow (f : Fmt) (b : Nat) (xs : List Xr) (on : Nat → Bool) (draw : Nat → Option Nat) :
    List (Nat × Byte) × Bool × ConvCount :=
  if f.isBlock then
    let masked := xs.zipIdx.map fun p => if on p.2 then p.1 else .zero
    let blocks := (blocksOf masked).zipIdx.map fun p =>
      if (List.range 16).any (fun i => 16 * p.2 + i < xs.length && on (16 * p.2 + i)) then some p.1 else none
    let r := blockRow f b blocks draw
    (r.1, r.2, blockCount f xs.length blocks draw)
  else
    let (k, w) := match f with | .fp16 => (fpk16, 2) | .bf16 => (fpkB, 2) | _ => (fpk32, 4)
    xs.zipIdx.foldl (fun acc p =>
      if on p.2 then
        let y := convertFp k (draw p.2) p.1
        (acc.1 ++ placed (w * p.2) (leBytes w (encodeFp k y)), acc.2.1, acc.2.2.add (fpCount y))
      else acc) ([], false, {})

end Sys2Proof.Machine
end

