-- ==== Sys2Proof/Machine/Mem.lean ====
section
/-!
DEFINITION. Stored words of T0, T1 and T2 with their correction (R173 to R178), claim addresses
(R147 to R154), access checks (R344, R345), and the start and assignment of hoists (R158 to R160).
-/
namespace Sys2Proof.Machine
open Sys2Proof

/-! ### Where a stored word lies -/

/-- A memory with its number: the T0 of a face, T1, or T2. -/
inductive Loc | t0 (f : Nat) | t1 | t2
deriving DecidableEq, Repr

/-- 8-byte words of T0, T1 and T2 (R145), and of a page (R147). -/
def t0Words : Nat := 1048576
def pageWords : Nat := 262144
/-- The canonical form of memory: the words of every tier and the bytes of host memory. -/
def Memory.wf (s : State) : Bool :=
  Tab.wf 0 s.t1 && Tab.wf 0 s.t2 && Tab.wf 0 s.host && s.faces.all fun e => Tab.wf 0 e.2.t0
/-- The canonical form of every table of the state. -/
def State.canonical (s : State) : Bool :=
  Memory.wf s && Tab.wf {} s.faces && Tab.wf {} s.claims && Tab.wf {} s.streams && Tab.wf {} s.tallies && Tab.wf {} s.rings &&
  Tab.wf {} s.outqs && Tab.wf {} s.fns && Tab.wf {} s.msix && Tab.wf {} s.shafts && Tab.wf 0 s.routes && Tab.wf none s.rxctx &&
  Tab.wf 0 s.fabric

def memTab (s : State) : Loc → Tab W80
  | .t0 f => (face s f).t0 | .t1 => s.t1 | .t2 => s.t2
def setMem (s : State) (l : Loc) (t : Tab W80) : State :=
  match l with
  | .t0 f => setFace s f { face s f with t0 := t }
  | .t1 => { s with t1 := t }
  | .t2 => { s with t2 := t }
/-- What an unwritten word differs by from 0 where T0 has lost its contents (R412). -/
def lostBits (s : State) (l : Loc) (i : Nat) : W80 :=
  match l with
  | .t0 f => (match (face s f).lost with | some n => Config.lostWord n i | none => 0)
  | .t1 => 0 | .t2 => 0
/-- The controller of a T2 word (R157). -/
def t2Ctl (i : Nat) : Nat := i / pageWords / 512 / 256
/-- A word of T2 lies on a fenced controller, whose every word reads poisoned (R466). -/
def isFenced (s : State) : Loc → Nat → Bool
  | .t2, i => s.fenced.contains (t2Ctl i)
  | .t1, _ => false | .t0 _, _ => false
/-- The stored word that a read meets. -/
def memWord (s : State) (l : Loc) (i : Nat) : W80 :=
  if isFenced s l i then storeP ⟨0, true⟩ else Tab.get 0 (memTab s l) i ^^^ lostBits s l i
def setWord (s : State) (l : Loc) (i : Nat) (w : W80) : State :=
  setMem s l (Tab.set 0 (memTab s l) i (w ^^^ lostBits s l i))
/-- The word that a read of memory returns. -/
def readWord (s : State) (l : Loc) (i : Nat) : PWord := readP (memWord s l i)
def putWord (s : State) (l : Loc) (i : Nat) (w : PWord) : State := setWord s l i (storeP w)
/-- The stack of a T1 word (R155). -/
def t1Stack (i : Nat) : Nat := i / pageWords / 32768
/-- Channel of its stack in which a word of T1 lies: 32 in each quarter, in turn every 512 bytes of a frame (R155). -/
def t1Channel (i : Nat) : Nat := 32 * (i / pageWords % 32768 / 8192) + i % pageWords / 64 % 32
/-- Claim that owns the granule of a word, or the face (R344). -/
def wordClaim (s : State) : Loc → Nat → Option Nat
  | .t0 f, _ => faceClaim s f
  | .t1, i => (List.range 8).find? fun c => ownsT1 (claim s c) (i / pageWords / 512)
  | .t2, i => (List.range 8).find? fun c => ownsT2 (claim s c) (i / pageWords / 512)

/-! ### Reading corrects (R174, R175, R178) -/

/-- Syndrome, parity and flipped positions of a stored word, for the record of R475. -/
def eccDetail (w : W80) : Nat × Nat :=
  let n := w.toNat
  let s := polyRem 65 ((n % 2 ^ 65) * 2 ^ 14 + n / 2 ^ 65 % 2 ^ 14)
  let x := (w ^^^ (decode80 w).1).toNat
  let ps := (List.range 80).filter fun k => x.testBit (if k = 79 then 79 else codeBit k)
  (s + at' (parityF 80 n) 14, ps.getD 0 0 + at' (ps.getD 1 0) 8)
/-- The record of a word found with errors: class, KIND and advice given. -/
def eccRec (s : State) (l : Loc) (i cls kind advice : Nat) : SumpRec :=
  let d := eccDetail (memWord s l i)
  let base : SumpRec := { cls := cls, unit := 1, kind := kind, advice := advice, claim := wordClaim s l i, addr := 8 * i, d4 := d.1, d5 := d.2 }
  match l with
  | .t0 f => { base with inst := f, tier := 0 }
  | .t1 => { base with unit := 2, inst := t1Stack i, tier := 1 }
  | .t2 => { base with unit := 5, inst := t2Ctl i, tier := 2 }
/-- The frame tracker after one corrected word of `n` bits: whether retirement is advised. When it is full, the frame with
the lowest count goes; among several of that count, which R178 does not order, the one tracked longest (log 41). -/
def trackWord (u : Sump) (tier i n : Nat) : Sump × Bool :=
  let key := (tier, i / pageWords)
  let old := u.track.find? fun e => e.1 == key
  let (cnt, seen) := match old with | some e => e.2 | none => (0, [])
  let rest := u.track.filter fun e => e.1 != key
  let low := rest.foldl (fun a e => min a e.2.1) (2 ^ 64)
  let rest := if 1024 ≤ rest.length then
    (match rest.find? (fun e => e.2.1 == low) with | some e => rest.erase e | none => rest) else rest
  let advise := cnt + 1 == 16 || (n == 2 && seen.contains i)
  ({ u with track := rest ++ [(key, cnt + 1, if seen.contains i then seen else i :: seen)] }, advise)
/-- The device of a T2 controller on whose lanes all bits lie that the correction of a word changed: 16 bits of every word lie on each
of the five (R146). None when they lie on two. -/
def errDevice (old new : W80) : Option Nat :=
  let x := (old ^^^ new).toNat
  (List.range 5).find? fun d => x / 2 ^ (16 * d) * 2 ^ (16 * d) == x && decide (x < 2 ^ (16 * d + 16))
/-- A word of T2 found with errors counts toward the fence of its controller for 1 ms (R466). DEDUCED (log 41): one beyond correction,
whose erroneous bits are not known, counts for every device. -/
def countT2 (s : State) (l : Loc) (i : Nat) (dev : Option Nat) : State :=
  match l, dev with
  | .t2, some d => { s with t2Errs := (s.t2Errs.filter fun e => decide (s.time < e.2.2 + 1000000)) ++ [(t2Ctl i, d, s.time)] }
  | _, _ => s
/-- The claim in whose system frames a word of T1 lies (R28, R469). -/
def sysClaim (s : State) (l : Loc) (i : Nat) : Option Nat :=
  match l with | .t1 => (liveClaims s).find? fun c => (claim s c).sys.contains (i / pageWords) | _ => none
/-- What the reading of one stored word does beside returning it: a corrected word is written back with
a corrected record, and an uncorrectable one is written back poisoned with a request-fatal record; one in a claim's system frames
ends that claim with a claim-fatal record (R469). -/
def noteWord (s : State) (l : Loc) (i : Nat) : State :=
  match decode80 (memWord s l i) with
  | (_, .clean) => s
  | (w, .fixed n) =>
    let r := eccRec s l i 0 n 0
    let s := countT2 s l i (errDevice (memWord s l i) w)
    let s := postSump (setWord s l i w) r
    match l with
    | .t0 _ => s
    | _ =>
      let t := trackWord s.sump r.tier i n
      let s := { s with sump := t.1 }
      if t.2 then postSump s { r with advice := 1 } else s
  | (_, .bad) =>
    let r := eccRec s l i 1 3 0
    let s := countT2 s l i (some 5)
    match sysClaim s l i with
    | none => postSump (putWord s l i ⟨0, true⟩) r
    | some c =>
      let t := putWord s l i ⟨0, true⟩
      postSump { t with foul := (c, stPoisonRead) :: t.foul } { r with cls := 2, claim := some c, status := stPoisonRead }
/-- The same for a run of words. -/
def noteRun (s : State) (l : Loc) (i n : Nat) : State :=
  (List.range n).foldl (fun s k => noteWord s l (i + k)) s

/-! ### Writing bytes (R109, R175) -/

/-- Bytes at their addresses, gathered into (mask, data) of each 8-byte word; a later byte wins. -/
def gatherBytes (l : List (Nat × Byte)) : Tab (Nat × Nat) :=
  l.foldl (fun t p =>
    let k := p.1 / 8
    let sh := 8 * (p.1 % 8)
    let (m, d) := Tab.get (0, 0) t k
    let hole := 2 ^ 64 - 1 - (255 <<< sh)
    Tab.set (0, 0) t k (m ||| (255 <<< sh), (d &&& hole) ||| (p.2.toNat <<< sh))) []
/-- A write of the masked bytes of one word: a whole word replaces, a part merges, and a merge into a
poisoned or uncorrectable word leaves it poisoned (R175). -/
def mergeWord (s : State) (l : Loc) (i : Nat) (m d : Nat) : State :=
  if m = 2 ^ 64 - 1 then putWord s l i ⟨w64 d, false⟩
  else
    let s := noteWord s l i
    let old := readWord s l i
    if old.poison then s else putWord s l i ⟨w64 ((old.data.toNat &&& (2 ^ 64 - 1 - m)) ||| d), false⟩
/-- Bytes written to one memory at physical addresses. -/
def storeBytes (s : State) (l : Loc) (bs : List (Nat × Byte)) : State :=
  (gatherBytes bs).foldl (fun s e => mergeWord s l e.1 e.2.1 e.2.2) s
/-- Bytes of a run of words. -/
def runBytes (s : State) (l : Loc) (a n : Nat) : List Byte :=
  let ws := (List.range ((a + n + 7) / 8 - a / 8)).map fun k => (readWord s l (a / 8 + k)).data
  ((wordsBytes ws).drop (a % 8)).take n
/-- Some word that the bytes touch is poisoned or uncorrectable. -/
def runPoison (s : State) (l : Loc) (a n : Nat) : Bool :=
  n != 0 && (List.range ((a + n + 7) / 8 - a / 8)).any fun k => (readWord s l (a / 8 + k)).poison
def noteBytes (s : State) (l : Loc) (a n : Nat) : State :=
  if n = 0 then s else noteRun s l (a / 8) ((a + n + 7) / 8 - a / 8)

/-! ### Claim addresses (R147, R154, R344) -/

def hasFrame (p : Pte) : Bool :=
  match p.state with | .t1 => true | .hoisting => true | .clean => true | .dirty => true | .writeback => true | _ => false
def resident (p : Pte) : Bool :=
  match p.state with | .t1 => true | .clean => true | .dirty => true | _ => false
/-- Pages that a range of bytes touches. -/
def pagesOf (va n : Nat) : List Nat :=
  if n = 0 then [] else (List.range ((va + n - 1) / 2097152 + 1 - va / 2097152)).map fun k => va / 2097152 + k
/-- Who asks: the device itself, or a request with its tenant (R154). -/
inductive Who | device | request (tenant : Option Nat)
deriving DecidableEq, Repr
/-- Outcome of the checks on an access. -/
inductive Reach | ok | bad (status : Nat) | absent (pages : List Nat)
deriving DecidableEq, Repr
/-- The checks on one page: mapping, tenant, residence, ownership tag. -/
def pageCheck (k : Claim) (w : Who) (p : Nat) : Reach :=
  let e := pte k p
  if e.state = .unmapped then .bad stAddrUnmapped else
  let o := obj k e.obj
  let denied := o.priv && (match w with | .device => false | .request t => t != some o.tenant)
  if denied then .bad stTenantDenied
  else if !resident e then .absent [p]
  else if !ownsT1 k (e.t1f / 512) then .bad stOwnerFault
  else .ok
/-- The checks on a range: the first failing page decides, else every page that is not resident. -/
def access (k : Claim) (w : Who) (va n : Nat) : Reach :=
  (pagesOf va n).foldl (fun a p => match a, pageCheck k w p with
    | .bad x, _ => .bad x
    | _, .bad x => .bad x
    | .absent l, .absent m => .absent (l ++ m)
    | .absent l, .ok => .absent l
    | .ok, b => b) .ok
/-- Physical word of a claim word. -/
def physWord (k : Claim) (w : Nat) : Nat := (pte k (w / pageWords)).t1f * pageWords + w % pageWords
def vaWord (s : State) (c w : Nat) : PWord := readWord s .t1 (physWord (claim s c) w)
/-- Words of a claim range that is resident. -/
def vaWords (s : State) (c va n : Nat) : List PWord := (List.range n).map fun i => vaWord s c (va / 8 + i)
def noteVa (s : State) (c va n : Nat) : State :=
  if n = 0 then s else
  (List.range ((va + n + 7) / 8 - va / 8)).foldl (fun s i => noteWord s .t1 (physWord (claim s c) (va / 8 + i))) s
/-- Words of a claim range as they are read: errors are put right and recorded (R174, R175), where the range can be read. -/
def noteRead (s : State) (c va n : Nat) : State :=
  match access (claim s c) .device va n with | .ok => noteVa s c va n | _ => s
def noteAll (s : State) (c : Nat) (spans : List (Nat × Nat)) : State := spans.foldl (fun s p => noteRead s c p.1 p.2) s
/-- Bytes of a claim range that is resident; none when a word is poisoned (R176). -/
def vaBytes (s : State) (c va n : Nat) : Option (List Byte) :=
  if n = 0 then some [] else
  let ws := vaWords s c (va / 8 * 8) ((va + n + 7) / 8 - va / 8)
  if ws.any (·.poison) then none else some (((wordsBytes (ws.map (·.data))).drop (va % 8)).take n)
/-- A write makes a CLEAN page DIRTY (R150). -/
def dirtyPage (k : Claim) (p : Nat) : Claim :=
  let e := pte k p
  if e.state = .clean then setPte k p { e with state := .dirty } else k
def dirtyRange (s : State) (c va n : Nat) : State :=
  setClaim s c ((pagesOf va n).foldl dirtyPage (claim s c))
/-- Whole words written to a claim range that is resident. -/
def vaPut (s : State) (c va : Nat) (ws : List PWord) : State :=
  let s := dirtyRange s c va (8 * ws.length)
  ws.zipIdx.foldl (fun s p => putWord s .t1 (physWord (claim s c) (va / 8 + p.2)) p.1) s
/-- Bytes written to a claim range that is resident. -/
def vaStore (s : State) (c va : Nat) (bs : List Byte) : State :=
  let s := dirtyRange s c va bs.length
  let l := (gatherBytes (bs.zipIdx.map fun p => (va + p.2, p.1))).map fun e => (physWord (claim s c) e.1, e.2)
  l.foldl (fun s e => mergeWord s .t1 e.1 e.2.1 e.2.2) s
def vaStoreWords (s : State) (c va : Nat) (ws : List W64) : State := vaStore s c va (wordsBytes ws)
/-- An object's first byte, and its length in bytes. -/
def objBase (k : Claim) (o : Nat) : Nat := (obj k o).base * 2097152
def objBytes (k : Claim) (o : Nat) : Nat := (obj k o).pages * 2097152

/-! ### Hoists (R158 to R160) -/

/-- Frames in quarter q of the device (near-bank unit number), and under bench b (R155, R21). -/
def frameQuarter (f : Nat) : Nat := f / 8192
def frameBench (f : Nat) : Nat := f / 98304
/-- The frame that R159 takes for a hoist. -/
def chooseFrame (free : List Nat) (h : Hoist) : Option Nat :=
  match h.quarter with
  | some q => free.find? fun f => frameQuarter f == q
  | none =>
    match h.bench.bind (fun b => free.find? fun f => frameBench f == b) with
    | some f => some f
    | none => free.head?
/-- Bench of the controller that holds a T2 frame (R157). -/
def t2Bench (f : Nat) : Nat := f / 512 / 512
/-- One pass over the hoists in arrival order: a frame is taken where one is free, then the
lowest-numbered idle engine of the controller's bench (R159). -/
def assignHoists (s : State) : State :=
  let r := s.hoists.foldl (fun (acc : State × List Hoist) h =>
    let s := acc.1
    let k := claim s h.claim
    let e := pte k h.page
    let (s, h) :=
      if h.back || h.frame.isSome then (s, h) else
      match chooseFrame k.free h with
      | none => (s, h)
      | some f =>
        let k := setPte { k with free := k.free.erase f } h.page { e with t1f := f }
        (setClaim s h.claim k, { h with frame := some f })
    let busy := (acc.2 ++ s.hoists).filterMap (·.engine)
    let b := t2Bench e.t2f
    let idle := ((List.range 4).map (4 * b + ·)).find? fun n => !busy.contains n
    let h := if h.engine.isNone && (h.back || h.frame.isSome) then { h with engine := idle } else h
    (s, acc.2 ++ [h])) (s, [])
  { r.1 with hoists := r.2 }
/-- One hoist of a page in state T2 started by access `init`, or the present one joined; a page in WRITEBACK is
hoisted anew once it reaches T2 (R158). -/
def startHoist (s : State) (c p : Nat) (bench quarter : Option Nat) (near : Bool) (init : Nat) : State :=
  let k := claim s c
  let e := pte k p
  match e.state with
  | .t2 =>
    let s := setClaim s c (setPte k p { e with state := .hoisting, t1f := 0 })
    let h : Hoist := { claim := c, page := p, back := false, near := near, engine := none, frame := none
                       bench := bench, quarter := quarter, doomed := false, again := false, cmd := none, init := init }
    assignHoists { s with hoists := s.hoists ++ [h] }
  | .writeback =>
    { s with hoists := s.hoists.map fun h =>
        if h.claim = c ∧ h.page = p ∧ !h.again then
          { h with again := true, bench := bench, quarter := quarter, near := near, init := init } else h }
  | _ => s
/-- Bench of the face of a waiting access (R159). -/
def waiterBench : Waiter → Option Nat | .dma f _ => some (f / 32) | _ => none
/-- An access that stalls on a page: its deadline runs from now (R158, R162). -/
def waitFor (s : State) (c p : Nat) (who : Waiter) (bench quarter : Option Nat) : State :=
  let (n, s) := freshId s
  let w : Wait := { id := n, claim := c, page := p, since := s.time, who := who }
  startHoist { s with waits := s.waits ++ [w] } c p bench quarter quarter.isSome n
def addWait (s : State) (c p : Nat) (who : Waiter) : State := waitFor s c p who (waiterBench who) none
/-- The same for one that may already be waiting. -/
def waiting (s : State) (c p : Nat) (who : Waiter) : Bool := s.waits.any fun w => w.claim == c && w.page == p && w.who == who
def stallOn (s : State) (c p : Nat) (who : Waiter) : State := if waiting s c p who then s else addWait s c p who
/-- The same for pages that an engine of a face waits for: a frame under its bench is taken first (R159). -/
def stallFace (s : State) (c f : Nat) (ps : List Nat) (who : Waiter) : State :=
  ps.foldl (fun s p => if waiting s c p who then s else waitFor s c p who (some (f / 32)) none) s
def stallAll (s : State) (c : Nat) (ps : List Nat) (who : Waiter) : State :=
  ps.foldl (fun s p => stallOn s c p who) s

/-- What a failed check does beside blocking its access: a failed ownership check has its claim-fatal record, and the claim
ends with the command (R345). -/
def blocked (s : State) (c status : Nat) : State :=
  if status = stOwnerFault then
    postSump { s with foul := (c, stOwnerFault) :: s.foul } { cls := 2, unit := 0x0B, inst := 0, kind := 8, claim := some c, status := stOwnerFault }
  else s
/-- Words of structures that the device reads in its own sequencing: errors are put right and recorded (R174, R175), and a failed
ownership check has its record (R345). -/
def readSpan (s : State) (c va n : Nat) : State :=
  match access (claim s c) .device va n with | .ok => noteVa s c va n | .bad x => blocked s c x | .absent _ => s
def readSpans (s : State) (c : Nat) (spans : List (Nat × Nat)) : State := spans.foldl (fun s p => readSpan s c p.1 p.2) s
/-- Bytes of one page stored: at once, or once the page is resident; a failed check drops them (R512). -/
def storePage (s : State) (c : Nat) (t : Option Nat) (va : Nat) (bs : List Byte) : State :=
  match access (claim s c) (.request t) va bs.length with
  | .ok => vaStore s c va bs
  | .bad n => blocked s c n
  | .absent l => addWait s c (l.headD 0) (.store t va bs)
/-- Bytes of a range stored page by page. -/
def storeLater (s : State) (c : Nat) (t : Option Nat) (va : Nat) (bs : List Byte) : State :=
  (pagesOf va bs.length).foldl (fun s p =>
    let lo := max va (2097152 * p)
    let hi := min (va + bs.length) (2097152 * (p + 1))
    storePage s c t lo ((bs.drop (lo - va)).take (hi - lo))) s

/-! ### The canary table (R205) -/

/-- Counts added to a tensor's record: four counters that stay at 2^64 - 1. A poisoned word stays poisoned. -/
def countsPut (s : State) (c va : Nat) (n : List Nat) : State :=
  let ws := vaWords s c va 4
  let s := noteVa s c va 32
  vaPut s c va (ws.zipIdx.map fun p => if p.1.poison then p.1 else ⟨w64 (sat64 (p.1.data.toNat + n.getD p.2 0)), false⟩)
/-- Counts of conversions under a tensor id in mode B, once the record is resident (R205, R512). -/
def countsAdd (s : State) (c t : Nat) (n : List Nat) : State :=
  if fld (claim s c).canary 1 0 ≠ 2 ∨ 4096 ≤ t ∨ n.all (· == 0) then s else
  match (claim s c).canTab with
  | none => s
  | some a =>
    match access (claim s c) (.request none) (a + 32 * t) 32 with
    | .ok => countsPut s c (a + 32 * t) n
    | .bad n => blocked s c n
    | .absent l => addWait s c (l.headD 0) (.counts t n)

/-- Frames returned to a claim's free-frame set (R150, R160); waiting hoists may take them. -/
def freeFrame (k : Claim) (f : Nat) : Claim := { k with free := insSorted f k.free }

end Sys2Proof.Machine
end

