-- ==== Sys2Proof/Machine/Repair.lean ====
section
/-!
DEFINITION. Leaves of weight objects: which object lies at an address, marked leaves, and the start of a
weight repair (R327).
-/
namespace Sys2Proof.Machine
open Sys2Proof

/-- 8-byte words of a leaf, and leaves of a page (R320). -/
def leafWords : Nat := 8192
/-- Object of a claim address. -/
def objAt (k : Claim) (va : Nat) : Nat := (pte k (va / 2097152)).obj
/-- An address lies in an object of a PERMUTE set whose data moves (R259). -/
def permuting (k : Claim) (va : Nat) : Bool :=
  match k.pset with | some p => p.phase != 0 && p.objs.contains (objAt k va) | none => false
/-- Words as a slice reads or writes them: in such an object every one is a free value (R259). -/
def sliceWords (s : State) (c va : Nat) (ws : List PWord) : State × List PWord :=
  ws.zipIdx.foldl (fun a p =>
    if permuting (claim s c) (va + 8 * p.2) then let (v, t) := freeValue a.1; (t, a.2 ++ [⟨v, false⟩]) else (a.1, a.2 ++ [p.1])) (s, [])
/-- Whole words that a slice writes to a claim range that is resident. -/
def slicePut (s : State) (c va : Nat) (ws : List PWord) : State :=
  let r := sliceWords s c va ws; vaPut r.1 c va r.2
/-- Leaf of an address within its object. -/
def leafAt (k : Claim) (va : Nat) : Nat := (va - objBase k (objAt k va)) / 65536
/-- The object is listed by a READY, CURRENT or DRAINING slot. -/
def isWeight (k : Claim) (o : Nat) : Bool :=
  (List.range 4).any fun n =>
    let v := ver k n
    (match v.state with | .ready => true | .current => true | .draining => true | _ => false) && v.entries.any (·.obj == o)
def leafMarked (k : Claim) (o leaf : Nat) : Bool := k.markAll.contains o || k.marked.contains (o, leaf)
/-- Leaves (by their first address) that a span touches. -/
def leavesOf (va n : Nat) : List Nat :=
  if n = 0 then [] else (List.range ((va + n - 1) / 65536 + 1 - va / 65536)).map fun i => (va / 65536 + i) * 65536
/-- A read of the spans touches a marked leaf. -/
def touchesMarked (k : Claim) (spans : List (Nat × Nat)) : Bool :=
  !(k.marked.isEmpty && k.markAll.isEmpty) &&
  spans.any fun p => (leavesOf p.1 p.2).any fun a => (pte k (a / 2097152)).state != .unmapped && leafMarked k (objAt k a) (leafAt k a)
/-- Pages on which the spans touch a leaf under repair: readers of such a leaf wait for that repair (R327). -/
def mendPages (k : Claim) (spans : List (Nat × Nat)) : List Nat :=
  if k.repairs.isEmpty then [] else
  ((spans.flatMap fun p => leavesOf p.1 p.2).filter fun a => k.repairs.contains (objAt k a, leafAt k a)).map (· / 2097152) |>.eraseDups
/-- First claim word of a leaf. -/
def leafWord (k : Claim) (o leaf : Nat) : Nat := (objBase k o + 65536 * leaf) / 8
/-- A leaf written poisoned where it lies in T1; the page keeps its state. -/
def poisonLeaf (s : State) (c o leaf : Nat) : State :=
  let k := claim s c
  let w := leafWord k o leaf
  let i := physWord k w
  { s with t1 := (List.range leafWords).foldl (fun t n => Tab.set 0 t (i + n) (storeP ⟨0, true⟩)) s.t1 }
/-- The repair of a leaf starts, once for all its readers. -/
def startRepair (s : State) (c o leaf : Nat) : State :=
  let k := claim s c
  if k.repairs.contains (o, leaf) then s
  else
    let s := poisonLeaf s c o leaf
    setClaim s c { claim s c with repairs := (claim s c).repairs ++ [(o, leaf)]
                                  repairAt := (claim s c).repairAt ++ [(o, leaf, s.time)] }
/-- Leaves that need a repair among the words of spans that are resident: a poisoned word in a weight object. -/
def badLeaves (s : State) (c : Nat) (spans : List (Nat × Nat)) : List (Nat × Nat) :=
  let k := claim s c
  (spans.flatMap fun p =>
    ((List.range ((p.1 + p.2 + 7) / 8 - p.1 / 8)).filterMap fun i =>
      let w := p.1 / 8 + i
      if (vaWord s c w).poison && isWeight k (objAt k (8 * w)) then some (objAt k (8 * w), leafAt k (8 * w)) else none)).eraseDups

end Sys2Proof.Machine
end

