-- ==== Sys2Proof/Machine/Layouts.lean ====
section
/-!
DEFINITION. What collectives move (R241 to R251): claim memory read by the device's own work, element
runs as they are stored, layout descriptors, part tables, expert maps and route lists.
-/
namespace Sys2Proof.Machine
open Sys2Proof

/-! ### Reading claim memory -/

/-- What a read by the device's work gives: a value, a status, or the pages it must wait for (R511, R512). -/
inductive Got (α : Type) | ok (a : α) | bad (status : Nat) | absent (pages : List Nat)
deriving DecidableEq, Repr

def bindGot {α β : Type} (x : Got α) (f : α → Got β) : Got β :=
  match x with | .ok a => f a | .bad n => .bad n | .absent l => .absent l
def mapGot {α β : Type} (x : Got α) (f : α → β) : Got β := bindGot x fun a => .ok (f a)
/-- A status of 0 goes on; any other ends the read. -/
def guardGot {α : Type} (status : Nat) (x : Got α) : Got α := if status = 0 then x else .bad status
/-- Spans of claim memory that may be read: a marked leaf ends the read, and one under repair makes it wait (R327). -/
def leavesGood (k : Claim) (spans : List (Nat × Nat)) : Got Unit :=
  if touchesMarked k spans then .bad stWeightPoisoned
  else match mendPages k spans with | [] => .ok () | ps => .absent ps
/-- Bytes of a claim range that is resident; a marked leaf (R327) or a poisoned word (R176) ends the read. -/
def goodBytes (s : State) (c va n : Nat) : Got (List Byte) :=
  bindGot (leavesGood (claim s c) [(va, n)]) fun _ => match vaBytes s c va n with | some bs => .ok bs | none => .bad stPoisonRead
/-- Words of a claim range as the headframe reads them (R176, R327). -/
def rdWords (s : State) (c va n : Nat) : Got (List W64) :=
  match access (claim s c) (.request none) va (8 * n) with
  | .ok => mapGot (goodBytes s c va (8 * n)) bytesWords
  | .bad x => .bad x
  | .absent l => .absent l
/-- All of the spans are mapped and resident. -/
def spansOk (s : State) (c : Nat) (spans : List (Nat × Nat)) : Got Unit :=
  spans.foldl (fun a p => match a, access (claim s c) (.request none) p.1 p.2 with
    | .bad x, _ => .bad x
    | _, .bad x => .bad x
    | .absent l, .absent m => .absent (l ++ m)
    | .absent l, .ok => .absent l
    | .ok _, .absent m => .absent m
    | .ok a, .ok => .ok a) (.ok ())

/-! ### Element runs as they are stored (R41, R47, R49) -/

/-- The smallest part of an element that is moved: 4 bits for INT4, a byte for every other format. -/
def atomW (f : Fmt) : Nat := if f = .int4 then 4 else 8
/-- Elements of a unit: a block of V8 or V4, else one element. -/
def unitElems (f : Fmt) : Nat := if f.isBlock then 16 else 1
def unitsOf (f : Fmt) (n : Nat) : Nat := ceilDiv n (unitElems f)
/-- Bit offsets of the elements, and of the seam, of unit u of a run. -/
def unitBody (f : Fmt) (u : Nat) : List Nat :=
  match f with
  | .int4 => [4 * u]
  | .v8 => (List.range 16).map fun i => 8 * ((slotAt f u).1 + i)
  | .v4 => (List.range 8).map fun i => 8 * ((slotAt f u).1 + i)
  | _ => (List.range (f.bits / 8)).map fun i => f.bits * u + 8 * i
def unitSeam (f : Fmt) (u : Nat) : List Nat := if f.isBlock then [8 * (slotAt f u).2] else []
def unitOffs (f : Fmt) (u : Nat) : List Nat := unitBody f u ++ unitSeam f u
/-- Bit offsets of `n` units from unit `u0` on, in the order in which a run of n units from unit 0 stores them. -/
def runOffs (f : Fmt) (u0 n : Nat) : List Nat :=
  (chunks 8 (List.range n)).flatMap fun us =>
    us.flatMap (fun u => unitBody f (u0 + u)) ++ us.flatMap fun u => unitSeam f (u0 + u)
/-- Bytes of a run of n elements. -/
def runLen (f : Fmt) (n : Nat) : Nat :=
  if f.isBlock then ((rowSpans f 0 n).map fun p => p.1 + p.2).foldl max 0 else ceilDiv (n * f.bits) 8

/-- An atom with its poison. -/
abbrev Atom := Nat × Bool
def rdAtom (s : State) (c w a : Nat) : Atom :=
  let p := vaWord s c (a / 64)
  ((p.data.toNat >>> (a % 64)) % 2 ^ w, p.poison)
/-- Words of a run of bytes on the links: atoms packed, and a word poisoned by any of its atoms. -/
def packAtoms (w : Nat) (as : List Atom) : List PWord :=
  (chunks (64 / w) as).map fun c =>
    { data := w64 (c.zipIdx.foldl (fun n p => n + p.1.1 <<< (w * p.2)) 0), poison := c.any Prod.snd }
def unpackAtoms (w : Nat) (ws : List PWord) : List Atom :=
  ws.flatMap fun p => (List.range (64 / w)).map fun i => ((p.data.toNat >>> (w * i)) % 2 ^ w, p.poison)
/-- An atom to be stored: bit address, value, poison. -/
abbrev Put := Nat × Atom
/-- Atoms stored in claim memory: a word that a poisoned atom touches becomes poisoned (R175). -/
def vaPutAtoms (s : State) (c w : Nat) (ps : List Put) : State :=
  let t : Tab (Nat × Nat × Bool) := ps.foldl (fun t p =>
    let k := p.1 / 64
    let sh := p.1 % 64
    let (m, d, x) := Tab.get (0, 0, false) t k
    let field := (2 ^ w - 1) <<< sh
    Tab.set (0, 0, false) t k (m ||| field, (d &&& (2 ^ 64 - 1 - field)) ||| (p.2.1 % 2 ^ w) <<< sh, x || p.2.2)) []
  t.foldl (fun s e =>
    let s := setClaim s c (dirtyPage (claim s c) (e.1 / pageWords))
    let i := physWord (claim s c) e.1
    if e.2.2.2 then putWord s .t1 i ⟨0, true⟩ else mergeWord s .t1 i e.2.1 e.2.2.1) s
/-- Byte spans that bit addresses touch, word by word. -/
def atomSpans (as : List Nat) : List (Nat × Nat) :=
  ((as.map fun a => a / 64).eraseDups).map fun w => (8 * w, 8)

/-- Atoms past the `n` units of a stored run: an odd INT4 run ends in an element of value 0, and a run of blocks in zero
blocks up to a whole seam group (R41, R49). -/
def padPuts (f : Fmt) (base n : Nat) : List Put :=
  let offs := match f with
    | .int4 => if n % 2 = 1 then unitOffs f n else []
    | .v8 => (List.range (8 * ceilDiv n 8 - n)).flatMap fun i => unitOffs f (n + i)
    | .v4 => (List.range (8 * ceilDiv n 8 - n)).flatMap fun i => unitOffs f (n + i)
    | _ => []
  offs.map fun o => (8 * base + o, (0, false))
/-- A V8 or V4 value widened to FP32 (R45). -/
def widen (v : Xr) : Xr := x32 (r32 v)
/-- Values of one unit's atoms, those of a block widened to FP32. -/
def unitVals (f : Fmt) (as : List Nat) : List Xr :=
  let n := as.foldr (fun a r => a + 256 * r) 0
  match f with
  | .fp32 => [decodeFp fpk32 n]
  | .int32 => [.ofInt (sext n 32)]
  | .fp16 => [decodeFp fpk16 n]
  | .bf16 => [decodeFp fpkB n]
  | .int8 => [.ofInt (sext n 8)]
  | .int4 => [.ofInt (sext n 4)]
  | .v8 => (as.take 16).map fun b => widen (v8Val (as.getD 16 0) b)
  | .v4 => ((as.take 8).flatMap fun b => [b % 16, b / 16]).map fun q => widen (v4Val (as.getD 8 0) q)
/-- Atoms of one unit converted from its values, a block padded with zeros (R47, R52, R56, R57). -/
def unitAtoms (f : Fmt) (xs : List Xr) (draw : Nat → Option Nat) : List Nat :=
  let flt := fun k w => (leBytes w (encodeFp k (convertFp k (draw 0) (xs.headD .zero)))).map (·.toNat)
  match f with
  | .fp32 => flt fpk32 4
  | .fp16 => flt fpk16 2
  | .bf16 => flt fpkB 2
  | .v8 => let r := convertBlock f (xs ++ List.replicate (16 - xs.length) .zero) draw; r.2 ++ [r.1]
  | .v4 =>
    let r := convertBlock f (xs ++ List.replicate (16 - xs.length) .zero) draw
    (packNibbles r.2).map (·.toNat) ++ [r.1]
  | _ => []

/-! ### Layout descriptors (R243, R244) -/

structure Extent where
  rank  : Nat
  base  : Nat
  start : List Nat
  len   : List Nat
deriving DecidableEq, Repr
structure Layout where
  /-- dimensions, 1 to 4. -/
  dims : Nat
  fmt  : Nat
  size : List Nat
  exts : List Extent
deriving DecidableEq, Repr

/-- The four 32-bit halves of two words, those at and beyond `d` replaced by `rest`. -/
def quad (d rest : Nat) (a b : W64) : List Nat :=
  [fld a 63 32, fld a 31 0, fld b 63 32, fld b 31 0].zipIdx.map fun p => if p.2 < d then p.1 else rest
def parseExtent (d : Nat) (ws : List W64) : Extent :=
  let w := fun n => ws.getD n 0
  { rank := fld (w 0) 63 52, base := fld (w 0) 47 0, start := quad d 0 (w 1) (w 2), len := quad d 1 (w 3) (w 4) }
/-- Reserved bits of a layout header and of an extent. -/
def headerReserved (ws : List W64) : Bool := fld (ws.getD 0 0) 57 32 != 0 || ws.getD 3 0 != 0
/-- A layout read from claim memory. -/
def readLayout (s : State) (c va : Nat) : Got Layout :=
  bindGot (rdWords s c va 4) fun h =>
    let w0 := h.getD 0 0
    let n := fld w0 31 0
    let d := fld w0 63 62 + 1
    if headerReserved h then .bad stReservedField
    else if n = 0 ∨ 1048576 < n then .bad stLayoutInvalid
    else bindGot (rdWords s c (va + 32) (5 * n)) fun ws =>
      let es := chunks 5 ws
      if es.any (fun e => fld (e.getD 0 0) 51 48 != 0) then .bad stReservedField
      else .ok { dims := d, fmt := fld w0 61 58, size := quad d 1 (h.getD 1 0) (h.getD 2 0), exts := es.map (parseExtent d) }

def prod (l : List Nat) : Nat := l.foldl (· * ·) 1
/-- Row-major digits of a number under the radices `l`. -/
def unflat : List Nat → Nat → List Nat
  | [], _ => []
  | _ :: l, n => n / prod l :: unflat l (n % prod l)
/-- Row-major number of coordinates. -/
def flat (l xs : List Nat) : Nat := (l.zip xs).foldl (fun n p => n * p.1 + p.2) 0
def inner (L : Layout) (l : List Nat) : Nat := l.getD (L.dims - 1) 0
def outer (L : Layout) (l : List Nat) : List Nat := l.take (L.dims - 1)
/-- A box lies inside the tensor, and has no empty side. -/
def extentIn (L : Layout) (e : Extent) : Bool :=
  ((L.size.zip e.start).zip e.len).all fun p => p.2 != 0 && p.1.2 + p.2 ≤ p.1.1
def boxesMeet (a b : Extent) : Bool :=
  ((a.start.zip a.len).zip (b.start.zip b.len)).all fun p => p.1.1 < p.2.1 + p.2.2 && p.2.1 < p.1.1 + p.1.2
def anyPair {α : Type} (r : α → α → Bool) : List α → Bool
  | [] => false
  | x :: xs => xs.any (r x) || anyPair r xs
def risingRanks : List Extent → Bool
  | a :: b :: t => a.rank ≤ b.rank && risingRanks (b :: t)
  | _ => true
/-- A box cuts the innermost dimension within a block: at its start, or at an end inside the tensor (R48, R244). -/
def cutsBlock (L : Layout) (e : Extent) : Bool :=
  let last := inner L e.start + inner L e.len
  inner L e.start % 16 != 0 || (last % 16 != 0 && last != inner L L.size)
/-- The checks of R244, in its order: 0, LAYOUT_INVALID or LAYOUT_SPLITS_BLOCK. -/
def layoutStatus (L : Layout) (fmtCode ranks : Nat) (f : Fmt) : Nat :=
  if L.fmt ≠ fmtCode ∨ L.size.any (· == 0) ∨ !L.exts.all (extentIn L) ∨ L.exts.any (fun e => ranks ≤ e.rank)
    ∨ !risingRanks L.exts ∨ anyPair (fun a b => a.rank == b.rank && boxesMeet a b) L.exts then stLayoutInvalid
  else if f.isBlock && L.exts.any (cutsBlock L) then stLayoutSplitsBlock
  else if f.isInt && L.exts.any (fun e => inner L e.start % 64 != 0
      || (2 ≤ L.dims && e.start.getD (L.dims - 2) 0 % 64 != 0)) then stLayoutSplitsBlock
  else 0
/-- Units of one row of a box, and rows of a box. -/
def rowUnits (L : Layout) (f : Fmt) (e : Extent) : Nat := unitsOf f (inner L e.len)
def boxRows (L : Layout) (e : Extent) : Nat := prod (outer L e.len)
/-- The units of a box in storage order: first coordinates, and how many elements. -/
def boxUnits (L : Layout) (f : Fmt) (e : Extent) : List (List Nat × Nat) :=
  (List.range (boxRows L e)).flatMap fun r =>
    let o := List.zipWith (· + ·) (outer L e.start) (unflat (outer L e.len) r)
    (List.range (rowUnits L f e)).map fun j =>
      (o ++ [inner L e.start + j * unitElems f], min (unitElems f) (inner L e.len - j * unitElems f))
/-- A unit lies in a box. -/
def boxHolds (L : Layout) (e : Extent) (u : List Nat × Nat) : Bool :=
  let p := fun i n => e.start.getD i 0 ≤ u.1.getD i 0 && u.1.getD i 0 + n ≤ e.start.getD i 0 + e.len.getD i 0
  (List.range (L.dims - 1)).all (fun i => p i 1) && p (L.dims - 1) u.2
/-- Number of a unit within a box that holds it. -/
def boxIndex (L : Layout) (f : Fmt) (e : Extent) (x : List Nat) : Nat :=
  flat (outer L e.len) (List.zipWith (· - ·) (outer L x) (outer L e.start)) * rowUnits L f e
    + (inner L x - inner L e.start) / unitElems f
/-- Bit addresses of a unit in its box. -/
def unitAt (L : Layout) (f : Fmt) (e : Extent) (x : List Nat) : List Nat :=
  (unitOffs f (boxIndex L f e x)).map (8 * e.base + ·)
/-- The tensor as one box at an address. -/
def wholeBox (L : Layout) (va : Nat) : Extent := { rank := 0, base := va, start := L.size.map fun _ => 0, len := L.size }
def rankExts (L : Layout) (r : Nat) : List Extent := L.exts.filter (·.rank == r)
/-- Logical index of coordinates (R53). -/
def logicalIx (L : Layout) (x : List Nat) : Nat := flat (L.size.take L.dims) x

/-! ### Part tables (R245) -/

/-- G, and (G0, N) by rank. -/
def readParts (s : State) (c va ranks : Nat) : Got (Nat × List (Nat × Nat)) :=
  bindGot (rdWords s c va (ranks + 1)) fun ws =>
    if fld (ws.getD 0 0) 31 0 ≠ 0 then .bad stReservedField
    else .ok (fld (ws.getD 0 0) 63 32, (ws.drop 1).map fun w => (fld w 63 32, fld w 31 0))
def insPart {α : Type} (p : (Nat × Nat) × α) : List ((Nat × Nat) × α) → List ((Nat × Nat) × α)
  | [] => [p]
  | q :: qs => if p.1.1 < q.1.1 then p :: q :: qs else q :: insPart p qs
/-- Parts in ascending g0. -/
def sortParts {α : Type} (ps : List ((Nat × Nat) × α)) : List ((Nat × Nat) × α) := ps.foldl (fun l p => insPart p l) []

/-! ### Expert maps and route lists (R249) -/

/-- E, ROW, and (rank, base) by expert. -/
structure Experts where
  row  : Nat
  ents : List (Nat × Nat)
deriving DecidableEq, Repr
def readExperts (s : State) (c va : Nat) : Got Experts :=
  bindGot (rdWords s c va 1) fun h =>
    let e := fld (h.getD 0 0) 63 32
    let row := fld (h.getD 0 0) 31 0
    if e = 0 ∨ 65536 < e ∨ row < 8 ∨ 65536 < row ∨ row % 8 ≠ 0 then .bad stRouteInvalid
    else mapGot (rdWords s c (va + 8) e) fun ws => { row := row, ents := ws.map fun w => (fld w 63 52, fld w 47 0) }
/-- A route entry. -/
structure Route where
  expert : Nat
  token  : Nat
  k      : Nat
  gate   : W32
  slot   : Nat
deriving DecidableEq, Repr
def parseRoute (ws : List W64) : Route :=
  let a := ws.getD 0 0
  let b := ws.getD 1 0
  { expert := fld a 63 48, token := fld a 47 24, k := fld a 2 0, gate := w32 (fld b 63 32), slot := fld b 31 0 }
/-- Reserved bits of route entries (R249). -/
def routeReserved (ws : List W64) : Bool := (chunks 2 ws).any fun e => fld (e.getD 0 0) 23 3 != 0
def parseRoutes (ws : List W64) : List Route := (chunks 2 ws).map parseRoute
/-- The errors of R249: an EXPERT at or above E, or two entries of one token with one K. -/
def routesOk (n : Nat) (rs : List Route) : Bool :=
  rs.all (fun r => r.expert < n) && !anyPair (fun a b : Route => a.token == b.token && a.k == b.k) rs
def residual : Nat := 0xFFFFFFFF
/-- Slots of R250: each rank's entries in rank order, numbered within their expert. -/
def giveSlots (cap : Nat) (lists : List (List Route)) : List (List Route) :=
  (lists.foldl (fun (acc : Tab Nat × List (List Route)) rs =>
    let r := rs.foldl (fun (a : Tab Nat × List Route) e =>
      let n := Tab.get 0 a.1 e.expert
      (Tab.set 0 a.1 e.expert (n + 1), a.2 ++ [{ e with slot := if n < cap then n else residual }])) (acc.1, [])
    (r.1, acc.2 ++ [r.2])) ([], [])).2

end Sys2Proof.Machine
end

