-- ==== Sys2Proof/Machine/Fec.lean ====
section
/-!
DEFINITION. Forward error correction on the fibres: the codewords RS(544,514) of the shafts (R267) and the shortened
RS(528,514) of the bell (R291), the symbols and lanes they travel in, and the burst of a bell slot (R290). A row says which
symbols of a codeword came wrong; a decoder that meets no more than it corrects gives the codeword that was sent. The manual
names the codes and their field GF(2^10), and neither the field's polynomial nor the generator: the check symbols are an
opaque function of the data symbols (log 70).
-/
namespace Sys2Proof.Machine
open Sys2Proof

/-- Symbols received wrong in a codeword of n symbols. -/
def wrongSymbols (n : Nat) (l : List Nat) : List Nat := (l.filter (· < n)).eraseDups
/-- A decoder that corrects t symbol errors recovers the codeword. -/
def rsGood (n t : Nat) (l : List Nat) : Bool := decide ((wrongSymbols n l).length ≤ t)
/-- Bits of a run of bytes, byte 0 and bit 0 first. -/
def streamBits (bs : List Byte) : List Bool := bs.flatMap fun b => (List.range 8).map b.getLsbD
/-- Ten-bit symbols of a bit stream: stream bit 10j + b is bit b of symbol j. -/
def bitSymbols (bs : List Bool) : List Nat :=
  (chunks 10 bs).map fun c => (c.zipIdx.map fun p => if p.1 then 2 ^ p.2 else 0).foldl (· + ·) 0
def symbolBits (y : Nat) : List Bool := (List.range 10).map y.testBit

/-! ### The bell (R290, R291) -/

/-- The 52 data symbols of a frame: its 64 bytes, then 8 zero bits. -/
def bellData (ws : List W64) : List Nat := bitSymbols (streamBits (wordsBytes (ws.take 8)) ++ List.replicate 8 false)
/-- The 66 symbols of a frame's codeword, data first; the 462 data symbols it is shortened by are 0. -/
def bellCodeword (ws : List W64) : List Nat := bellData ws ++ Config.rsCheck 14 (bellData ws)
/-- The codeword of a burst decodes: at most 7 symbols came wrong. -/
def bellFec (rx : BellRx) : Bool := rsGood 66 7 rx.wrong
def startWord : Nat := 0xB5E32C0749DA61F8
/-- What a transmitter sends in the 1,024 UI of a slot: none where it is dark (R290). -/
def bellBurst (ws : List W64) : List (Option Bool) :=
  let dark := fun n => List.replicate n (none : Option Bool)
  dark 160 ++ (List.range 128).map (fun i => some (i % 2 == 0)) ++ (List.range 64).map (fun i => some (startWord.testBit i)) ++
    ((bellCodeword ws).flatMap symbolBits).map some ++ dark 12

/-! ### The shafts (R267) -/

/-- The 544 symbols of a codeword. -/
def shaftCodeword (data : List Nat) : List Nat := data ++ Config.rsCheck 30 data
/-- Active lanes in order: eight at full width, four at half width. -/
def activeLanes (x : Shaft) : List Nat :=
  match x.state with
  | .half => if x.halfSel then [4, 5, 6, 7] else [0, 1, 2, 3]
  | _ => if x.toHalf && x.locked then (if x.halfSel then [4, 5, 6, 7] else [0, 1, 2, 3]) else [0, 1, 2, 3, 4, 5, 6, 7]
/-- The lane that symbol j travels on. -/
def symbolLane (x : Shaft) (j : Nat) : Nat := let l := activeLanes x; l.getD (j % l.length) 0
/-- Data bits of a codeword, and bits of a flit. -/
def cwBits : Nat := 5140
def flitBits : Nat := 2048
/-- Subtype of a CTRL flit (*CTRL subtypes*), and the numbers that it carries. -/
def ctrlCode : FlitBody → Nat × List Nat
  | .idle => (0, []) | .data _ => (0, [])
  | .desc b => (1, [b.sender, b.group, b.issue, b.member, b.offset, b.bytes] ++ b.members)
  | .grant b => (2, [b.context, b.refusal])
  | .close b => (3, b2n b.allBad :: b.sent.length :: b.sent ++ b.poison)
  | .xdone => (4, [])
  | .sig b => (5, [b.sender, b.group, b.issue] ++ b.fields.map (·.toNat))
  | .abort b => (6, [b.sender, b.group, b.issue, b.status])
  | .xoff => (0x10, [0]) | .xon => (0x10, [1])
  | .ident b => (0x11, [b.addr, b.shaft, b2n b.half])
  | .nonce v => (0x12, [0, v.toNat]) | .tag t => (0x12, [1, t.toNat])
/-- The 244 payload bytes of a flit. -/
def flitPayload (b : FlitBody) : List Byte :=
  let fit := fun (n : Nat) (l : List Byte) => (l ++ List.replicate n 0).take n
  match b with
  | .data p => fit 244 p
  | .idle => fit 244 (Config.ctrlTail 0 [])
  | b => let x := ctrlCode b; byte x.1 :: fit 243 (Config.ctrlTail x.1 x.2)
/-- CRC-32C over the header and the payload of a flit (R267). -/
def flitCrc (hdr : W64) (payload : List Byte) : W32 := crc32c (leBytes 8 hdr.toNat ++ payload)
/-- The 256 bytes of a flit: header, payload, CRC-32C (R267). -/
def flitBytes (f : Flit) : List Byte := leBytes 8 f.hdr.toNat ++ flitPayload f.body ++ leBytes 4 (flitCrc f.hdr (flitPayload f.body)).toNat
/-- A flit goes onto the fibre: its bits follow those of the flits before it, and a codeword that they fill is dealt to the active
lanes, symbol j on lane j mod W (R267). -/
def putWire (x : Shaft) (f : Flit) : Shaft :=
  let v := x.txBits + leNat (flitBytes f) * 2 ^ x.txLen
  let n := x.txLen + flitBits
  if n < cwBits then { x with txLen := n, txBits := v, txCode := [] }
  else
    let ys := shaftCodeword ((List.range 514).map fun j => v / 2 ^ (10 * j) % 1024)
    let ls := activeLanes x
    { x with txLen := n - cwBits, txBits := v / 2 ^ cwBits
             txCode := ls.zipIdx.map fun l => (l.1, (ys.zipIdx.filter fun y => y.2 % ls.length == l.2).map Prod.fst) }
/-- A codeword ends within the flit that starts at this place of the stream. -/
def cwEnds (x : Shaft) : Bool := x.rxBit == 0 || decide (cwBits < x.rxBit + flitBits)
/-- Counter of uncorrectable codewords (R281). -/
def ctUncorr : Nat := 8
def bumpTab (t : Tab Nat) (i n : Nat) : Tab Nat := Tab.set 0 t i (sat64 (Tab.get 0 t i + n))
/-- A flit taken from the stream of codewords: the codeword that ends in it is decoded, each corrected symbol counts against
its lane, and the flit is good if no byte of it lies in an uncorrectable codeword (R267, R270, R281). -/
def fecTake (x : Shaft) (wrong : List Nat) : Shaft × Bool :=
  let new := cwEnds x
  let bad := !rsGood 544 15 wrong
  let before := x.rxBit != 0 && x.cwBad
  let at1 := { x with rxBit := (x.rxBit + flitBits) % cwBits }
  if !new then (at1, !before)
  else if bad then ({ at1 with cwBad := true, count := bumpTab x.count ctUncorr 1 }, false)
  else
    let t := (wrongSymbols 544 wrong).foldl (fun t j => bumpTab t (symbolLane x j) 1) x.count
    ({ at1 with cwBad := false, count := t }, !before)

end Sys2Proof.Machine
end

