-- ==== Sys2Proof/Machine/Work.lean ====
section
/-!
DEFINITION. Requests and streams as the headframe ends them: the failure of a request (R117, R118), its
completion records and reply (R365, R371), and the end of a stream (R216, R370).
-/
namespace Sys2Proof.Machine
open Sys2Proof

/-- Faces, units and engines run: power state S0, no device-fatal stop (R412, R471, R488). -/
def running (s : State) : Bool := !s.fatal && !s.pins.stopped && !s.pins.perst && s.power == .s0
def findReq (s : State) (id : Nat) : Option Req := s.reqs.find? fun q => q.id == id
def modReq (s : State) (id : Nat) (g : Req → Req) : State :=
  { s with reqs := s.reqs.map fun q => if q.id = id then g q else q }
def findBatch (s : State) (id : Nat) : Option Batch := s.batches.find? fun b => b.id == id
def modBatch (s : State) (id : Nat) (g : Batch → Batch) : State :=
  { s with batches := s.batches.map fun b => if b.id = id then g b else b }

/-! ### The failure of a request (R118) -/

/-- A lane whose program has ended: its registers and signals are released. -/
def laneOver (l : Lane) (report : Bool) : Lane :=
  { l with live := false, ended := true, report := report, stall := .run, signals := [] }
/-- One face after a request on it has failed: its lanes end, its DMA slots and its POST go. -/
def faceDrop (x : Face) (id : Nat) : Face :=
  let x := streamsBFU.foldl (fun x st =>
    let l := lane x st
    if l.busy && l.req == id && !l.ended then setLane x st (laneOver l l.live) else x) x
  let post := x.post.filter fun p => p.req != id
  { x with dma := x.dma.filter (fun e => e.2.req != id), post := post }
/-- T0 words of a face that a failed request wrote become free values: their contents are undefined (R118). -/
def freeT0 (s : State) (f id : Nat) : State :=
  ((face s f).t0By.filter fun e => e.2 == id).foldl (fun s e =>
    let (v, s) := freeValue s
    let s := setWord s (.t0 f) e.1 (encode80 v false)
    setFace s f { face s f with t0By := Tab.set 0 (face s f).t0By e.1 0 }) s
/-- Whether a waiting access belongs to a request (R163). -/
def waiterReq (s : State) (w : Wait) : Option Nat :=
  match w.who with
  | .dma f slot => let d : Dma := Tab.get {} (face s f).dma slot; if d.busy then some d.req else none
  | .request r => some r
  | .step b => (findBatch s b).map (·.req)
  | _ => none
/-- A request fails: every slice of it, on every face; reported once, with the first status. -/
def failRequest (s : State) (id status : Nat) : State :=
  match findReq s id with
  | none => s
  | some q =>
    if q.failed ≠ 0 then s else
    let s := { s with waits := s.waits.filter fun w => waiterReq s w != some id }
    let fs := (q.progs.map (·.face)).eraseDups
    let s := fs.foldl (fun s f => setFace s f (faceDrop (face s f) id)) s
    let s := (s.faces.map Prod.fst).foldl (fun s f => freeT0 s f id) s
    modReq s id fun q => { q with failed := status, progs := q.progs.map fun p => { p with ended := true } }

/-! ### Completion records (R371) -/

/-- A program completion record: STALLS and LAST are counts of cycles, which the model leaves free. -/
def progRecord (status flags : Nat) (ended : Bool) (f slices : Nat) (tag stalls last : W64) : List W64 :=
  [w64 (at' status 48 + at' flags 40 + at' (b2n ended) 39 + at' f 32 + slices % 2 ^ 32), tag, stalls,
   w64 (last.toNat / 2 ^ 32 * 2 ^ 32)]
/-- One record written to the completion area: 0 when it is written, else why it is not (R375, R512). -/
def putRecord (s : State) (c : Nat) (area : Bool × Nat) (off : Nat) (ws : List W64) : State × Nat :=
  let a := area.2 + off
  if area.1 then
    if hostOk s a 32 then (hostWrite s a (wordsBytes ws), 0) else (logHost s (some c) none stHostAccessFail, stHostAccessFail)
  else match access (claim s c) (.request none) a 32 with
    | .ok => (vaStoreWords s c a ws, 0)
    | .bad x => (blocked s c x, x)
    | .absent _ => (s, stFetchDeadline)
/-- Pages of the completion area that must be hoisted before its records are written (R512). -/
def areaAbsent (s : State) (q : Req) : List Nat :=
  if q.area.1 then [] else
  match access (claim s q.claim) (.request none) q.area.2 (32 * q.progs.length) with | .absent l => l | _ => []
/-- A slice that the end of its request cuts short has its record too, with the FLAGS it had (R139, R371). -/
def cutRecords (s : State) (q : Req) : State × Req :=
  q.progs.zipIdx.foldl (fun acc p =>
    match (streamsBFU.map (lane (face acc.1 p.1.face))).find? fun l => l.busy && l.req == q.id && l.prog == p.2 && (l.report || l.live) with
    | some l =>
      let (u, s) := freeValue acc.1
      let (v, s) := freeValue s
      (s, { acc.2 with progs := acc.2.progs.set p.2 { p.1 with record := progRecord 0 l.flags.toNat false p.1.face l.slices l.progTag u v } })
    | none => acc) (s, q)
/-- The end of a request: every record once more with the request's status, then the reply (R365,
R371); a request that never started writes its records as well. The request leaves the device. -/
def closeRequest (s : State) (q : Req) : State :=
  let (s, q) := cutRecords s q
  let r := if q.batch.isSome then (s, 0) else
    q.progs.zipIdx.foldl (fun (acc : State × Nat) p =>
      let ws := p.1.record
      let w0 := (ws.getD 0 (w64 (at' p.1.face 32))).toNat
      let w := w64 (at' q.failed 48 + w0 % 2 ^ 48 / 2 ^ 40 * 2 ^ 40 + at' 1 39 + w0 % 2 ^ 39)
      let x := putRecord acc.1 q.claim q.area (32 * p.2) [w, ws.getD 1 p.1.tag, ws.getD 2 0, ws.getD 3 0]
      (x.1, if acc.2 = 0 then x.2 else acc.2)) (s, 0)
  let s := r.1
  let fs := (q.progs.map (·.face)).eraseDups
  let s := fs.foldl (fun s f =>
    setFace s f (streamsBFU.foldl (fun x st =>
      if (lane x st).busy && (lane x st).req == q.id then setLane x st {} else x) (face s f))) s
  let s := { s with reqs := s.reqs.filter (fun p => p.id != q.id) }
  replyTo s q.cmd (if q.failed ≠ 0 then q.failed else if q.dropped ≠ 0 then q.dropped else r.2) 0 0

/-! ### Streams (R215, R216, R370) -/

def streamCode : StreamState → Nat
  | .free => 0 | .opened => 1 | .prefill => 2 | .decode => 3 | .held => 4 | .cancelling => 5
  | .done => 6 | .cancelled => 7 | .failed => 8 | .shiftEnded => 9
/-- The live states (R215). -/
def isLive (x : Stream) : Bool :=
  match x.state with | .opened => true | .prefill => true | .decode => true | .held => true | _ => false
/-- Stream slots of a claim, in order, that are not FREE. -/
def claimStreams (s : State) (c : Nat) : List Nat :=
  (s.streams.filter fun e => e.2.state != .free && e.2.claim == c).map Prod.fst
def liveStreams (s : State) (c : Nat) : List Nat := (claimStreams s c).filter fun n => isLive (stream s n)
/-- *Stream completion record* (R370). DESIGN CHOICE (log 20): POS after position 2^24 - 1 is 2^24, unreduced. -/
def streamRecord (s : State) (n status : Nat) (x : Stream) : List W64 :=
  [w64 (at' status 48 + at' n 31 + at' (streamCode x.state) 27 + at' x.fin 19), x.tag, w64 s.time,
   w64 (at' x.gen 32 + at' x.undeliv 28 + x.pos)]
/-- Entries of a stream's tub map (R214). -/
def mapEntries (x : Stream) : Nat := ceilDiv (x.limit + 1) 64
/-- A stream's end: its state and END, one completion record, its tubs to go at the next boundary, and
a park that the end forestalls (R216, R219, R226). -/
def endStream (s : State) (n : Nat) (st : StreamState) (fin status : Nat) : State :=
  let x := stream s n
  let y := { x with state := st, fin := fin, reserve := 0, batch := none, park := none, pinned := none }
  let k := claim s x.claim
  let s := setClaim (setStream s n y) x.claim { k with freeing := k.freeing ++ [(x.tmap, mapEntries x, x.reserve)] }
  let s := { s with waits := s.waits.filter fun w => w.who != .opening n && w.who != .park n }
  let s := postQueue s (queueId 2 x.claim) (wordsBytes (streamRecord s n status y))
  match x.park, st with
  | some (r, q, _), .failed => reply s r q stAlreadyDone 0 0
  | some (r, q, _), .shiftEnded => reply s r q stAlreadyDone 0 0
  | some (r, q, _), .cancelled => reply s r q stStreamCancelled 0 0
  | _, _ => s
/-- A step fails: every live row of its batch ends FAILED with the status (R236). -/
def failBatch (s : State) (b : Batch) (status : Nat) : State :=
  let s := b.rows.foldl (fun s r =>
    let x := stream s r.stream
    if x.batch = some b.id then
      if isLive x then endStream s r.stream .failed 6 status else setStream s r.stream { x with batch := none }
    else s) s
  { s with batches := s.batches.filter fun c => c.id != b.id }

end Sys2Proof.Machine
end

