-- ==== Sys2Proof/Machine/Links.lean ====
section
/-!
DEFINITION. What the rest of the device asks of the shafts and the bell: routes and bonds (R282 to
R284), flits queued for transmission (R268, R274), claim channels (R279, R280), ABORT to the ranks of a
collective (R253), and bell frames queued (R294).
-/
namespace Sys2Proof.Machine
open Sys2Proof

/-! ### Shafts -/

def shaftUp (x : Shaft) : Bool := match x.state with | .up => true | .half => true | _ => false
def shaftCode : ShaftState → Nat
  | .off => 0 | .laser => 1 | .tune => 2 | .train => 3 | .up => 4 | .half => 5 | .down => 6
/-- *Shaft status word* (R281). -/
def shaftWord (x : Shaft) : Nat :=
  at' x.peer 52 + at' x.peerS 46 + at' (shaftCode x.state) 43 + at' x.laneFail.toNat 35 + at' (b2n x.halfSel) 34
    + at' x.auth.toNat 26
/-- SHAFT_EVENT (*Event codes*). -/
def shaftEvent (s : State) (n cause : Nat) : State :=
  postEvent s none 0x0100 [n + at' cause 8, shaftWord (shaft s n)]
def modShaft (s : State) (n : Nat) (g : Shaft → Shaft) : State := setShaft s n (g (shaft s n))
/-- Words 9 to 15 of the counters of R281, after the corrected symbols of the eight lanes and the uncorrectable codewords. -/
def ctCrc : Nat := 9
def ctReplay : Nat := 10
def ctRetrain : Nat := 11
def ctXoff : Nat := 12
def ctForeign : Nat := 13
def ctNoRoute : Nat := 14
def ctAuthFail : Nat := 15
def bumpShaft (s : State) (n i : Nat) : State := modShaft s n fun x => { x with count := bumpTab x.count i 1 }
/-- The claim of a claim tag on this device (R268). -/
def tagClaim (s : State) (tag : W16) : Option Nat :=
  (List.range 8).find? fun c => (claim s c).live && (claim s c).ctag == tag && tag != 0

/-! ### Routes (R282 to R284) -/

/-- Shafts of the entry of an address, in order; none for an entry that is not VALID. -/
def routeShafts (s : State) (dst : Nat) : List Nat :=
  let e := Tab.get 0 s.routes dst
  if bit e 63 then (List.range 52).filter fun n => bit e n else []
/-- Members of the bond that are UP or HALF. -/
def bondUp (s : State) (dst : Nat) : List Nat := (routeShafts s dst).filter fun n => shaftUp (shaft s n)
/-- Members that claim c may use: its channel is open (R280). -/
def bondFor (s : State) (c dst : Nat) : List Nat := (bondUp s dst).filter fun n => (shaft s n).auth.getLsbD c
/-- The address is the peer of its entry's bond (R283). -/
def isDirect (s : State) (dst : Nat) : Bool :=
  match routeShafts s dst with | n :: _ => (shaft s n).peer == dst | [] => false
/-- A shaft carries flits of claim c: its channel is open (R277, R280), or the peer is a relay that holds only a relay share for the
claim's tag and has sent no NONCE; a relay share is not authenticated (R280; DEDUCED, log 37). -/
def carries (s : State) (n c : Nat) : Bool :=
  let x := shaft s n
  let a : Auth := Tab.get {} x.auths c
  x.auth.getLsbD c || (a.peer.isNone && Config.relayPeer x.peer x.peerS (claim s c).ctag)
/-- Members of the bond that carry a flit of claim c toward an address: the striped ones of a direct transfer (R283), all of a
routed one's (R284). -/
def membersFor (s : State) (c dst : Nat) : List Nat := if isDirect s dst then bondFor s c dst else routeShafts s dst
/-- A transfer of claim c reaches an address: a member is UP or HALF and carries the claim, which has a share of it (R275, R276,
R280). -/
def pathOpen (s : State) (c dst : Nat) : Bool :=
  (membersFor s c dst).any fun n => shaftUp (shaft s n) && carries s n c && Tab.get 0 (shaft s n).share c != 0
/-- A shaft taken out of every routing-table entry; an entry whose MASK empties is no longer VALID. -/
def clearRoutes (s : State) (n : Nat) : State :=
  { s with routes := s.routes.foldl (fun t e =>
      let m := e.2 &&& ~~~(BitVec.ofNat 64 (2 ^ n))
      Tab.set 0 t e.1 (if fld m 51 0 = 0 then m &&& BitVec.ofNat 64 (2 ^ 63 - 1) else m)) [] }

/-! ### Flits queued (R268, R274) -/

def typIdle : Nat := 0
def typData : Nat := 1
def typCtrl : Nat := 2
/-- A flit header but for NAK, SEQ and ACK, which the transmitter fills in. -/
def mkHdr (typ dst tag xfer : Nat) : W64 := w64 (at' typ 61 + at' (dst % 4096) 48 + at' tag 32 + at' (xfer % 4096) 20)
def queueFlit (s : State) (n : Nat) (tag : W16) (x : Flit) : State :=
  modShaft s n fun h => { h with queue := h.queue ++ [(tag, x, none)] }
/-- A hop-scoped flit for the peer of shaft n. -/
def queueHop (s : State) (n tag : Nat) (b : FlitBody) : State :=
  modShaft s n fun h => { h with ctrl := h.ctrl ++ [⟨mkHdr typCtrl h.peer tag 0, b⟩] }
/-- An end-to-end CTRL flit of claim c for an address. Over a bond it takes the member numbered XFER mod m,
as a routed flit does (R284). With no open member it is lost. -/
def sendCtrl (s : State) (c dst xfer : Nat) (b : FlitBody) : State :=
  let ms := membersFor s c dst
  match ms[xfer % ms.length]? with
  | some n => queueFlit s n (claim s c).ctag ⟨mkHdr typCtrl dst (claim s c).ctag.toNat xfer, b⟩
  | none => s

/-! ### Claim channels (R279, R280) -/

/-- Every channel of a shaft closes, with a SHAFT_AUTH that waits on it. -/
def closeChannels (s : State) (n status : Nat) : State :=
  let x := shaft s n
  let s := setShaft s n { x with auth := 0, auths := [] }
  x.auths.foldl (fun s e => replyTo s e.2.cmd status 0 0) s
/-- A flit that carries an ABORT, which still goes out when its channel closes (R470, R471). -/
def isAbort (x : Flit) : Bool := match x.body with | .abort _ => true | _ => false
/-- The channels of one claim close on every shaft; of its flits only ABORTs are still sent. -/
def closeClaimChannels (s : State) (c status : Nat) : State :=
  (List.range 52).foldl (fun s n =>
    let x := shaft s n
    let a : Auth := Tab.get {} x.auths c
    let s := setShaft s n { x with auth := x.auth &&& ~~~(BitVec.ofNat 8 (2 ^ c)), auths := Tab.set {} x.auths c {}
                                   queue := x.queue.filter fun q => q.1 != (claim s c).ctag || isAbort q.2.1 }
    replyTo s a.cmd status 0 0) s

/-! ### Collectives as the links see them -/

def groupRanks (k : Claim) (x : Coll) : List Nat := match group k x.group with | some g => g.ranks | none => []
def selfRank (k : Claim) (x : Coll) : Nat := match group k x.group with | some g => g.self | none => 0
def collWord (x : Coll) (n : Nat) : W64 := x.desc.getD n 0
def collRoot (x : Coll) : Nat := fld (collWord x 0) 41 30
/-- Ranks that take part beside this one: all of the group, or the peer of a SEND or RECV. -/
def peerRanks (k : Claim) (x : Coll) : List Nat :=
  match x.op with
  | .send => [collRoot x] | .recv => [collRoot x]
  | _ => (List.range (groupRanks k x).length).filter (· != selfRank k x)
def rankAddr (k : Claim) (x : Coll) (r : Nat) : Nat := (groupRanks k x).getD r 0
/-- Statuses that a rule gives every rank (R75, R240, R249, R256, R261, R286): the ABORT of one rank names them (log 26). -/
def everyRank (status : Nat) : Bool :=
  [stCollMismatch, stReducePartsInvalid, stRouteInvalid, stLayoutInvalid, stStagingSmall, stEpochFenceTimeout, stShaftDown].contains status
/-- ABORT to every other rank of the operation (R253). -/
def sendAbort (s : State) (c : Nat) (x : Coll) (status : Nat) : State :=
  let k := claim s c
  (peerRanks k x).foldl (fun s r =>
    sendCtrl s c (rankAddr k x r) 0 (.abort
      { sender := s.devAddr, group := x.group, issue := x.issue, status := if everyRank status then status else 0 })) s
/-- Receive contexts of one collective freed (R272). -/
def freeContexts (s : State) (c coll : Nat) : State :=
  { s with rxctx := s.rxctx.filter fun e => match e.2 with | some x => !(x.claim == c && x.coll == coll) | none => true }

/-! ### The bell (R293, R294) -/

def prTick : Nat := 1
def prBarrier : Nat := 2
def prLag : Nat := 3
def prGossip : Nat := 4
def prReplica : Nat := 5
/-- Priority, then claim number, then queue order (R294). -/
def bellBefore (a b : BellQ) : Bool := a.prio < b.prio || (a.prio == b.prio && a.claim < b.claim)
def insBell (q : BellQ) : List BellQ → List BellQ
  | [] => [q]
  | x :: xs => if bellBefore q x then q :: x :: xs else x :: insBell q xs
/-- Bell frames of a claim queue while the device is joined; type and body words w1 to w5. SRC, the counter
and the MAC are filled in when the frame is sent. -/
def queueBell (s : State) (c typ prio : Nat) (body : List Nat) : State :=
  if s.bell.state != .joined then s else
  let ws := w64 (at' typ 60) :: body.map w64 ++ List.replicate (5 - body.length) 0
  { s with bell := { s.bell with queue := insBell { prio := prio, claim := c, words := ws, hits := 0, skip := 0 } s.bell.queue } }
/-- The bell frames of a claim stop (R470). -/
def stopBell (s : State) (c : Nat) : State :=
  { s with bell := { s.bell with queue := s.bell.queue.filter fun q => q.claim != c } }
/-- The bell address of a member, by its device address (R301). -/
def memberBell (k : Claim) (dev : Nat) : Option Nat := (k.members.find? fun m => m.2 == dev).map Prod.fst
/-- The device is the claim's tick master, or the claim has no membership (R330, R332). -/
def isTickMaster (s : State) (k : Claim) : Bool := k.members.isEmpty || memberBell k s.devAddr == some k.master
/-- A TICK frame queued for the next owned slot, unless one is queued already (R303). One whose echo from a contention slot is
awaited carries what stood at its sending, and does not count. A device that is not joined owes the frame until it is. -/
def queueTick (s : State) (c : Nat) : State :=
  let k := claim s c
  let old := s.bell.queue.any fun q => q.claim == c && fld (q.words.getD 0 0) 63 60 == 2 && s.bell.flying != some q
  if !inService k || k.members.isEmpty || !isTickMaster s k then s
  else if s.bell.state != .joined then setClaim s c { k with tickCyc := 32 }
  else if old then s
  else queueBell (setClaim s c { k with tickCyc := 0 }) c 2 prTick []

end Sys2Proof.Machine
end

