-- ==== Sys2Proof/Machine/Collective.lean ====
section
/-!
DEFINITION. The collective engine (R237 to R254, R261, R262): what each operation moves between two ranks,
the start of the movement, what arrives, what a rank lands at the end, and the end of a collective.
-/
namespace Sys2Proof.Machine
open Sys2Proof

/-! ### Fields of the descriptor (R241) -/

def cFmtCode (x : Coll) : Nat := fld (collWord x 0) 59 56
def cDfmtCode (x : Coll) : Nat := fld (collWord x 0) 55 52
def cFmt (x : Coll) : Fmt := (fmtOf (cFmtCode x)).getD .fp32
def cDfmt (x : Coll) : Fmt := (fmtOf (cDfmtCode x)).getD .fp32
def cSr (x : Coll) : Bool := fld (collWord x 0) 51 50 == 1
def cCell (x : Coll) : Bool := bit (collWord x 0) 49
def cSetm (x : Coll) : Nat := fld (collWord x 0) 21 16
def cTimeoutCode (x : Coll) : Nat := fld (collWord x 0) 15 0
/-- TIMEOUT in nanoseconds; 0 selects 100 ms. -/
def cTimeout (x : Coll) : Nat := (if cTimeoutCode x = 0 then 100 else cTimeoutCode x) * 1000000
def cTidSend (x : Coll) : Nat := fld (collWord x 1) 31 0
def cTidLand (x : Coll) : Nat := fld (collWord x 2) 63 32
def cCap (x : Coll) : Nat := fld (collWord x 2) 63 32
def cCount (x : Coll) : Nat := fld (collWord x 2) 31 0
def cSrc (x : Coll) : Nat := fld (collWord x 3) 47 0
def cDst (x : Coll) : Nat := fld (collWord x 4) 47 0
def cAux (x : Coll) : Nat := fld (collWord x 5) 47 0
def cLayS (x : Coll) : Nat := fld (collWord x 6) 47 0
def cLayD (x : Coll) : Nat := fld (collWord x 7) 47 0
def cDone (x : Coll) : Nat := fld (collWord x 8) 47 0
def isReduce (x : Coll) : Bool := match x.op with | .reduceScatter => true | .allReduce => true | _ => false
def isExpert (x : Coll) : Bool := match x.op with | .dispatch => true | .combine => true | _ => false
/-- Phase in which the last bytes move: the second, where route lists are exchanged first. -/
def lastPhase (x : Coll) : Nat := if isExpert x then 2 else 1
/-- Width of the atoms of a flow. -/
def flowW (x : Coll) : Nat := if isExpert x then 8 else atomW (cFmt x)

def findColl (s : State) (c id : Nat) : Option Coll := (claim s c).colls.find? fun x => x.id == id && !x.ending
def setColl (s : State) (c : Nat) (x : Coll) : State :=
  let k := claim s c
  setClaim s c { k with colls := k.colls.map fun y => if y.id = x.id then x else y }
/-- Device time of the last progress from a rank (R253). -/
def lastHeard (x : Coll) (r : Nat) : Nat := ((x.heard.find? fun p => p.1 == r).map Prod.snd).getD x.progress

/-! ### Streams received -/

/-- Words received from a rank, by word number of its stream. -/
def streamTab (x : Coll) (r : Nat) : Tab PWord :=
  (x.got.filter fun p => p.rank == r).foldl (fun t p => Tab.setRun ⟨0, false⟩ t (p.off / 8) p.words) []
def streamWords (x : Coll) (r lo n : Nat) : List PWord :=
  let t := streamTab x r
  (List.range n).map fun i => Tab.get ⟨0, false⟩ t (lo + i)
/-- Words received from a rank from word `lo` on, below word `hi`. -/
def gotWords (x : Coll) (r lo hi : Nat) : Nat :=
  ((x.got.filter fun p => p.rank == r && lo ≤ p.off / 8 && p.off / 8 < hi).map fun p => p.words.length).foldl (· + ·) 0

/-! ### What flows from one rank to another

A flow lists, atom by atom, the bit address at the sender and the bit address at the receiver. Each side
uses its own half, which it resolves from its own copy of the collective (R272). -/

abbrev Flow := List (Nat × Nat)
def runFlow (f : Fmt) (n src dst u0 : Nat) : Flow :=
  ((runOffs f 0 (unitsOf f n)).map (8 * src + ·)).zip ((runOffs f u0 (unitsOf f n)).map (8 * dst + ·))
def byteFlow (src dst n : Nat) : Flow := (List.range n).map fun i => (8 * (src + i), 8 * (dst + i))

/-- One unit that a PERMUTE moves into a destination box of a rank (R261). -/
structure PUnit where
  rank  : Nat
  /-- destination box. -/
  box   : Extent
  /-- elements of the destination row that it holds. -/
  cnt   : Nat
  src   : List Nat
  stage : List Nat
  dst   : List Nat
deriving DecidableEq, Repr
/-- The units that rank q receives, in the order of its boxes, with their places in its staging. A unit whose
source and destination are the same place is skipped. -/
def permUnits (x : Coll) (S D : Layout) (q : Nat) : Got (List PUnit) :=
  let f := cFmt x
  let us := (rankExts D q).flatMap fun e => (boxUnits D f e).map fun u => (e, u)
  let found := us.map fun p =>
    match S.exts.find? (fun e => boxHolds S e p.2) with
    | some e => some ((e.rank, unitAt S f e p.2.1, unitAt D f p.1 p.2.1), p.2.2, p.1)
    | none => none
  if found.any (·.isNone) then .bad stLayoutInvalid else
  let moved := (found.filterMap id).filter fun p => !(p.1.1 == q && p.1.2.1 == p.1.2.2)
  .ok (moved.zipIdx.map fun p =>
    let n := p.1.1.2.1.length
    { rank := p.1.1.1, box := p.1.2.2, cnt := p.1.2.1, src := p.1.1.2.1, dst := p.1.1.2.2
      stage := (List.range n).map fun j => 8 * cAux x + atomW f * (n * p.2 + j) })
def permBoth (s : State) (c : Nat) (x : Coll) : Got (Layout × Layout) :=
  bindGot (readLayout s c (cLayS x)) fun S => mapGot (readLayout s c (cLayD x)) fun D => (S, D)
def rankCount (s : State) (c : Nat) (x : Coll) : Nat := (groupRanks (claim s c) x).length
/-- Route lists by rank: the own one from memory, the others as they arrived. -/
def allRoutes (s : State) (c : Nat) (x : Coll) : Got (List (List Route)) :=
  mapGot (rdWords s c (cAux x) (2 * cCount x)) fun own =>
    (List.range (rankCount s c x)).map fun r =>
      if r = selfRank (claim s c) x then parseRoutes own
      else parseRoutes ((streamWords x r 0 (2 * cCount x)).map (·.data))
/-- Rows that DISPATCH moves from rank r to rank q. -/
def dispatchFlow (x : Coll) (E : Experts) (lists : List (List Route)) (r q : Nat) : Flow :=
  ((giveSlots (cCap x) lists).getD r []).flatMap fun e =>
    let t := E.ents.getD e.expert (0, 0)
    if t.1 = q ∧ e.slot ≠ residual then byteFlow (cSrc x + e.token * E.row) (t.2 + e.slot * E.row) E.row else []
/-- Rows that COMBINE moves from the experts of rank r to the tokens of rank q; they are kept for the sum. -/
def combineFlow (E : Experts) (lists : List (List Route)) (r q : Nat) : Flow :=
  (lists.getD q []).flatMap fun e =>
    let t := E.ents.getD e.expert (0, 0)
    if t.1 = r ∧ e.slot ≠ residual then byteFlow (t.2 + e.slot * E.row) 0 E.row else []
/-- The flow of a phase from rank r to rank q. -/
def flow (s : State) (c : Nat) (x : Coll) (phase r q : Nat) : Got Flow :=
  let f := cFmt x
  match x.op with
  | .send => .ok (runFlow f (cCount x) (cSrc x) (cDst x) 0)
  | .recv => .ok (runFlow f (cCount x) (cSrc x) (cDst x) 0)
  | .broadcast => .ok (if r = collRoot x then runFlow f (cCount x) (cSrc x) (cDst x) 0 else [])
  | .gather => .ok (if collRoot x = 0xFFF ∨ q = collRoot x then
      runFlow f (cCount x) (cSrc x) (cDst x) (r * unitsOf f (cCount x)) else [])
  | .allReduce => .ok (runFlow f (cCount x) (cSrc x) 0 0)
  | .reduceScatter => mapGot (readLayout s c (cLayD x)) fun D =>
      (rankExts D q).flatMap fun e => (boxUnits D f e).flatMap fun u =>
        (unitAt D f (wholeBox D (cSrc x)) u.1).map fun a => (a, 0)
  | .permute => bindGot (permBoth s c x) fun L => mapGot (permUnits x L.1 L.2 q) fun us =>
      us.flatMap fun u => if u.rank = r then u.src.zip u.stage else []
  | .dispatch =>
    if phase = 1 then .ok (byteFlow (cAux x) 0 (16 * cCount x)) else
    bindGot (readExperts s c (cLayD x)) fun E => mapGot (allRoutes s c x) fun l => dispatchFlow x E l r q
  | .combine =>
    if phase = 1 then .ok (byteFlow (cAux x) 0 (16 * cCount x)) else
    bindGot (readExperts s c (cLayD x)) fun E => mapGot (allRoutes s c x) fun l => combineFlow E l r q
/-- Whether bytes that arrive in a phase go straight to their destination, or are kept for the end. -/
def placed? (x : Coll) (phase : Nat) : Bool :=
  match x.op with
  | .recv => true | .broadcast => true | .gather => true | .permute => true
  | .dispatch => phase == 2
  | _ => false
/-- First word of a phase's stream: the second phase follows the route list. -/
def phaseBase (x : Coll) (phase : Nat) : Nat := if isExpert x && phase == 2 then 2 * cCount x else 0
/-- Ranks that send to, and receive from, this rank. -/
def ranksIn (k : Claim) (x : Coll) : List Nat :=
  match x.op with | .send => [] | .broadcast => (peerRanks k x).filter (· == collRoot x) | _ => peerRanks k x
def ranksOut (k : Claim) (x : Coll) : List Nat :=
  match x.op with | .recv => [] | _ => peerRanks k x
def flowWords (x : Coll) (fl : Flow) : Nat := ceilDiv (fl.length * flowW x) 64

/-! ### Checks before data moves -/

/-- Staging is a T1-home object from AUX on, large enough, and meets no destination box (R261). -/
def stagingOk (k : Claim) (x : Coll) (us : List PUnit) (D : Layout) : Bool :=
  let n := ceilDiv ((us.map fun u => u.stage.length).foldl (· + ·) 0 * atomW (cFmt x)) 8
  let e := pte k (cAux x / 2097152)
  let o := obj k e.obj
  n == 0 || (e.state == .t1 && o.live && !o.t2home && cAux x + n ≤ (o.base + o.pages) * 2097152 &&
    (rankExts D (selfRank k x)).all fun b =>
      let m := runLen (cFmt x) (boxRows D b * rowUnits D (cFmt x) b * unitElems (cFmt x))
      b.base + m ≤ cAux x || cAux x + n ≤ b.base)
/-- Byte spans of the boxes of a rank. -/
def boxSpans (L : Layout) (f : Fmt) (r : Nat) : List (Nat × Nat) :=
  (rankExts L r).map fun e => (e.base, runLen f (boxRows L e * rowUnits L f e * unitElems f))
/-- A status that some page of the spans gives, whatever is resident. -/
def spansBad (s : State) (c : Nat) (spans : List (Nat × Nat)) : Nat :=
  ((spans.flatMap fun p => pagesOf p.1 p.2).findSome? fun p => match pageCheck (claim s c) (.request none) p with
    | .bad n => some n | _ => none).getD 0
/-- The route list of DISPATCH or COMBINE against its expert map (R249). -/
def routeChecks (s : State) (c : Nat) (x : Coll) : Got Unit :=
  bindGot (readExperts s c (cLayD x)) fun E => bindGot (rdWords s c (cAux x) (2 * cCount x)) fun ws =>
    if routeReserved ws then .bad stReservedField
    else if routesOk E.ents.length (parseRoutes ws) then .ok () else .bad stRouteInvalid
def partChecks (s : State) (c : Nat) (x : Coll) (n : Nat) : Got Unit :=
  bindGot (readParts s c (cLayS x) n) fun p =>
    if partsCover p.1 ((sortParts (p.2.map fun q => (q, ()))).map Prod.fst) then .ok () else .bad stReducePartsInvalid
/-- The checks of an operation's tables (R78, R244, R245, R249, R261). A PERMUTE makes them before its fence. -/
def goChecks (s : State) (c : Nat) (x : Coll) : Got Unit :=
  let n := rankCount s c x
  match x.op with
  | .reduceScatter => bindGot (readLayout s c (cLayD x)) fun D =>
      guardGot (layoutStatus D (cFmtCode x) n (cFmt x))
        (if (cDfmt x).isBlock && D.exts.any (cutsBlock D) then .bad stLayoutSplitsBlock else partChecks s c x n)
  | .allReduce => partChecks s c x n
  | .permute => bindGot (permBoth s c x) fun L =>
      guardGot (layoutStatus L.1 (cFmtCode x) n (cFmt x)) (guardGot (layoutStatus L.2 (cFmtCode x) n (cFmt x))
        (if L.1.size ≠ L.2.size ∨ L.1.dims ≠ L.2.dims then .bad stLayoutInvalid else
          bindGot (permUnits x L.1 L.2 (selfRank (claim s c) x)) fun us =>
            if stagingOk (claim s c) x us L.2 then guardGot (spansBad s c (boxSpans L.2 (cFmt x) (selfRank (claim s c) x))) (.ok ())
            else .bad stStagingSmall))
  | .dispatch => routeChecks s c x
  | .combine => routeChecks s c x
  | _ => .ok ()

/-! ### Gradient cells (R183, R246) -/

/-- Blocks of a reduction's tensor: bit offsets of each from the array's base, first logical index, elements. -/
def cellBlocks (s : State) (c : Nat) (x : Coll) : Got (List (List Nat × Nat × Nat)) :=
  match x.op with
  | .reduceScatter => mapGot (readLayout s c (cLayD x)) fun D =>
      (boxUnits D .v8 (wholeBox D 0)).map fun u => (unitAt D .v8 (wholeBox D 0) u.1, logicalIx D u.1, u.2)
  | _ => .ok ((List.range (unitsOf .v8 (cCount x))).map fun u => (unitOffs .v8 u, 16 * u, min 16 (cCount x - 16 * u)))
def cellDraw (k : Claim) (tid idx : Nat) : Option Nat := some (srDraw k.seed tid k.step (idx % 2 ^ 64))
/-- One block of cells quantised for sending: the value sent and the new remainder (R183). -/
def cellSend (k : Claim) (tid base n : Nat) (val rem : List Xr) : List Nat × List Nat :=
  let t := (List.zipWith addX val rem).map fun y => addX y .zero
  let v := convertBlock .v8 t fun i => if i < n then cellDraw k tid (base + i) else none
  let back := unitVals .v8 (v.2 ++ [v.1])
  let r := if v.1 = 0xFF then (0, List.replicate 16 0) else convertBlock .v8 (List.zipWith subX t back) fun _ => none
  (v.2 ++ [v.1], r.2 ++ [r.1])
/-- Every block quantised: SRC holds the values to send and AUX the new remainders. -/
def quantise (s : State) (c : Nat) (x : Coll) : Got State :=
  bindGot (cellBlocks s c x) fun bs =>
    let at2 := fun (base : Nat) (o : List Nat) => o.map (8 * base + ·)
    let spans := atomSpans (bs.flatMap fun b => at2 (cSrc x) b.1 ++ at2 (cAux x) b.1)
    bindGot (spansOk s c spans) fun _ => bindGot (leavesGood (claim s c) spans) fun _ =>
      let rd := fun (base : Nat) (o : List Nat) => (at2 base o).map (rdAtom s c 8)
      if bs.any (fun b => (rd (cSrc x) b.1 ++ rd (cAux x) b.1).any Prod.snd) then .bad stPoisonRead else
      let sums := fun (b : List Nat × Nat × Nat) =>
        List.zipWith addX (unitVals .v8 ((rd (cSrc x) b.1).map Prod.fst)) (unitVals .v8 ((rd (cAux x) b.1).map Prod.fst))
      let n := bs.foldl (fun (n : ConvCount) b => n.add (blockCount .v8 b.2.2 [some (sums b)] fun i =>
        cellDraw (claim s c) (cTidSend x) (b.2.1 + i))) {}
      let t := countsAdd s c (cTidSend x) [n.elems, n.zeros, n.sats, n.nonfin]
      .ok (vaPutAtoms t c 8 (bs.flatMap fun b =>
        let q := cellSend (claim s c) (cTidSend x) b.2.1 b.2.2 (unitVals .v8 ((rd (cSrc x) b.1).map Prod.fst))
          (unitVals .v8 ((rd (cAux x) b.1).map Prod.fst))
        (at2 (cSrc x) b.1).zip (q.1.map fun v => (v, false)) ++ (at2 (cAux x) b.1).zip (q.2.map fun v => (v, false))))
/-- The value blocks that have been sent become zero blocks. -/
def clearCells (s : State) (c : Nat) (x : Coll) : State :=
  match cellBlocks s c x with
  | .ok bs => vaPutAtoms s c 8 (bs.flatMap fun b => b.1.map fun o => (8 * cSrc x + o, (0, false)))
  | _ => s

/-! ### The start of the movement -/

/-- The lowest sender context that no transfer of the device uses (R272). -/
def freeCtx (s : State) : Nat :=
  let used := (List.range 8).flatMap fun c => (claim s c).colls.flatMap fun x => (x.sends.filter fun t => !t.acked).map (·.ctx)
  ((List.range 4096).find? fun n => !used.contains n).getD 0
/-- A transfer opened with its DESC. -/
def openSend (s : State) (c id rank off : Nat) (ws : List PWord) : State :=
  match findColl s c id with
  | none => s
  | some x =>
    let k := claim s c
    let dst := rankAddr k x rank
    let ctx := freeCtx s
    let ms := if isDirect s dst then bondFor s c dst else []
    let t : SendXfer := { ctx := ctx, rank := rank, off := off, words := ws, granted := none, acked := false, members := ms }
    let y := { x with sends := x.sends ++ [t], poison := x.poison || ws.any (·.poison) }
    sendCtrl (setColl s c y) c dst ctx
      (.desc { sender := s.devAddr, group := x.group, issue := x.issue, member := 0, offset := off, bytes := 8 * ws.length, members := ms })
/-- Streams of one phase read from memory `m`: (rank, words) for every rank to which something goes. -/
def readStreams (m : State) (c : Nat) (x : Coll) (phase : Nat) (qs : List Nat) : Got (List (Nat × List PWord)) :=
  qs.foldl (fun acc q => bindGot acc fun l => bindGot (flow m c x phase (selfRank (claim m c) x) q) fun fl =>
    if fl.isEmpty then .ok l else
    let spans := atomSpans (fl.map Prod.fst)
    bindGot (spansOk m c spans) fun _ => bindGot (leavesGood (claim m c) spans) fun _ =>
      .ok (l ++ [(q, packAtoms (flowW x) (fl.map fun a => rdAtom m c (flowW x) a.1))])) (.ok [])
/-- What stays on the device: the own flow, copied to its place at once. -/
def localPuts (s : State) (c : Nat) (x : Coll) (phase : Nat) : Got (List Put) :=
  let me := selfRank (claim s c) x
  let own := match x.op with
    | .broadcast => me == collRoot x && cDst x != 0
    | .gather => true | .permute => true
    | .dispatch => phase == 2
    | _ => false
  if !own then .ok [] else
  bindGot (flow s c x phase me me) fun fl =>
    bindGot (spansOk s c (atomSpans (fl.map Prod.fst ++ fl.map Prod.snd))) fun _ =>
    bindGot (leavesGood (claim s c) (atomSpans (fl.map Prod.fst))) fun _ =>
      .ok (fl.map fun a => (a.2, rdAtom s c (flowW x) a.1))
/-- The own piece that a reduction or COMBINE keeps for its sum. -/
def ownPiece (m : State) (c : Nat) (x : Coll) (phase : Nat) : Got (List Piece) :=
  let me := selfRank (claim m c) x
  let keep := isReduce x || (x.op == .combine && phase == 2)
  if !keep then .ok [] else
  mapGot (readStreams m c x phase [me]) fun l => l.map fun p => { rank := me, off := 8 * phaseBase x phase, words := p.2 }
/-- A phase begins: streams are read, transfers opened, and what stays is copied (R245, R246, R250, R262). -/
def goPhase (s : State) (c : Nat) (x : Coll) (phase : Nat) : Got State :=
  let k := claim s c
  bindGot (if cCell x && isReduce x then quantise s c x else .ok s) fun m =>
  bindGot (readStreams m c x phase (ranksOut k x)) fun out =>
  bindGot (ownPiece m c x phase) fun own =>
  bindGot (localPuts s c x phase) fun puts =>
    let read := out.flatMap Prod.snd ++ own.flatMap (·.words)
    if (isReduce x || x.op == .combine) && read.any (·.poison) then .bad stPoisonRead
    else if out.any (fun p => (routeShafts s (rankAddr k x p.1)).isEmpty) then .bad stNoRoute
    else
      let m := if cCell x && isReduce x then clearCells m c x else m
      let m := vaPutAtoms m c (flowW x) puts
      let m := setColl m c
        { x with phase := phase, got := x.got ++ own, progress := s.time, heard := [], waitAt := s.time
                 poison := x.poison || puts.any (·.2.2) }
      .ok (out.foldl (fun s p => openSend s c x.id p.1 (8 * phaseBase x phase) p.2) m)

/-! ### What arrives -/

/-- Where the atoms of a piece go: the receiver's half of the flow from the piece on. -/
def pieceDst (s : State) (c : Nat) (x : Coll) (rank off : Nat) : Got (List Nat) :=
  let ph := if isExpert x && phaseBase x 2 ≤ off / 8 then 2 else 1
  if !placed? x ph then .ok [] else
  mapGot (flow s c x ph rank (selfRank (claim s c) x)) fun fl =>
    (fl.drop ((off / 8 - phaseBase x ph) * (64 / flowW x))).map Prod.snd
/-- A rank's stream of a phase has arrived. -/
def rankDone (s : State) (c : Nat) (x : Coll) (phase r : Nat) : Got Bool :=
  mapGot (flow s c x phase r (selfRank (claim s c) x)) fun fl =>
    decide (flowWords x fl ≤ gotWords x r (phaseBase x phase) (phaseBase x phase + flowWords x fl + 1))
/-- Every peer's stream of a phase has arrived. -/
def phaseDone (s : State) (c : Nat) (x : Coll) (phase : Nat) : Got Bool :=
  (ranksIn (claim s c) x).foldl (fun acc r => bindGot acc fun b => mapGot (rankDone s c x phase r) (b && ·)) (.ok true)
/-- Ranks on which a collective that is ready waits: for a signature, for bytes, or for an acknowledgement. -/
def awaited (s : State) (c : Nat) (x : Coll) : List Nat :=
  let k := claim s c
  if !x.started || s.waits.any (fun w => w.claim == c && w.who == .transfer x.id) then [] else
  (peerRanks k x).filter fun r => !x.sigs.contains (rankAddr k x r) || (x.phase != 0 &&
    (((ranksIn k x).contains r && rankDone s c x x.phase r == .ok false) || x.sends.any fun t => t.rank == r && !t.acked))
/-- WAIT_NS counted up to now (R252). -/
def collWait (s : State) (c : Nat) (x : Coll) : Coll :=
  { x with waitNs := if (awaited s c x).isEmpty then x.waitNs else x.waitNs + (s.time - x.waitAt), waitAt := s.time }
/-- A rank has made progress (R252, R253). -/
def collProgress (s : State) (c : Nat) (x : Coll) (r : Nat) : Coll :=
  { collWait s c x with heard := (r, s.time) :: x.heard.filter fun p => p.1 != r }
/-- A transfer's bytes are written where they belong, or kept; a reduction fails on a poisoned word (R254). -/
def takePiece (s : State) (c : Nat) (x : Coll) (rank off : Nat) (ws : List PWord) : Got State :=
  if (isReduce x || isExpert x && x.op == .combine) && ws.any (·.poison) then .bad stPoisonRead else
  mapGot (pieceDst s c x rank off) fun dst =>
    let s := vaPutAtoms s c (flowW x) (dst.zip (unpackAtoms (flowW x) ws))
    let y := collProgress s c x rank
    setColl s c { y with got := x.got ++ [{ rank := rank, off := off, words := ws }], poison := x.poison || ws.any (·.poison) }

/-! ### The landing (R245 to R251) -/

/-- One element of a reduction: the parts of every rank combined. -/
def combineElem (g : Nat) (parts : List (Nat × Nat)) (vals : List Xr) : Xr × Bool :=
  combineParts g (sortParts (parts.zip vals))
/-- Draw of a landing conversion under tensor id `tid`: CELL lands under SR whatever RND holds. -/
def landDraw (k : Claim) (x : Coll) (tid idx : Nat) : Option Nat :=
  if cSr x || cCell x then some (srDraw k.seed tid k.step (idx % 2 ^ 64)) else none
/-- The tensor id of a landing. A COMBINE has none, since its word holds CAPACITY: a free value (log 12). -/
def landTid (s : State) (x : Coll) : Nat :=
  if x.op == .combine then (Config.freeWord s.freeCtr).toNat % 2 ^ 32 else cTidLand x
/-- Element values of every rank's stream, unit by unit. -/
def rankUnits (x : Coll) (r n : Nat) : List (List Xr) :=
  let per := (unitOffs (cFmt x) 0).length
  let as := (unpackAtoms (flowW x) (streamWords x r 0 (ceilDiv (n * per * flowW x) 64))).map Prod.fst
  (chunks per (as.take (n * per))).map (unitVals (cFmt x))
/-- Runs of a whole-run stream in unit order: its atoms come in storage order of eight units. -/
def rankRun (x : Coll) (r n : Nat) : List (List Xr) :=
  let f := cFmt x
  let offs := runOffs f 0 n
  let as := (unpackAtoms (flowW x) (streamWords x r 0 (ceilDiv (offs.length * flowW x) 64))).map Prod.fst
  let t : Tab Nat := (offs.zip as).foldl (fun t p => Tab.set 0 t p.1 p.2) []
  (List.range n).map fun u => unitVals f ((unitOffs f u).map fun o => Tab.get 0 t o)
/-- Element k combined over the ranks. -/
def combineAll (g : Nat) (parts : List (Nat × Nat)) (byRank : List (List Xr)) (n : Nat) : List (Xr × Bool) :=
  (List.range n).map fun i => combineElem g parts (byRank.map fun l => l.getD i .zero)
/-- What a row of results adds to the canary's record of its tensor (R205). -/
def landCount (k : Claim) (x : Coll) (tid : Nat) (vals : List Xr) (idx : Nat) : ConvCount :=
  let f := cDfmt x
  if f.isBlock then blockCount f vals.length ((blocksOf vals).map some) fun i => landDraw k x tid (idx + i)
  else
    let kd := match f with | .fp16 => fpk16 | .bf16 => fpkB | _ => fpk32
    vals.zipIdx.foldl (fun n p => n.add (fpCount (convertFp kd (landDraw k x tid (idx + p.2)) p.1))) {}
/-- A row of results written as units of DFMT. -/
def landRow (k : Claim) (x : Coll) (tid : Nat) (vals : List Xr) (idx : Nat) (place : Nat → List Nat) : List Put :=
  let f := cDfmt x
  ((chunks (unitElems f) vals).zipIdx).flatMap fun p =>
    let n := p.1.length
    (place p.2).zip ((unitAtoms f p.1 fun i => if i < n then landDraw k x tid (idx + unitElems f * p.2 + i) else none).map fun v => (v, false))
/-- The landing of a reduction: what is stored, LVAR, and the counts of its conversions. -/
def landReduce (s : State) (c : Nat) (x : Coll) : Got (List Put × Bool × ConvCount) :=
  let k := claim s c
  let n := rankCount s c x
  let tid := landTid s x
  bindGot (readParts s c (cLayS x) n) fun p =>
    let lvar := !(p.2.all (wholePart p.1))
    if x.op = .allReduce then
      let us := unitsOf (cFmt x) (cCount x)
      let byRank := (List.range n).map fun r => ((rankRun x r us).flatten).take (cCount x)
      let vals := (combineAll p.1 p.2 byRank (cCount x)).map Prod.fst
      .ok ((landRow k x tid vals 0 fun u => (unitOffs (cDfmt x) u).map (8 * cDst x + ·)) ++
        padPuts (cDfmt x) (cDst x) (unitsOf (cDfmt x) (cCount x)), lvar, landCount k x tid vals 0)
    else mapGot (readLayout s c (cLayD x)) fun D =>
      let es := rankExts D (selfRank k x)
      let total := (es.map fun e => boxRows D e * rowUnits D (cFmt x) e).foldl (· + ·) 0
      let byRank := (List.range n).map fun r => rankUnits x r total
      let r := es.foldl (fun (acc : Nat × List Put × ConvCount) e =>
        let ru := rowUnits D (cFmt x) e
        let w := inner D e.len
        (List.range (boxRows D e)).foldl (fun acc r =>
          let cut := byRank.map fun l => (((l.drop acc.1).take ru).flatten).take w
          let vals := (combineAll p.1 p.2 cut w).map Prod.fst
          let o := List.zipWith (· + ·) (outer D e.start) (unflat (outer D e.len) r)
          let idx := logicalIx D (o ++ [inner D e.start])
          let dru := rowUnits D (cDfmt x) e
          (acc.1 + ru, acc.2.1 ++ landRow k x tid vals idx fun u => (unitOffs (cDfmt x) (r * dru + u)).map (8 * e.base + ·),
           acc.2.2.add (landCount k x tid vals idx)))
          acc) (0, [], {})
      (r.2.1 ++ es.flatMap (fun e => padPuts (cDfmt x) e.base (boxRows D e * rowUnits D (cDfmt x) e)), lvar, r.2.2)
/-- COMBINE: each token row that an entry names is the tree sum over k of the gated expert rows (R251). -/
def landCombine (s : State) (c : Nat) (x : Coll) : Got (List Put × Bool) :=
  let k := claim s c
  let me := selfRank k x
  bindGot (readExperts s c (cLayD x)) fun E => mapGot (allRoutes s c x) fun lists =>
    let mine := lists.getD me []
    let n := E.row * 8 / (cFmt x).bits
    let rows := (mine.foldl (fun (acc : Tab Nat × List (Route × List Xr)) e =>
      let t := E.ents.getD e.expert (0, 0)
      if e.slot = residual then (acc.1, acc.2 ++ [(e, [])]) else
      let at1 := Tab.get 0 acc.1 t.1
      let ws := streamWords x t.1 (phaseBase x 2 + at1 * E.row / 8) (E.row / 8)
      let vals := rowVals (cFmt x) (fun a m => ((wordsBytes (ws.map (·.data))).drop a).take m) 0 0 n
      (Tab.set 0 acc.1 t.1 (at1 + 1), acc.2 ++ [(e, vals)])) ([], [])).2
    let tokens := (mine.map (·.token)).eraseDups
    (tokens.flatMap fun t =>
      let vals := (List.range n).map fun i =>
        treeSum ((List.range 8).map fun j =>
          match rows.find? (fun r => r.1.token == t && r.1.k == j) with
          | some r => if r.1.slot = residual then .zero else mulX (x32 r.1.gate) (r.2.getD i .zero)
          | none => .zero)
      landRow k x (landTid s x) vals (t * n) fun u => (unitOffs (cDfmt x) u).map fun o => 8 * (cDst x + t * (n * (cDfmt x).bits / 8)) + o, false)
/-- DISPATCH: the slots into the own route list, and the count of every expert of the map into DST (R250). -/
def landDispatch (s : State) (c : Nat) (x : Coll) : Got (List Put × Nat) :=
  let me := selfRank (claim s c) x
  bindGot (readExperts s c (cLayD x)) fun E => mapGot (allRoutes s c x) fun lists =>
    let slots := giveSlots (cCap x) lists
    let mine := slots.getD me []
    let put32 := fun a v => (List.range 4).map fun i => (8 * (a + i), (v / 256 ^ i % 256, false))
    let counts := (E.ents.zipIdx).flatMap fun e =>
      put32 (cDst x + 4 * e.2) (if e.1.1 = me then (slots.flatten.filter fun r => r.expert == e.2 && r.slot != residual).length else 0)
    (mine.zipIdx.flatMap (fun e => put32 (cAux x + 16 * e.2 + 8) e.1.slot) ++ counts,
     (mine.filter fun r => r.slot == residual).length)
/-- What ends the run that a copy has written. -/
def copyPads (s : State) (c : Nat) (x : Coll) : List Put :=
  let me := selfRank (claim s c) x
  let f := cFmt x
  let n := unitsOf f (cCount x)
  match x.op with
  | .recv => padPuts f (cDst x) n
  | .broadcast => if me = collRoot x ∧ cDst x = 0 then [] else padPuts f (cDst x) n
  | .gather => if collRoot x = 0xFFF ∨ me = collRoot x then padPuts f (cDst x) (rankCount s c x * n) else []
  | _ => []
/-- What the end of a collective stores and records, but for the bytes copied, which are in place. -/
def land (s : State) (c : Nat) (x : Coll) : Got (State × Coll) :=
  let store := fun w (puts : List Put) (y : Coll) =>
    mapGot (spansOk s c (atomSpans (puts.map Prod.fst))) fun _ => (vaPutAtoms s c w puts, y)
  match x.op with
  | .dispatch => bindGot (landDispatch s c x) fun p => store 8 p.1 { x with overcap := p.2 }
  | .combine => mapGot (bindGot (landCombine s c x) fun p => store (atomW (cDfmt x)) p.1 x) fun r =>
      ({ r.1 with freeCtr := r.1.freeCtr + 1 }, r.2)
  | _ => if isReduce x then bindGot (landReduce s c x) fun p =>
      mapGot (store (atomW (cDfmt x)) p.1 { x with lvar := p.2.1 }) fun r =>
        (countsAdd r.1 c (cTidLand x) [p.2.2.elems, p.2.2.zeros, p.2.2.sats, p.2.2.nonfin], r.2)
         else store (atomW (cFmt x)) (copyPads s c x) x

end Sys2Proof.Machine
end

