-- ==== Sys2Proof/Machine/Sets.lean ====
section
/-!
DEFINITION. What a collective touches, the barriers of a PERMUTE set and how long they are waited for (R255 to R257,
R311), the end of a collective (R252, R253, R512), and what moves one on (R240, R249 to R251).
-/
namespace Sys2Proof.Machine
open Sys2Proof

/-! ### Tables that a collective reads (R174, R243, R245, R249) -/

/-- Byte spans of its layouts, part table, expert map and route list. -/
def collTables (s : State) (c : Nat) (x : Coll) : List (Nat × Nat) :=
  let word := fun va => (vaWord s c (va / 8)).data
  let layout := fun va => [(va, 32), (va + 32, 40 * fld (word va) 31 0)]
  match x.op with
  | .reduceScatter => (cLayS x, 8 * (rankCount s c x + 1)) :: layout (cLayD x)
  | .allReduce => [(cLayS x, 8 * (rankCount s c x + 1))]
  | .permute => layout (cLayS x) ++ layout (cLayD x)
  | .dispatch => [(cLayD x, 8 + 8 * fld (word (cLayD x)) 63 32), (cAux x, 16 * cCount x)]
  | .combine => [(cLayD x, 8 + 8 * fld (word (cLayD x)) 63 32), (cAux x, 16 * cCount x)]
  | _ => []
/-- The words of the tables as they are read: errors are put right and recorded (R174, R175). -/
def noteTables (s : State) (c : Nat) (x : Coll) : State := noteAll s c (collTables s c x)
/-- The words that a phase reads on this rank: its streams, what stays here, and the remainders of cells. -/
def noteReads (s : State) (c : Nat) (x : Coll) (phase : Nat) : State :=
  let k := claim s c
  let me := selfRank k x
  let srcs := fun q => match flow s c x phase me q with | .ok fl => atomSpans (fl.map Prod.fst) | _ => []
  let rem := if cCell x && isReduce x then
      (match cellBlocks s c x with | .ok bs => [(cAux x, runLen .v8 (16 * bs.length))] | _ => []) else []
  noteAll s c ((me :: ranksOut k x).flatMap srcs ++ rem)

/-! ### Objects touched (R255) -/

/-- Bytes of a COMBINE row in DFMT. -/
def outRow (x : Coll) (E : Experts) : Nat := E.row / ((cFmt x).bits / 8) * ((cDfmt x).bits / 8)
/-- Byte spans that a collective reads or writes through SRC, DST, AUX or an extent's BASE on this rank. -/
def touchSpans (s : State) (c : Nat) (x : Coll) : Got (List (Nat × Nat)) :=
  let me := selfRank (claim s c) x
  let f := cFmt x
  let src := (cSrc x, runLen f (cCount x))
  let dst := (cDst x, runLen f (cCount x))
  let cells : Got (List (Nat × Nat)) :=
    if cCell x then mapGot (cellBlocks s c x) fun bs => [(cAux x, runLen .v8 (16 * bs.length))] else .ok []
  match x.op with
  | .send => .ok [src]
  | .recv => .ok [dst]
  | .broadcast => .ok ((if me = collRoot x then [src] else []) ++ if me = collRoot x ∧ cDst x = 0 then [] else [dst])
  | .gather => .ok (src ::
      if collRoot x = 0xFFF ∨ me = collRoot x then [(cDst x, runLen f (rankCount s c x * cCount x))] else [])
  | .allReduce => mapGot cells ([src, (cDst x, runLen (cDfmt x) (cCount x))] ++ ·)
  | .reduceScatter => bindGot (readLayout s c (cLayD x)) fun D => mapGot cells fun l =>
      boxSpans { D with exts := [wholeBox D (cSrc x)] } f 0 ++ boxSpans D (cDfmt x) me ++ l
  | .dispatch => bindGot (readExperts s c (cLayD x)) fun E => mapGot (rdWords s c (cAux x) (2 * cCount x)) fun ws =>
      [(cAux x, 16 * cCount x), (cDst x, 4 * E.ents.length)] ++
        (parseRoutes ws).map fun r => (cSrc x + r.token * E.row, E.row)
  | .combine => bindGot (readExperts s c (cLayD x)) fun E => mapGot (rdWords s c (cAux x) (2 * cCount x)) fun ws =>
      (cAux x, 16 * cCount x) :: (parseRoutes ws).map fun r => (cDst x + r.token * outRow x E, outRow x E)
  | .permute => bindGot (permBoth s c x) fun L => mapGot (permUnits x L.1 L.2 me) fun us =>
      boxSpans L.1 f me ++ boxSpans L.2 f me ++
        [(cAux x, ceilDiv ((us.map fun u => u.stage.length).foldl (· + ·) 0 * atomW f) 8)]
/-- Objects that hold a byte of the spans; tables that cannot be read name nothing. -/
def touchObjs (s : State) (c : Nat) (x : Coll) : Got (List Nat) :=
  let k := claim s c
  match touchSpans s c x with
  | .ok l => .ok ((((l.flatMap fun p => pagesOf p.1 p.2).filter fun p => (pte k p).state != .unmapped).map fun p => (pte k p).obj).eraseDups)
  | .bad _ => .ok []
  | .absent l => .absent l
/-- Two collectives touch an object in common. -/
def touchMeet (s : State) (c : Nat) (x y : Coll) : Got Bool :=
  bindGot (touchObjs s c x) fun a => mapGot (touchObjs s c y) fun b => a.any b.contains
/-- Whether one of several holds; pages that are absent are all asked for. -/
def anyGot (l : List (Got Bool)) : Got Bool :=
  l.foldl (fun a b => match a, b with
    | .ok true, _ => .ok true
    | _, .ok true => .ok true
    | .absent p, .absent q => .absent (p ++ q)
    | .absent p, _ => .absent p
    | _, .absent q => .absent q
    | _, _ => .ok false) (.ok false)

/-! ### PERMUTE sets and their barriers (R255, R256, R262, R263, R311) -/

def setMembers (s : State) (c : Nat) (p : PSet) : List Coll := p.members.filterMap (findColl s c)
/-- Every peer's signature has agreed. -/
def allSigned (s : State) (c : Nat) (x : Coll) : Bool :=
  (peerRanks (claim s c) x).all fun r => x.sigs.contains (rankAddr (claim s c) x r)
/-- A collective of an older epoch that touches an object of a member has not retired (R256). One that waits for the set
to end does not count (R257). -/
def olderTouch (s : State) (c : Nat) (p : PSet) : Got Bool :=
  let ys := (claim s c).colls.filter fun y => !p.members.contains y.id && y.epoch < p.epoch && (y.started || y.ending || y.stamp ≤ p.stamp)
  anyGot (ys.flatMap fun y => (setMembers s c p).map (touchMeet s c y))
/-- Everything sent is acknowledged, and everything to be received has arrived. -/
def collQuiet (s : State) (c : Nat) (x : Coll) : Got Bool :=
  mapGot (phaseDone s c x x.phase) fun b => b && x.phase == lastPhase x && x.sends.all (·.acked)
/-- The set is complete, and its members' signatures and checks are done. -/
def setReady (s : State) (c : Nat) (p : PSet) : Bool :=
  let ms := setMembers s c p
  ms.length == p.setm + 1 && ms.all fun x => x.started && allSigned s c x && goChecks s c x == .ok ()
/-- The device has reached a barrier: its fence, step 2, or the end of step 3. -/
def barReached (s : State) (c : Nat) (p : PSet) (phase : Nat) : Bool :=
  phase < p.phase || (phase == p.phase && match phase with
    | 0 => setReady s c p && olderTouch s c p == .ok false
    | 1 => (setMembers s c p).all fun x => collQuiet s c x == .ok true
    | _ => true)
/-- Bell address of a rank of the set's group. -/
def rankBell (k : Claim) (p : PSet) (r : Nat) : Nat :=
  (match group k p.group with | some g => memberBell k (g.ranks.getD r 0) | none => none).getD 63
def otherRanks (k : Claim) (p : PSet) : List Nat :=
  match group k p.group with | some g => (List.range g.ranks.length).filter (· != g.self) | none => []
/-- Every rank of the set's group, the own one included. -/
def setRanks (k : Claim) (p : PSet) : List Nat := match group k p.group with | some g => List.range g.ranks.length | none => []
/-- A rank's token of a barrier is held, or the rank is gone (R263, R311). -/
def tokenOf (k : Claim) (p : PSet) (phase r : Nat) : Bool :=
  (p.tokens.any fun t => t.1 == rankBell k p r + 64 * phase) || (phase == 2 && p.gone.contains r)
/-- A token of a barrier is held from every rank, the own one included. -/
def barHeld (k : Claim) (p : PSet) (phase : Nat) : Bool := (setRanks k p).all (tokenOf k p phase)
/-- The barrier of step 2 has completed here: no failure of data movement ends the set any more (R263). -/
def setPast (s : State) (c : Nat) (p : PSet) : Bool :=
  2 ≤ p.phase || (p.phase == 1 && barReached s c p 1 && barHeld (claim s c) p 1)
/-- WAIT_NS of the members of the set in flight counted up to now: a barrier reached and not held is waited for (R252). -/
def waitSet (s : State) (c : Nat) : State :=
  match (claim s c).pset with
  | none => s
  | some p =>
    let bar := barReached s c p p.phase && !barHeld (claim s c) p p.phase
    (setMembers s c p).foldl (fun s x =>
      setColl s c (if bar then { x with waitNs := x.waitNs + (s.time - x.waitAt), waitAt := s.time } else collWait s c x)) s

/-! ### The end (R252, R253, R512) -/

/-- A record that the device produces: written, made to wait for its page, or dropped; its events follow. -/
def putLater (s : State) (c va : Nat) (ws : List W64) (events : List (Nat × List Nat)) : State :=
  let post := fun s => events.foldl (fun s e => postEvent s (some c) e.1 e.2) s
  match access (claim s c) (.request none) va (8 * ws.length) with
  | .ok => post (vaStoreWords s c va ws)
  | .bad _ => post s
  | .absent l => addWait s c (l.headD 0) (.record va ws events)
/-- *Collective completion record*. -/
def collRecord (x : Coll) (status : Nat) : List W64 :=
  [w64 (at' status 48 + at' (b2n x.poison) 34 + at' (b2n x.lvar) 33 + at' (b2n x.lost) 32 + x.epoch),
   w64 (sat64 x.waitNs), w64 (sat64 x.bytes), w64 (at' x.overcap 32)]
def dropColl (s : State) (c id : Nat) : State :=
  let k := claim s c; setClaim s c { k with colls := k.colls.filter fun y => y.id != id }
/-- The completion record of an ended collective: the collective leaves the device once it is written or dropped (R238). -/
def putEnded (s : State) (c id va : Nat) (ws : List W64) (events : List (Nat × List Nat)) : State :=
  match access (claim s c) (.request none) va (8 * ws.length) with
  | .absent l => addWait s c (l.headD 0) (.ended id va ws events)
  | _ => putLater (dropColl s c id) c va ws events
/-- A collective ends: its contexts, waits and DESCs go, its record and event follow. -/
def endColl (s : State) (c : Nat) (x : Coll) (status : Nat) : State :=
  let s := waitSet s c
  let x := { x with waitNs := match findColl s c x.id with | some y => (collWait s c y).waitNs | none => x.waitNs }
  let s := setColl s c { x with ending := true, sends := [], got := [] }
  let s := freeContexts s c x.id
  let s := { s with waits := s.waits.filter fun w => !(w.claim == c && w.who == .transfer x.id) }
  putEnded s c x.id (cDone x) (collRecord x status) [(0x0001, [cDone x, at' x.group 32 + x.issue])]
/-- Ranges whose contents a failure leaves undefined: DST, remainders, route lists (R253); DST of a DISPATCH holds the row counts. -/
def undefSpans (s : State) (c : Nat) (x : Coll) : List (Nat × Nat) :=
  let k := claim s c
  let run := fun f n => runLen f n
  let rem := if cCell x then
      (match cellBlocks s c x with | .ok bs => [(cAux x, run .v8 (16 * bs.length))] | _ => []) else []
  match x.op with
  | .recv => [(cDst x, run (cFmt x) (cCount x))]
  | .broadcast => if cDst x = 0 then [] else [(cDst x, run (cFmt x) (cCount x))]
  | .gather => if cDst x = 0 then [] else [(cDst x, run (cFmt x) (rankCount s c x * cCount x))]
  | .allReduce => (cDst x, run (cDfmt x) (cCount x)) :: rem
  | .reduceScatter =>
    (match readLayout s c (cLayD x) with
      | .ok D => (rankExts D (selfRank k x)).map fun e =>
          (e.base, run (cDfmt x) (boxRows D e * rowUnits D (cDfmt x) e * unitElems (cDfmt x)))
      | _ => []) ++ rem
  | .dispatch => (cAux x, 16 * cCount x) ::
    (match readExperts s c (cLayD x) with | .ok E => [(cDst x, 4 * E.ents.length)] | _ => [])
  | .combine =>
    (cAux x, 16 * cCount x) ::
    (match readExperts s c (cLayD x), rdWords s c (cAux x) (2 * cCount x) with
      | .ok E, .ok ws => (parseRoutes ws).map fun r => (cDst x + r.token * outRow x E, outRow x E)
      | _, _ => [])
  | _ => []
/-- Bytes of a range become free values where they are resident. -/
def freeSpan (s : State) (c va n : Nat) : State :=
  if n = 0 then s else
  (List.range ((va + n + 7) / 8 - va / 8)).foldl (fun s i =>
    let w := 8 * (va / 8 + i)
    let lo := max va w
    let hi := min (va + n) (w + 8)
    match access (claim s c) (.request none) w 8 with
    | .ok =>
      let (v, s) := freeValue s
      if hi - lo = 8 then vaPut s c w [⟨v, false⟩] else vaStore s c lo (((leBytes 8 v.toNat).drop (lo - w)).take (hi - lo))
    | _ => s) s
/-- Failures whose rules say that no data moves (R75, R240): what stands at DST stays. -/
def movesNone (status : Nat) : Bool := [stCollMismatch, stReducePartsInvalid].contains status
/-- The status that the ABORT names: LAYOUT_INVALID is every rank's where an element of LAYOUT_D lies in no box of LAYOUT_S (R261);
a layout that is no layout is the failing rank's own (R244, R253). -/
def toldStatus (s : State) (c : Nat) (x : Coll) (status : Nat) : Nat :=
  if status ≠ stLayoutInvalid then status
  else match x.op, permBoth s c x with | .permute, .ok _ => status | _, _ => stCollAborted
/-- One collective fails with a status; the peers are told a status where it fails here (R253). -/
def failOne (s : State) (c : Nat) (x : Coll) (status : Nat) (told : Option Nat) : State :=
  let s := match told with | some t => sendAbort s c x t | none => s
  let keep := x.op = .permute ∨ (x.phase = 0 ∧ movesNone status)
  let s := if keep then s else (undefSpans s c x).foldl (fun s p => freeSpan s c p.1 p.2) s
  endColl s c x status
/-- A collective fails; a member of a PERMUTE set takes its whole set with it (R255, R263), and a failed ownership check its
claim (R345). -/
def failColl (s : State) (c id status : Nat) (tell : Bool) : State :=
  let s := blocked s c status
  let told := fun x => if tell then some (toldStatus s c x status) else none
  match findColl s c id, (claim s c).pset with
  | none, _ => s
  | some x, some p =>
    if p.members.contains id then
      let s := p.members.foldl (fun s m => match findColl s c m with | some y => failOne s c y status (told x) | none => s) s
      let k := claim s c
      setClaim s c { k with pset := none, turn := if p.turn then k.turn.map fun t => { t with failed := status } else k.turn }
    else failOne s c x status (told x)
  | some x, none => failOne s c x status (told x)

/-! ### What events move a collective on -/

/-- The outcome of a piece of a collective's work: go on, fail, or wait for pages (R512). -/
def settle (s : State) (c id : Nat) (r : Got State) : State :=
  match r with
  | .ok t => t
  | .bad n => failColl s c id n true
  | .absent l => stallAll s c l (.transfer id)
/-- A collective moves on by one phase: its tables are checked, and data begins to move once every signature agrees; rows
follow the route lists. A PERMUTE makes its checks, and waits for its fence, which PERMUTE_FENCE_CLEAR opens. -/
def advanceOnce (s : State) (c id : Nat) : State :=
  match findColl s c id with
  | none => s
  | some x =>
    if !x.started || !allSigned s c x then s
    else if x.op = .permute then
      if x.phase = 0 then settle s c id (mapGot (goChecks s c x) fun _ => s) else s
    else if x.phase = 0 then
      let s := noteReads (noteTables s c x) c x 1
      settle s c id (bindGot (goChecks s c x) fun _ => goPhase s c x 1)
    else if x.phase < lastPhase x then
      let s := noteReads s c x (x.phase + 1)
      settle s c id (bindGot (phaseDone s c x x.phase) fun b =>
        if !b then .ok s else
        bindGot (readExperts s c (cLayD x)) fun E => bindGot (allRoutes s c x) fun l =>
          if l.all (routesOk E.ents.length) then goPhase s c x (x.phase + 1) else .bad stRouteInvalid)
    else s
def phaseOf (s : State) (c id : Nat) : Nat := match findColl s c id with | some x => x.phase | none => 0
/-- Where nothing is to be received, the next phase follows at once (R250, R251). -/
def advance (s : State) (c id : Nat) : State :=
  let t := advanceOnce s c id
  if phaseOf s c id < phaseOf t c id then advanceOnce t c id else t

end Sys2Proof.Machine
end

