-- ==== Sys2Proof/Machine/Fatal.lean ====
section
/-!
DEFINITION. Claim-fatal and device-fatal errors (R345, R469 to R472), and the end of all of a claim's work.
-/
namespace Sys2Proof.Machine
open Sys2Proof

/-- Requests of a claim fail and end (R470). -/
def endRequests (s : State) (c status : Nat) : State :=
  (s.reqs.filter fun q => q.claim == c).foldl (fun s q =>
    let s := failRequest s q.id status
    match findReq s q.id with | some p => closeRequest s p | none => s) s
/-- Steps in flight and live streams end FAILED. -/
def endStreams (s : State) (c status : Nat) : State :=
  let s := (s.batches.filter fun b => b.claim == c).foldl (fun s b => failBatch s b status) s
  (liveStreams s c).foldl (fun s n => endStream s n .failed 6 status) s
/-- Deferred commands of a claim that are no request: sweep, turn, loads, switch, assays, ledger checks,
prefetches, evictions, destructions. -/
def claimCmds (s : State) (c : Nat) : List (Nat × W32) :=
  let k := claim s c
  (match k.sweep with | some w => [(w.ring, w.seq)] | none => []) ++
  (match k.turn with | some t => [(t.ring, t.seq)] | none => []) ++
  k.loads.map (fun l => (l.ring, l.seq)) ++
  (match k.switch with | some (_, _, r, q) => [(r, q)] | none => []) ++
  k.assays.map (fun a => (a.ring, a.seq)) ++
  k.ledgers.map (fun a => (a.ring, a.seq)) ++
  (s.fetches.filter (fun f => f.2.2.1 == c)).map (fun f => (f.1, f.2.1)) ++
  (s.evicts.filter (fun f => f.1 == c)).map (fun f => (f.2.2.1, f.2.2.2)) ++
  s.hoists.filterMap (fun h => if h.claim = c then h.cmd else none) ++
  k.objs.filterMap fun o => o.2.dying
def endCmds (s : State) (c status : Nat) : State :=
  let s' := (claimCmds s c).foldl (fun s p => reply s p.1 p.2 status 0 0) s
  let k := claim s' c
  let hs := s'.hoists.map fun h => if h.claim = c then { h with cmd := none } else h
  let s' := { s' with fetches := s'.fetches.filter fun f => f.2.2.1 != c, evicts := s'.evicts.filter fun f => f.1 != c, hoists := hs }
  let os := k.objs.map fun o => (o.1, { o.2 with dying := none })
  setClaim s' c
    { k with objs := os, sweep := none, turn := none, loads := [], switch := none, assays := [], ledgers := [] }
/-- Collectives of a claim send ABORT and end (R253, R426, R470). -/
def endColls (s : State) (c status : Nat) : State :=
  let s := ((claim s c).colls.filter fun x => !x.ending).foldl (fun s x => failOne s c x status (some status)) s
  let k := { claim s c with colls := [] }
  setClaim { s with descs := s.descs.filter fun d => d.2.1.toNat >>> 32 % 65536 != k.ctag.toNat } c { k with pset := none, sigBox := [], aborts := [] }
/-- All work of a claim ends with a status; waits for its pages end with it. -/
def endWork (s : State) (c status : Nat) : State :=
  let s := endColls (endCmds (endStreams (endRequests s c status) c status) c status) c status
  { s with waits := s.waits.filter fun w => w.claim != c }
/-- What a claim-fatal error ends, in the order of R470: the claim's work, channels and frames; it is then in no shift,
and its key is erased (R441). After a device-fatal error, which governs, it is only recorded (R472). -/
def endFatal (s : State) (c status : Nat) : State :=
  if !inService (claim s c) || s.fatal then s else
  let s := stopBell (closeClaimChannels (endWork s c status) c status) c
  setClaim s c { claim s c with dead := true, shift := .none, key := 0 }
/-- A claim-fatal error: the record, the work ended in the order of R470, and the claim in no shift. -/
def claimFatal (s : State) (c status : Nat) (r : SumpRec) : State :=
  endFatal (postSump s { r with cls := 2, claim := some c, status := status }) c status
/-- A device-fatal error (R471): FAULT_N and the fatal bit, ABORT for every collective, the bell silent. -/
def deviceFatal (s : State) (r : SumpRec) : State :=
  let s := postSump s { r with cls := 3 }
  if s.fatal then s else
  let s := { s with fatal := true, pins := { s.pins with fault := true } }
  let s := (List.range 8).foldl (fun s c => ((claim s c).colls.filter fun x => !x.ending).foldl (fun s x => sendAbort s c x 0) s) s
  let s := { s with bell := { s.bell with queue := [] } }
  (List.range 52).foldl (fun s n => modShaft s n fun x => { x with ctrl := [], replay := [], resend := [], queue := x.queue.filter fun q => isAbort q.2.1 }) s
/-- An access whose ownership check fails: its request fails, and the claim of the access ends (R345). -/
def ownerFault (s : State) (c unit inst : Nat) : State :=
  claimFatal s c stOwnerFault { cls := 2, unit := unit, inst := inst, kind := 8 }
/-- A command of the claim has ended with a status: a failed ownership check ends the claim too (R345). -/
def failOwned (s : State) (c status : Nat) : State := if status = stOwnerFault then ownerFault s c 0x0B 0 else s
/-- Claims of which an access in the background was blocked (R345), or whose system frames hold a word beyond correction (R469), end,
their records written. -/
def settleFoul (s : State) : State := s.foul.foldl (fun s p => endFatal s p.1 p.2) { s with foul := [] }

end Sys2Proof.Machine
end

