-- ==== Sys2Proof/Machine/Collectives.lean ====
section
/-!
DEFINITION. Collectives on their way: the checks on a descriptor (R241, R242), issue and PERMUTE sets (R240,
R255), the start (R238, R240, R257, R258), transfers (R271 to R273, R283), the barriers of PERMUTE (R256, R262,
R263), retirement and timeouts (R252, R253).
-/
namespace Sys2Proof.Machine
open Sys2Proof

/-! ### The descriptor (R241, R242) -/

def opOf : Nat → Option CollOp
  | 0 => some .send | 1 => some .recv | 2 => some .broadcast | 3 => some .gather | 4 => some .reduceScatter
  | 5 => some .allReduce | 6 => some .dispatch | 7 => some .combine | 8 => some .permute | _ => none
def descOp (ws : List W64) : Nat := fld (ws.getD 0 0) 63 60
def descGroup (ws : List W64) : Nat := fld (ws.getD 0 0) 47 42
def descSetm (ws : List W64) : Nat := fld (ws.getD 0 0) 21 16
def descEpoch (ws : List W64) : Nat := fld (ws.getD 1 0) 63 32
def descCell (ws : List W64) : Bool := bit (ws.getD 0 0) 49
/-- Words (3 SRC, 4 DST, 5 AUX, 6 LAYOUT_S, 7 LAYOUT_D, 8 DONE) that an operation uses. -/
def usedWords (op : Nat) (cell : Bool) : List Nat :=
  8 :: match op with
  | 0 => [3] | 1 => [4] | 2 => [3, 4] | 3 => [3, 4]
  | 4 => [3, 6, 7] ++ (if cell then [5] else [])
  | 5 => [3, 4, 6] ++ (if cell then [5] else [])
  | 6 => [3, 4, 5, 7] | 7 => [4, 5, 7] | _ => [5, 6, 7]
/-- The acceptance checks of a descriptor on a claim: 0 or the first status. -/
def descStatus (k : Claim) (ws : List W64) : Nat :=
  let w := fun n => ws.getD n 0
  let op := descOp ws
  let f := fld (w 0) 59 56
  let d := fld (w 0) 55 52
  let cell := descCell ws
  if bit (w 0) 48 || fld (w 0) 29 22 != 0 || (List.range 6).any (fun i => fld (w (3 + i)) 63 48 != 0)
    || 8 < op || 7 < f || 7 < d || 1 < fld (w 0) 51 50 || (op != 8 && descSetm ws != 0)
    || (List.range 6).any (fun i => !(usedWords op cell).contains (3 + i) && w (3 + i) != 0) then stReservedField
  else if (List.range 6).any (fun i => fld (w (3 + i)) 2 0 != 0) then stBadEncoding
  else if (group k (descGroup ws)).isNone then stBadGroup
  else 0
/-- What an accepted descriptor fails with at once: 0, or a count, a format or a root that its operation does not
take (R242, R245, R246). The status stands in the completion record (R252). DESIGN CHOICE (log 26): CELL = 1 on an operation that is
no reduction asks for V8 and has no other effect, and COUNT must be a multiple of 16 where FMT is V8 or V4, not where DFMT alone is. -/
def formStatus (k : Claim) (ws : List W64) : Nat :=
  let w := fun n => ws.getD n 0
  let op := descOp ws
  let f := fld (w 0) 59 56
  let d := fld (w 0) 55 52
  let cell := descCell ws
  let int := fun n => n == 3 || n == 4 || n == 7
  let root := fld (w 0) 41 30
  let ranks := match group k (descGroup ws) with | some g => g.ranks.length | none => 0
  let own := match group k (descGroup ws) with | some g => g.self | none => 0
  if (f == 5 || f == 6) && (op ≤ 3 || op == 5) && fld (w 2) 31 0 % 16 != 0 then stLayoutSplitsBlock
  else if (op ≤ 3 || op == 8 || op == 6) && d != f then stFormatPair
  else if (op == 4 || op == 5) && (int f || int d || (cell && (f != 5 || d != 5))) then stFormatPair
  else if op == 7 && !((f == 0 || f == 2) && (d == 0 || d == 2)) then stFormatPair
  else if cell && f != 5 then stFormatPair
  else if (op ≤ 1 && (ranks ≤ root || root == own)) || (op == 2 && ranks ≤ root) || (op == 3 && ranks ≤ root && root != 0xFFF) then
    stBadEncoding
  else 0

/-! ### Issue (R238, R240, R255) -/

/-- The group slot counts one more, and the collective waits for its start. -/
def addColl (s : State) (c : Nat) (op : CollOp) (ws : List W64) (stamp : Nat) : State × Coll :=
  let (id, s) := freshId s
  let k := claim s c
  let g := descGroup ws
  let n := match group k g with | some r => r.issued | none => 0
  let x : Coll :=
    { id := id, issue := n, desc := ws, op := op, group := g, epoch := descEpoch ws, stamp := stamp, started := false, sig := []
      sigs := [], phase := 0, sends := [], got := [], progress := s.time, heard := [], waitNs := 0, waitAt := s.time, bytes := 0, poison := false
      lvar := false, lost := false, overcap := 0, ending := false }
  let gs := Tab.set none k.groups g ((group k g).map fun r => { r with issued := (r.issued + 1) % 2 ^ 32 })
  (setClaim s c { k with groups := gs, colls := k.colls ++ [x] }, x)
/-- Whether a PERMUTE may be issued: EPOCH_STALE, PERMUTE_BUSY or 0 (R255). -/
def permuteStatus (k : Claim) (ws : List W64) : Nat :=
  if descEpoch ws ≤ k.epoch then stEpochStale
  else match k.pset with
    | none => 0
    | some p => if p.epoch ≠ descEpoch ws ∨ p.setm < p.members.length then stPermuteBusy else 0
/-- A PERMUTE joins its set, or opens it; one that differs from the first member fails the set. -/
def joinSet (s : State) (c : Nat) (x : Coll) (turn : Bool) : State :=
  let k := claim s c
  match k.pset with
  | none =>
    let p : PSet :=
      { epoch := x.epoch, setm := cSetm x, group := x.group, timeout := cTimeout x, members := [x.id], issue := x.issue
        since := s.time, stamp := x.stamp, phase := 0, tokens := [], passed := 0, gone := [], turn := turn, objs := [] }
    setClaim s c { k with pset := some p }
  | some p =>
    let s := setClaim s c { k with pset := some { p with members := p.members ++ [x.id] } }
    if p.setm ≠ cSetm x ∨ p.group ≠ x.group ∨ p.timeout ≠ cTimeout x then failColl s c x.id stCollMismatch true else s
/-- A descriptor of a turn issued, or one that nothing turns away: a PERMUTE joins its set. -/
def issueColl (s : State) (c : Nat) (ws : List W64) (stamp : Nat) (turn : Bool) : State :=
  match opOf (descOp ws) with
  | none => s
  | some op =>
    let (s, x) := addColl s c op ws stamp
    if op = .permute then joinSet s c x turn else s
/-- What keeps a PERMUTE outside a turn from its set: 0, WRONG_SHIFT, EPOCH_STALE or PERMUTE_BUSY (R255, R258). -/
def setStatus (k : Claim) (ws : List W64) : Nat :=
  if descOp ws ≠ 8 then 0 else if shiftNow k ≠ .learning then stWrongShift else permuteStatus k ws
/-- COLL_ISSUE's effect: the accepted descriptor is issued on its slot. One that fails at once has its completion
record, its event, and its abort to the other ranks (R252, R253). A PERMUTE that no set takes fails alone, and a
member takes its set with it (R263). -/
def acceptColl (s : State) (c : Nat) (ws : List W64) (stamp : Nat) : State :=
  let alone := setStatus (claim s c) ws
  let form := formStatus (claim s c) ws
  if alone ≠ 0 then
    match opOf (descOp ws) with
    | none => s
    | some op =>
      let (s, x) := addColl s c op ws stamp
      failOne s c x alone (some alone)
  else if form ≠ 0 then failColl (issueColl s c ws stamp false) c (freshId s).1 form true
  else issueColl s c ws stamp false

/-! ### Signatures (R240) -/

/-- The signature: OP, FMT, DFMT, CELL, SETM, EPOCH, COUNT, and the headers of layouts and part table. -/
def sigOf (s : State) (c : Nat) (x : Coll) : Got (List W64) :=
  let base := [descOp x.desc, cFmtCode x, cDfmtCode x, b2n (cCell x), cSetm x, x.epoch, cCount x].map w64
  let tables : List (Nat × Nat) := match x.op with
    | .permute => [(cLayS x, 4), (cLayD x, 4)]
    | .reduceScatter => [(cLayS x, 1), (cLayD x, 4)]
    | .allReduce => [(cLayS x, 1)]
    | _ => []
  tables.foldl (fun acc t => bindGot acc fun l => mapGot (rdWords s c t.1 t.2) (l ++ ·)) (.ok base)
/-- SEND matches RECV; every other field is equal. -/
def sigMatch (a b : List W64) : Bool :=
  let p := (a.headD 0).toNat
  let q := (b.headD 0).toNat
  a.drop 1 == b.drop 1 && (if p ≤ 1 then p + q == 1 else p == q)
/-- A peer's signature compared with the own. -/
def takeSig (s : State) (c id : Nat) (b : SigBody) : State :=
  match findColl s c id with
  | none => s
  | some x =>
    let k := claim s c
    match (peerRanks k x).find? fun r => rankAddr k x r == b.sender with
    | none => s
    | some r =>
      if !sigMatch x.sig b.fields then failColl s c id stCollMismatch false
      else setColl s c { collProgress s c x r with sigs := if x.sigs.contains b.sender then x.sigs else x.sigs ++ [b.sender] }

/-! ### Receive contexts (R272) -/

def rxGet (s : State) (n : Nat) : Option RxCtx := Tab.get none s.rxctx n
def rxSet (s : State) (n : Nat) (x : Option RxCtx) : State := { s with rxctx := Tab.set none s.rxctx n x }
/-- The lowest free context, while the claim holds fewer than 512. -/
def freeRx (s : State) (c : Nat) : Option Nat :=
  let mine := s.rxctx.filter fun e => match e.2 with | some x => x.claim == c | none => false
  if 512 ≤ mine.length then none else (List.range 4096).find? fun n => (rxGet s n).isNone
/-- The collective that an end-to-end flit names. -/
def collOf (s : State) (c group issue : Nat) : Option Coll :=
  (claim s c).colls.find? fun x => x.group == group && x.issue == issue && !x.ending
/-- Rank of a device address in a collective's group. -/
def rankOf (k : Claim) (x : Coll) (addr : Nat) : Option Nat := (groupRanks k x).findIdx? (· == addr)
/-- The phase to which an offset of a stream belongs has begun here. -/
def phaseOpen (x : Coll) (off : Nat) : Bool :=
  x.started && (if isExpert x && phaseBase x 2 ≤ off / 8 then 2 ≤ x.phase else 1 ≤ x.phase)
/-- What becomes of a waiting DESC: it goes on waiting, is dropped, or is answered. -/
def tryDesc (s : State) (via : Nat) (hdr : W64) (b : DescBody) : State × Bool :=
  let ctx := fld hdr 31 20
  match tagClaim s (BitVec.ofNat 16 (fld hdr 47 32)) with
  | none => (s, true)
  | some c =>
    match collOf s c b.group b.issue with
    | none =>
      let k := claim s c
      let old := match group k b.group with | some g => decide (b.issue < g.issued) | none => false
      (s, old)
    | some x =>
      if !phaseOpen x b.offset then (s, false) else
      match rankOf (claim s c) x b.sender with
      | none => (s, true)
      | some r =>
        let refuse := fun st => (failColl (sendCtrl s c b.sender ctx (.grant { context := 0, refusal := st })) c x.id st true, true)
        match bindGot (pieceDst s c x r b.offset) fun dst =>
            spansOk s c (atomSpans (dst.take (b.bytes * 8 / flowW x))) with
        | .bad st => refuse st
        | .absent l => (stallAll s c l (.transfer x.id), false)
        | .ok _ =>
          match freeRx s c with
          | none => (s, false)
          | some m =>
            let rx : RxCtx :=
              { claim := c, coll := x.id, via := via, sender := b.sender, sctx := ctx, off := b.offset, bytes := b.bytes, members := b.members
                seen := [], closed := none }
            let s := setColl (rxSet s m (some rx)) c (collProgress s c x r)
            (sendCtrl s c b.sender ctx (.grant { context := m, refusal := 0 }), true)
/-- DESCs of a collective that waited for a page are refused with the status of its fetch, a deadline's or what the page brought
(R272). -/
def refuseOn (s : State) (c id page status : Nat) : State :=
  let waits := fun (d : Nat × W64 × DescBody) =>
    tagClaim s (BitVec.ofNat 16 (fld d.2.1 47 32)) == some c &&
    match collOf s c d.2.2.group d.2.2.issue with
    | some x => x.id == id && phaseOpen x d.2.2.offset && (match rankOf (claim s c) x d.2.2.sender with
      | some r => (match bindGot (pieceDst s c x r d.2.2.offset) fun dst =>
            spansOk s c (atomSpans (dst.take (d.2.2.bytes * 8 / flowW x))) with
          | .absent l => l.contains page
          | _ => false) ||
          (match pieceDst s c x r d.2.2.offset with
            | .ok dst => (atomSpans (dst.take (d.2.2.bytes * 8 / flowW x))).any fun p => (pagesOf p.1 p.2).contains page
            | _ => false)
      | none => false)
    | none => false
  (s.descs.filter waits).foldl (fun s d =>
    sendCtrl { s with descs := s.descs.erase d } c d.2.2.sender (fld d.2.1 31 20) (.grant { context := 0, refusal := status })) s
/-- Every waiting DESC tried once more, in order of arrival. -/
def pumpDescs (s : State) : State :=
  s.descs.foldl (fun s d =>
    let r := tryDesc s d.1 d.2.1 d.2.2
    if r.2 then { r.1 with descs := r.1.descs.erase d } else r.1) s
/-- A collective moved on, with the DESCs that waited for it. -/
def goOn (s : State) (c id : Nat) : State := pumpDescs (advance s c id)

/-! ### The start (R238, R240, R257, R258) -/

/-- A sweep holds a collective: one in progress that was accepted before it, or, for a PERMUTE, before its set (R188, R258). -/
def sweepHolds (k : Claim) (x : Coll) : Bool :=
  match k.sweep with
  | some w =>
    let since := if x.op = .permute then (match k.pset with | some p => p.stamp | none => x.stamp) else x.stamp
    decide (w.stamp < since) && (cCell x || x.op == .permute)
  | none => false
/-- The PERMUTE set in flight holds a collective: one of its epoch, and one issued after its first member that touches an
object of a member (R257). -/
def setHolds (s : State) (c : Nat) (x : Coll) : Got Bool :=
  let k := claim s c
  match k.pset with
  | some p =>
    if x.op = .permute then .ok false
    else if k.epoch < x.epoch ∧ p.epoch = x.epoch then .ok true
    else if p.stamp < x.stamp then anyGot ((setMembers s c p).map (touchMeet s c x))
    else .ok false
  | none => .ok false
/-- Whether something other than a place among the 16 holds a collective. -/
def held (s : State) (c : Nat) (x : Coll) : Bool := sweepHolds (claim s c) x || setHolds s c x != .ok false
/-- A member of a PERMUTE set has started. -/
def setBegun (k : Claim) : Bool := k.colls.any fun y => y.op == .permute && (y.started || y.ending)
/-- The collective whose place one takes: the first member of its set, or itself. -/
def placeOf (k : Claim) (x : Coll) : Nat :=
  if x.op = .permute then (match k.pset with | some p => p.members.headD x.id | none => x.id) else x.id
/-- Places among the 16 that are taken, or that collectives issued earlier will take first (R238). The members of a
PERMUTE set move together and take one place (log 26). -/
def placesTaken (s : State) (c : Nat) (x : Coll) : Nat :=
  let k := claim s c
  let inFlight := (k.colls.filter fun y => (y.started || y.ending) && y.op != .permute).length + b2n (setBegun k)
  let ahead := (k.colls.takeWhile fun y => y.id != placeOf k x).foldl (fun (a : List Nat × Nat) y =>
    if y.started || y.ending || (y.op == .permute && (setBegun k || placeOf k y != y.id)) then a
    else if a.1.contains y.group || held s c y then (y.group :: a.1, a.2) else (a.1, a.2 + 1)) ([], 0)
  inFlight + ahead.2
/-- What a start must wait for. -/
def startWaits (s : State) (c : Nat) (x : Coll) : Got Bool :=
  let k := claim s c
  let order := k.colls.any fun y => y.group == x.group && y.issue < x.issue && !y.started && !y.ending
  let full := !(x.op == .permute && setBegun k) && 16 ≤ placesTaken s c x
  if sweepHolds k x || order || full then .ok true else setHolds s c x
/-- The status with which an ABORT ends a collective (R253): the one a rule gives every rank, else COLL_ABORTED. -/
def abortStatus (b : AbortBody) : Nat := if everyRank b.status then b.status else stCollAborted
/-- A collective starts: its signature goes to every peer, and those that have come are compared (R240). -/
def beginColl (s : State) (c : Nat) (x : Coll) (fs : List W64) : State :=
  let k := claim s c
  let s := setColl s c { x with started := true, sig := fs, progress := s.time, waitAt := s.time }
  let s := (peerRanks k x).foldl (fun s r =>
    sendCtrl s c (rankAddr k x r) 0 (.sig { sender := s.devAddr, group := x.group, issue := x.issue, fields := fs })) s
  let mine := k.sigBox.filter fun b => b.group == x.group && b.issue == x.issue
  let k := claim s c
  let s := setClaim s c { k with sigBox := k.sigBox.filter fun b => !(b.group == x.group && b.issue == x.issue) }
  goOn (mine.foldl (fun s b => takeSig s c x.id b) s) c x.id
/-- COLL_START: an issued collective that nothing holds starts, or fails (R240, R255 to R258, R311). -/
def collStartStep (s : State) (c id : Nat) : State :=
  match findColl s c id with
  | none => s
  | some x =>
    let k := claim s c
    if x.started || !running s || !inService k then s else
    match startWaits s c x, k.aborts.find? (fun a => a.group == x.group && a.issue == x.issue) with
    | .absent l, _ => stallAll s c l (.transfer id)
    | .ok false, some a => failColl s c id (abortStatus a) false
    | .ok false, none =>
      if x.op ≠ .permute ∧ x.epoch < k.epoch then failColl s c id stEpochStale true
      else if x.op ≠ .permute ∧ k.epoch < x.epoch then failColl s c id stEpochAhead true
      else if x.op = .permute ∧ (groupRanks k x).any (fun a => (memberBell k a).isNone) then failColl s c id stNoBellPeer true
      else
        let s := noteTables s c x
        match sigOf s c x with
        | .bad n => failColl s c id n true
        | .absent l => stallAll s c l (.transfer id)
        | .ok fs => beginColl s c x fs
    | _, _ => s
def execCollStart (c : Fin 8) (coll : Nat) (s : State) : Res := .next (collStartStep s c coll)

/-! ### What end-to-end flits do (R253, R271 to R273, R283) -/

def deliverSig (s : State) (c : Nat) (b : SigBody) : State :=
  match collOf s c b.group b.issue with
  | some x =>
    if x.started then goOn (takeSig s c x.id b) c x.id else
    let k := claim s c; setClaim s c { k with sigBox := k.sigBox ++ [b] }
  | none =>
    let k := claim s c
    match group k b.group with
    | some g => if b.issue < g.issued then s else setClaim s c { k with sigBox := k.sigBox ++ [b] }
    | none => setClaim s c { k with sigBox := k.sigBox ++ [b] }
/-- An ABORT ends the collective, but for a PERMUTE past the barrier of step 2, whose peers count the rank as gone (R263). -/
def deliverAbort (s : State) (c : Nat) (b : AbortBody) : State :=
  let k := claim s c
  match collOf s c b.group b.issue with
  | none =>
    (match group k b.group with
      | some g => if b.issue < g.issued then s else setClaim s c { k with aborts := k.aborts ++ [b] }
      | none => s)
  | some x =>
    match k.pset, rankOf k x b.sender with
    | some p, some r =>
      if p.members.contains x.id && setPast s c p then
        setClaim s c { k with pset := some { p with gone := if p.gone.contains r then p.gone else p.gone ++ [r] } }
      else pumpDescs (failColl s c x.id (abortStatus b) false)
    | none, some _ => pumpDescs (failColl s c x.id (abortStatus b) false)
    | _, none => s
/-- The collective and transfer that a sender context names. -/
def sendOf (s : State) (c ctx : Nat) : Option (Coll × SendXfer) :=
  (claim s c).colls.findSome? fun x => (x.sends.find? fun t => t.ctx == ctx && !t.acked).map fun t => (x, t)
def setSend (s : State) (c : Nat) (x : Coll) (t : SendXfer) : State :=
  setColl s c { collProgress s c x t.rank with sends := x.sends.map fun u => if u.ctx = t.ctx ∧ !u.acked then t else u }
/-- The payloads of a transfer: 244 bytes a flit, poisoned words as 0. -/
def dataPayloads (ws : List PWord) : List (List Byte) :=
  (chunks 244 (wordsBytes (ws.map fun w => if w.poison then 0 else w.data))).map fun p => p ++ List.replicate (244 - p.length) 0
/-- The CLOSE of a transfer: flits on each member, and the poisoned words by their offsets while they fit. -/
def closeOf (t : SendXfer) (flits : Nat) : CloseBody :=
  let m := max 1 t.members.length
  let bad := (t.words.zipIdx.filter fun w => w.1.poison).map fun w => 8 * w.2
  { sent := (List.range m).map fun i => (flits + m - 1 - i) / m
    poison := if bad.length ≤ 24 then bad else [], allBad := decide (24 < bad.length) }
/-- A GRANT that refuses ends the collective with its status (R272); one that is no code of R388 is taken as COLL_ABORTED
(log 26). Any other lets the DATA flits go, striped over the members or on the routed member, and the CLOSE after them; their bytes count as
sent (R252). -/
def deliverGrant (s : State) (c ctx : Nat) (b : GrantBody) : State :=
  match sendOf s c ctx with
  | none => s
  | some (x, t) =>
    if b.refusal ≠ 0 then pumpDescs (failColl s c x.id (if listedStatus b.refusal then b.refusal else stCollAborted) true)
    else if t.granted.isSome then s
    else
      let dst := rankAddr (claim s c) x t.rank
      let ps := dataPayloads t.words
      let tag := (claim s c).ctag
      let routed := membersFor s c dst
      let s := setSend s c { x with bytes := x.bytes + 8 * t.words.length } { t with granted := some b.context }
      let s := ps.zipIdx.foldl (fun s p =>
        let n := if t.members.isEmpty then routed[b.context % routed.length]? else t.members[p.2 % t.members.length]?
        match n with
        | some n => queueFlit s n tag ⟨mkHdr typData dst tag.toNat b.context, .data p.1⟩
        | none => s) s
      sendCtrl s c dst b.context (.close (closeOf t ps.length))
def deliverXdone (s : State) (c ctx : Nat) : State :=
  match sendOf s c ctx with
  | none => s
  | some (x, t) => goOn (setSend s c x { t with acked := true }) c x.id
/-- Flits counted on each member, and the bytes in the order of the transfer. -/
def rxCount (x : RxCtx) (m : Nat) : Nat := (x.seen.filter fun e => e.1 == m).length
def rxBytes (x : RxCtx) (members : List Nat) (flits : Nat) : List Byte :=
  let on := fun m => (x.seen.filter fun e => e.1 == m).map Prod.snd
  (List.range flits).flatMap fun j => (on (members.getD (j % members.length) 0)).getD (j / members.length) []
/-- Words of a transfer with the poison that its CLOSE lists. -/
def rxWords (x : RxCtx) (b : CloseBody) : List PWord :=
  let ms := if x.members.isEmpty then [0] else x.members
  let ws := bytesWords ((rxBytes x ms (b.sent.foldl (· + ·) 0)).take x.bytes)
  ws.zipIdx.map fun w => ⟨w.1, b.allBad || b.poison.contains (8 * w.2)⟩
/-- A transfer whose CLOSE and flits have all come is written, acknowledged and closed. -/
def finishRx (s : State) (n : Nat) : State :=
  match rxGet s n with
  | none => s
  | some x =>
    match x.closed with
    | none => s
    | some b =>
      let ms := if x.members.isEmpty then [0] else x.members
      if !(ms.zip b.sent).all (fun p => rxCount x p.1 == p.2) then s else
      match findColl s x.claim x.coll with
      | none => rxSet s n none
      | some y =>
        match rankOf (claim s x.claim) y x.sender with
        | none => s
        | some r =>
          match takePiece s x.claim y r x.off (rxWords x b) with
          | .ok t => goOn (sendCtrl (rxSet t n none) x.claim x.sender x.sctx .xdone) x.claim x.coll
          | .bad st => pumpDescs (failColl s x.claim x.coll st true)
          | .absent l => stallAll s x.claim l (.transfer x.coll)
/-- A DATA flit counted on the sender's member it came over. -/
def deliverData (s : State) (n ctx c : Nat) (payload : List Byte) : State :=
  match rxGet s ctx with
  | none => s
  | some x =>
    if x.claim ≠ c then s else
    let m := if x.members.isEmpty then 0 else (shaft s n).peerS
    let s := match findColl s c x.coll with
      | some y => (match rankOf (claim s c) y x.sender with | some r => setColl s c (collProgress s c y r) | none => s)
      | none => s
    finishRx (rxSet s ctx (some { x with seen := x.seen ++ [(m, payload)] })) ctx
def deliverClose (s : State) (ctx c : Nat) (b : CloseBody) : State :=
  match rxGet s ctx with
  | none => s
  | some x => if x.claim ≠ c then s else finishRx (rxSet s ctx (some { x with closed := some b })) ctx
def deliverDesc (s : State) (n : Nat) (hdr : W64) (b : DescBody) : State :=
  pumpDescs { s with descs := s.descs ++ [(n, hdr, b)] }

/-! ### Retirement and timeout (R238, R252, R253) -/

def collRetireStep (s : State) (c id : Nat) : State :=
  match findColl s c id with
  | none => s
  | some x =>
    if x.op = .permute ∨ !running s ∨ x.phase = 0 then s else
    match collQuiet s c x with
    | .ok true =>
      (match land s c x with
        | .ok r => pumpDescs (endColl r.1 c r.2 stOk)
        | .bad n => pumpDescs (failColl s c id n true)
        | .absent l => stallAll s c l (.transfer id))
    | .bad n => pumpDescs (failColl s c id n true)
    | .absent l => stallAll s c l (.transfer id)
    | .ok false => s
def execCollRetire (c : Fin 8) (coll : Nat) (s : State) : Res := .next (settleFoul (collRetireStep s c coll))

/-! ### PERMUTE sets (R255, R256, R262, R263, R311) -/

/-- Every check before data moves, then the first phase of every member. -/
def permuteGo (s : State) (c : Nat) (ms : List Coll) : Got State :=
  bindGot (ms.foldl (fun acc x => bindGot acc fun _ => goChecks s c x) (.ok ())) fun _ =>
    ms.foldl (fun acc x => bindGot acc fun s => match findColl s c x.id with | some y => goPhase s c y 1 | none => .ok s) (.ok s)
def fenceStep (s : State) (c : Nat) : State :=
  let k := claim s c
  match k.pset with
  | none => s
  | some p =>
    if !running s || p.phase != 0 || !setReady s c p then s else
    match olderTouch s c p with
    | .absent l => stallAll s c l (.transfer (p.members.headD 0))
    | _ =>
    if !barReached s c p 0 || !barHeld k p 0 then s else
    let s := (setMembers s c p).foldl (fun s x => noteReads (noteTables s c x) c x 1) (waitSet s c)
    match permuteGo s c (setMembers s c p) with
    | .ok t =>
      let k := claim t c
      let os := (setMembers t c p).flatMap fun x => match touchObjs t c x with | .ok l => l | _ => []
      pumpDescs (setClaim t c { k with pset := k.pset.map fun p => { p with phase := 1, objs := os } })
    | .bad n => failColl s c (p.members.headD 0) n true
    | .absent l => stallAll s c l (.transfer (p.members.headD 0))
def execPermuteFenceClear (c : Fin 8) (s : State) : Res := .next (settleFoul (fenceStep s c))
/-- The fence has not cleared within TIMEOUT of the first member's issue. -/
def fenceTimeoutStep (s : State) (c : Nat) : State :=
  match (claim s c).pset with
  | some p =>
    if p.phase = 0 ∧ timeRuns s then failColl (advanceTo s (p.since + p.timeout)) c (p.members.headD 0) stEpochFenceTimeout true
    else s
  | none => s
def execEpochFenceTimeout (c : Fin 8) (s : State) : Res := .next (fenceTimeoutStep s c)
/-- Atoms of a unit past its destination row are written as 0. -/
def clipUnit (f : Fmt) (cnt : Nat) (l : List (Nat × Bool)) : List (Nat × Bool) :=
  l.zipIdx.map fun p =>
    match f with
    | .v8 => if p.2 < 16 ∧ cnt ≤ p.2 then (0, p.1.2) else p.1
    | .v4 => if p.2 < 8 ∧ cnt ≤ 2 * p.2 then (0, p.1.2) else if p.2 < 8 ∧ cnt = 2 * p.2 + 1 then (p.1.1 % 16, p.1.2) else p.1
    | _ => p.1
/-- Step 3: one member's staging copied into its destination extents, which its checks before the fence found mapped. -/
def copyIn (s : State) (c : Nat) (x : Coll) : Got State :=
  let f := cFmt x
  bindGot (permBoth s c x) fun L => bindGot (permUnits x L.1 L.2 (selfRank (claim s c) x)) fun us =>
    let puts : List Put := us.flatMap fun u => u.dst.zip (clipUnit f u.cnt (u.stage.map (rdAtom s c (atomW f))))
    mapGot (spansOk s c (atomSpans ((us.flatMap (·.stage)) ++ puts.map Prod.fst))) fun _ =>
      let boxes := (us.map (·.box)).eraseDups
      let pads := boxes.flatMap fun e => padPuts f e.base (boxRows L.2 e * rowUnits L.2 f e)
      let s := noteAll s c (atomSpans (us.flatMap (·.stage)))
      setColl (vaPutAtoms s c (atomW f) (puts ++ pads)) c { x with poison := x.poison || puts.any (·.2.2), phase := 2 }
def stagedStep (s : State) (c : Nat) : State :=
  let k := claim s c
  match k.pset with
  | none => s
  | some p =>
    if !running s || p.phase != 1 || !barReached s c p 1 || !barHeld k p 1 then s else
    let s := waitSet s c
    match (setMembers s c p).foldl (fun acc x => bindGot acc fun s => copyIn s c x) (.ok s) with
    | .ok t =>
      let k := claim t c
      setClaim t c { k with pset := k.pset.map fun p => { p with phase := 2, passed := t.time } }
    | .bad _ => s
    | .absent l => stallAll s c l (.transfer (p.members.headD 0))
def execPermuteStaged (c : Fin 8) (s : State) : Res := .next (settleFoul (stagedStep s c))
/-- The final barrier: every member completes, and the claim's epoch changes. -/
def permuteEnd (s : State) (c : Nat) : State :=
  let k := claim s c
  match k.pset with
  | none => s
  | some p =>
    if !running s || p.phase != 2 || !barHeld k p 2 then s else
    let s := waitSet s c
    let s := setClaim s c { claim s c with pset := none, epoch := p.epoch }
    (setMembers s c p).foldl (fun s x => endColl s c { x with lost := !p.gone.isEmpty } stOk) s
def execPermuteComplete (c : Fin 8) (s : State) : Res := .next (settleFoul (permuteEnd s c))

/-- Ranks that a collective waits for: awaited ones, and, for a member of a set at the barrier of step 2, those whose token
has not come. -/
def silentRanks (s : State) (c : Nat) (x : Coll) : List Nat :=
  match (claim s c).pset.filter fun p => p.members.contains x.id with
  | some p => awaited s c x ++ if barReached s c p 1 then (otherRanks (claim s c) p).filter fun r => !tokenOf (claim s c) p 1 r else []
  | none => awaited s c x
/-- Device time from which the longest silent of the ranks waited for is silent. -/
def silentSince (x : Coll) (rs : List Nat) : Nat := match rs.map (lastHeard x) with | [] => 0 | t :: ts => ts.foldl min t
/-- COLL_TIMEOUT: no progress from one peer for TIMEOUT. Past the barrier of step 2 the ranks that are silent count as gone
(R263). -/
def collTimeoutStep (s : State) (c id : Nat) : State :=
  match findColl s c id with
  | none => s
  | some x =>
    let k := claim s c
    if !x.started || !timeRuns s then s else
    let rs := silentRanks s c x
    let out := fun limit => if rs.isEmpty then s else
      pumpDescs (failColl (advanceTo s (silentSince x rs + limit)) c id stCollTimeout true)
    match k.pset.filter fun p => p.members.contains id with
    | some p =>
      if p.phase = 0 then s
      else if p.phase = 1 then (if setPast s c p then s else out p.timeout)
      else
        let silent := (otherRanks k p).filter fun r => !tokenOf k p 2 r
        setClaim (advanceTo s (p.passed + p.timeout)) c { k with pset := some { p with gone := (p.gone ++ silent).eraseDups } }
    | none => out (cTimeout x)
def execCollTimeout (c : Fin 8) (coll : Nat) (s : State) : Res := .next (collTimeoutStep s c coll)

end Sys2Proof.Machine
end

