-- ==== Sys2Proof/Machine/Digest.lean ====
section
/-!
DEFINITION. The tree digest (R320), and the digests of a replica assay with their comparison (R208, R209, R312).
-/
namespace Sys2Proof.Machine
open Sys2Proof

/-! ### The tree digest (R320) -/

def hashBytes (h : BitVec 256) : List Byte := leBytes 32 h.toNat
def leafHash (i : Nat) (chunk : List Byte) : BitVec 256 := sha3 (byte 0 :: leBytes 8 i ++ chunk)
/-- One level up: pairs hashed, and an odd last hash rises unchanged. -/
def treeLevel : List (BitVec 256) → List (BitVec 256)
  | a :: b :: l => sha3 (byte 1 :: hashBytes a ++ hashBytes b) :: treeLevel l
  | l => l
def treeTop : Nat → List (BitVec 256) → BitVec 256
  | 0, l => l.headD 0
  | n + 1, l => if l.length ≤ 1 then l.headD 0 else treeTop n (treeLevel l)
def treeDigest (bs : List Byte) : BitVec 256 :=
  let ls := if bs.isEmpty then [[]] else chunks 65536 bs
  treeTop ls.length (ls.zipIdx.map fun p => leafHash p.2 p.1)

/-! ### Replica assays -/

def assayOf (s : State) (c : Nat) (id : W32) : Option Assay := (claim s c).assays.find? fun a => a.id == id
def setAssay (s : State) (c : Nat) (a : Assay) : State :=
  let k := claim s c
  setClaim s c { k with assays := k.assays.map fun b => if b.ring = a.ring ∧ b.seq = a.seq then a else b }
/-- Bytes of a claim range (R176, R327). -/
def rdBytes (s : State) (c va n : Nat) : Got (List Byte) :=
  match access (claim s c) (.request none) va n with
  | .ok => goodBytes s c va n
  | .bad x => .bad x
  | .absent l => .absent l
def rangeDigests (s : State) (c : Nat) (a : Assay) : Got (List (BitVec 256)) :=
  a.ranges.foldl (fun acc r => bindGot acc fun l => mapGot (rdBytes s c r.1 r.2) fun bs => l ++ [treeDigest bs]) (.ok [])
def digestPrefix (h : BitVec 256) : W64 := w64 (h.toNat % 2 ^ 64)
/-- REPLICA_MISMATCH. -/
def mismatchEvent (s : State) (c : Nat) (id : W32) (range dev : Nat) (absent : Bool) : State :=
  postEvent s (some c) 0x0003 [at' id.toNat 32 + range, dev, b2n absent]
/-- A prefix that came differs from the own. -/
def heardWrong (a : Assay) (h : Nat × Nat × W64) : Bool :=
  a.peers.contains h.1 && (match a.digests[h.2.1]? with | some d => digestPrefix d != h.2.2 | none => false)
/-- The end of an assay without its outcome. -/
def failAssay (s : State) (c : Nat) (a : Assay) (status : Nat) : State :=
  let k := claim s c
  reply (setClaim s c { k with assays := k.assays.filter fun b => !(b.ring == a.ring && b.seq == a.seq) }) a.ring a.seq status 0 0
/-- The digests of a running assay are computed once its ranges are resident; under COMPARE = 1 their prefixes go out,
and those that have come are compared; under COMPARE = 2 its GATHER gives them to the devices named that the claim's transfers reach
(log 39). -/
def assayTry (s : State) (c : Nat) (id : W32) : State :=
  match assayOf s c id with
  | none => s
  | some a =>
    if !a.running || !a.digests.isEmpty then s else
    let s := noteAll s c a.ranges
    match rangeDigests s c a with
    | .absent l => stallAll s c l (.assay id)
    | .bad n => failOwned (failAssay s c a n) c n
    | .ok ds =>
      let a := { a with digests := ds, given := if a.compare = 2 then a.peers.filter (pathOpen s c) else [] }
      let s := setAssay s c a
      if a.compare ≠ 1 then s else
      let s := ds.zipIdx.foldl (fun s d => queueBell s c 6 prReplica [at' id.toNat 32 + d.2, (digestPrefix d.1).toNat]) s
      (a.heard.filter (heardWrong a)).foldl (fun s h => mismatchEvent s c id h.2.1 h.1 false) s

/-! ### Ledger checks (R210) -/

/-- The end of a ledger check. -/
def endLedger (s : State) (c : Nat) (l : Ledger) (status r0 r1 : Nat) : State :=
  let k := claim s c
  reply (setClaim s c { k with ledgers := k.ledgers.erase l }) l.ring l.seq status r0 r1
/-- Compared, mismatched, skipped, and the index of the first mismatch. -/
def ledgerCounts (l : Ledger) (recs : List (List W64)) (vals : List Nat) : Nat × Nat × Nat × Nat :=
  ((recs.zip vals).zipIdx).foldl (fun (a : Nat × Nat × Nat × Nat) p =>
    let w := fun n => p.1.1.getD n 0
    if fld (w 1) 63 48 ≠ l.version then (a.1, a.2.1, a.2.2.1 + 1, a.2.2.2)
    else if (if l.field = 1 then fld (w 0) 63 32 else fld (w 0) 31 0) = p.1.2 then (a.1 + 1, a.2.1, a.2.2.1, a.2.2.2)
    else (a.1 + 1, a.2.1 + 1, a.2.2.1, if a.2.1 = 0 then p.2 else a.2.2.2)) (0, 0, 0, 0xFFFFFFFF)
/-- A ledger check is made once its records and values are resident. -/
def ledgerTry (s : State) (c : Nat) (r : Nat) (q : W32) : State :=
  match (claim s c).ledgers.find? fun l => l.ring == r && l.seq == q with
  | none => s
  | some l =>
    let s := noteAll s c [(l.records, 32 * l.count), (l.values, 4 * l.count)]
    match rdWords s c l.records (4 * l.count), rdBytes s c l.values (4 * l.count) with
    | .bad n, _ => failOwned (endLedger s c l n 0 0) c n
    | .absent a, .absent b => stallAll s c (a ++ b) (.ledger r q)
    | .absent a, _ => stallAll s c a (.ledger r q)
    | _, .bad n => failOwned (endLedger s c l n 0 0) c n
    | _, .absent b => stallAll s c b (.ledger r q)
    | .ok ws, .ok bs =>
      let n := ledgerCounts l (chunks 4 ws) ((chunks 4 bs).map leNat)
      endLedger s c l stOk (at' n.1 32 + n.2.1) (at' n.2.2.1 32 + n.2.2.2)

end Sys2Proof.Machine
end

