-- ==== Sys2Proof/Machine/Caps.lean ====
section
/-!
DEFINITION. What the winder's state says: the effective cap, suspension of admission, the throttle reasons, and
the 32 words of the winder summary (R372, R393, R403, R406, R505).
-/
namespace Sys2Proof.Machine
open Sys2Proof

/-- The effective cap in W: the least of the three (R393). -/
def capEff (w : Winder) : Nat := min w.capHost (min w.capSb w.capTherm)
/-- Start-up, test or recovery is in force (R410). -/
def outside (w : Winder) : Bool := w.startup || w.test || w.recovery
/-- Admission is suspended: start-up, test, recovery, or an effective cap below the floor (R406, R410). -/
def suspended (w : Winder) : Bool := outside w || decide (capEff w < w.floor)
/-- CAP_THERM returns to 3,600 W at a hot, function-level, claim or warm reset (R393). -/
def coolCap (s : State) : State := { s with winder := { s.winder with capTherm := 3600 } }
def reason (w : Winder) (n : Nat) : Reason := Tab.get {} w.reasons n
/-- Active reasons that a lag notice may announce: not the host request where a sympathy limit alone made it active (R404). -/
def lagReasons (w : Winder) : List Nat := (List.range 8).filter fun n => (reason w n).on && !(n == 7 && w.sympOnly)
def allReasons (w : Winder) : Nat := ((List.range 8).map fun n => if (reason w n).on then 2 ^ n else 0).foldl (· + ·) 0

/-- WSTATE: admission suspended, cap unmet, fixed-frequency mode. -/
def wstate (w : Winder) : Nat := b2n (suspended w) + at' (b2n w.unmet.isSome) 1 + at' (b2n w.fix.isSome) 2
/-- Words 8 to 39 of the MUSTER layout. -/
def winderWords (w : Winder) : List W64 :=
  let head := [at' w.op 56 + at' w.dutyC 48 + at' (allReasons w) 40 + capEff w, at' w.capHost 32 + w.capSb,
    at' w.capTherm 32 + w.floor % 2 ^ 32, wstate w, 0, 0, 0, 0]
  let each := (List.range 8).flatMap fun n => [(reason w n).total, (reason w n).start]
  ((head ++ each ++ List.replicate 8 0).map w64)

end Sys2Proof.Machine
end

