-- ==== Sys2Proof/Machine/Operands.lean ====
section
/-!
DEFINITION. A face instruction as the sequencer issues it: fetch, encoding checks (R120, R121), ownership
(R100, R125), exceptions (R117), and the operand forms of the vector, scalar and matrix classes.
-/
namespace Sys2Proof.Machine
open Sys2Proof

/-- An instruction about to issue: its face, stream, lane, claim, word and extension word. -/
structure Ins where
  f   : Nat
  st  : IssueStream
  l   : Lane
  w   : Nat
  x   : Nat
  ext : Bool
deriving DecidableEq, Repr

/-- Field [hi:lo] of the word, and of the extension word. -/
def fw (i : Ins) (hi lo : Nat) : Nat := bits i.w hi lo
def fx (i : Ins) (hi lo : Nat) : Nat := bits i.x hi lo

/-- Register names by file (R100, R125): scalar, vector and mask registers that an instruction reads, those that it
only writes (`sd`, `vd`, `md`), accumulators and operand buffers. -/
inductive Name
  | s (n : Nat) | v (n : Nat) | m (n : Nat) | a (n : Nat) | b (n : Nat)
  | sd (n : Nat) | vd (n : Nat) | md (n : Nat)
deriving DecidableEq, Repr

def ownsName (l : Lane) : Name → Bool
  | .s n => l.sown.getLsbD n | .v n => l.vown.getLsbD n | .m n => l.mown.getLsbD n
  | .a n => l.aown.getLsbD n | .b n => l.bown.getLsbD n
  | .sd n => l.sown.getLsbD n | .vd n => l.vown.getLsbD n | .md n => l.mown.getLsbD n
/-- A register that the names read holds bad parity (R99). -/
def badParity (x : Face) (ns : List Name) : Bool :=
  ns.any fun n => match n with
    | .v n => x.parV.getLsbD n | .m n => x.parM.getLsbD n | .s n => x.parS.getLsbD n
    | .a _ => false | .b _ => false | .sd _ => false | .vd _ => false | .md _ => false

/-! ### Outcomes of an instruction -/

/-- The exception ends the slice and fails its request (R117, R118). -/
def raise (s : State) (i : Ins) (status : Nat) : State := failRequest s i.l.req status
/-- A parity error fails the slice and is recorded (R99, R121). -/
def raiseParity (s : State) (i : Ins) : State :=
  raise (postSump s { cls := 1, unit := 1, inst := i.f, kind := 4, status := stRegParity, claim := some i.l.claim }) i stRegParity
/-- The stream goes on at the next word. -/
def done (s : State) (i : Ins) : State :=
  modLane s i.f i.st fun l => { l with pc := i.l.pc + 1 + b2n i.ext, stall := .run }
def stalled (s : State) (i : Ins) (w : Stall) : State := modLane s i.f i.st fun l => { l with stall := w }

/-! ### Code and branch targets (R135) -/

/-- Indices of the words that begin an instruction. -/
def startsF : List W64 → Nat → Bool → List Nat
  | [], _, _ => []
  | w :: ws, n, skip => if skip then startsF ws (n + 1) false else n :: startsF ws (n + 1) (bit w 51)
def starts (code : List W64) : List Nat := startsF code 0 false
/-- A jump, or BRANCH_RANGE for a target outside the code or on an extension word. -/
def jump (s : State) (i : Ins) (target : Int) : State :=
  if 0 ≤ target ∧ (starts i.l.code).contains target.toNat then
    modLane s i.f i.st fun l => { l with pc := target.toNat, stall := .run }
  else raise s i stBranchRange

/-! ### Fetch and encoding -/

/-- How an opcode uses the extension word. -/
inductive ExtUse | no | need | opt
deriving DecidableEq, Repr

def fieldMask (hi lo : Nat) : Nat := (2 ^ (hi + 1 - lo) - 1) * 2 ^ lo
def fieldsMask (l : List (Nat × Nat)) : Nat := l.foldl (fun m p => m ||| fieldMask p.1 p.2) 0
/-- No bit is set outside the fields in use, the extension word is there exactly when it must be, and
holds nothing outside its own fields (R121). -/
def encodingOk (i : Ins) (fields : List (Nat × Nat)) (use : ExtUse) (extFields : List (Nat × Nat)) : Bool :=
  i.w % 2 ^ 51 &&& (2 ^ 51 - 1 - fieldsMask fields) == 0 &&
  (match use with | .no => !i.ext | .need => i.ext | .opt => true) &&
  (!i.ext || i.x &&& (2 ^ 64 - 1 - fieldsMask extFields) == 0)
/-- The lane's next instruction; none when the pc has passed the last code word. -/
def fetch (s : State) (f : Nat) (st : IssueStream) : Option Ins :=
  let l := lane (face s f) st
  match l.code[l.pc]? with
  | none => none
  | some w =>
    let e := bit w 51
    some { f := f, st := st, l := l, w := w.toNat, x := ((l.code.getD (l.pc + 1) 0)).toNat, ext := e }
/-- A lane issues: its slice is live and no wait of SEM_WAIT holds it (R104, R107). -/
def issues (s : State) (f : Nat) (st : IssueStream) : Bool :=
  let l := lane (face s f) st
  running s && l.busy && l.live && (match l.stall with | .sem _ _ => false | _ => true)
/-- An instruction of the lane, if its opcode satisfies `is`: fetched, checked for parity and for a
missing extension word, then run. A stream that has run past its code raises BRANCH_RANGE (R135). -/
def issueIf (s : State) (f : Nat) (st : IssueStream) (is : Nat → Bool) (body : State → Ins → State) : State :=
  if !issues s f st then s else
  match fetch s f st with
  | none => failRequest s (lane (face s f) st).req stBranchRange
  | some i =>
    if !is (i.w / 2 ^ 52) then s
    else if i.l.badCode.contains i.l.pc || (i.ext && i.l.badCode.contains (i.l.pc + 1)) then raiseParity s i
    else if i.ext && i.l.code.length ≤ i.l.pc + 1 then raise s i stBadEncoding
    else body s i
def issue (s : State) (f : Nat) (st : IssueStream) (opcode : Nat) (body : State → Ins → State) : State :=
  issueIf s f st (fun o => o == opcode) body
/-- The checks that come before an instruction's own: ownership of every register it names (R100, R125), and
parity of those it reads (R99). -/
def withRegs (s : State) (i : Ins) (names : List Name) (body : State → State) : State :=
  if !names.all (ownsName i.l) then raise s i stRegOwner
  else if badParity (face s i.f) names then raiseParity s i
  else body s

/-! ### Scalar registers -/

def sreg (s : State) (f n : Nat) : W64 := Tab.get 0 (face s f).s n
def setSreg (s : State) (f n : Nat) (v : W64) : State :=
  let x := face s f; setFace s f { x with s := Tab.set 0 x.s n v }

/-! ### Vector and mask registers (R98, R130) -/

def vget (x : Face) (n k : Nat) : W32 := Tab.get 0 x.v (1024 * n + k)
/-- Elements lo to lo + n - 1 of a vector register. -/
def velems (s : State) (f n lo cnt : Nat) : List W32 := (List.range cnt).map fun k => vget (face s f) n (lo + k)
/-- Elements written from position `lo` where `keep` does not forbid it. -/
def setVelems (s : State) (f n lo : Nat) (vs : List W32) (on : Nat → Bool) : State :=
  let x := face s f
  setFace s f { x with v := vs.zipIdx.foldl (fun t p =>
    if on (lo + p.2) then Tab.set 0 t (1024 * n + lo + p.2) p.1 else t) x.v }
def mget (s : State) (f n : Nat) : BitVec 1024 := Tab.get 0 (face s f).m n
def setMreg (s : State) (f n : Nat) (v : BitVec 1024) : State :=
  let x := face s f; setFace s f { x with m := Tab.set 0 x.m n v }
/-- A mask with bits lo to lo + n - 1 taken from a list. -/
def putBits (m : BitVec 1024) (lo : Nat) (bs : List Bool) : BitVec 1024 :=
  bs.zipIdx.foldl (fun m p =>
    let k := BitVec.ofNat 1024 (2 ^ (lo + p.2))
    if p.1 then m ||| k else m &&& ~~~k) m
def vlOf (s : State) (i : Ins) : Nat := (lane (face s i.f) i.st).vl

/-- Fields of the vector class. -/
def vdF (i : Ins) : Nat := fw i 50 46
def vaF (i : Ins) : Nat := fw i 45 41
def vbF (i : Ins) : Nat := fw i 40 36
def vcF (i : Ins) : Nat := fw i 35 31
def mF (i : Ins) : Nat := fw i 30 28
def meF (i : Ins) : Bool := fw i 27 27 == 1
def s1F (i : Ins) : Nat := fw i 26 23
def s2F (i : Ins) : Nat := fw i 22 19
def rndF (i : Ins) : Nat := fw i 18 17
def gF (i : Ins) : Bool := fw i 16 16 == 1
def fmtF (i : Ins) : Nat := fw i 15 12
def mdF (i : Ins) : Nat := fw i 11 9
def bsrcF (i : Ins) : Nat := fw i 8 7
/-- The vector fields by (high, low) bit. -/
def fVD : Nat × Nat := (50, 46)
def fVA : Nat × Nat := (45, 41)
def fVB : Nat × Nat := (40, 36)
def fVC : Nat × Nat := (35, 31)
def fM : Nat × Nat := (30, 28)
def fME : Nat × Nat := (27, 27)
def fS1 : Nat × Nat := (26, 23)
def fS2 : Nat × Nat := (22, 19)
def fRND : Nat × Nat := (18, 17)
def fG : Nat × Nat := (16, 16)
def fFMT : Nat × Nat := (15, 12)
def fMD : Nat × Nat := (11, 9)
def fBSRC : Nat × Nat := (8, 7)
/-- Fields of the second operand: VB, the extension immediate, or a scalar register (BSRC). -/
def bFields : List (Nat × Nat) := [fVB, fS2, fBSRC]
/-- BSRC is no reserved value, and the immediate's word is there where BSRC asks for it. The opcode uses VB, S2 and
the extension word, so what they hold in another form of BSRC is no BAD_ENCODING (R121, log 14). -/
def bOk (i : Ins) : Bool := bsrcF i != 3 && (bsrcF i != 1 || i.ext)
def bNames (i : Ins) : List Name := if bsrcF i = 0 then [.v (vbF i)] else if bsrcF i = 2 then [.s (s2F i)] else []
/-- The second operand's element k. -/
def bElem (s : State) (i : Ins) (k : Nat) : W32 :=
  if bsrcF i = 0 then vget (face s i.f) (vbF i) k
  else if bsrcF i = 1 then w32 (fx i 63 32)
  else w32 ((sreg s i.f (s2F i)).toNat % 2 ^ 32)
/-- Mask names: M is named only where ME uses it. -/
def mNames (i : Ins) : List Name := if meF i then [.m (mF i)] else []
/-- Elements that an instruction may write: all, or those whose mask bit is set (R98, R99). -/
def writable (s : State) (i : Ins) (k : Nat) : Bool := !meF i || (mget s i.f (mF i)).getLsbD k

/-- SR is selected by RND, or by a gradient destination (R50, R123). -/
def srUsed (rnd : Nat) (g : Bool) : Bool := rnd == 1 || g
/-- The draw of element k of a conversion, keyed by claim seed, tensor, step and logical index (R53, R123). -/
def drawFor (k : Claim) (sr : Bool) (tensor : Nat) (idx : Nat) : Option Nat :=
  if sr then some (srDraw k.seed tensor k.step (idx % 2 ^ 64)) else none

/-! ### T0 as instructions reach it (R108, R109) -/

/-- 8 MiB. -/
def t0Size : Nat := 8388608
def inT0 (a n : Nat) : Bool := a + n ≤ t0Size
/-- Reads of spans of T0 by an engine: poison fails the slice, and words read are corrected (R109, R174). -/
def t0Poison (s : State) (f : Nat) (spans : List (Nat × Nat)) : Bool := spans.any fun p => runPoison s (.t0 f) p.1 p.2
def t0Note (s : State) (f : Nat) (spans : List (Nat × Nat)) : State :=
  spans.foldl (fun s p => noteBytes s (.t0 f) p.1 p.2) s
def t0Bytes (s : State) (f a n : Nat) : List Byte := runBytes s (.t0 f) a n
/-- Bytes written to T0 by a request: the words are marked as its own (R118). -/
def t0Store (s : State) (f req : Nat) (bs : List (Nat × Byte)) : State :=
  let s := storeBytes s (.t0 f) bs
  let x := face s f
  setFace s f { x with t0By := (gatherBytes bs).foldl (fun t e => Tab.set 0 t e.1 req) x.t0By }
/-- Whole words written to T0 by a request. -/
def t0Put (s : State) (f req i : Nat) (ws : List PWord) : State :=
  let x := face s f
  setFace s f { x with t0 := Tab.setRun 0 x.t0 i (ws.zipIdx.map fun p => storeP p.1 ^^^ lostBits s (.t0 f) (i + p.2))
                       t0By := Tab.setRun 0 x.t0By i (ws.map fun _ => req) }
/-- Byte alignment of a format's data in T0 (R134). -/
def fmtAlign : Fmt → Nat
  | .fp32 => 4 | .int32 => 4 | .fp16 => 2 | .bf16 => 2 | .int8 => 1 | .int4 => 1 | .v8 => 8 | .v4 => 8

end Sys2Proof.Machine
end

