-- ==== Sys2Proof/Machine/Flags.lean ====
section
/-!
DEFINITION. The flag register of a stream (R139): which bits the instructions set, and FLAG_CLR.
-/
namespace Sys2Proof.Machine
open Sys2Proof

/-- Bits of FLAGS. -/
def flSat : Nat := 0
def flLvar : Nat := 1
def flEmpty : Nat := 2
def flNonfin : Nat := 3
def flIntOvf : Nat := 4
/-- A flag raised when `on`; sticky until FLAG_CLR. -/
def flagIf (fl : BitVec 8) (n : Nat) (on : Bool) : BitVec 8 := if on then fl ||| BitVec.ofNat 8 (2 ^ n) else fl
def setFlag (s : State) (i : Ins) (n : Nat) (on : Bool) : State :=
  if on then modLane s i.f i.st fun l => { l with flags := flagIf l.flags n true } else s
/-- FLAG_CLR: bits of 1 clear the flags they name (R139). -/
def clearFlags (fl : BitVec 8) (m : Nat) : BitVec 8 := fl &&& ~~~(BitVec.ofNat 8 (m % 32))

/-- Saturation of an exact integer to INT32 (R42): the value, and whether it saturated. -/
def sat32 (n : Int) : Int × Bool :=
  if n < -2147483648 then (-2147483648, true) else if 2147483647 < n then (2147483647, true) else (n, false)
def int32 (n : Int) : W32 := BitVec.ofInt 32 n

end Sys2Proof.Machine
end

