-- ==== Sys2Proof/Machine/RefFun.lean ====
section
/-!
DEFINITION. The reference functions (R79 to R86), the soft maximum and the compound operations
(R88 to R90), each step one FP32 operation rounded once.
-/
namespace Sys2Proof.Machine
open Sys2Proof

/-- A quotient rounded once to FP32: `a / b` for positive a and b. -/
def quotX (a b : Nat) : Xr :=
  let n := a * 2 ^ 64
  rne (.fin ((2 * (n / b) + (if n % b = 0 then 0 else 1) : Nat) : Int) (-65))
/-- Integer square root, bit by bit from bit `k - 1`. -/
def isqrtF (n : Nat) : Nat → Nat → Nat
  | 0, r => r
  | k + 1, r => let t := r + 2 ^ k; isqrtF n k (if t * t ≤ n then t else r)
def isqrt (n : Nat) : Nat := isqrtF n (Nat.log2 n / 2 + 1) 0

/-- Table R of R82. -/
def tabR (i : Nat) : Xr := quotX 256 (256 + i)
/-- Table Q of R82: `1 / sqrt(2^p (257 + 2j) / 256)`, the root taken exactly with a sticky bit. -/
def tabQ (p j : Nat) : Xr :=
  let n := 256 * 2 ^ 128 / (2 ^ p * (257 + 2 * j))
  let r := isqrt n
  rne (.fin ((2 * r + 1 : Nat) : Int) (-65))

/-! Table L of R82: each entry is log2(1 + i/256), correctly rounded to FP32. -/
def lTab0 : List Nat := [0x00000000, 0x3BB84E23, 0x3C37F286, 0x3C89B189, 0x3CB73CB4, 0x3CE49B1E, 0x3D08E68F, 0x3D1F6985, 0x3D35D69C, 0x3D4C2DFE, 0x3D626FD6, 0x3D789C4C, 0x3D8759C5, 0x3D925ADC, 0x3D9D517F, 0x3DA83DC2]
def lTab1 : List Nat := [0x3DB31FB8, 0x3DBDF775, 0x3DC8C50B, 0x3DD3888F, 0x3DDE4212, 0x3DE8F1A7, 0x3DF39761, 0x3DFE3350, 0x3E0462C4, 0x3E09A70E, 0x3E0EE68D, 0x3E14214A, 0x3E19574F, 0x3E1E88A3, 0x3E23B550, 0x3E28DD5D]
def lTab2 : List Nat := [0x3E2E00D2, 0x3E331FB8, 0x3E383A17, 0x3E3D4FF6, 0x3E42615F, 0x3E476E57, 0x3E4C76E8, 0x3E517B19, 0x3E567AF1, 0x3E5B7679, 0x3E606DB6, 0x3E6560B2, 0x3E6A4F72, 0x3E6F39FF, 0x3E74205F, 0x3E79029A]
def lTab3 : List Nat := [0x3E7DE0B6, 0x3E815D5D, 0x3E83C857, 0x3E86314C, 0x3E88983F, 0x3E8AFD34, 0x3E8D602E, 0x3E8FC130, 0x3E92203D, 0x3E947D5A, 0x3E96D888, 0x3E9931CB, 0x3E9B8926, 0x3E9DDE9D, 0x3EA03232, 0x3EA283E8]
def lTab4 : List Nat := [0x3EA4D3C2, 0x3EA721C4, 0x3EA96DF0, 0x3EABB849, 0x3EAE00D2, 0x3EB0478E, 0x3EB28C7F, 0x3EB4CFA9, 0x3EB7110E, 0x3EB950B2, 0x3EBB8E96, 0x3EBDCABD, 0x3EC0052B, 0x3EC23DE2, 0x3EC474E4, 0x3EC6AA34]
def lTab5 : List Nat := [0x3EC8DDD4, 0x3ECB0FC8, 0x3ECD4012, 0x3ECF6EB4, 0x3ED19BB0, 0x3ED3C70A, 0x3ED5F0C4, 0x3ED818DF, 0x3EDA3F60, 0x3EDC6447, 0x3EDE8797, 0x3EE0A953, 0x3EE2C97D, 0x3EE4E818, 0x3EE70525, 0x3EE920A6]
def lTab6 : List Nat := [0x3EEB3A9F, 0x3EED5311, 0x3EEF69FF, 0x3EF17F6A, 0x3EF39355, 0x3EF5A5C2, 0x3EF7B6B4, 0x3EF9C62B, 0x3EFBD42B, 0x3EFDE0B6, 0x3EFFEBCD, 0x3F00FAB9, 0x3F01FED4, 0x3F030239, 0x3F0404E8, 0x3F0506E2]
def lTab7 : List Nat := [0x3F060828, 0x3F0708BC, 0x3F08089E, 0x3F0907CF, 0x3F0A0650, 0x3F0B0422, 0x3F0C0146, 0x3F0CFDBE, 0x3F0DF989, 0x3F0EF4A9, 0x3F0FEF1F, 0x3F10E8EB, 0x3F11E20F, 0x3F12DA8B, 0x3F13D260, 0x3F14C990]
def lTab8 : List Nat := [0x3F15C01A, 0x3F16B601, 0x3F17AB44, 0x3F189FE4, 0x3F1993E3, 0x3F1A8742, 0x3F1B7A00, 0x3F1C6C1F, 0x3F1D5DA0, 0x3F1E4E83, 0x3F1F3ECA, 0x3F202E74, 0x3F211D84, 0x3F220BF9, 0x3F22F9D5, 0x3F23E718]
def lTab9 : List Nat := [0x3F24D3C2, 0x3F25BFD6, 0x3F26AB53, 0x3F27963A, 0x3F28808C, 0x3F296A4A, 0x3F2A5374, 0x3F2B3C0C, 0x3F2C2411, 0x3F2D0B85, 0x3F2DF268, 0x3F2ED8BC, 0x3F2FBE80, 0x3F30A3B5, 0x3F31885C, 0x3F326C77]
def lTab10 : List Nat := [0x3F335004, 0x3F343306, 0x3F35157D, 0x3F35F769, 0x3F36D8CB, 0x3F37B9A4, 0x3F3899F5, 0x3F3979BD, 0x3F3A58FF, 0x3F3B37B9, 0x3F3C15EE, 0x3F3CF39D, 0x3F3DD0C8, 0x3F3EAD6E, 0x3F3F8991, 0x3F406531]
def lTab11 : List Nat := [0x3F41404F, 0x3F421AEB, 0x3F42F506, 0x3F43CEA0, 0x3F44A7BA, 0x3F458055, 0x3F465872, 0x3F473010, 0x3F480731, 0x3F48DDD4, 0x3F49B3FB, 0x3F4A89A7, 0x3F4B5ED7, 0x3F4C338C, 0x3F4D07C7, 0x3F4DDB88]
def lTab12 : List Nat := [0x3F4EAED0, 0x3F4F819F, 0x3F5053F7, 0x3F5125D7, 0x3F51F740, 0x3F52C832, 0x3F5398AF, 0x3F5468B6, 0x3F553848, 0x3F560765, 0x3F56D60F, 0x3F57A446, 0x3F587209, 0x3F593F5A, 0x3F5A0C3A, 0x3F5AD8A8]
def lTab13 : List Nat := [0x3F5BA4A4, 0x3F5C7031, 0x3F5D3B4E, 0x3F5E05FB, 0x3F5ED039, 0x3F5F9A09, 0x3F60636A, 0x3F612C5E, 0x3F61F4E5, 0x3F62BCFF, 0x3F6384AD, 0x3F644BF0, 0x3F6512C7, 0x3F65D933, 0x3F669F35, 0x3F6764CD]
def lTab14 : List Nat := [0x3F6829FB, 0x3F68EEC1, 0x3F69B31E, 0x3F6A7712, 0x3F6B3A9F, 0x3F6BFDC5, 0x3F6CC083, 0x3F6D82DB, 0x3F6E44CD, 0x3F6F065A, 0x3F6FC781, 0x3F708843, 0x3F7148A1, 0x3F72089B, 0x3F72C832, 0x3F738765]
def lTab15 : List Nat := [0x3F744636, 0x3F7504A4, 0x3F75C2B0, 0x3F76805A, 0x3F773DA4, 0x3F77FA8C, 0x3F78B714, 0x3F79733C, 0x3F7A2F04, 0x3F7AEA6D, 0x3F7BA578, 0x3F7C6023, 0x3F7D1A71, 0x3F7DD460, 0x3F7E8DF2, 0x3F7F4728]
def lTab : List Nat :=
  lTab0 ++ lTab1 ++ lTab2 ++ lTab3 ++ lTab4 ++ lTab5 ++ lTab6 ++ lTab7 ++ lTab8 ++ lTab9 ++ lTab10
    ++ lTab11 ++ lTab12 ++ lTab13 ++ lTab14 ++ lTab15
def tabL (i : Nat) : Xr := x32 (w32 (lTab.getD i 0))

/-- `floor` of a finite value. -/
def floorX (m e : Int) : Int := if 0 ≤ e then m * 2 ^ e.toNat else m / 2 ^ (-e).toNat
def k32 (n : Nat) : Xr := x32 (w32 n)

/-- exp2 (R80). DEDUCED (log 69): `f` stays exact, as the pseudocode's comment says, where x - n needs more than 24 bits
(a small negative x); each fma then rounds once from that exact f. -/
def exp2X (x : Xr) : Xr :=
  match x with
  | .nan => .nan
  | .inf neg => if neg then .zero else .inf false
  | .fin m e =>
    let n := floorX m e
    if 127 < n then .inf false else if n < -126 then .zero else
    let f := x.sub (.ofInt n)
    let p := [0x3AAEC3FF, 0x3C1D955B, 0x3D635847, 0x3E75FDF0, 0x3F317218, 0x3F800000].foldl
      (fun p c => fmaX p f (k32 c)) (k32 0x39218489)
    rne (p.scale n)
/-- exp (R81). -/
def expX (x : Xr) : Xr := exp2X (mulX x (k32 0x3FB8AA3B))
/-- Fraction bits [22:15] of a value that FP32 holds. -/
def frac8 (m e : Int) : Nat := rneQ m.natAbs e (Xr.lg m e - 23) % 2 ^ 23 / 2 ^ 15
/-- log2 (R83). -/
def log2X (x : Xr) : Xr :=
  match x with
  | .nan => .nan
  | .inf neg => if neg then .nan else .inf false
  | .fin m e =>
    if m = 0 then .inf true else if m < 0 then .nan else
    let n := Xr.lg m e
    let y := Xr.fin m (e - n)
    let i := frac8 m e
    let t := fmaX y (tabR i) (.ofInt (-1))
    let q := fmaX t (k32 0x3EF6384F) (k32 0xBF38AA3B)
    let q := fmaX q t (k32 0x3FB8AA3B)
    let z := mulX q t
    addX (addX z (tabL i)) (.ofInt n)
/-- log (R84). -/
def logX (x : Xr) : Xr := mulX (log2X x) (k32 0x3F317218)
/-- recip (R85). -/
def recipX (x : Xr) : Xr :=
  match x with
  | .nan => .nan
  | .inf _ => .zero
  | .fin m e =>
    if m = 0 then .inf false else
    let n := Xr.lg m e
    let y := Xr.fin m.natAbs (e - n)
    let step := fun r => let d := fmaX y.neg r (.ofInt 1); fmaX r d r
    let r := step (step (tabR (frac8 m e)))
    let z := rne (r.scale (-n))
    if m < 0 then z.neg else z
/-- rsqrt (R86). -/
def rsqrtX (x : Xr) : Xr :=
  match x with
  | .nan => .nan
  | .inf neg => if neg then .nan else .zero
  | .fin m e =>
    if m = 0 then .inf false else if m < 0 then .nan else
    let n0 := Xr.lg m e
    let p : Nat := (n0 % 2).toNat
    let n := n0 - p
    let y := Xr.fin m (e - n)
    let h := y.scale (-1)
    let step := fun r => mulX r (fmaX h.neg (mulX r r) (.fin 3 (-1)))
    let r := step (step (tabQ p (frac8 m e / 2)))
    rne (r.scale (-(n / 2)))
/-- Division of R85. -/
def divX (a b : Xr) : Xr := mulX a (recipX b)

/-- The exact maximum, NaN when any input is (R87, R131). -/
def maxX (a b : Xr) : Xr := if a.isNan || b.isNan then .nan else if a.lt b then b else a
def minX (a b : Xr) : Xr := if a.isNan || b.isNan then .nan else if b.lt a then b else a
def maxAll (v : List Xr) : Xr := v.foldl maxX (.inf true)
def minAll (v : List Xr) : Xr := v.foldl minX (.inf false)
def maskRow (x : List Xr) (mask : List Bool) : List Xr :=
  x.zipIdx.map (fun p => if mask.getD p.2 false then .inf true else p.1)
def posInf (x : Xr) : Bool := x == .inf false

/-- `soft_max` (R88): the row, and the empty-row flag. -/
def softMax (x0 : List Xr) (mask : List Bool) : List Xr × Bool :=
  let x := maskRow x0 mask
  if x.any Xr.isNan then (x.map fun _ => .nan, false) else
  let c := x.countP posInf
  if 0 < c then
    let w := recipX (.ofInt c)
    (x.map fun y => if posInf y then w else .zero, false)
  else
    let mx := maxAll x
    if mx == .inf true then (x.map fun _ => .zero, true) else
    let e := x.map fun y => expX (subX y mx)
    let r := recipX (treeSum e)
    (e.map fun y => mulX y r, false)
/-- Log soft maximum (R90). -/
def logSoftMax (x0 : List Xr) (mask : List Bool) : List Xr × Bool :=
  let x := maskRow x0 mask
  if x.any Xr.isNan then (x.map fun _ => .nan, false) else
  let c := x.countP posInf
  if 0 < c then
    let w := logX (recipX (.ofInt c))
    (x.map fun y => if posInf y then w else .inf true, false)
  else
    let mx := maxAll x
    if mx == .inf true then (x.map fun _ => .inf true, true) else
    let d := x.map fun y => subX y mx
    let ls := logX (treeSum (d.map expX))
    (d.map fun y => subX y ls, false)
/-- RMS norm (R90). -/
def rmsNorm (x g : List Xr) (invN eps : Xr) : List Xr :=
  let k := rsqrtX (fmaX (treeSum (x.map fun y => mulX y y)) invN eps)
  List.zipWith (fun y h => mulX (mulX y k) h) x g
/-- Layer norm (R90). -/
def layerNorm (x g b : List Xr) (invN eps : Xr) : List Xr :=
  let mu := mulX (treeSum x) invN
  let d := x.map fun y => subX y mu
  let k := rsqrtX (fmaX (treeSum (d.map fun y => mulX y y)) invN eps)
  List.zipWith (fun y h => fmaX (mulX y k) h.1 h.2) d (g.zip b)

end Sys2Proof.Machine
end

