-- ==== Sys2Proof/Machine/Vector.lean ====
section
/-!
DEFINITION. The vector instructions (R98, R130 to R134): each over the stream's vl, under a mask.
-/
namespace Sys2Proof.Machine
open Sys2Proof

/-- A vector instruction: its encoding, its registers, then its effect, after which the stream goes on. FMT is a field
that only some opcodes of the class use, so a code in it is BAD_ENCODING in the others (R121); FORMAT_PAIR is for an
opcode that takes a format and is given another (R122, log 14). -/
def vecOp (s : State) (f : Nat) (st : IssueStream) (op : Nat) (fields : List (Nat × Nat)) (use : ExtUse)
    (ok : Ins → Bool) (names : Ins → List Name) (body : State → Ins → State) : State :=
  issue s f st op fun s i =>
    if !(encodingOk i fields use [(63, 32)] && ok i) then raise s i stBadEncoding
    else withRegs s i (names i) fun s => done (body s i) i

/-! ### Element-wise forms -/

/-- Elements 0 to vl - 1 of VD made from the element index (R98, R130). -/
def mapElems (s : State) (i : Ins) (g : Nat → W32) : State :=
  setVelems s i.f (vdF i) 0 ((List.range (vlOf s i)).map g) (writable s i)
/-- vd := va op b. -/
def binOp (s : State) (f : Nat) (st : IssueStream) (op : Nat) (g : W32 → W32 → W32) : State :=
  vecOp s f st op ([fVD, fVA, fM, fME] ++ bFields) .opt bOk
    (fun i => [.vd (vdF i), .v (vaF i)] ++ bNames i ++ mNames i)
    fun s i => mapElems s i fun k => g (vget (face s i.f) (vaF i) k) (bElem s i k)
/-- vd := op va. -/
def unOp (s : State) (f : Nat) (st : IssueStream) (op : Nat) (g : W32 → W32) : State :=
  vecOp s f st op [fVD, fVA, fM, fME] .no (fun _ => true) (fun i => [.vd (vdF i), .v (vaF i)] ++ mNames i)
    fun s i => mapElems s i fun k => g (vget (face s i.f) (vaF i) k)
/-- Bits of MD made from a relation; bits at vl and above, and bits the mask leaves out, are unchanged. -/
def cmpOp (s : State) (f : Nat) (st : IssueStream) (op : Nat) (g : W32 → W32 → Bool) : State :=
  vecOp s f st op ([fVA, fM, fME, fMD] ++ bFields) .opt bOk
    (fun i => [.v (vaF i), .md (mdF i)] ++ bNames i ++ mNames i)
    fun s i =>
      let old := mget s i.f (mdF i)
      let bs := (List.range (vlOf s i)).map fun k =>
        if writable s i k then g (vget (face s i.f) (vaF i) k) (bElem s i k) else old.getLsbD k
      setMreg s i.f (mdF i) (putBits old 0 bs)

def fp2 (g : Xr → Xr → Xr) (a b : W32) : W32 := r32 (g (x32 a) (x32 b))
def fp1 (g : Xr → Xr) (a : W32) : W32 := r32 (g (x32 a))

def execVAdd (f : Fin 128) (st : IssueStream) (s : State) : Res := .next (binOp s f st 0x101 (fp2 Xr.add))
def execVSub (f : Fin 128) (st : IssueStream) (s : State) : Res := .next (binOp s f st 0x102 (fp2 Xr.sub))
def execVMul (f : Fin 128) (st : IssueStream) (s : State) : Res := .next (binOp s f st 0x103 (fp2 Xr.mul))
/-- va × b + vc with one rounding (R131). -/
def vFmaStep (s : State) (f : Nat) (st : IssueStream) : State :=
  vecOp s f st 0x104 ([fVD, fVA, fVC, fM, fME] ++ bFields) .opt bOk
    (fun i => [.vd (vdF i), .v (vaF i), .v (vcF i)] ++ bNames i ++ mNames i)
    fun s i => mapElems s i fun k =>
      r32 (((x32 (vget (face s i.f) (vaF i) k)).mul (x32 (bElem s i k))).add (x32 (vget (face s i.f) (vcF i) k)))
def execVFma (f : Fin 128) (st : IssueStream) (s : State) : Res := .next (vFmaStep s f st)
def execVMax (f : Fin 128) (st : IssueStream) (s : State) : Res := .next (binOp s f st 0x105 (fp2 maxX))
def execVMin (f : Fin 128) (st : IssueStream) (s : State) : Res := .next (binOp s f st 0x106 (fp2 minX))
def execVNeg (f : Fin 128) (st : IssueStream) (s : State) : Res := .next (unOp s f st 0x107 (fp1 Xr.neg))
def execVAbs (f : Fin 128) (st : IssueStream) (s : State) : Res := .next (unOp s f st 0x108 (fp1 Xr.abs))
/-- vd[k] := va[k] where bit k of M is set, else b[k], bit for bit (R131). With ME = 1 an element whose bit in M is
clear is left unchanged instead, as ME has it in the whole class (R130). -/
def vSelStep (s : State) (f : Nat) (st : IssueStream) : State :=
  vecOp s f st 0x109 ([fVD, fVA, fM, fME] ++ bFields) .opt bOk
    (fun i => [.vd (vdF i), .v (vaF i), .m (mF i)] ++ bNames i)
    fun s i => mapElems s i fun k =>
      if (mget s i.f (mF i)).getLsbD k then vget (face s i.f) (vaF i) k else bElem s i k
def execVSel (f : Fin 128) (st : IssueStream) (s : State) : Res := .next (vSelStep s f st)
/-- vd := b, bit for bit (R131). -/
def vMovStep (s : State) (f : Nat) (st : IssueStream) : State :=
  vecOp s f st 0x10A ([fVD, fM, fME] ++ bFields) .opt bOk
    (fun i => [.vd (vdF i)] ++ bNames i ++ mNames i) fun s i => mapElems s i (bElem s i)
def execVMov (f : Fin 128) (st : IssueStream) (s : State) : Res := .next (vMovStep s f st)

def execVCmpeq (f : Fin 128) (st : IssueStream) (s : State) : Res :=
  .next (cmpOp s f st 0x110 fun a b => (x32 a).eqv (x32 b))
def execVCmplt (f : Fin 128) (st : IssueStream) (s : State) : Res :=
  .next (cmpOp s f st 0x111 fun a b => (x32 a).lt (x32 b))
def execVCmple (f : Fin 128) (st : IssueStream) (s : State) : Res :=
  .next (cmpOp s f st 0x112 fun a b => (x32 a).le (x32 b))
def execVIcmpeq (f : Fin 128) (st : IssueStream) (s : State) : Res := .next (cmpOp s f st 0x113 fun a b => a == b)
def execVIcmplt (f : Fin 128) (st : IssueStream) (s : State) : Res := .next (cmpOp s f st 0x114 fun a b => a.slt b)

def execVIadd (f : Fin 128) (st : IssueStream) (s : State) : Res := .next (binOp s f st 0x118 (· + ·))
def execVIsub (f : Fin 128) (st : IssueStream) (s : State) : Res := .next (binOp s f st 0x119 (· - ·))
def execVImul (f : Fin 128) (st : IssueStream) (s : State) : Res := .next (binOp s f st 0x11A (· * ·))
def execVAnd (f : Fin 128) (st : IssueStream) (s : State) : Res := .next (binOp s f st 0x11B (· &&& ·))
def execVOr (f : Fin 128) (st : IssueStream) (s : State) : Res := .next (binOp s f st 0x11C (· ||| ·))
def execVXor (f : Fin 128) (st : IssueStream) (s : State) : Res := .next (binOp s f st 0x11D (· ^^^ ·))
def execVShl (f : Fin 128) (st : IssueStream) (s : State) : Res :=
  .next (binOp s f st 0x11E fun a b => a <<< (b.toNat % 32))
def execVShr (f : Fin 128) (st : IssueStream) (s : State) : Res :=
  .next (binOp s f st 0x11F fun a b => a.sshiftRight (b.toNat % 32))
def execVCvtI2f (f : Fin 128) (st : IssueStream) (s : State) : Res :=
  .next (unOp s f st 0x120 fun a => r32 (.ofInt a.toInt))
/-- FP32 to INT32 by RNE: the value, and whether it saturated; a NaN gives 0 (R131). -/
def f2i (a : W32) : W32 × Bool :=
  match x32 a with
  | .nan => (0, false)
  | .inf n => (if n then 0x80000000 else 0x7FFFFFFF, true)
  | .fin m e =>
    let q := rneQ m.natAbs e 0
    let r := sat32 (if m < 0 then -(q : Int) else q)
    (int32 r.1, r.2)
def vCvtF2iStep (s : State) (f : Nat) (st : IssueStream) : State :=
  vecOp s f st 0x121 [fVD, fVA, fM, fME] .no (fun _ => true) (fun i => [.vd (vdF i), .v (vaF i)] ++ mNames i)
    fun s i =>
      let ks := (List.range (vlOf s i)).filter (writable s i)
      setFlag (mapElems s i fun k => (f2i (vget (face s i.f) (vaF i) k)).1) i flSat
        (ks.any fun k => (f2i (vget (face s i.f) (vaF i) k)).2)
def execVCvtF2i (f : Fin 128) (st : IssueStream) (s : State) : Res := .next (vCvtF2iStep s f st)

/-- V_ROUND's format: FP16 or BF16. -/
def roundKind (code : Nat) : Option FpKind := if code = 1 then some fpk16 else if code = 2 then some fpkB else none
def vRoundStep (s : State) (f : Nat) (st : IssueStream) : State :=
  issue s f st 0x122 fun s i =>
    let sr := srUsed (rndF i) (gF i)
    if !(encodingOk i [fVD, fVA, fM, fME, fS2, fRND, fG, fFMT] .opt [(63, 32)] && rndF i < 2 && fmtF i < 8 && (i.ext || !sr)) then
      raise s i stBadEncoding
    else withRegs s i ([.vd (vdF i), .v (vaF i)] ++ mNames i ++ (if sr then [.s (s2F i)] else [])) fun s =>
      match roundKind (fmtF i) with
      | none => raise s i stFormatPair
      | some k =>
        let idx := (sreg s i.f (s2F i)).toNat
        done (mapElems s i fun n =>
          w32 (encodeFp fpk32 (convertFp k (drawFor (claim s i.l.claim) sr (fx i 63 32) (idx + n))
            (x32 (vget (face s i.f) (vaF i) n))))) i
def execVRound (f : Fin 128) (st : IssueStream) (s : State) : Res := .next (vRoundStep s f st)
def vIotaStep (s : State) (f : Nat) (st : IssueStream) : State :=
  vecOp s f st 0x124 [fVD, fM, fME] .no (fun _ => true) (fun i => [.vd (vdF i)] ++ mNames i)
    fun s i => mapElems s i w32
def execVIota (f : Fin 128) (st : IssueStream) (s : State) : Res := .next (vIotaStep s f st)

/-! ### Reference functions (R80 to R86) -/

def execVExp2 (f : Fin 128) (st : IssueStream) (s : State) : Res := .next (unOp s f st 0x130 (fp1 exp2X))
def execVExp (f : Fin 128) (st : IssueStream) (s : State) : Res := .next (unOp s f st 0x131 (fp1 expX))
def execVLog2 (f : Fin 128) (st : IssueStream) (s : State) : Res := .next (unOp s f st 0x132 (fp1 log2X))
def execVLog (f : Fin 128) (st : IssueStream) (s : State) : Res := .next (unOp s f st 0x133 (fp1 logX))
def execVRecip (f : Fin 128) (st : IssueStream) (s : State) : Res := .next (unOp s f st 0x134 (fp1 recipX))
def execVRsqrt (f : Fin 128) (st : IssueStream) (s : State) : Res := .next (unOp s f st 0x135 (fp1 rsqrtX))
def execVDiv (f : Fin 128) (st : IssueStream) (s : State) : Res := .next (binOp s f st 0x136 (fp2 divX))

/-! ### Reductions into element 0 (R132) -/

/-- Elements 0 to vl - 1 of VA as values. -/
def vaVals (s : State) (i : Ins) : List Xr := (velems s i.f (vaF i) 0 (vlOf s i)).map x32
/-- Element 0 of VD, the one that a reduction writes; with ME = 1 it is left as it is where bit 0 of M is clear (R130). -/
def setFirst (s : State) (i : Ins) (v : Xr) : State := setVelems s i.f (vdF i) 0 [r32 v] (writable s i)
/-- A reduction of elements 0 to vl - 1 of VA: the mask has no part in it (R98, R132). -/
def redOp (s : State) (f : Nat) (st : IssueStream) (op : Nat) (g : List Xr → Xr) : State :=
  vecOp s f st op [fVD, fVA, fM, fME] .no (fun _ => true) (fun i => [.vd (vdF i), .v (vaF i)] ++ mNames i)
    fun s i => setFirst s i (g (vaVals s i))
def execVRsum (f : Fin 128) (st : IssueStream) (s : State) : Res := .next (redOp s f st 0x140 treeSum)
def execVRsumsq (f : Fin 128) (st : IssueStream) (s : State) : Res :=
  .next (redOp s f st 0x141 fun v => treeSum (v.map fun x => mulX x x))
def vRdotStep (s : State) (f : Nat) (st : IssueStream) : State :=
  vecOp s f st 0x142 ([fVD, fVA, fM, fME] ++ bFields) .opt bOk (fun i => [.vd (vdF i), .v (vaF i)] ++ bNames i ++ mNames i)
    fun s i => setFirst s i (treeSum ((vaVals s i).zipIdx.map fun p => mulX p.1 (x32 (bElem s i p.2))))
def execVRdot (f : Fin 128) (st : IssueStream) (s : State) : Res := .next (vRdotStep s f st)
def execVRmax (f : Fin 128) (st : IssueStream) (s : State) : Res := .next (redOp s f st 0x143 maxAll)
def execVRmin (f : Fin 128) (st : IssueStream) (s : State) : Res := .next (redOp s f st 0x144 minAll)

/-! ### Compound instructions over one row (R133) -/

/-- The row offset o = s[S1]. -/
def rowOff (s : State) (i : Ins) : Nat := (sreg s i.f (s1F i)).toNat
def rowOf (s : State) (i : Ins) (n : Nat) : List Xr := (velems s i.f n (rowOff s i) (vlOf s i)).map x32
/-- V_SOFTMAX and V_LOGSOFTMAX: every position is written, and the empty-row flag goes to bit s[S2] of MD
once the row mask has been read. -/
def softOp (s : State) (f : Nat) (st : IssueStream) (op : Nat) (g : List Xr → List Bool → List Xr × Bool) : State :=
  issue s f st op fun s i =>
    if !encodingOk i [fVD, fVA, fM, fME, fS1, fS2, fMD] .no [] then raise s i stBadEncoding
    else withRegs s i ([.vd (vdF i), .v (vaF i), .s (s1F i), .s (s2F i), .md (mdF i)] ++ mNames i) fun s =>
      let o := rowOff s i
      let vl := vlOf s i
      let bitNo := (sreg s i.f (s2F i)).toNat
      if 1024 < o + vl ∨ 1023 < bitNo then raise s i stVlRange
      else
        let mask := if meF i then (List.range vl).map fun k => (mget s i.f (mF i)).getLsbD (o + k) else []
        let r := g (rowOf s i (vaF i)) mask
        let s := setVelems s i.f (vdF i) o (r.1.map r32) fun _ => true
        let s := setMreg s i.f (mdF i) (putBits (mget s i.f (mdF i)) bitNo [r.2])
        done (setFlag s i flEmpty r.2) i
def execVSoftmax (f : Fin 128) (st : IssueStream) (s : State) : Res := .next (softOp s f st 0x150 softMax)
def execVLogsoftmax (f : Fin 128) (st : IssueStream) (s : State) : Res := .next (softOp s f st 0x151 logSoftMax)
/-- The norms: every element of the row enters the sums, and the mask decides what is written. -/
def normOp (s : State) (f : Nat) (st : IssueStream) (op : Nat) (fields : List (Nat × Nat)) (names : Ins → List Name)
    (g : State → Ins → List Xr) : State :=
  issue s f st op fun s i =>
    if !encodingOk i ([fVD, fVA, fVB, fM, fME, fS1] ++ fields) .need [(63, 0)] then raise s i stBadEncoding
    else withRegs s i ([.vd (vdF i), .v (vaF i), .v (vbF i), .s (s1F i)] ++ names i ++ mNames i) fun s =>
      if 1024 < rowOff s i + vlOf s i then raise s i stVlRange
      else done (setVelems s i.f (vdF i) (rowOff s i) ((g s i).map r32) (writable s i)) i
def invNF (i : Ins) : Xr := x32 (w32 (fx i 63 32))
def epsF (i : Ins) : Xr := x32 (w32 (fx i 31 0))
def execVRmsnorm (f : Fin 128) (st : IssueStream) (s : State) : Res :=
  .next (normOp s f st 0x152 [] (fun _ => []) fun s i => rmsNorm (rowOf s i (vaF i)) (rowOf s i (vbF i)) (invNF i) (epsF i))
def execVLayernorm (f : Fin 128) (st : IssueStream) (s : State) : Res :=
  .next (normOp s f st 0x153 [fVC] (fun i => [.v (vcF i)]) fun s i =>
    layerNorm (rowOf s i (vaF i)) (rowOf s i (vbF i)) (rowOf s i (vcF i)) (invNF i) (epsF i))

/-! ### Loads and stores (R134) -/

/-- A value of V_LD in its register element: FP32, or the INT32 value of an integer format. -/
def loadElem (f : Fmt) (x : Xr) : W32 :=
  match f with
  | .int8 | .int4 | .int32 => match x with | .fin m _ => int32 m | _ => 0
  | _ => r32 x
/-- V_LD. ADDR_RANGE and POISON_READ are judged on all vl elements, masked or not (log 15). BSLOT is ignored by a format
without blocks (log 14). -/
def vLdStep (s : State) (f : Nat) (st : IssueStream) : State :=
  issue s f st 0x160 fun s i =>
    match encodingOk i [fVD, fM, fME, fS1, fFMT, fMD] .no [], fmtOf (fmtF i) with
    | true, some fm =>
      withRegs s i ([.vd (vdF i), .s (s1F i)] ++ mNames i) fun s =>
        let a := (sreg s i.f (s1F i)).toNat
        let spans := (rowSpans fm (mdF i) (vlOf s i)).map fun p => (a + p.1, p.2)
        if !spans.all (fun p => inT0 p.1 p.2) then raise s i stAddrRange
        else if a % fmtAlign fm != 0 then raise s i stAlign
        else if t0Poison s i.f spans then raise (t0Note s i.f spans) i stPoisonRead
        else
          let vals := rowVals fm (t0Bytes s i.f) a (mdF i) (vlOf s i)
          let s := t0Note s i.f spans
          done (setVelems s i.f (vdF i) 0 (vals.map (loadElem fm)) (writable s i)) i
    | _, _ => raise s i stBadEncoding
def execVLd (f : Fin 128) (st : IssueStream) (s : State) : Res := .next (vLdStep s f st)

/-- Counts of a conversion under a tensor id below 4,096, kept until the slice ends (R205). -/
def addCounts (s : State) (i : Ins) (tensor : Nat) (n : ConvCount) : State :=
  if fld (claim s i.l.claim).canary 1 0 = 2 ∧ tensor < 4096 then
    modLane s i.f i.st fun l =>
      let old := Tab.get [] l.counts tensor
      let o := fun k => old.getD k 0
      { l with counts := Tab.set [] l.counts tensor [o 0 + n.elems, o 1 + n.zeros, o 2 + n.sats, o 3 + n.nonfin] }
  else s
/-- V_ST. ADDR_RANGE is judged on all vl elements, masked or not (log 15). R134 asks for a logical index s[S2] that is
a multiple of 16 and names no exception for a float format: LAYOUT_SPLITS_BLOCK is for V8 and V4 (R141), and the other
formats take any index; they ignore BSLOT (log 14). -/
def vStStep (s : State) (f : Nat) (st : IssueStream) : State :=
  issue s f st 0x161 fun s i =>
    let sr := srUsed (rndF i) (gF i)
    match encodingOk i [fVA, fM, fME, fS1, fS2, fRND, fG, fFMT, fMD] .opt [(63, 32)] && rndF i < 2 && (i.ext || !sr), fmtOf (fmtF i) with
    | true, some fm =>
      withRegs s i ([.v (vaF i), .s (s1F i)] ++ (if sr || fm.isBlock then [.s (s2F i)] else []) ++ mNames i) fun s =>
        let a := (sreg s i.f (s1F i)).toNat
        let idx := (sreg s i.f (s2F i)).toNat
        let spans := (rowSpans fm (mdF i) (vlOf s i)).map fun p => (a + p.1, p.2)
        if fm.isInt then raise s i stFormatPair
        else if fm.isBlock && idx % 16 != 0 then raise s i stLayoutSplitsBlock
        else if !spans.all (fun p => inT0 p.1 p.2) then raise s i stAddrRange
        else if a % fmtAlign fm != 0 then raise s i stAlign
        else
          let els := velems s i.f (vaF i) 0 (vlOf s i)
          let row := if fm = .int32 then
              ((els.zipIdx.filter fun p => writable s i p.2).flatMap fun p => placed (4 * p.2) (leBytes 4 p.1.toNat), false,
                intCount ((els.zipIdx.filter fun p => writable s i p.2).map Prod.fst))
            else convRow fm (mdF i) (els.map x32) (writable s i)
              (fun n => drawFor (claim s i.l.claim) sr (fx i 63 32) (idx + n))
          let s := t0Store s i.f i.l.req (row.1.map fun p => (a + p.1, p.2))
          let s := if i.ext then addCounts s i (fx i 63 32) row.2.2 else s
          done (setFlag s i flNonfin row.2.1) i
    | _, _ => raise s i stBadEncoding
def execVSt (f : Fin 128) (st : IssueStream) (s : State) : Res := .next (vStStep s f st)
def mLdStep (s : State) (f : Nat) (st : IssueStream) : State :=
  issue s f st 0x162 fun s i =>
    if !encodingOk i [fS1, fMD] .no [] then raise s i stBadEncoding
    else withRegs s i [.md (mdF i), .s (s1F i)] fun s =>
      let a := (sreg s i.f (s1F i)).toNat
      let vl := vlOf s i
      let n := ceilDiv vl 8
      if !inT0 a n then raise s i stAddrRange
      else if t0Poison s i.f [(a, n)] then raise (t0Note s i.f [(a, n)]) i stPoisonRead
      else
        let v := leNat (t0Bytes s i.f a n)
        let s := t0Note s i.f [(a, n)]
        done (setMreg s i.f (mdF i) (putBits (mget s i.f (mdF i)) 0 ((List.range vl).map v.testBit))) i
def execMLd (f : Fin 128) (st : IssueStream) (s : State) : Res := .next (mLdStep s f st)
/-- The `n` bytes that hold the first `vl` bits of a mask: the bits of the last byte above them, which the manual
does not give, are those of a free value (log 15). -/
def maskBytes (m free n vl : Nat) : List Byte := leBytes n (m % 2 ^ vl + free % 2 ^ (8 * n - vl) * 2 ^ vl)
def mStStep (s : State) (f : Nat) (st : IssueStream) : State :=
  issue s f st 0x163 fun s i =>
    if !encodingOk i [fS1, fMD] .no [] then raise s i stBadEncoding
    else withRegs s i [.m (mdF i), .s (s1F i)] fun s =>
      let a := (sreg s i.f (s1F i)).toNat
      let vl := vlOf s i
      let n := ceilDiv vl 8
      if !inT0 a n then raise s i stAddrRange
      else
        let (x, s) := freeValue s
        done (t0Store s i.f i.l.req (placed a (maskBytes (mget s i.f (mdF i)).toNat x.toNat n vl))) i
def execMSt (f : Fin 128) (st : IssueStream) (s : State) : Res := .next (mStStep s f st)

/-! ### Mask registers -/

/-- Masks named in VA and VB into MD. The operation acts on the first vl bits, as every vector instruction does (R130).
DESIGN CHOICE (log 14): the number of a mask is the low three bits of VA or VB, and a number above 7 is BAD_ENCODING. -/
def maskOp (s : State) (f : Nat) (st : IssueStream) (op : Nat) (two : Bool) (g : Bool → Bool → Bool) : State :=
  vecOp s f st op ([fVA, fMD] ++ (if two then [fVB] else [])) .no (fun i => vaF i < 8 && vbF i < 8)
    (fun i => [.m (vaF i), .md (mdF i)] ++ (if two then [.m (vbF i)] else []))
    fun s i =>
      let bs := (List.range (vlOf s i)).map fun k => g ((mget s i.f (vaF i)).getLsbD k) ((mget s i.f (vbF i)).getLsbD k)
      setMreg s i.f (mdF i) (putBits (mget s i.f (mdF i)) 0 bs)
def execMAnd (f : Fin 128) (st : IssueStream) (s : State) : Res := .next (maskOp s f st 0x168 true (· && ·))
def execMOr (f : Fin 128) (st : IssueStream) (s : State) : Res := .next (maskOp s f st 0x169 true (· || ·))
def execMXor (f : Fin 128) (st : IssueStream) (s : State) : Res := .next (maskOp s f st 0x16A true xor)
def execMNot (f : Fin 128) (st : IssueStream) (s : State) : Res := .next (maskOp s f st 0x16B false fun a _ => !a)

end Sys2Proof.Machine
end

