-- ==== Sys2Proof/Machine/Matrix.lean ====
section
/-!
DEFINITION. The matrix instructions (R67 to R73, R92 to R97, R126 to R129, R513): operand loads, products
into an accumulator, drains, and the clearing of an accumulator.
-/
namespace Sys2Proof.Machine
open Sys2Proof

/-! ### Claim memory as a face reaches it -/

/-- The request's right of access (R154). -/
def whoOf (s : State) (i : Ins) : Who :=
  match findReq s i.l.req with | some q => .request q.tenant | none => .request none
/-- An engine's access to claim memory: it goes on, fails, ends the claim, or waits for its pages (R111, R345).
A marked leaf of a weight object fails it (R327). -/
def withClaim (s : State) (i : Ins) (va n : Nat) (body : State → State) : State :=
  if touchesMarked (claim s i.l.claim) [(va, n)] then raise s i stWeightPoisoned else
  match access (claim s i.l.claim) (whoOf s i) va n with
  | .ok => body s
  | .bad x => if x = stOwnerFault then ownerFault (raise s i x) i.l.claim 1 i.f else raise s i x
  | .absent ps => stallFace s i.l.claim i.f ps (.request i.l.req)

/-! ### TLOAD (R93, R126) -/

def fBUF : Nat × Nat := (50, 49)
def tlFields : List (Nat × Nat) := [(50, 23), (21, 0)]
/-- Formats that an operand buffer takes (R122). -/
def tileFmt : Fmt → Bool | .fp32 => false | .int32 => false | _ => true
/-- The spans of T0 that a tile load reads: source rows at the stride. -/
def tileSpans (i : Ins) (fm : Fmt) (a stride kn rows : Nat) : List (Nat × Nat) :=
  if fw i 44 44 = 0 then
    (List.range rows).flatMap fun r => (rowSpans fm (fw i 25 23) kn).map fun p => (a + r * stride + p.1, p.2)
  else (List.range kn).flatMap fun k => (rowSpans fm 0 rows).map fun p => (a + k * stride + p.1, p.2)
/-- Rows of the tile in K order, transposed where T is 1. -/
def tileRows (s : State) (i : Ins) (fm : Fmt) (a stride kn rows : Nat) : List (List Xr) :=
  let rd := t0Bytes s i.f
  if fw i 44 44 = 0 then (List.range rows).map fun r => rowVals fm rd (a + r * stride) (fw i 25 23) kn
  else
    let src := (List.range kn).map fun k => rowVals fm rd (a + k * stride) 0 rows
    (List.range rows).map fun r => src.map fun l => l.getD r .zero
def setBuf (s : State) (f n : Nat) (b : OpBuf) : State :=
  let x := face s f; setFace s f { x with buf := Tab.set {} x.buf n b }
/-- Scale entries of the extent, one for each 64-element K span; none where one is invalid (R60). -/
def spanScales (es : List W64) : Option (List Xr) :=
  if es.all scaleValid then some (es.map fun e => .fin 1 (scaleExp e)) else none
/-- The tile read from T0 into the buffer, once its scales are at hand. -/
def loadTile (s : State) (i : Ins) (fm : Fmt) (a stride kn rows : Nat) (scales : List Xr) : State :=
  let spans := tileSpans i fm a stride kn rows
  if t0Poison s i.f spans then raise (t0Note s i.f spans) i stPoisonRead
  else
    let b : OpBuf := { fmt := fm, full := true, rows := tileRows s i fm a stride kn rows, scales := scales }
    done (setBuf (t0Note s i.f spans) i.f (fw i 50 49) b) i
def tloadStep (s : State) (f : Nat) (st : IssueStream) : State :=
  issue s f st 0x001 fun s i =>
    match encodingOk i tlFields .no [], fmtOf (fw i 48 45) with
    | true, some fm =>
      if (!fm.isInt && fw i 35 32 != 0) || (!fm.isBlock && fw i 25 23 != 0) then raise s i stBadEncoding
      else withRegs s i ([.b (fw i 50 49), .s (fw i 43 40), .s (fw i 39 36)] ++ (if fm.isInt then [.s (fw i 35 32)] else [])) fun s =>
        let a := (sreg s i.f (fw i 43 40)).toNat + 8 * fw i 15 0
        let stride := (sreg s i.f (fw i 39 36)).toNat
        let kn := 32 * (fw i 31 26 + 1)
        let rows := fw i 21 16 + 1
        let sc := (sreg s i.f (fw i 35 32)).toNat
        let nsc := ceilDiv kn 64
        if !tileFmt fm then raise s i stFormatPair
        else if fm.capacity < fw i 31 26 + 1 then raise s i stBadEncoding
        else if fm.isBlock && fw i 44 44 == 1 then raise s i stBlockAxisNotK
        else if !(tileSpans i fm a stride kn rows).all (fun p => inT0 p.1 p.2) then raise s i stAddrRange
        else if a % fmtAlign fm != 0 || stride % 8 != 0 || (fm.isInt && sc % 8 != 0) then raise s i stAlign
        else if !fm.isInt then loadTile s i fm a stride kn rows []
        else withClaim s i sc (8 * nsc) fun s =>
          let r := sliceWords (noteVa s i.l.claim sc (8 * nsc)) i.l.claim sc (vaWords s i.l.claim sc nsc)
          if r.2.any (·.poison) then raise r.1 i stPoisonRead
          else match spanScales (r.2.map (·.data)) with
            | none => raise r.1 i stBadScale
            | some l => loadTile r.1 i fm a stride kn rows l
    | _, _ => raise s i stBadEncoding
def execTload (f : Fin 128) (st : IssueStream) (s : State) : Res := .next (tloadStep s f st)

/-! ### MMA (R67, R70 to R73, R94, R95, R127) -/

/-- floor (p / 2^e), exactly. -/
def floorTo (p : Xr) (e : Int) : Int := match p with | .fin m k => floorX m (k - e) | _ => 0
/-- `group_value_float` (R70): exact products, truncated at 2^(emax - drop), summed and rounded once. -/
def groupFloat (drop : Int) (ps : List Xr) : Xr :=
  if ps.any (·.isNan) then .nan else
  let plus := ps.any (· == .inf false)
  let minus := ps.any (· == .inf true)
  if plus && minus then .nan else if plus then .inf false else if minus then .inf true else
  let lgs := ps.filterMap fun p => match p with | .fin m e => if m = 0 then none else some (Xr.lg m e) | _ => none
  match lgs with
  | [] => .zero
  | l :: ls =>
    let e := ls.foldl max l - drop
    rne (.fin (ps.foldl (fun n p => n + floorTo p e) 0) e)
/-- Exact integer sum of a group (R42, R71). -/
def groupInt (ps : List Xr) : Int := ps.foldl (fun n p => n + floorTo p 0) 0
/-- Bits dropped below emax: 27 on the 8-bit and 4-bit paths, 40 on the 16-bit paths (R67). -/
def pathDrop : Fmt → Int | .fp16 => 40 | .bf16 => 40 | _ => 27
/-- The 32 products of group g for element (r, c) of the tile. -/
def products (a b : OpBuf) (g r c : Nat) : List Xr :=
  let x := ((a.rows.getD r []).drop (32 * g)).take 32
  let y := ((b.rows.getD c []).drop (32 * g)).take 32
  List.zipWith Xr.mul (x ++ List.replicate (32 - x.length) .zero) (y ++ List.replicate (32 - y.length) .zero)
/-- The FP32 value of one group for one element (R70, R71). -/
def groupValue (a b : OpBuf) (g r c : Nat) : Xr :=
  let ps := products a b g r c
  if a.fmt.isInt then
    rne (((Xr.ofInt (groupInt ps)).mul (a.scales.getD (g / 2) .zero)).mul (b.scales.getD (g / 2) .zero))
  else groupFloat (pathDrop a.fmt) ps
/-- `acc_insert` (R95): equal sizes merge upward; `fuel` is the depth of the store. -/
def accInsert : Nat → List (List W32 × Nat) → List W32 × Nat → List (List W32 × Nat)
  | 0, l, n => n :: l
  | _, [], n => [n]
  | fuel + 1, (u, k) :: l, n =>
    if k = n.2 then accInsert fuel l (List.zipWith (fun x y => r32 (addX (x32 x) (x32 y))) u n.1, 2 * k) else n :: (u, k) :: l
/-- `acc_drain` (R95). -/
def accDrain : List (List W32 × Nat) → List W32
  | [] => List.replicate 4096 0
  | (r, _) :: l => l.foldl (fun r p => List.zipWith (fun x y => r32 (addX (x32 x) (x32 y))) p.1 r) r
def setAcc (s : State) (f n : Nat) (a : Acc) : State :=
  let x := face s f; setFace s f { x with acc := Tab.set {} x.acc n a }
/-- Element (r, c) of each tile, row-major. -/
def tileMap {α : Type} (g : Nat → Nat → α) : List α := (List.range 4096).map fun i => g (i / 64) (i % 64)
/-- One group of two buffers received by an accumulator. -/
def accGroup (a b : OpBuf) (im : Bool) (x : Acc) (g : Nat) : Acc :=
  if im then
    let old := if x.ints.isEmpty then List.replicate 4096 0 else x.ints
    { x with ints := List.zipWith (· + ·) old (tileMap fun r c => groupInt (products a b g r c)) }
  else { x with nodes := accInsert 12 x.nodes (tileMap fun r c => r32 (groupValue a b g r c), 1) }
/-- MMA (R127). DEDUCED (log 13): the operands' formats are needed to know the capacity, so BAD_ENCODING for a group range
beyond it comes after REG_OWNER, BUF_EMPTY and the FORMAT_PAIR of two formats that do not match. -/
def mmaStep (s : State) (f : Nat) (st : IssueStream) : State :=
  issue s f st 0x002 fun s i =>
    let na := fw i 47 47
    let nb := 2 + fw i 46 46
    let im := fw i 45 45 == 1
    let koff := fw i 44 39
    let n := fw i 38 33 + 1
    if !encodingOk i [(50, 33), (23, 0)] .no [] then raise s i stBadEncoding
    else withRegs s i [.a (fw i 50 48), .b na, .b nb] fun s =>
      let a : OpBuf := Tab.get {} (face s i.f).buf na
      let b : OpBuf := Tab.get {} (face s i.f).buf nb
      let x : Acc := Tab.get {} (face s i.f).acc (fw i 50 48)
      if !(a.full && b.full) then raise s i stBufEmpty
      else if a.fmt ≠ b.fmt ∨ (im && !a.fmt.isInt) then raise s i stFormatPair
      else if a.fmt.capacity < koff + n then raise s i stBadEncoding
      else if x.full && (x.fmt != a.fmt || x.im != im) then raise s i stFormatPair
      else if x.full && x.next != fw i 23 0 then raise s i stAccOrder
      else if 4096 < x.count + n then raise s i stAccDepth
      else
        let y := (List.range n).foldl (fun y g => accGroup a b im y (koff + g)) x
        done (setAcc s i.f (fw i 50 48)
          { y with full := true, fmt := a.fmt, im := im, next := fw i 23 0 + n, count := x.count + n }) i
/- The two groups of a V4 or INT4 cycle are consecutive in group index and enter lower index first: `mmaStep` folds
`accGroup` over the groups in ascending order. A value forms from all 32 products of its group: `groupValue` takes them
all (R92). The rates of R92 are times, which the model leaves out. -/
def execMma (f : Fin 128) (st : IssueStream) (s : State) : Res := .next (mmaStep s f st)

/-! ### DRAIN (R96, R128, R129) -/

/-- The accumulator's first group index and count cannot be a whole subtree: the result is layout-variant
(R74, R76). -/
def accVariant (x : Acc) : Bool := x.full && !x.im && (x.next - x.count) % pow2ceil x.count != 0
/-- Element values of an accumulator. -/
def accVals (x : Acc) : List Xr := (accDrain x.nodes).map x32
/-- Rows of a drain: elements (r, 0) to (r, nc - 1). -/
def drainRow (vals : List Xr) (r nc : Nat) : List Xr := (vals.drop (64 * r)).take nc
/-- One row of a drain in T0: its bytes at their offsets, whether a block was non-finite, its counts, and
the integer conversions. -/
structure RowOut where
  bytes  : List (Nat × Byte)
  nonfin : Bool
  count  : ConvCount
  ints   : List IntConv
deriving DecidableEq, Repr
def intRow (fm : Fmt) (k : Int) (xs : List Xr) (draw : Nat → Option Nat) : RowOut :=
  let cs := xs.zipIdx.map fun p => convertInt (if fm = .int8 then 128 else 8) k (draw p.2) p.1
  let qs := cs.map fun c => (c.q % 256).toNat
  { bytes := placed 0 (if fm = .int8 then qs.map byte else packNibbles (qs.map (· % 16))), nonfin := false, ints := cs
    count := ⟨cs.length, (cs.filter fun c => c.q == 0).length, (cs.filter (·.ovf)).length, 0⟩ }
def floatRow (fm : Fmt) (b : Nat) (xs : List Xr) (draw : Nat → Option Nat) : RowOut :=
  let r := convRow fm b xs (fun _ => true) draw
  { bytes := r.1, nonfin := r.2.1, count := r.2.2, ints := [] }
/-- INT32 elements of an exact accumulator, saturated (R42), and whether one saturated. -/
def intVals (x : Acc) : List (W32 × Bool) :=
  (if x.ints.isEmpty then List.replicate 4096 0 else x.ints).map fun n => (int32 (sat32 n).1, (sat32 n).2)
/-- Destination rows and columns: all of the tile without an extension word. -/
def drNr (i : Ins) : Nat := if i.ext then fx i 13 8 + 1 else 64
def drNc (i : Ins) : Nat := if i.ext then fx i 5 0 + 1 else 64
/-- Flags that a drain raises. -/
def drainFlags (s : State) (i : Ins) (x : Acc) (sat nonfin ovf : Bool) : State :=
  setFlag (setFlag (setFlag (setFlag s i flSat sat) i flNonfin nonfin) i flIntOvf ovf) i flLvar (accVariant x)
/-- A drain that has written its elements leaves the accumulator empty. -/
def drained (s : State) (i : Ins) : State := done (setAcc s i.f (fw i 50 48) {}) i
/-- DV = 1: FP32 or INT32 elements into vector registers. -/
def drainVec (s : State) (i : Ins) (x : Acc) (fm : Fmt) : State :=
  let base := (sreg s i.f (fw i 39 36)).toNat + fw i 15 0
  let stride := (sreg s i.f (fw i 35 32)).toNat
  let nr := drNr i
  let nc := drNc i
  if !(if x.im then fm == .int32 else fm == .fp32) then raise s i stFormatPair else
  let at2 := fun r c => base + r * stride + c
  let owned := (List.range nr).all fun r =>
    [at2 r 0, at2 r (nc - 1)].all fun n => n < 32768 && ownsName i.l (.v (n / 1024))
  if !owned then raise s i stRegOwner else
  let vals := if x.im then (intVals x).map Prod.fst else (accVals x).map r32
  let y := face s i.f
  let v := (List.range nr).foldl (fun t r => (List.range nc).foldl (fun t c =>
    Tab.set 0 t (at2 r c) (vals.getD (64 * r + c) 0)) t) y.v
  let sat := x.im && (List.range nr).any fun r => (List.range nc).any fun c => ((intVals x).getD (64 * r + c) (0, false)).2
  let s := setFace s i.f { y with v := v }
  let out := (List.range nr).flatMap fun r => (vals.drop (64 * r)).take nc
  let s := if i.ext then addCounts s i (fx i 63 32) (if x.im then intCount out else fpCounts out) else s
  drained (drainFlags s i x sat false false) i
/-- Bytes of a drain's rows in T0. -/
def drainBytes (a stride : Nat) (rows : List RowOut) : List (Nat × Byte) :=
  (rows.zipIdx).flatMap fun p => p.1.bytes.map fun b => (a + p.2 * stride + b.1, b.2)
/-- Byte and bit of tile `t` in the overflow bitmap at `base` (R62). -/
def tileBit (base t : Nat) : Nat × Nat := (base + t / 8, t % 8)
/-- Where the overflow bit of the tile of a scale entry lies: byte of claim memory, and bit (R62). -/
def tileOf (c sc : Nat) : Nat × Nat :=
  let p := Config.overflowTile c sc
  tileBit (p.1 % 2 ^ 48) p.2
/-- Conversions that set the tile's bit: one that saturated, or met a NaN (R61). -/
def tileMarked (rows : List RowOut) : Bool := rows.any fun r => r.ints.any fun c => c.ovf || c.nonfin
/-- The byte of claim memory at `va`, with bit `n` set. -/
def setBitAt (s : State) (c va n : Nat) : State :=
  let old := (vaWord s c (va / 8)).data.toNat >>> (8 * (va % 8)) % 256
  let s := vaStore s c va [byte (old ||| 2 ^ n)]
  if permuting (claim s c) va then slicePut s c (va / 8 * 8) [⟨0, false⟩] else s
/-- The device sets the tile's bit at the conversion that overflows, in either shift (R61, R62, R65): the engine
reaches the byte as it reaches the scale entry. -/
def withTile (s : State) (i : Ins) (sc : Nat) (rows : List RowOut) (body : State → State) : State :=
  if tileMarked rows then
    let b := tileOf i.l.claim sc
    withClaim s i b.1 1 fun s => body (setBitAt s i.l.claim b.1 b.2)
  else body s
/-- The scale entry after a drain in the learning shift, and the claim's note of it for R63. -/
def drainScale (s : State) (i : Ins) (fm : Fmt) (sc : Nat) (e : W64) (rows : List RowOut) : State :=
  let k := claim s i.l.claim
  if fm.isInt && k.shift == .learning then
    let s := slicePut s i.l.claim sc [⟨scaleMerge e (rows.flatMap (·.ints)), false⟩]
    let k := claim s i.l.claim
    let key := (sc, fm == .int4)
    setClaim s i.l.claim { k with scales := if k.scales.contains key then k.scales else k.scales ++ [key] }
  else s
/-- The rows of a drain, converted (R52, R56, R57, R61). -/
def drainRows (s : State) (i : Ins) (x : Acc) (fm : Fmt) (e : W64) : List RowOut :=
  let k := claim s i.l.claim
  let sr := srUsed (fw i 42 41) (fw i 40 40 == 1)
  let nc := drNc i
  let sl := (sreg s i.f (fw i 31 28)).toNat
  let slr := (sreg s i.f (fw i 27 24)).toNat
  let draw := fun r n => drawFor k sr (fx i 63 32) (sl + r * slr + n)
  let vals := accVals x
  (List.range (drNr i)).map fun r =>
    if fm = .int32 then
      { bytes := (List.range nc).flatMap fun c => placed (4 * c) (leBytes 4 ((intVals x).getD (64 * r + c) (0, false)).1.toNat)
        nonfin := false, count := intCount (((intVals x).drop (64 * r)).take nc |>.map Prod.fst), ints := [] : RowOut }
    else if fm.isInt then intRow fm (scaleExp e) (drainRow vals r nc) (draw r)
    else floatRow fm (fw i 19 17) (drainRow vals r nc) (draw r)
/-- DV = 0: the elements of the tile converted and written to T0. -/
def drainT0 (s : State) (i : Ins) (x : Acc) (fm : Fmt) (e : W64) (a stride : Nat) : State :=
  let nr := drNr i
  let nc := drNc i
  let rows := drainRows s i x fm e
  let sat := fm == .int32 && (List.range nr).any fun r => (List.range nc).any fun c => ((intVals x).getD (64 * r + c) (0, false)).2
  let s := t0Store s i.f i.l.req (drainBytes a stride rows)
  let s := drainScale s i fm (sreg s i.f (fw i 23 20)).toNat e rows
  let s := if i.ext then addCounts s i (fx i 63 32) (rows.foldl (fun c r => c.add r.count) {}) else s
  drained (drainFlags s i x sat (rows.any (·.nonfin)) (rows.any fun r => r.ints.any (·.ovf))) i
def drainNames (i : Ins) (fm : Fmt) : List Name :=
  [.a (fw i 50 48), .s (fw i 39 36), .s (fw i 35 32)]
    ++ (if srUsed (fw i 42 41) (fw i 40 40 == 1) || fm.isBlock then [.s (fw i 31 28), .s (fw i 27 24)] else [])
    ++ (if fm.isInt then [.s (fw i 23 20)] else [])
/-- A drain to INT8 or INT4: its scale entry is read, and the tile's bit of the overflow bitmap reached (R60 to R62). -/
def drainScaled (s : State) (i : Ins) (x : Acc) (fm : Fmt) (sc a stride : Nat) : State :=
  withClaim s i sc 8 fun s =>
    let r := sliceWords (noteVa s i.l.claim sc 8) i.l.claim sc [vaWord s i.l.claim (sc / 8)]
    let e := r.2.headD ⟨0, false⟩
    if e.poison then raise r.1 i stPoisonRead
    else if !scaleValid e.data then raise r.1 i stBadScale
    else withTile r.1 i sc (drainRows r.1 i x fm e.data) fun s => drainT0 s i x fm e.data a stride
/-- DRAIN. DEDUCED (log 13): with DV = 1 a format that no vector register takes raises FORMAT_PAIR before the ownership of
the registers that the tile reaches is tested. DEDUCED (log 14): BSLOT is ignored by a format without blocks. -/
def drainStep (s : State) (f : Nat) (st : IssueStream) : State :=
  issue s f st 0x003 fun s i =>
    let sr := srUsed (fw i 42 41) (fw i 40 40 == 1)
    match encodingOk i [(50, 17), (15, 0)] .opt [(63, 32), (13, 8), (5, 0)] && fw i 42 41 < 2 && (i.ext || !sr), fmtOf (fw i 46 43) with
    | true, some fm =>
      if !fm.isInt && fw i 23 20 != 0 then raise s i stBadEncoding
      else withRegs s i (drainNames i fm) fun s =>
        let x : Acc := Tab.get {} (face s i.f).acc (fw i 50 48)
        let a := (sreg s i.f (fw i 39 36)).toNat + 8 * fw i 15 0
        let stride := (sreg s i.f (fw i 35 32)).toNat
        let sl := (sreg s i.f (fw i 31 28)).toNat
        let slr := (sreg s i.f (fw i 27 24)).toNat
        let sc := (sreg s i.f (fw i 23 20)).toNat
        if fw i 47 47 = 1 then drainVec s i x fm
        else if x.im != (fm == .int32) then raise s i stFormatPair
        else if fm.isBlock && (sl % 16 != 0 || slr % 16 != 0) then raise s i stLayoutSplitsBlock
        else
          let spans := (List.range (drNr i)).flatMap fun r => (rowSpans fm (fw i 19 17) (drNc i)).map fun p => (a + r * stride + p.1, p.2)
          if !spans.all (fun p => inT0 p.1 p.2) then raise s i stAddrRange
          else if a % fmtAlign fm != 0 || stride % fmtAlign fm != 0 || (fm.isInt && sc % 8 != 0) then raise s i stAlign
          else if !fm.isInt then drainT0 s i x fm 0 a stride
          else drainScaled s i x fm sc a stride
    | _, _ => raise s i stBadEncoding
def execDrain (f : Fin 128) (st : IssueStream) (s : State) : Res := .next (drainStep s f st)

/-- ACC_CLEAR: the accumulator is emptied and nothing is written (R513). -/
def accClearStep (s : State) (f : Nat) (st : IssueStream) : State :=
  issue s f st 0x004 fun s i =>
    if !encodingOk i [(50, 48)] .no [] then raise s i stBadEncoding
    else withRegs s i [.a (fw i 50 48)] fun s => drained s i
def execAccClear (f : Fin 128) (st : IssueStream) (s : State) : Res := .next (accClearStep s f st)

end Sys2Proof.Machine
end

