-- ==== Sys2Proof/Machine/Tubs.lean ====
section
/-!
DEFINITION. The device's serving structures in claim memory: token histories and tub maps (R214), tub tags
(R219), the vein map (R222 to R224) and count tables (R228). What reads them looks for poison first (R176, R375).
-/
namespace Sys2Proof.Machine
open Sys2Proof

/-! ### Words of structures -/

/-- A word that the headframe reads for `who`: the claim's own structures belong to no tenant, a history and a tub map to
their stream's (R154). -/
def peekAs (w : Who) (s : State) (c va : Nat) : W64 :=
  match access (claim s c) w va 8 with | .ok => (vaWord s c (va / 8)).data | _ => 0
def pokeAs (w : Who) (s : State) (c va : Nat) (bs : List Byte) : State :=
  match access (claim s c) w va bs.length with | .ok => vaStore s c va bs | .bad n => blocked s c n | .absent _ => s
def peek (s : State) (c va : Nat) : W64 := peekAs (.request none) s c va
def poke (s : State) (c va : Nat) (bs : List Byte) : State := pokeAs (.request none) s c va bs
def peek32 (w : Who) (s : State) (c va : Nat) : Nat :=
  let x := (peekAs w s c (va / 8 * 8)).toNat + (if va % 8 ≤ 4 then 0 else (peekAs w s c (va / 8 * 8 + 8)).toNat * 2 ^ 64)
  bits x (8 * (va % 8) + 31) (8 * (va % 8))
/-- A word of the spans that can be read is poisoned (R176, R375). -/
def spansPoison (s : State) (c : Nat) (spans : List (Nat × Nat)) : Bool :=
  spans.any fun p => match access (claim s c) .device p.1 p.2 with
    | .ok => p.2 != 0 && (List.range ((p.1 + p.2 + 7) / 8 - p.1 / 8)).any fun i => (vaWord s c (p.1 / 8 + i)).poison
    | _ => false

/-! ### Histories and tub maps (R214) -/

/-- No tub in a map entry. -/
def noTub : Nat := 0xFFFFFFFF
/-- The tenant of a stream asks. -/
def ofTenant (x : Stream) : Who := .request (some x.tenant)
def mapGet (s : State) (c : Nat) (x : Stream) (j : Nat) : Nat := peek32 (ofTenant x) s c (x.tmap + 4 * j)
def mapPut (s : State) (c : Nat) (x : Stream) (j v : Nat) : State := pokeAs (ofTenant x) s c (x.tmap + 4 * j) (leBytes 4 v)
/-- Token ids lo to lo + n - 1 of a history, or why they cannot be read. -/
def histTokens (s : State) (c : Nat) (x : Stream) (lo n : Nat) : Got (List Nat) :=
  if n = 0 then .ok [] else
  match access (claim s c) (ofTenant x) (x.hist + 4 * lo) (4 * n) with
  | .ok => mapGot (goodBytes s c (x.hist + 4 * lo) (4 * n)) fun bs => (chunks 4 bs).map fun b => leNat b % 2 ^ 20
  | .bad m => .bad m
  | .absent l => .absent l

/-! ### Tub tags (R219) -/

structure Tub where
  refs   : Nat
  tenant : Nat
  sealed : Bool
  mixed  : Bool
  kvfmt  : Bool
  fill   : Nat
  ver    : Nat
  hv     : Bool
  vin    : Bool
  vein   : Nat
  hash   : BitVec 128
deriving DecidableEq, Repr

def tagAt (k : Claim) (v : Serve) (t : Nat) : Nat := objBase k v.tags + 32 * t
def getTub (s : State) (c : Nat) (v : Serve) (t : Nat) : Tub :=
  let w := fun n => peek s c (tagAt (claim s c) v t + 8 * n)
  { refs := fld (w 0) 63 46, tenant := fld (w 0) 45 34, sealed := bit (w 0) 33, mixed := bit (w 0) 32, kvfmt := bit (w 0) 31
    fill := fld (w 0) 30 24, ver := fld (w 0) 15 0, hv := bit (w 1) 24, vin := bit (w 1) 23, vein := fld (w 1) 22 0
    hash := BitVec.ofNat 128 ((w 2).toNat + (w 3).toNat * 2 ^ 64) }
def putTub (s : State) (c : Nat) (v : Serve) (t : Nat) (x : Tub) : State :=
  let w0 := at' x.refs 46 + at' x.tenant 34 + at' (b2n x.sealed) 33 + at' (b2n x.mixed) 32 + at' (b2n x.kvfmt) 31 + at' x.fill 24 + x.ver
  let w1 := at' (b2n x.hv) 24 + at' (b2n x.vin) 23 + x.vein
  poke s c (tagAt (claim s c) v t) (wordsBytes [w64 w0, w64 w1] ++ leBytes 16 x.hash.toNat)
/-- Byte spans of tub tags. -/
def tagSpans (k : Claim) (v : Serve) (ts : List Nat) : List (Nat × Nat) := ts.map fun t => (tagAt k v t, 32)
/-- Tubs of the pool (R212). -/
def tubCount (k : Claim) (v : Serve) : Nat := min (objBytes k v.pool / v.tubBytes) 16777215
/-- A tub is free: its REFS can be read, and is 0. -/
def tubFree (s : State) (c : Nat) (v : Serve) (t : Nat) : Bool :=
  (getTub s c v t).refs == 0 && !spansPoison s c [(tagAt (claim s c) v t, 32)]
def freeTubs (s : State) (c : Nat) (v : Serve) : List Nat := (List.range (tubCount (claim s c) v)).filter (tubFree s c v)
/-- Tub tags read in taking the `n` lowest-numbered free tubs. -/
def tagsTaken (s : State) (c : Nat) (v : Serve) (n : Nat) : List (Nat × Nat) :=
  if n = 0 then [] else
  let l := (List.range (tubCount (claim s c) v)).filter fun t => (getTub s c v t).refs == 0
  tagSpans (claim s c) v (List.range (match l[n - 1]? with | some t => t + 1 | none => tubCount (claim s c) v))

/-! ### The vein map (R222 to R224) -/

def veinHash (k : Claim) (kvfmt : Bool) (tenant version : Nat) (prev : BitVec 128) (toks : List Nat) : BitVec 128 :=
  let m := [byte 2, byte (b2n kvfmt)] ++ leBytes 16 k.salt.toNat ++ leBytes 2 tenant ++ leBytes 2 version ++ leBytes 16 prev.toNat
    ++ toks.flatMap (leBytes 4)
  BitVec.ofNat 128 (leNat ((sha3Bytes m).take 16))
def veinAt (k : Claim) (v : Serve) (e : Nat) : Nat := objBase k v.vein + 32 * e
/-- Entries of the bucket of a hash. -/
def veinBucket (v : Serve) (h : BitVec 128) : List Nat :=
  let b := h.toNat % 2 ^ 64 % (2 ^ v.veinLog2 / 8)
  (List.range 8).map (8 * b + ·)
def veinFind (s : State) (c : Nat) (v : Serve) (h : BitVec 128) : Option Nat :=
  (veinBucket v h).findSome? fun e =>
    let w := fun n => peek s c (veinAt (claim s c) v e + 8 * n)
    if bit (w 2) 63 && w 0 == w64 h.toNat && w 1 == w64 (h.toNat / 2 ^ 64) then some (fld (w 2) 31 0) else none
/-- Bytes of the bucket of a hash. -/
def bucketSpan (k : Claim) (v : Serve) (h : BitVec 128) : Nat × Nat := (veinAt k v ((veinBucket v h).headD 0), 256)
/-- A sealed tub entered into a slot of the vein map, or VEIN_FULL counted where there is none. -/
def veinPut (s : State) (c : Nat) (v : Serve) (t : Nat) (x : Tub) : Option Nat → State
  | none => putTub (setClaim s c { claim s c with veinFull := (claim s c).veinFull + 1 }) c v t x
  | some e =>
    let s := poke s c (veinAt (claim s c) v e) (leBytes 16 x.hash.toNat ++ leBytes 8 (2 ^ 63 + t) ++ leBytes 8 0)
    putTub s c v t { x with vin := true, vein := e }
/-- The first invalid slot of the bucket of a hash. -/
def veinHole (s : State) (c : Nat) (v : Serve) (h : BitVec 128) : Option Nat :=
  (veinBucket v h).find? fun e => !bit (peek s c (veinAt (claim s c) v e + 16)) 63
/-- A sealed tub entered into the vein map. -/
def veinInsert (s : State) (c : Nat) (v : Serve) (t : Nat) (x : Tub) : State := veinPut s c v t x (veinHole s c v x.hash)

/-! ### Taking and releasing tubs (R218, R219) -/

/-- A tub shared by a further stream; its map entry is written once the page is resident, or dropped with a failed fetch (R512). -/
def shareTub (s : State) (c : Nat) (v : Serve) (x : Stream) (j t : Nat) : State :=
  let b := getTub s c v t
  storeLater (putTub s c v t { b with refs := b.refs + 1 }) c (some x.tenant) (x.tmap + 4 * j) (leBytes 4 t)
/-- One reference given up; the last one takes the vein entry with it. -/
def dropTub (s : State) (c : Nat) (v : Serve) (t : Nat) : State :=
  let b := getTub s c v t
  if b.refs = 0 then s
  else if b.refs = 1 then
    let s := if b.vin then poke s c (veinAt (claim s c) v b.vein) (List.replicate 32 0) else s
    putTub s c v t { b with refs := 0, vin := false }
  else putTub s c v t { b with refs := b.refs - 1 }
/-- The free tub of the lowest number. -/
def freeTub (s : State) (c : Nat) (v : Serve) : Option Nat :=
  (List.range (tubCount (claim s c) v)).find? (tubFree s c v)
/-- A free tub taken for entry j of a stream's tub map. -/
def takeTub (s : State) (c n : Nat) (v : Serve) (j : Nat) : Option Nat → State
  | none => s
  | some t =>
    let x := stream s n
    let s := mapPut s c x j t
    let b := getTub s c v t
    let s := putTub s c v t { b with refs := 1, tenant := x.tenant, kvfmt := x.kvfmt, fill := 0, sealed := false, mixed := false
                                     hv := false, vin := false, hash := 0 }
    setStream s n { x with reserve := x.reserve - 1 }
/-- The lowest free tub given to entry j of a stream's map. -/
def giveTub (s : State) (c n : Nat) (v : Serve) (j : Nat) : State :=
  if mapGet s c (stream s n) j ≠ noTub then s else takeTub s c n v j (freeTub s c v)
/-- Tubs that the readable entries of a map of n entries name. DESIGN CHOICE (log 21): a poisoned entry names no tub, and no
request is left to fail. -/
def mapTubs (s : State) (c : Nat) (v : Serve) (va n : Nat) : List Nat :=
  (List.range n).filterMap fun j =>
    let t := peek32 .device s c (va + 4 * j)
    if spansPoison s c [(va + 4 * j, 4)] || t == noTub || tubCount (claim s c) v ≤ t then none else some t
/-- The vein entry of a tub that it may lose. -/
def veinSpans (s : State) (c : Nat) (v : Serve) (ts : List Nat) : List (Nat × Nat) :=
  (ts.filter fun t => (getTub s c v t).vin).map fun t => (veinAt (claim s c) v (getTub s c v t).vein, 32)
/-- The tubs of one ended stream released, or its map waited for; its unused reservation returns at once (R219). -/
def releaseMap (s : State) (c : Nat) (v : Serve) (m : Nat × Nat × Nat) : State :=
  match access (claim s c) .device m.1 (4 * m.2.1) with
  | .absent l =>
    let k := claim s c
    stallAll (setClaim s c { k with freeing := k.freeing ++ [(m.1, m.2.1, 0)] }) c l (.tubs m.1)
  | .bad n => blocked s c n
  | .ok =>
    let s := readSpan s c m.1 (4 * m.2.1)
    let ts := mapTubs s c v m.1 m.2.1
    let s := readSpans s c (tagSpans (claim s c) v ts ++ veinSpans s c v ts)
    ts.foldl (fun s t => dropTub s c v t) s
/-- Step 2 of R216: the tubs of streams that left the live states. -/
def releaseTubs (s : State) (c : Nat) : State :=
  let k := claim s c
  let s := setClaim s c { k with freeing := [] }
  match k.serve with
  | none => s
  | some v => k.freeing.foldl (fun s m => releaseMap s c v m) s
/-- Every tub tag and vein entry of a serving configuration at its reset value (R212, R31 step 2). -/
def clearTubs (s : State) (c : Nat) (v : Serve) : State :=
  let z := List.replicate 32 (0 : Byte)
  let k := claim s c
  let s := (List.range (tubCount k v)).foldl (fun s t => poke s c (tagAt k v t) z) s
  (List.range (2 ^ v.veinLog2)).foldl (fun s e => poke s c (veinAt k v e) z) s

/-! ### Count tables (R228) -/

/-- Stream slots of a claim before slot n, in slot order. -/
def slotIndex (k : Claim) (n : Nat) : Nat :=
  1024 * ((List.range (n / 1024)).filter fun b => k.sblk.getLsbD b).length + n % 1024
def countAt (k : Claim) (v : Serve) (n i : Nat) : Nat := objBase k v.counts + 2048 * slotIndex k n + i
def countGet (s : State) (c : Nat) (v : Serve) (n i : Nat) : Nat :=
  let a := countAt (claim s c) v n i
  fld (peek s c (a / 8 * 8)) (8 * (a % 8) + 7) (8 * (a % 8))
def countBump (s : State) (c : Nat) (v : Serve) (n i : Nat) : State :=
  poke s c (countAt (claim s c) v n i) [byte (min 255 (countGet s c v n i + 1))]
def countClear (s : State) (c : Nat) (v : Serve) (n : Nat) : State :=
  poke s c (countAt (claim s c) v n 0) (List.replicate 2048 0)

end Sys2Proof.Machine
end

