-- ==== Sys2Proof/Machine/Dma.lean ====
section
/-!
DEFINITION. The DMA instructions and the completion of a descriptor (R104, R106, R110, R111, R136, R176, R221, R327).
-/
namespace Sys2Proof.Machine
open Sys2Proof

/-! ### Semaphores (R104, R106) -/

/-- A program of the request has declared semaphore n on face f, whether or not it still runs (R106). -/
def declares (s : State) (f req n : Nat) : Bool :=
  match findReq s req with
  | some q => q.progs.any fun p => p.face == f && p.semown.getLsbD n
  | none => false
def semGet (s : State) (f n : Nat) : Nat := Tab.get 0 (face s f).sem n
def semPut (s : State) (f n v : Nat) : State :=
  let x := face s f; setFace s f { x with sem := Tab.set 0 x.sem n v }
/-- A signal of n applied for a request: SEM_OVERFLOW leaves the counter unchanged and fails the request. -/
def semAdd (s : State) (f sem n req : Nat) : State :=
  if semGet s f sem + n > 65535 then failRequest s req stSemOverflow else semPut s f sem (semGet s f sem + n)

/-! ### Descriptors -/

/-- Claim ranges that a descriptor reads or writes. -/
def dmaSpans (d : Dma) : List (Nat × Nat) :=
  match d.kind with
  | .t1t0 => [(d.src, d.len)]
  | .t0t1 => [(d.dst, d.len)]
  | .t0t0 => []
  | .gather => d.index.map fun x => (d.src + x * d.len, d.len)
  | .scatter => d.index.map fun x => (d.dst + x * d.len, d.len)
def dmaAccess (s : State) (d : Dma) : Reach :=
  (dmaSpans d).foldl (fun a p => match a, access (claim s d.claim) (.request d.tenant) p.1 p.2 with
    | .bad x, _ => .bad x
    | _, .bad x => .bad x
    | .absent l, .absent m => .absent (l ++ m)
    | .absent l, .ok => .absent l
    | .ok, b => b) .ok
/-- A descriptor's request fails (R111); an ownership fault ends the claim too (R345). -/
def dmaFail (s : State) (f : Nat) (d : Dma) (status : Nat) : State :=
  let s := failRequest s d.req status
  if status = stOwnerFault then ownerFault s d.claim 1 f else s
/-- The lowest free slot of a face. -/
def freeSlot (s : State) (f : Nat) : Option Nat :=
  (List.range 16).find? fun n => !(Tab.get {} (face s f).dma n : Dma).busy
def setDma (s : State) (f n : Nat) (d : Dma) : State :=
  let x := face s f; setFace s f { x with dma := Tab.set {} x.dma n d }
/-- A checked descriptor takes a slot and its pages are asked for; with no free slot its stream stalls (R110). -/
def dmaIssue (s : State) (i : Ins) (d : Dma) : State :=
  match freeSlot s i.f with
  | none => stalled s i .dmaSlot
  | some n =>
    match dmaAccess s d with
    | .bad x => dmaFail s i.f d x
    | .ok => done (setDma s i.f n d) i
    | .absent ps => stallAll (done (setDma s i.f n d) i) d.claim ps (.dma i.f n)

/-! ### The five instructions (R136) -/

def isRows (k : DmaKind) : Bool := match k with | .gather => true | .scatter => true | _ => false
/-- T0 ranges on the own face. -/
def dmaT0 (d : Dma) : List (Nat × Nat) :=
  match d.kind with
  | .t1t0 => [(d.dst, d.len)]
  | .t0t1 => [(d.src, d.len)]
  | .t0t0 => [(d.src, d.len), (d.dst, d.len)]
  | .gather => [(d.dst, d.count * d.len)]
  | .scatter => [(d.src, d.count * d.len)]
/-- The descriptor that the word describes, but for the row list. -/
def dmaOf (s : State) (i : Ins) (kind : DmaKind) : Dma :=
  let r := fun n => (sreg s i.f n).toNat
  { busy := true, kind := kind, src := r (fw i 50 47), dst := r (fw i 46 43), len := r (fw i 42 39), face := fw i 38 32
    count := if isRows kind then fx i 31 16 else 1, signal := fw i 31 31 == 1, sem := fw i 30 25, remote := fw i 24 24 == 1
    req := i.l.req, claim := i.l.claim
    tenant := match findReq s i.l.req with | some q => q.tenant | none => none }
/-- Encoding of a DMA instruction: FACE and RF belong to DMA_T0_T0 alone, and COUNT is at least 1. -/
def dmaEnc (i : Ins) (kind : DmaKind) : Bool :=
  encodingOk i [(50, 24)] (if isRows kind then .need else .no) [(31, 16), (3, 0)] &&
  (kind == .t0t0 || (fw i 38 32 == 0 && fw i 24 24 == 0)) &&
  (!isRows kind || 1 ≤ fx i 31 16)
/-- Row numbers of the list at T0 address a. DESIGN CHOICE (log 17): the list is read when the instruction issues, not when the
descriptor moves; R136 does not say when. -/
def rowList (s : State) (f a n : Nat) : List Nat := (chunks 4 (t0Bytes s f a (4 * n))).map leNat
def dmaStep (s : State) (f : Nat) (st : IssueStream) (op : Nat) (kind : DmaKind) : State :=
  issue s f st op fun s i =>
    if !dmaEnc i kind then raise s i stBadEncoding else
    withRegs s i ([.s (fw i 50 47), .s (fw i 46 43), .s (fw i 42 39)] ++ (if isRows kind then [.s (fx i 3 0)] else [])) fun s =>
      let d := dmaOf s i kind
      let la := (sreg s i.f (fx i 3 0)).toNat
      let listT0 := if isRows kind then [(la, 4 * d.count)] else []
      if !(dmaT0 d ++ listT0).all (fun p => inT0 p.1 p.2) && d.len ≤ t0Size then raise s i stAddrRange
      else if d.src % 8 != 0 || d.dst % 8 != 0 || d.len % 8 != 0 || d.len < 8 || t0Size < d.len || (isRows kind && la % 8 != 0) then
        raise s i stAlign
      else if d.signal && !declares s (if d.remote then d.face else i.f) i.l.req d.sem then raise s i stSemOwner
      else if kind == .t0t0 && faceClaim s d.face != some i.l.claim then raise s i stDmaForeign
      else if t0Poison s i.f listT0 then raise (t0Note s i.f listT0) i stPoisonRead
      else
        let s := t0Note s i.f listT0
        dmaIssue s i { d with index := if isRows kind then rowList s i.f la d.count else [] }
def execDmaT1T0 (f : Fin 128) (st : IssueStream) (s : State) : Res := .next (dmaStep s f st 0x301 .t1t0)
def execDmaT0T1 (f : Fin 128) (st : IssueStream) (s : State) : Res := .next (dmaStep s f st 0x302 .t0t1)
def execDmaT0T0 (f : Fin 128) (st : IssueStream) (s : State) : Res := .next (dmaStep s f st 0x303 .t0t0)
def execDmaGather (f : Fin 128) (st : IssueStream) (s : State) : Res := .next (dmaStep s f st 0x304 .gather)
def execDmaScatter (f : Fin 128) (st : IssueStream) (s : State) : Res := .next (dmaStep s f st 0x305 .scatter)

/-! ### The last byte of a descriptor -/

/-- T0 words of a run, corrected as they are read (R174). -/
def t0Words? (s : State) (f a n : Nat) : List PWord := (List.range (n / 8)).map fun i => readWord s (.t0 f) (a / 8 + i)
/-- A write of a step into this tub is dropped: the tub is SEALED, or it belongs to a masked row (R221, R233). -/
def tubClosed (s : State) (c : Nat) (b : Batch) (v : Serve) (va : Nat) : Bool :=
  let k := claim s c
  let t := (va - objBase k v.pool) / v.tubBytes
  objBase k v.pool ≤ va && t < tubCount k v &&
    ((getTub s c v t).sealed || b.rows.any fun r => r.masked && r.tubs.contains t)
/-- Words that a descriptor writes to claim memory, without those that a step may not write. -/
def dmaPut (s : State) (d : Dma) (va : Nat) (ws : List PWord) : State :=
  match ((findReq s d.req).bind (·.batch)).bind (findBatch s), (claim s d.claim).serve with
  | some b, some v => ws.zipIdx.foldl (fun s p =>
      if tubClosed s d.claim b v (va + 8 * p.2) then s else slicePut s d.claim (va + 8 * p.2) [p.1]) s
  | _, _ => slicePut s d.claim va ws
/-- Words of claim memory as a descriptor reads them. -/
def claimWords (s : State) (c va n : Nat) : State × List PWord :=
  let s := noteVa s c va n
  sliceWords s c va (vaWords s c va (n / 8))
/-- The words move, with their poison (R176); those of an object that a PERMUTE moves are free values (R259). -/
def dmaMove (s : State) (f : Nat) (d : Dma) : State :=
  match d.kind with
  | .t0t1 => let s := t0Note s f [(d.src, d.len)]; dmaPut s d d.dst (t0Words? s f d.src d.len)
  | .t0t0 => let s := t0Note s f [(d.src, d.len)]; t0Put s d.face d.req (d.dst / 8) (t0Words? s f d.src d.len)
  | .scatter =>
    let s := t0Note s f [(d.src, d.count * d.len)]
    d.index.zipIdx.foldl (fun s p => dmaPut s d (d.dst + p.1 * d.len) (t0Words? s f (d.src + p.2 * d.len) d.len)) s
  | .t1t0 =>
    let r := claimWords s d.claim d.src d.len
    t0Put r.1 f d.req (d.dst / 8) r.2
  | .gather =>
    d.index.zipIdx.foldl (fun s p =>
      let a := d.src + p.1 * d.len
      let r := claimWords s d.claim a d.len
      t0Put r.1 f d.req ((d.dst + p.2 * d.len) / 8) r.2) s
/-- Claim ranges that a descriptor reads. -/
def dmaReads (d : Dma) : List (Nat × Nat) := match d.kind with | .t1t0 => dmaSpans d | .gather => dmaSpans d | _ => []
/-- A descriptor writes its last byte: the slot is freed and its semaphore signalled. A transfer that reads a bad
word of a weight object starts a repair and waits (R327); one that reads a marked leaf fails. -/
def dmaDoneStep (s : State) (f n : Nat) : State :=
  let d : Dma := Tab.get {} (face s f).dma n
  if !(running s && d.busy) || s.waits.any (fun w => w.who == .dma f n) then s else
  match dmaAccess s d with
  | .bad x => dmaFail s f d x
  | .absent ps => stallAll s d.claim ps (.dma f n)
  | .ok =>
    if touchesMarked (claim s d.claim) (dmaReads d) then failRequest s d.req stWeightPoisoned else
    match badLeaves s d.claim (dmaReads d) with
    | [] =>
      let s := setDma (dmaMove s f d) f n {}
      if d.signal && (findReq s d.req).isSome then semAdd s (if d.remote then d.face else f) d.sem 1 d.req else s
    | ls => ls.foldl (fun s l =>
        let s := (dmaReads d).foldl (fun s p => noteVa s d.claim p.1 p.2) s
        let k := claim s d.claim
        stallOn (startRepair s d.claim l.1 l.2) d.claim ((objBase k l.1 + 65536 * l.2) / 2097152) (.dma f n)) s
def execDmaDone (f : Fin 128) (slot : Fin 16) (s : State) : Res := .next (dmaDoneStep s f slot)

end Sys2Proof.Machine
end

