-- ==== Sys2Proof/Machine/Programs.lean ====
section
/-!
DEFINITION. Program images, the checks on a program, and the start of a request at a tick boundary (R115,
R142 to R144, R323, R335, R385).
-/
namespace Sys2Proof.Machine
open Sys2Proof

/-- A program image as the headframe reads it (R142). -/
structure Image where
  stream : IssueStream
  vown   : Nat
  sown   : Nat
  mown   : Nat
  aown   : Nat
  bown   : Nat
  semown : Nat
  tag    : W64
  first  : Nat
  scal   : List (Nat × W64)
  sems   : List (Nat × Nat)
  bounds : List Nat
  code   : List W64
deriving DecidableEq, Repr

/-- Numbers of the bits set below n, in order. -/
def bitsSet (w n : Nat) : List Nat := (List.range n).filter w.testBit
/-- The tick budget of a period in µs: floor(0.75 x 700 x (P - 2)) face cycles (R115). -/
def tickBudget (p : Nat) : Nat := 525 * (p - 2)
/-- The tick budget of the tick that runs. -/
def budgetNow (k : Claim) : Nat := tickBudget (periodAt k k.tick)
/-- The header's fields are in range and its reserved bits are 0. -/
def headerGood (h : List W64) : Bool :=
  let w := fun n => h.getD n 0
  fld (w 0) 63 48 == 1 && fld (w 0) 47 40 == 0 && fld (w 0) 39 38 != 3 && fld (w 0) 37 32 == 0 &&
  1 ≤ fld (w 0) 31 20 && fld (w 0) 31 20 ≤ 2048 && fld (w 0) 11 8 == 0 && fld (w 0) 7 0 ≤ fld (w 0) 19 12 &&
  fld (w 3) 63 4 == 0 && w 5 == 0 && w 6 == 0 && w 7 == 0
/-- The image built from its header and the words that follow; its table and padding are checked. -/
def imageOf (h ws : List W64) : Got Image :=
  let w := fun n => h.getD n 0
  let ss := bitsSet (fld (w 1) 31 16) 16
  let ms := bitsSet (w 2).toNat 64
  let nm := ceilDiv ms.length 4
  let ents := fld (w 0) 19 12 + 1
  let semw := (chunks 2 (wordsBytes ((ws.drop ss.length).take nm))).map leNat
  let tab := (ws.drop (ss.length + nm)).take ents
  if (semw.drop ms.length).any (· != 0) || tab.any fun e => fld e 63 32 != 0 || fld e 31 0 == 0 then .bad stBadHeader
  else .ok
    { stream := match fld (w 0) 39 38 with | 0 => .f | 1 => .b | _ => .u
      vown := fld (w 1) 63 32, sown := fld (w 1) 31 16, mown := fld (w 1) 15 8, aown := fld (w 1) 7 0
      bown := fld (w 3) 3 0, semown := (w 2).toNat, tag := w 4, first := fld (w 0) 7 0
      scal := ss.zip ws, sems := ms.zip semw, bounds := tab.map fun e => fld e 31 0
      code := (ws.drop (ss.length + nm + ents)).take (fld (w 0) 31 20) }
/-- Words of an image after its header. -/
def imageTail (h : List W64) : Nat :=
  let w := fun n => h.getD n 0
  (bitsSet (fld (w 1) 31 16) 16).length + ceilDiv (bitsSet (w 2).toNat 64).length 4 + (fld (w 0) 19 12 + 1) + fld (w 0) 31 20
def readImage (s : State) (c va : Nat) : Got Image :=
  bindGot (rdWords s c va 8) fun h =>
    if !headerGood h then .bad stBadHeader else
    bindGot (rdWords s c (va + 64) (imageTail h)) fun ws => imageOf h ws
/-- The words of an image as they are read: errors are put right and recorded (R174, R175). -/
def noteImage (s : State) (c va : Nat) : State :=
  let s := noteRead s c va 64
  match rdWords s c va 8 with
  | .ok h => if headerGood h then noteRead s c (va + 64) (8 * imageTail h) else s
  | _ => s
/-- The checks of R143 but for REG_CONFLICT. -/
def checkedImage (s : State) (c va budget : Nat) : Got Image :=
  bindGot (readImage s c va) fun i => if i.bounds.any (fun b => budget < b) then .bad stSliceOverTick else .ok i

/-! ### Conflicts (R143, R144) -/

/-- Registers, masks, accumulators or buffers in common. -/
def overlaps (a b : Image) : Bool :=
  (a.vown &&& b.vown) != 0 || (a.sown &&& b.sown) != 0 || (a.mown &&& b.mown) != 0 || (a.aown &&& b.aown) != 0
    || (a.bown &&& b.bown) != 0
/-- The same with a program that occupies a stream. -/
def overlapsLane (a : Image) (l : Lane) : Bool :=
  l.busy && !l.ended && ((a.vown &&& l.vown.toNat) != 0 || (a.sown &&& l.sown.toNat) != 0 || (a.mown &&& l.mown.toNat) != 0
    || (a.aown &&& l.aown.toNat) != 0 || (a.bown &&& l.bown.toNat) != 0)
/-- A program meets what runs on its face: an owner overlaps (R143), or its stream is still occupied by a program of any request:
DEDUCED, REG_CONFLICT (log 45). -/
def meetsFace (x : Face) (a : Image) : Bool :=
  streamsBFU.any fun st =>
    let l := lane x st
    overlapsLane a l || (l.busy && (!l.ended || l.report) && st == a.stream)
/-- Another request has declared one of its semaphores on the face (R144); a failed request has released its own (R118). -/
def meetsSems (s : State) (q : Req) (f : Nat) (a : Image) : Bool :=
  s.reqs.any fun r => r.id != q.id && r.failed == 0 && r.progs.any fun p => p.face == f && (a.semown &&& p.semown.toNat) != 0
/-- Two programs of one request conflict: the same face, and owners that overlap, one stream, or different initial values. -/
def pairClash (a b : Nat × Image) : Bool :=
  a.1 == b.1 && (overlaps a.2 b.2 || a.2.stream == b.2.stream ||
    a.2.sems.any fun e => b.2.sems.any fun g => e.1 == g.1 && e.2 != g.2)

/-! ### The start of a request -/

/-- The scalar block with its overrides (R142, R323, R385). -/
def withRegsOf (i : Image) (regs : List (Nat × W64)) : List (Nat × W64) :=
  i.scal.map fun e => match lookup? regs e.1 with | some v => (e.1, v) | none => e
/-- Overrides of a program: those of PASS_START, or the version root of a step. -/
def overridesOf (s : State) (q : Req) (p : Prog) (i : Image) : List (Nat × W64) :=
  match q.batch.bind (findBatch s) with
  | some b => match i.scal with | e :: _ => [(e.1, w64 (ver (claim s q.claim) b.slot).root)] | [] => []
  | none => p.regs
/-- The stream loaded with a program: code, bounds, owners and the owned scalar registers and semaphores. -/
def loadLane (s : State) (q : Req) (n : Nat) (p : Prog) (i : Image) : State :=
  let l : Lane :=
    { busy := true, req := q.id, prog := n, claim := q.claim, code := i.code, vown := BitVec.ofNat 32 i.vown
      sown := BitVec.ofNat 16 i.sown, mown := BitVec.ofNat 8 i.mown, aown := BitVec.ofNat 8 i.aown, semown := w64 i.semown
      bown := BitVec.ofNat 4 i.bown, bounds := i.bounds, entry := i.first, progTag := i.tag }
  let x := setLane (face s p.face) i.stream l
  let x := { x with
    s := (withRegsOf i (overridesOf s q p i)).foldl (fun t e => Tab.set 0 t e.1 e.2) x.s
    sem := i.sems.foldl (fun t e => Tab.set 0 t e.1 e.2) x.sem
    acc := (bitsSet i.aown 8).foldl (fun t n => Tab.set {} t n {}) x.acc
    buf := (bitsSet i.bown 4).foldl (fun t n => Tab.set {} t n {}) x.buf }
  setFace s p.face x
/-- The images of a request's programs, checked. -/
def reqImages (s : State) (q : Req) : Got (List Image) :=
  q.progs.foldl (fun acc p => match acc, checkedImage s q.claim p.addr (budgetNow (claim s q.claim)) with
    | .bad n, _ => .bad n
    | .absent l, .absent m => .absent (l ++ m)
    | .absent l, _ => .absent l
    | .ok l, .ok i => .ok (l ++ [i])
    | .ok _, .bad n => .bad n
    | .ok _, .absent l => .absent l) (.ok [])
/-- The override list of a request read into its programs; an entry beyond the program list is BAD_ENCODING (R385). -/
def readOverrides (s : State) (q : Req) : Got Req :=
  match q.ovl with
  | none => .ok q
  | some (va, n) => bindGot (rdWords s q.claim va (2 * n)) fun ws =>
      let es := (chunks 2 ws).map fun e => (fld (e.getD 0 0) 15 8, fld (e.getD 0 0) 3 0, e.getD 1 0)
      if (chunks 2 ws).any fun e => fld (e.getD 0 0) 63 16 != 0 || fld (e.getD 0 0) 7 4 != 0 then .bad stReservedField
      else if es.any fun e => q.progs.length ≤ e.1 then .bad stBadEncoding
      else .ok { q with progs := q.progs.zipIdx.map fun p =>
        { p.1 with regs := p.1.regs ++ (es.filter fun e => e.1 == p.2).reverse.map Prod.snd } }
/-- Programs with the tags of the headers that can be read, whatever else is wrong with the image (R142, R371). -/
def taggedProgs (s : State) (c : Nat) (ps : List Prog) : List Prog :=
  ps.map fun p => match rdWords s c p.addr 8 with | .ok h => { p with tag := h.getD 4 0 } | _ => p
/-- The words that a request's start reads, as they are read. -/
def noteReq (s : State) (q : Req) : State :=
  let s := match q.ovl with | some (va, n) => noteRead s q.claim va (16 * n) | none => s
  q.progs.foldl (fun s p => noteImage s q.claim p.addr) s
/-- A request that cannot start fails; a failed ownership check ends its claim (R345). -/
def failStart (s : State) (q : Req) (status : Nat) : State :=
  if status = stOwnerFault then ownerFault s q.claim 0x0B 0 else failRequest s q.id status
/-- A request's start at a boundary: its images are read and checked, or it fails, or it waits for pages (R512). -/
def startReq (s : State) (q : Req) : State :=
  let s := noteReq s q
  let q := { q with progs := taggedProgs s q.claim q.progs }
  let s := modReq s q.id fun p => { p with progs := q.progs }
  match bindGot (readOverrides s q) fun q => mapGot (reqImages s q) fun l => (q, l) with
  | .absent l => stallAll s q.claim l (.request q.id)
  | .bad n => failStart s q n
  | .ok (q, is) =>
    let ps := q.progs.zip is
    let fs := ps.map fun p => (p.1.face, p.2)
    if ps.any fun p => p.1.regs.any fun r => !p.2.sown.testBit r.1 then failRequest s q.id stBadEncoding
    else if fs.any (fun p => meetsFace (face s p.1) p.2 || meetsSems s q p.1 p.2) || anyPair pairClash fs then failRequest s q.id stRegConflict
    else
      let s := ps.zipIdx.foldl (fun s p => loadLane s q p.2 p.1.1 p.1.2) s
      modReq s q.id fun q => { q with started := true, progs := (q.progs.zip is).map fun p => { p.1 with started := true, semown := w64 p.2.semown } }
/-- The slice of a request that is due on a stream. -/
def dueSlice (l : Lane) (id : Nat) : Bool := l.busy && l.req == id && !l.live && !l.ended && !l.report
/-- A slice due has a bound above the budget of the tick in force (R115). -/
def overBudget (s : State) (q : Req) : Bool :=
  (q.progs.map (·.face)).any fun f => streamsBFU.any fun st =>
    let l := lane (face s f) st
    dueSlice l q.id && decide (budgetNow (claim s q.claim) < l.bounds.getD l.entry 0)
/-- The slices of a request that are due issue at the boundary's instant; one over the budget fails its request before any
issues (R115). -/
def issueSlices (s : State) (id t : Nat) : State :=
  match findReq s id with
  | none => s
  | some q =>
    if !q.started || q.failed != 0 then s else
    if overBudget s q then failRequest s id stSliceOverTick else
    (q.progs.map (·.face)).eraseDups.foldl (fun s f => streamsBFU.foldl (fun s st => modLane s f st fun l =>
      if dueSlice l id then { l with live := true, start := t } else l) s) s

end Sys2Proof.Machine
end

