-- ==== Sys2Proof/Machine/Sampler.lean ====
section
/-!
DEFINITION. The sampler: one token from a row of logits (R227, R228).
-/
namespace Sys2Proof.Machine
open Sys2Proof

/-- A value with its token id. -/
abbrev Scored := Xr × Nat
/-- Descending value, then ascending id. -/
def scoreBefore (a b : Scored) : Bool := b.1.lt a.1 || (!a.1.lt b.1 && a.2 < b.2)
def insScore (x : Scored) : List Scored → List Scored
  | [] => [x]
  | y :: ys => if scoreBefore x y then x :: y :: ys else y :: insScore x ys
def ranked (l : List Scored) : List Scored := l.foldl (fun acc x => insScore x acc) []
/-- The slot of a token id in a count table (R228). -/
def countSlot (v : Nat) : Nat := (v * 0x9E3779B1 % 2 ^ 32) >>> 21
/-- Ids kept of those in `keep`, and negative infinity elsewhere. -/
def only (keep : List Nat) (y : List Xr) : List Xr := y.zipIdx.map fun p => if keep.contains p.2 then p.1 else .inf true
/-- Ids up to the one at which the running sum reaches top-p. -/
def topP (p : Xr) : Xr → List Scored → List Nat
  | _, [] => []
  | c, x :: xs => let c := addX c x.1; if p.le c then [x.2] else x.2 :: topP p c xs
/-- The penalties on one kept logit. -/
def penalised (x : Stream) (n : Nat) (y : Xr) : Xr :=
  if n = 0 then y else
  let y := if Xr.zero.lt y then mulX y (recipX (x32 x.rep)) else mulX y (x32 x.rep)
  subX (subX y (x32 x.pres)) (mulX (x32 x.freq) (.ofInt n))
/-- The Gumbel draw of a token id at a position. -/
def gumbel (seed : W64) (sid pos v : Nat) : Xr :=
  let w := (philox (v >>> 2) sid pos 0 (seed ^^^ w64 (0x53414D50 <<< 32))).getD (v % 4) 0
  let u : Xr := .fin (2 * (w >>> 9) + 1) (-24)
  let q := (logX u).neg
  let q := if q.isZero then .fin 1 (-126) else q
  (logX q).neg
/-- The tempered logits, those beyond the candidate limit removed, and the ids that truncation keeps. -/
def keptIds (x : Stream) (z : List Xr) : List Xr × List Nat :=
  let ti := recipX (x32 x.temp)
  let y := z.map fun a => mulX a ti
  let tp := (x32 x.topP).lt (.fin 1 0)
  let mp := Xr.zero.lt (x32 x.minP)
  let k := if x.topK = 0 ∧ (tp ∨ mp) then 1024 else x.topK
  let y := if 0 < k then only (((ranked y.zipIdx).take k).map Prod.snd) y else y
  let pi := (softMax y []).1
  let keep := (y.zipIdx.filter fun p => p.1 != .inf true).map Prod.snd
  let keep := if tp then topP (x32 x.topP) .zero (ranked (keep.map fun v => (pi.getD v .zero, v))) else keep
  (y, if mp then
      let th := mulX (x32 x.minP) (maxAll pi)
      keep.filter fun v => !(pi.getD v .zero).lt th
    else keep)
/-- Slots of the count table that the sampling of a row position reads. -/
def slotsRead (x : Stream) (z : List Xr) : List Nat :=
  if z.any (·.isNan) || (x32 x.temp).isZero then [] else ((keptIds x z).2.map countSlot).eraseDups
/-- The token, LP_SAMPLE and LP_MODEL of one row position; none when a logit is NaN. With every logit at negative
infinity the rules keep no id: token and LP_SAMPLE are then the free value `fv`. -/
def sampleRow (seed : W64) (x : Stream) (count : Nat → Nat) (z : List Xr) (sid pos : Nat) (fv : W64) : Option (Nat × W32 × W32) :=
  if z.any (·.isNan) then none else
  let lm := (logSoftMax z []).1
  let best := fun (l : List Xr) => ((ranked l.zipIdx).headD (.zero, 0)).2
  let at0 := fun (l : List Xr) v => r32 (l.getD v .zero)
  if (x32 x.temp).isZero then some (best z, 0, at0 lm (best z)) else
  let (y, keep) := keptIds x z
  let y := (only keep y).zipIdx.map fun p => if keep.contains p.2 then penalised x (count (countSlot p.2)) p.1 else p.1
  let lp := (logSoftMax y []).1
  match ranked (keep.map fun v => (addX (lp.getD v .zero) (gumbel seed sid pos v), v)) with
  | [] => some (fv.toNat % z.length, w32 (fv.toNat / 2 ^ 32), at0 lm (fv.toNat % z.length))
  | (_, t) :: _ => some (t, at0 lp t, at0 lm t)

end Sys2Proof.Machine
end

