-- ==== Sys2Proof/Machine/Windows.lean ====
section
/-!
DEFINITION. Tally windows (R350, R351): when a window boundary comes, and what it records.
-/
namespace Sys2Proof.Machine
open Sys2Proof

/-- The number of the claim's next tick boundary. -/
def nextTick (k : Claim) : Nat := if k.ticking then k.tick + 1 else 0

/-- The claim's ticks come: time runs and the claim exists. -/
def ticksRun (s : State) (k : Claim) : Bool :=
  timeRuns s && !s.pins.perst && !s.pins.stopped && !s.fatal && k.live && k.clearing.isNone && k.creating.isNone
/-- Tally slots of a claim that hold anything. -/
def tenants (s : State) (c : Nat) : List Nat :=
  (s.tallies.map Prod.fst).filter fun t => (claim s c).tblk.getLsbD (t / 32)
/-- Boundary n starts a window, as yet to be rolled (R351). -/
def isWindow (k : Claim) (n : Nat) : Bool := k.winBase < n && (n - k.winBase) % k.winN == 0

def tallyWords (t : Tally) : List Nat :=
  [t.prompt, t.gen, t.faceNs / 1000, t.t1ByteUs / 1000000, t.energyUj / 1000, t.undeliv, t.promiseMiss, t.heldTicks].map (· % 2 ^ 64)
/-- *Tally window record*. -/
def windowRecord (claimRec : Bool) (t window : Nat) (now before : List Nat) : List W64 :=
  let d := fun n => (now.getD n 0 + 2 ^ 64 - before.getD n 0) % 2 ^ 64
  w64 (at' (b2n claimRec) 63 + at' t 51 + window) :: (List.range 6).map (fun n => w64 (d n))
    ++ [w64 (at' (d 6 % 2 ^ 32) 32 + d 7 % 2 ^ 32)]
def rollTally (t : Tally) : Tally :=
  { t with snap := if tallyWords t = List.replicate 8 0 then [] else tallyWords t, winGen := 0, winPrompt := 0, wasHeld := false }
/-- The window that boundary n closes is recorded, and the next one begins. -/
def rollWindow (s : State) (c n : Nat) : State :=
  let k := claim s c
  let post := fun (s : State) isClaim t (x : Tally) =>
    postQueue s (queueId 5 c) (wordsBytes (windowRecord isClaim t k.winNum (tallyWords x) x.snap))
  let s := post s true 0 k.tally
  let s := (tenants s c).foldl (fun s t =>
    let x := tally s t
    let s := if x.wasHeld || tallyWords x != (if x.snap.isEmpty then List.replicate 8 0 else x.snap) then post s false t x else s
    setTally s t (rollTally x)) s
  let s := (claimStreams s c).foldl (fun s m => setStream s m { stream s m with missed := false }) s
  let k := { claim s c with tally := rollTally k.tally, winNum := k.winNum + 1, rolled := true }
  setClaim s c (match k.winPend with
    | some (m, stamp) => if stamp < boundaryTime k n then { k with winN := m, winBase := n, winPend := none } else k
    | none => k)
/-- A window boundary that has come by now is rolled before an event of this instant is charged: the event belongs to the later
window (R351). -/
def rollDue (s : State) (c : Nat) : State :=
  let k := claim s c
  let n := nextTick k
  if ticksRun s k && isWindow k n && !k.rolled && decide (boundaryTime k n ≤ s.time) then rollWindow s c n else s

end Sys2Proof.Machine
end

