-- ==== Sys2Proof/Machine/Steps.lean ====
section
/-!
DEFINITION. Steps of the generation shift: rates and due ticks (R338, R340), the preparation of a batch
(R217, R218, R232), the sampling of its rows (R230, R515), parks (R225, R226) and the retire point (R217).
-/
namespace Sys2Proof.Machine
open Sys2Proof

/-! ### Rates and due ticks (R338, R340) -/

/-- The rate m of a stream under T_D; none with PERIOD 0. -/
def rateOf (td period : Nat) : Option Nat :=
  if period = 0 then none else [8, 4, 2, 1].find? fun m => (m + 1) * td ≤ period
/-- A stream's share of a decode row, in eighths. -/
def shareOf (td period : Nat) : Nat := match rateOf td period with | some m => 8 / m | none => 0
/-- DUE as set at boundary r. -/
def dueAt (k : Claim) (x : Stream) (r : Nat) : Nat :=
  match k.admission, k.serve with
  | some a, some v =>
    match rateOf a.td x.period with
    | none => 2 ^ 48 - 1
    | some m =>
      match x.state with
      | .prefill => ceilDiv r a.tp * a.tp + ceilDiv (x.prompt - x.pos) v.chunk * a.tp
      | _ => ceilDiv r a.td * a.td + m * a.td
  | _, _ => x.due
/-! ### Tallies (R347, R349) -/

/-- A charge to a tenant's slot and to its claim's tally. -/
def charge (s : State) (c tenant : Nat) (g : Tally → Tally) : State :=
  let s := setTally s tenant (g (tally s tenant))
  let k := claim s c
  setClaim s c { k with tally := g k.tally }

/-! ### A batch made ready (R217, R218, R232) -/

/-- Map entries that a row's positions reach. -/
def rowEntries (r : Row) : List Nat := (List.range ((r.pos + r.count - 1) / 64 + 1 - r.pos / 64)).map (r.pos / 64 + ·)
/-- The row still belongs to the batch. -/
def rowOwn (s : State) (b : Batch) (r : Row) : Bool := (stream s r.stream).batch == some b.id
/-- *Batch row record*. -/
def rowRecord (b : Batch) (r : Row) (x : Stream) : List W64 :=
  [w64 (at' r.stream 47 + at' (b2n b.prefill) 45 + at' r.depth 41 + r.pos), w64 (at' r.count 40 + at' b.vid 24), w64 x.tmap, w64 x.hist]
/-- Bytes of a row's steer words: 64 in each of the 128 layers. -/
def steerBytes : Nat := 8192
def steerSrc (s : State) (c : Nat) (v : Serve) (r : Row) : Nat := objBase (claim s c) v.steerTab + steerBytes * r.tenant
/-- Where a row's steer words are read, if it has any. -/
def steerSpans (s : State) (c : Nat) (v : Serve) (r : Row) : List (Nat × Nat) :=
  if (stream s r.stream).steer then [(steerSrc s c v r, steerBytes)] else []
/-- A row's steer words: its tenant's, or 0. -/
def steerWords (s : State) (c : Nat) (v : Serve) (r : Row) : List PWord :=
  if (stream s r.stream).steer then vaWords s c (steerSrc s c v r) (steerBytes / 8) else List.replicate (steerBytes / 8) ⟨0, false⟩
/-- Whole words that the headframe writes to a claim range of n bytes. -/
def headPut (s : State) (c va n : Nat) (ws : List PWord) : State :=
  match access (claim s c) (.request none) va n with
  | .ok => vaPut s c va ws | .bad n => blocked s c n | .absent _ => s
/-- A row's steer words go to its place in the steer buffer. -/
def steerRow (s : State) (c : Nat) (v : Serve) (n : Nat) (r : Row) : State :=
  headPut s c (objBase (claim s c) v.steerBuf + steerBytes * n) steerBytes (steerWords s c v r)
/-- A step cannot read what it needs: it fails, and a failed ownership check ends its claim (R345). -/
def failStep (s : State) (b : Batch) (status : Nat) : State :=
  if status = stOwnerFault then ownerFault s b.claim 0x0B 0 else failRequest s b.req status
/-- Structures that a batch's preparation reads: map entries, the tags of the tubs that it takes, and steer words. -/
def batchReads (s : State) (b : Batch) (v : Serve) (own : List Row) : List (Nat × Nat) :=
  let want := own.flatMap fun r => (rowEntries r).filter fun j => mapGet s b.claim (stream s r.stream) j == noTub
  own.map (fun r => ((stream s r.stream).tmap + 4 * (r.pos / 64), 4 * (rowEntries r).length)) ++ tagsTaken s b.claim v want.length
    ++ b.rows.flatMap (steerSpans s b.claim v)
/-- The first failure of several accesses, or every page that one of them lacks. -/
def joinReach (a b : Reach) : Reach :=
  match a, b with
  | .bad n, _ => .bad n
  | _, .bad n => .bad n
  | .absent l, .absent m => .absent (l ++ m)
  | .absent l, .ok => .absent l
  | .ok, y => y
/-- Map entries and steer words that a batch's preparation needs. -/
def batchNeeds (s : State) (b : Batch) (v : Serve) (own : List Row) : Reach :=
  let k := claim s b.claim
  let maps := own.map fun r =>
    let x := stream s r.stream
    access k (ofTenant x) (x.tmap + 4 * (r.pos / 64)) (4 * (rowEntries r).length)
  let steers := (b.rows.flatMap (steerSpans s b.claim v)).map fun p => access k (.request none) p.1 p.2
  (maps ++ steers).foldl joinReach .ok
/-- Rows written with their tubs and coefficients, once their tub maps and steer words are resident; else the step waits (R512). -/
def prepareBatch (s : State) (id : Nat) : State :=
  match findBatch s id with
  | none => s
  | some b =>
    match b.ready, (claim s b.claim).serve with
    | false, some v =>
      let own := b.rows.filter (rowOwn s b)
      match batchNeeds s b v own with
      | .bad n => failStep s b n
      | .absent l => stallAll s b.claim l (.step id)
      | .ok =>
        let reads := batchReads s b v own
        let s := readSpans s b.claim reads
        if spansPoison s b.claim reads then failStep s b stPoisonRead else
        let s := own.foldl (fun s r => (rowEntries r).foldl (fun s j => giveTub s b.claim r.stream v j) s) s
        let s := b.rows.zipIdx.foldl (fun s p =>
          let s := poke s b.claim (objBase (claim s b.claim) v.batchTab + 32 * (v.batchRows * b.place + p.2))
            (wordsBytes (rowRecord b p.1 (stream s p.1.stream)))
          steerRow s b.claim v p.2 p.1) s
        modBatch s id fun b => { b with ready := true, rows := b.rows.map fun r =>
          { r with tubs := if rowOwn s b r then (rowEntries r).map (mapGet s b.claim (stream s r.stream)) else [] } }
    | _, _ => s

/-! ### The sampler (R230, R515) -/

/-- The sampler must read this row: a decode row, or a prefill row that reaches the last prompt position. -/
def needsSample (s : State) (b : Batch) (r : Row) : Bool :=
  !b.prefill || (stream s r.stream).prompt ≤ r.pos + r.count
def rowOver (s : State) (b : Batch) (r : Row) : Bool := r.masked || r.sampled || !rowOwn s b r || !needsSample s b r
/-- Leading drafted tokens that equal the main model's samples. -/
def accepted : List (Nat × W32 × W32) → List (Nat × W32 × W32) → Nat
  | d :: ds, m :: ms => if d.1 = m.1 then accepted ds ms + 1 else 0
  | _, _ => 0
/-- One position sampled after the tokens `before` of the same step: its counts are those that the main model alone would
find there (R230). -/
def sampleAfter (s : State) (c : Nat) (v : Serve) (n pos : Nat) (before : List Nat) (z : List W32) (fv : W64) :
    Option (Nat × W32 × W32) :=
  sampleRow (claim s c).seed (stream s n) (fun i => min 255 (countGet s c v n i + (before.map countSlot).count i)) (z.map x32) n pos fv
/-- The draft model's proposals, one after another; none when a logit is NaN. -/
def draftAll (s : State) (c : Nat) (v : Serve) (n pos : Nat) (fv : W64) (before : List Nat) : List (List W32) → Option (List (Nat × W32 × W32))
  | [] => some []
  | z :: zs =>
    match sampleAfter s c v n pos before z fv with
    | none => none
    | some t => (draftAll s c v n (pos + 1) fv (before ++ [t.1]) zs).map (t :: ·)
/-- The main model's samples, after the drafted tokens `ds`; none when a logit is NaN. -/
def mainAll (s : State) (c : Nat) (v : Serve) (n pos : Nat) (fv : W64) (ds : List Nat) (zs : List (List W32)) :
    Option (List (Nat × W32 × W32)) :=
  let l := zs.zipIdx.map fun p => sampleAfter s c v n (pos + p.2) (ds.take p.2) p.1 fv
  if l.any (·.isNone) then none else some (l.filterMap id)
/-- Position of the first token that a row yields. -/
def firstPos (b : Batch) (r : Row) : Nat := if b.prefill then r.pos + r.count else r.pos
/-- One row read: its tokens, or the status with which its stream ends. -/
def sampled (s : State) (b : Batch) (v : Serve) (r : Row) (main draft : List (List W32)) (fv : W64) : Row :=
  let p := firstPos b r
  let ds := draftAll s b.claim v r.stream p fv [] draft
  match mainAll s b.claim v r.stream p fv ((ds.getD []).map Prod.fst) main, ds with
  | some ms, some ds =>
    let a := accepted ds ms
    { r with sampled := true, accepted := a, tokens := (ms.take (a + 1)).zipIdx.map fun t => (t.1.1, decide (t.2 < a), t.1.2.1, t.1.2.2) }
  | _, _ => { r with sampled := true, failed := stNonfiniteLogits }
/-- Count-table bytes that the sampling of a row reads. -/
def countSpans (s : State) (b : Batch) (v : Serve) (r : Row) (zs : List (List W32)) : List (Nat × Nat) :=
  (zs.flatMap fun z => slotsRead (stream s r.stream) (z.map x32)).eraseDups.map fun i => (countAt (claim s b.claim) v r.stream i, 1)
/-- The sampler's turn has come: tick b + T - 1 of the step has begun, and boundary b + T has not come (R337). -/
def sampleTick (s : State) (b : Batch) : Bool :=
  let k := claim s b.claim
  decide (b.formed + b.ticks ≤ k.tick + 1) && decide (s.time < boundaryTime k (nextTick k))
/-- SAMPLER_ROW: the next row of a step whose slices have ended. -/
def samplerStep (s : State) (id : Nat) (poison : Bool) (main draft : List (List W32)) : State :=
  match findBatch s id with
  | none => s
  | some b =>
    match b.rows.find? (fun r => !rowOver s b r), (claim s b.claim).serve with
    | some r, some v =>
      let fits := main.length == r.depth + 1 && draft.length == r.depth && (main ++ draft).all fun z => z.length == v.vocab
      let reads := countSpans s b v r (main ++ draft)
      if !(running s && b.swept && fits && sampleTick s b) then s
      else if poison || spansPoison (readSpans s b.claim reads) b.claim reads then failBatch (readSpans s b.claim reads) b stPoisonRead
      else
        let (fv, s) := freeValue (readSpans s b.claim reads)
        modBatch s id fun b => { b with rows := b.rows.map fun q => if q.stream = r.stream then sampled s b v r main draft fv else q }
    | _, _ => s
def execSamplerRow (batch : Nat) (poison : Bool) (main draft : List (List W32)) (s : State) : Res :=
  .next (settleFoul (samplerStep s batch poison main draft))

/-! ### Parks (R225, R226) -/

/-- The stream becomes DONE with a park pending: its history goes to the host buffer and the park completes; `lost` is the status
of a fetch of the history that has failed, or 0 (R163). -/
def parkDone (s : State) (n fin lost : Nat) : State :=
  let x := stream s n
  let s := endStream s n .done fin 0
  match x.park with
  | none => s
  | some (r, q, buf) =>
    let h := max x.pos x.prompt
    if lost ≠ 0 then reply s r q lost 0 0 else
    let s := readSpan s x.claim x.hist (4 * h)
    match histTokens s x.claim x 0 h with
    | .ok ts =>
      if hostOk s buf (4 * h) then reply (hostWrite s buf (ts.flatMap (leBytes 4))) r q stOk h 0
      else reply (logHost s (ringHolder s r) (some (r, q)) stHostAccessFail) r q stHostAccessFail 0 0
    | .bad m => reply s r q m 0 0
    | .absent _ => reply s r q stFetchDeadline 0 0
/-- A park takes effect outside a step, once the history is resident. DESIGN CHOICE (log 23): while it waits for the hoist the stream
stays in its state, so a boundary may admit it or form a batch with it; the park then takes effect at that step's retire point. -/
def parkNow (s : State) (n : Nat) : State :=
  let x := stream s n
  if x.park.isNone || !isLive x || x.batch.isSome then s else
  match access (claim s x.claim) (ofTenant x) x.hist (4 * max x.pos x.prompt) with
  | .absent l => stallAll s x.claim l (.park n)
  | .bad m => parkDone (blocked s x.claim m) n 3 0
  | .ok => parkDone s n 3 0

/-! ### The retire point (R217) -/

/-- Tokens of a row that are committed: none beyond STOP_ID or position LIMIT (R225); and END, if one ends the stream. -/
def cutTokens (x : Stream) : Nat → List (Nat × Bool × W32 × W32) → List (Nat × Bool × W32 × W32) × Nat
  | _, [] => ([], 0)
  | pos, t :: ts =>
    if x.stopEn && t.1 == x.stopId then ([t], 1)
    else if x.limit ≤ pos then ([t], 2)
    else let r := cutTokens x (pos + 1) ts; (t :: r.1, r.2)
/-- The depth rule (R231). -/
def depthRule (x : Stream) (a : Nat) : Stream :=
  if x.depth = 0 then
    if x.probe + 1 = 32 then { x with depth := 1, probe := 0 } else { x with probe := x.probe + 1 }
  else if a = 0 then
    if x.rejRun + 1 = 4 then { x with accRun := 0, rejRun := 0, depth := x.depth / 2 } else { x with accRun := 0, rejRun := x.rejRun + 1 }
  else if a = x.depth then
    if x.accRun + 1 = 8 then { x with rejRun := 0, accRun := 0, depth := min (2 * x.depth) 8 } else { x with rejRun := 0, accRun := x.accRun + 1 }
  else { x with rejRun := 0, accRun := 0 }
/-- FILL, MIXED, VERSION and SEALED of one map entry after a commit, and the vein entry of a tub it seals. -/
def settleTub (s : State) (b : Batch) (v : Serve) (x : Stream) (j : Nat) : State :=
  let c := b.claim
  let t := mapGet s c x j
  if t = noTub ∨ tubCount (claim s c) v ≤ t then s else
  let u := getTub s c v t
  if u.sealed then s else
  let fill := min 64 (x.pos - 64 * j)
  let u := { u with fill := fill, ver := if u.fill = 0 then b.vid else u.ver
                    mixed := u.mixed || (u.fill != 0 && u.ver != b.vid), sealed := fill == 64 }
  if fill ≠ 64 then putTub s c v t u else
  let prev := if j = 0 then none else some (getTub s c v (mapGet s c x (j - 1)))
  let chain := match prev with | none => some 0 | some p => if p.hv then some p.hash else none
  match u.mixed, chain, histTokens s c x (64 * j) 64 with
  | false, some h, .ok ts => veinInsert s c v t { u with hv := true, hash := veinHash (claim s c) x.kvfmt x.tenant b.vid h ts }
  | _, _, _ => putTub s c v t { u with hv := false, hash := 0 }
/-- *Ledger record*. -/
def ledgerRecord (time vid n pos : Nat) (x : Stream) (t : Nat × Bool × W32 × W32) : List W64 :=
  [w64 (at' t.2.2.1.toNat 32 + t.2.2.2.toNat), w64 (at' vid 48 + at' (b2n t.2.1) 47 + at' t.1 24 + pos), w64 time,
   w64 (at' n 47 + at' x.tenant 35)]
/-- Committed tokens written to the history, but those of a page whose fetch failed (R512). -/
def putTokens (s : State) (b : Batch) (x : Stream) (p0 : Nat) (ts : List Nat) : State :=
  ts.zipIdx.foldl (fun s t =>
    let va := x.hist + 4 * (p0 + t.2)
    if (b.skip.map Prod.fst).contains (va / 2097152) then s else pokeAs (ofTenant x) s b.claim va (leBytes 4 t.1)) s
/-- The status of a failed fetch among the pages of a history of h words, or 0. -/
def histLost (b : Batch) (x : Stream) (h : Nat) : Nat :=
  match b.skip.find? fun p => (pagesOf x.hist (4 * h)).contains p.1 with | some p => p.2 | none => 0
/-- The outcome of one live row committed, in the order of R217. -/
def commitRow (s : State) (b : Batch) (v : Serve) (r : Row) : State :=
  let c := b.claim
  let n := r.stream
  let x := stream s n
  let (ts, fin) := cutTokens x (firstPos b r) r.tokens
  let p0 := firstPos b r
  let s := putTokens s b x p0 (ts.map (·.1))
  let y := { x with pos := p0 + ts.length, gen := x.gen + ts.length, version := if ts.isEmpty then x.version else b.vid
                    fed := x.fed || !ts.isEmpty, batch := none }
  let y := if x.state = .prefill ∧ x.prompt ≤ p0 then { y with state := .decode } else y
  let y := if y.state = .held then y else { y with due := dueAt (claim s c) y (nextTick (claim s c)), fed := false }
  let s := ts.foldl (fun s t => countBump s c v n (countSlot t.1)) s
  let y := if !b.prefill && r.depth == x.depth then depthRule y r.accepted else y
  let s := setStream s n y
  let s := (List.range ((y.pos + 63) / 64 - x.pos / 64)).foldl (fun s i => settleTub s b v y (x.pos / 64 + i)) s
  let s := ts.zipIdx.foldl (fun s t => postQueue s (queueId 4 c) (wordsBytes (ledgerRecord s.time b.vid n (p0 + t.2) y t.1))) s
  let pr := if b.prefill then r.count else 0
  let s := charge s c r.tenant fun t =>
    { t with prompt := t.prompt + pr, winPrompt := t.winPrompt + pr, gen := t.gen + ts.length, winGen := t.winGen + ts.length }
  let lost := histLost b y (max y.pos y.prompt)
  if fin ≠ 0 then parkDone s n fin lost else if y.park.isSome then parkDone s n 3 lost else s
/-- A row cancelled after the sampler read it: its tokens are charged as undelivered (R234). -/
def chargeRow (s : State) (b : Batch) (r : Row) : State :=
  let x := stream s r.stream
  let m := (cutTokens x (firstPos b r) r.tokens).1.length
  let s := setStream s r.stream { x with batch := none, undeliv := min 15 (x.undeliv + m) }
  charge s b.claim r.tenant fun t =>
    { t with gen := t.gen + m, winGen := t.winGen + m, undeliv := t.undeliv + m }
/-- One row at the retire point. -/
def retireRow (s : State) (b : Batch) (v : Serve) (r : Row) : State :=
  if !rowOwn s b r then s else
  let x := stream s r.stream
  if !isLive x then chargeRow s b r
  else if r.failed ≠ 0 then endStream s r.stream .failed 6 r.failed
  else commitRow s b v r
/-- Row n's part of an amount divided equally among the rows, the remainder to row 0. -/
def rowPart (rows total n : Nat) : Nat := total / rows + (if n = 0 then total % rows else 0)
/-- Face time, and the step's share of energy, which is a free value, divided among the rows (R349). -/
def faceCharge (s : State) (b : Batch) : State :=
  let n := b.rows.length
  let (e, s) := freeValue s
  b.rows.zipIdx.foldl (fun s p => charge s b.claim p.1.tenant fun t =>
    { t with faceNs := t.faceNs + rowPart n b.faceNs p.2, energyUj := t.energyUj + rowPart n e.toNat p.2 }) s
/-- Rows that the retire point commits. -/
def liveRows (s : State) (b : Batch) : List Row := b.rows.filter fun r => rowOwn s b r && isLive (stream s r.stream) && r.failed == 0
/-- Position after the last token that a row commits. -/
def rowEnd (s : State) (b : Batch) (r : Row) : Nat :=
  firstPos b r + (cutTokens (stream s r.stream) (firstPos b r) r.tokens).1.length
/-- Claim ranges that the commit reads: the map entries, and the tokens of a tub that it seals. -/
def retireReads (s : State) (b : Batch) : List (Nat × Nat) :=
  (liveRows s b).flatMap fun r =>
    let x := stream s r.stream
    let hi := rowEnd s b r
    let lo := r.pos / 64 * 64
    let hist := if lo + 64 ≤ hi then (x.hist + 4 * lo, 4 * (firstPos b r - lo)) else (x.hist, 0)
    [hist, (x.tmap + 4 * (r.pos / 64 - 1), 4 * ((r.pos + r.count - 1) / 64 + 1 - (r.pos / 64 - 1)))]
/-- Histories that the parks of the commit read. -/
def parkReads (s : State) (b : Batch) : List (Nat × Nat) :=
  ((liveRows s b).filter fun r => (stream s r.stream).park.isSome).map fun r =>
    let x := stream s r.stream; (x.hist, 4 * max (rowEnd s b r) x.prompt)
/-- Claim ranges to which the commit writes history words. -/
def retireWrites (s : State) (b : Batch) : List (Nat × Nat) :=
  (liveRows s b).map fun r => ((stream s r.stream).hist + 4 * firstPos b r, 4 * (rowEnd s b r - firstPos b r))
def absentIn (s : State) (c : Nat) (spans : List (Nat × Nat)) : List Nat :=
  match spansOk s c spans with | .absent l => l.eraseDups | _ => []
/-- Pages that must be hoisted first (R512): those read, and those written or parked whose fetch has not failed. -/
def retireAbsent (s : State) (b : Batch) : List Nat :=
  (absentIn s b.claim (retireReads s b) ++ (absentIn s b.claim (retireWrites s b ++ parkReads s b)).filter fun p =>
    !(b.skip.map Prod.fst).contains p).eraseDups
/-- The commit of a batch waits for a page only to write to it, or for a park's history, whose failed fetch is the park's alone
(R163, R512). -/
def writeOnly (s : State) (b : Batch) (p : Nat) : Bool :=
  b.swept && b.rows.all (rowOver s b) && !((retireReads s b).flatMap fun r => pagesOf r.1 r.2).contains p
    && ((retireWrites s b ++ parkReads s b).flatMap fun r => pagesOf r.1 r.2).contains p
/-- Words of structures that the commit reads: map entries, the tags they name, count slots, and sealed tokens. -/
def commitReads (s : State) (b : Batch) (v : Serve) : List (Nat × Nat) :=
  let k := claim s b.claim
  (liveRows s b).flatMap fun r =>
    let x := stream s r.stream
    let js := (List.range ((r.pos + r.count - 1) / 64 + 1 - (r.pos / 64 - 1))).map (r.pos / 64 - 1 + ·)
    let ts := (js.map (mapGet s b.claim x)).filter fun t => t != noTub && t < tubCount k v
    let toks := (cutTokens x (firstPos b r) r.tokens).1
    (retireReads s { b with rows := [r] }).take 1 ++ [(x.tmap + 4 * (r.pos / 64 - 1), 4 * js.length)]
      ++ tagSpans k v ts ++ toks.map fun t => (countAt k v r.stream (countSlot t.1), 1)
/-- Buckets of the vein map that the commit `t` of state s has searched for a hole. -/
def bucketsRead (s t : State) (b : Batch) (v : Serve) : List (Nat × Nat) :=
  (liveRows s b).flatMap fun r =>
    let x := stream t r.stream
    let us := ((List.range (x.pos / 64 + 1 - r.pos / 64)).map (r.pos / 64 + ·)).map (mapGet t b.claim x)
    (us.filter fun u => u < tubCount (claim s b.claim) v && (getTub t b.claim v u).hv && !(getTub s b.claim v u).hv).map fun u =>
      bucketSpan (claim s b.claim) v (getTub t b.claim v u).hash
/-- The commit of every row, and the charges of the step. -/
def commitBatch (s : State) (b : Batch) (v : Serve) : State := faceCharge (b.rows.foldl (fun s r => retireRow s b v r) s) b
/-- The instant of a retire point lies after the stamps of the commands consumed before it (log 60). -/
def afterStamp (s : State) : State := match s.stamp with | some t => advanceTo s (t + 1) | none => s
/-- RETIRE_POINT: every row that needs it has been sampled. One that falls on a tick boundary of its claim follows that
boundary's actions (R334, R353); a step not retired when a turn begins is discarded by it (R32). -/
def retireStep (s : State) (id : Nat) : State :=
  match findBatch s id with
  | none => s
  | some b =>
    match (claim s b.claim).serve with
    | none => s
    | some v =>
      let k := claim s b.claim
      let at0 := afterStamp s
      if !(running s && b.swept && b.rows.all (rowOver s b)) || k.turn.any (·.due) || boundaryTime k (nextTick k) ≤ at0.time then s else
      match retireAbsent s b with
      | [] =>
        let s := readSpans at0 b.claim (commitReads s b v)
        if spansPoison s b.claim (commitReads s b v) then failBatch s b stPoisonRead else
        let veins := bucketsRead s (commitBatch s b v) b v
        let s := readSpans s b.claim veins
        if spansPoison s b.claim veins then failBatch s b stPoisonRead
        else
          let t := commitBatch s b v
          { t with batches := t.batches.filter fun x => x.id != id }
      | l => stallAll s b.claim l (.step id)
def execRetirePoint (batch : Nat) (s : State) : Res := .next (settleFoul (retireStep s batch))

/-- PARK_EFFECT: a pending park takes effect at the next tick boundary when no step of the stream is in flight. -/
def parkStep (s : State) (n : Nat) : State :=
  let x := stream s n
  if x.park.isNone || !isLive x || x.batch.isSome || !running s then s
  else parkNow (advanceTo s (boundaryTime (claim s x.claim) (nextTick (claim s x.claim)))) n
def execParkEffect (stream : Fin 131072) (s : State) : Res := .next (settleFoul (parkStep s stream))

end Sys2Proof.Machine
end

