-- ==== Sys2Proof/Machine/Ticks.lean ====
section
/-!
DEFINITION. A claim's tick boundary (R334): windows and accruals (R349 to R351), stream transitions (R216),
version switches (R321, R322), admission (R339), batches (R217), promises (R342), what starts at the boundary
(R31, R187, R335), the configuration digest (R309) and the tally summary (R507).
-/
namespace Sys2Proof.Machine
open Sys2Proof

/-! ### Boundaries -/

/-- TICK_PERIOD_CHANGE: the period before TAKE_AT is no longer needed. -/
def periodStep (s : State) (c : Nat) : State :=
  let k := claim s c
  match k.tickPend with
  | some (_, _, _, takeAt) =>
    if ticksRun s k && nextTick k == takeAt then
      setClaim (advanceTo s (boundaryTime k takeAt)) c { k with tickPend := none }
    else s
  | none => s
def execTickPeriodChange (c : Fin 8) (s : State) : Res := .next (periodStep s c)

/-! ### Windows (R350, R351) -/

def windowStep (s : State) (c : Nat) : State :=
  let k := claim s c
  let n := nextTick k
  if ticksRun s k && isWindow k n && !k.rolled then rollWindow (advanceTo s (boundaryTime k n)) c n else s
def execWindowBoundary (c : Fin 8) (s : State) : Res := .next (windowStep s c)

/-! ### Accruals (R348, R349) -/

/-- T1_BS of a tally slot; one outside the claim's blocks is blocked (R344, R345). -/
def addT1 (s : State) (c t n : Nat) : State :=
  if ownsTally (claim s c) t then setTally s t { tally s t with t1ByteUs := (tally s t).t1ByteUs + n } else blocked s c stOwnerFault
/-- Bytes of T1 that a page of an object occupies. -/
def pageHeld (s : State) (c p : Nat) (e : Pte) : Bool :=
  match e.state with
  | .hoisting => s.hoists.any fun h => h.claim == c && h.page == p && h.frame.isSome
  | _ => hasFrame e
/-- T1_BS and ENERGY_MJ of the tick that begins at boundary n. The energy that falls to the claim alone is a free value. DESIGN CHOICE
(log 20): a tub whose tag is poisoned is charged to nobody, since no request is there to fail. -/
def accrue (s : State) (c n : Nat) : State :=
  let k := claim s c
  let p := periodAt k n
  let s := k.pages.foldl (fun s e =>
    let o := obj k e.2.obj
    if o.priv && pageHeld s c e.1 e.2 then addT1 s c o.tenant (p * 2097152) else s) s
  let s := match k.serve with
    | some v => (List.range (tubCount k v)).foldl (fun s t =>
        let s := readSpan s c (tagAt (claim s c) v t) 32
        let b := getTub s c v t
        if b.refs = 0 then s else addT1 s c b.tenant (p * v.tubBytes)) s
    | none => s
  let (e, s) := freeValue s
  let grans := ((List.range 768).filter k.t1g.getLsbD).length
  let k := claim s c
  setClaim s c { k with tally := { k.tally with t1ByteUs := k.tally.t1ByteUs + p * 1073741824 * grans
                                                energyUj := k.tally.energyUj + e.toNat } }
/-- HELD_TICKS, and HELD of the streams, for the tick that begins at the present boundary: for the tenants held from it on
(R348). -/
def heldAccrue (s : State) (c : Nat) : State :=
  let s := (tenants s c).foldl (fun s t =>
    if (tally s t).held then charge s c t fun x => { x with heldTicks := x.heldTicks + 1 } else s) s
  (claimStreams s c).foldl (fun s m =>
    let x := stream s m
    if x.state = .held then setStream s m { x with heldT := x.heldT + 1 } else s) s

/-! ### Streams at a boundary (R216) -/

/-- Step 1: cancels and parks. -/
def endCancelled (s : State) (c : Nat) : State :=
  (claimStreams s c).foldl (fun s n =>
    if (stream s n).state = .cancelling then endStream s n .cancelled 4 0 else parkNow s n) s
/-- Steps in flight and live pinned streams that read a version slot (R316). -/
def verRefs (s : State) (c slot : Nat) : Nat :=
  (s.batches.filter fun b => b.claim == c && b.slot == slot).length
    + ((liveStreams s c).filter fun n => (stream s n).pinned == some slot).length
/-- DRAINING slots without readers become EMPTY (R322). -/
def freeVersions (s : State) (c n : Nat) : State :=
  (List.range 4).foldl (fun s i =>
    let v := ver (claim s c) i
    if v.state = .draining ∧ v.drained < n ∧ verRefs s c i = 0 then
      postEvent (setClaim s c (setVer (claim s c) i {})) (some c) 0x0005 [at' i 16 + v.vid]
    else s) s
/-- The tenant's budget is reached (R348). -/
def budgetOut (t : Tally) : Bool :=
  (0 < t.genBudget && t.genBudget ≤ t.winGen) || (0 < t.promptBudget && t.promptBudget ≤ t.winPrompt)
/-- Step 3: tenants become held, and at a window boundary may be released; their streams follow. -/
def holdStreams (s : State) (c n : Nat) (window : Bool) : State :=
  let s := (tenants s c).foldl (fun s t =>
    let x := tally s t
    let h := if window then budgetOut x else x.held || budgetOut x
    setTally s t { x with held := h, wasHeld := x.wasHeld || h }) s
  (liveStreams s c).foldl (fun s m =>
    let x := stream s m
    let h := (tally s x.tenant).held
    match x.state, h with
    | .prefill, true => setStream s m { x with state := .held }
    | .decode, true => setStream s m { x with state := .held }
    | .held, false =>
      let y := { x with state := if x.pos < x.prompt then .prefill else .decode }
      setStream s m { y with due := dueAt (claim s c) y n, fed := false }
    | _, _ => s) s

/-! ### Version switches (R321) -/

/-- The slot in a state, if there is one. -/
def currentSlot (k : Claim) : Option Nat := (List.range 4).find? fun i => (ver k i).state == .current
/-- The pending switch is due at boundary n. -/
def switchDue (s : State) (c n : Nat) : Bool :=
  match (claim s c).switch with
  | some (_, takeAt, r, q) =>
    if takeAt = 0 then decide (cmdTime s r q < boundaryTime (claim s c) n) else takeAt == n
  | none => false
def switchVersion (s : State) (c n : Nat) : State :=
  match switchDue s c n, (claim s c).switch with
  | true, some (i, _, r, q) =>
    let k := claim s c
    let k := match currentSlot k with
      | some j => setVer k j { ver k j with state := .draining, drained := n }
      | none => k
    let k := setVer k i { ver k i with state := .current, switchAt := 0 }
    reply (setClaim s c { k with switch := none }) r q stOk n 0
  | _, _ => s
def switchStep (s : State) (c : Nat) : State :=
  let k := claim s c
  if ticksRun s k && switchDue s c (nextTick k) then
    switchVersion (advanceTo s (boundaryTime k (nextTick k))) c (nextTick k) else s
def execVersionSwitchEffect (c : Fin 8) (s : State) : Res := .next (switchStep s c)

/-! ### Admission (R218, R224, R339) -/

/-- Buckets and tags that the lookup of an admission reads, up to its first miss (R223, R224). -/
def lookSpans (s : State) (c : Nat) (v : Serve) (x : Stream) (vid : Nat) : List (Nat × Nat) :=
  ((List.range ((x.prompt - 1) / 64)).foldl (fun (acc : List (Nat × Nat) × BitVec 128 × Bool) j =>
    if !acc.2.2 then acc else
    match histTokens s c x (64 * j) 64 with
    | .ok toks =>
      let h := veinHash (claim s c) x.kvfmt x.tenant vid acc.2.1 toks
      let l := acc.1 ++ [bucketSpan (claim s c) v h]
      (match veinFind s c v h with | some t => (l ++ [(tagAt (claim s c) v t, 32)], h, true) | none => (l, h, false))
    | _ => (acc.1, acc.2.1, false)) ([], 0, true)).1
/-- What the admission of a stream finds: the shared tubs, and the prompt tokens to be counted. -/
def admitLook (s : State) (c : Nat) (v : Serve) (x : Stream) (vid : Nat) : Got (List Nat × List Nat) :=
  let found := (List.range ((x.prompt - 1) / 64)).foldl (fun (acc : Got (List Nat × BitVec 128 × Bool)) j =>
    bindGot acc fun a =>
      if !a.2.2 then .ok a else
      bindGot (histTokens s c x (64 * j) 64) fun toks =>
        let h := veinHash (claim s c) x.kvfmt x.tenant vid a.2.1 toks
        if spansPoison s c [bucketSpan (claim s c) v h] then .bad stPoisonRead else
        match veinFind s c v h with
        | some t => .ok (a.1 ++ [t], h, true)
        | none => .ok (a.1, h, false)) (.ok ([], 0, true))
  bindGot found fun a =>
  if spansPoison s c (tagSpans (claim s c) v a.1) then .bad stPoisonRead else
  if x.cntp then mapGot (histTokens s c x 0 x.prompt) fun ts => (a.1, ts) else .ok (a.1, [])
/-- Tub reservations against the pool. -/
def reserved (s : State) (c : Nat) : Nat :=
  ((claimStreams s c).map fun n => (stream s n).reserve).foldl (· + ·) 0
    + ((claim s c).freeing.map fun m => m.2.2).foldl (· + ·) 0
/-- A prefill seat is free. -/
def seatFree (s : State) (c lanesP rows : Nat) : Bool :=
  ((liveStreams s c).filter fun n =>
    let x := stream s n
    (x.state == .prefill || x.state == .held) && x.pos < x.prompt).length < lanesP * rows
/-- Shares of the admitted live streams, in eighths of a row. -/
def sharesUsed (s : State) (c td : Nat) : Nat :=
  (((liveStreams s c).filter fun n => (stream s n).state != .opened).map fun n => shareOf td (stream s n).period).foldl (· + ·) 0
/-- The stream enters PREFILL with its shared tubs, its reservation and its counts. -/
def enterPrefill (s : State) (c m n slot vid : Nat) (v : Serve) (a : List Nat × List Nat) : State :=
  let x := stream s m
  let s := a.1.zipIdx.foldl (fun s p => shareTub s c v x p.2 p.1) s
  let y := { x with state := .prefill, pos := 64 * a.1.length, reserve := mapEntries x - a.1.length, fed := false
                    pinned := if x.vpin then some slot else none, version := if x.vpin then vid else x.version }
  let s := setStream s m { y with due := dueAt (claim s c) y n }
  a.2.foldl (fun s t => countBump s c v m (countSlot t)) (countClear s c v m)
/-- One OPEN stream examined at boundary n. -/
def admitOne (s : State) (c n slot : Nat) (v : Serve) (ad : Admit) (m : Nat) : State :=
  let x := stream s m
  let vid := (ver (claim s c) slot).vid
  if (tally s x.tenant).held then s else
  let s := noteAll s c [(x.hist, 4 * x.prompt)]
  let s := readSpans s c (lookSpans s c v x vid)
  match admitLook s c v x vid with
  | .bad st => endStream (blocked s c st) m .failed 6 st
  | .absent l => stallAll s c l.eraseDups (.opening m)
  | .ok a =>
    let need := mapEntries x - a.1.length
    let s := readSpans s c (tagSpans (claim s c) v (List.range (tubCount (claim s c) v)))
    if (freeTubs s c v).length < reserved s c + need then s
    else if !seatFree s c ad.lanesP v.batchRows then s
    else if 8 * (ad.lanesD * v.batchRows) < sharesUsed s c ad.td + shareOf ad.td x.period then s
    else enterPrefill s c m n slot vid v a
/-- Ascending OPENED, then ascending stream id. -/
def insOpen (s : State) (m : Nat) : List Nat → List Nat
  | [] => [m]
  | y :: ys => if (stream s m).opened < (stream s y).opened then m :: y :: ys else y :: insOpen s m ys
/-- A member whose first TICK frame has not come issues and takes in nothing (R333). -/
def tickReady (s : State) (k : Claim) : Bool := isTickMaster s k || k.tickSeen
def admitStreams (s : State) (c n : Nat) : State :=
  let k := claim s c
  match k.serve, k.admission, currentSlot k with
  | some v, some ad, some slot =>
    if suspended s.winder || !tickReady s k then s else
    let l := (claimStreams s c).filter fun m => (stream s m).state == .opened && decide ((stream s m).opened < boundaryTime k n)
    (l.foldl (fun acc m => insOpen s m acc) []).foldl (fun s m => admitOne s c n slot v ad m) s
  | _, _, _ => s

/-! ### Batches (R217) -/

def insDue (s : State) (m : Nat) : List Nat → List Nat
  | [] => [m]
  | y :: ys => if (stream s m).due < (stream s y).due then m :: y :: ys else y :: insDue s m ys
/-- A stream put into the first batch of its version with room, or a new one while lanes remain. -/
def placeStream (lanes rows m slot : Nat) (bs : List (Nat × List Nat)) : List (Nat × List Nat) :=
  if bs.any fun b => b.1 == slot && b.2.length < rows then
    match bs.findIdx? (fun b => b.1 == slot && b.2.length < rows) with
    | some i => bs.modify i fun b => (b.1, insSorted m b.2)
    | none => bs
  else if bs.length < lanes then bs ++ [(slot, [m])] else bs
/-- The tenant that every row shares (R154). -/
def commonTenant (l : List Nat) : Option Nat := match l with | [] => none | t :: ts => if ts.all (· == t) then some t else none
/-- The lowest batch-table place that no step of the claim uses: DESIGN CHOICE (log 21), R217 does not say which place a batch takes. -/
def freePlace (s : State) (c : Nat) : Nat :=
  let used := (s.batches.filter fun b => b.claim == c).map (·.place)
  ((List.range 17).find? fun i => !used.contains i).getD 0
def makeRow (s : State) (v : Serve) (prefill : Bool) (m : Nat) : Row :=
  let x := stream s m
  let d := if prefill then 0 else min x.depth (x.limit - x.pos)
  { stream := m, tenant := x.tenant, depth := d, pos := x.pos, count := if prefill then min v.chunk (x.prompt - x.pos) else d + 1
    tubs := [], masked := false, sampled := false, tokens := [], accepted := 0, failed := 0 }
/-- A batch formed, and its step issued as one request. -/
def openBatch (s : State) (c n : Nat) (v : Serve) (ad : Admit) (prefill : Bool) (g : Nat × List Nat) : State :=
  let k := claim s c
  let (id, s) := freshId s
  let (rid, s) := freshId s
  let rows := g.2.map (makeRow s v prefill)
  let q : Req :=
    { id := rid, claim := c, tenant := commonTenant (rows.map (·.tenant)), cmd := none, area := (true, 0), stamp := boundaryTime k n
      progs := (if prefill then v.pre else v.dec).map fun p =>
        { addr := p.addr, face := p.face, stream := .f, regs := [], started := false, ended := false, record := [] }
      started := false, failed := 0, batch := some id }
  let b : Batch :=
    { id := id, claim := c, prefill := prefill, slot := g.1, vid := (ver k g.1).vid, rows := rows, formed := n
      ticks := if prefill then ad.tp else ad.td, req := rid, ready := false, swept := false, place := freePlace s c, faceNs := 0, failed := 0
      skip := [] }
  let s := { s with reqs := s.reqs ++ [q], batches := s.batches ++ [b] }
  let s := g.2.foldl (fun s m => setStream s m { stream s m with batch := some id }) s
  prepareBatch s id
def formKind (s : State) (c n : Nat) (v : Serve) (ad : Admit) (prefill : Bool) : State :=
  let k := claim s c
  let want : StreamState := if prefill then .prefill else .decode
  let l := (claimStreams s c).filter fun m => (stream s m).state == want && (stream s m).batch.isNone
  let l := l.foldl (fun acc m => insDue s m acc) []
  let gs := l.foldl (fun bs m =>
    match ((stream s m).pinned).or (currentSlot k) with
    | some slot => placeStream (if prefill then ad.lanesP else ad.lanesD) v.batchRows m slot bs
    | none => bs) []
  gs.foldl (fun s g => openBatch s c n v ad prefill g) s
def formBatches (s : State) (c n : Nat) : State :=
  let k := claim s c
  match k.serve, k.admission with
  | some v, some ad =>
    let s := if n % ad.td = 0 then formKind s c n v ad false else s
    if n % ad.tp = 0 then formKind s c n v ad true else s
  | _, _ => s

/-! ### Promises (R342) -/

def checkPromises (s : State) (c n : Nat) : State :=
  match (claim s c).admission with
  | none => s
  | some ad => (liveStreams s c).foldl (fun s m =>
      let x := stream s m
      let owed := (x.state == .prefill || x.state == .decode) && (rateOf ad.td x.period).isSome && x.due == n && !x.fed
      if !owed then s else
      let s := charge s c x.tenant fun t => { t with promiseMiss := t.promiseMiss + 1 }
      let s := if x.missed then s else postEvent s (some c) 0x000C [m, n]
      setStream s m { x with due := x.due + ad.td, missed := true }) s

/-! ### What starts at the boundary (R31, R187, R334) -/

def psetBlocks (k : Claim) (stamp : Nat) : Bool := match k.pset with | some p => decide (p.stamp < stamp) | none => false
/-- The four conditions under which a sweep starts at a boundary at time t. -/
def sweepReady (k : Claim) (w : Sweep) (t : Nat) : Bool :=
  decide (w.stamp < t) && !k.colls.any (fun x => decide (x.stamp < w.stamp) && cCell x)
    && !k.assays.any (fun a => decide (a.stamp < w.stamp)) && !psetBlocks k w.stamp
def markDue (s : State) (c t : Nat) : State :=
  let k := claim s c
  let k := { k with sweep := k.sweep.map fun (w : Sweep) => if w.started then w else { w with due := w.due || sweepReady k w t } }
  let k := { k with turn := k.turn.map fun (u : Turn) => { u with due := u.due || (k.sweep.isNone && decide (u.stamp < t)) } }
  setClaim s c k
/-- No slice of the claim issues: in a turn, in no shift, in a sweep, or before the first TICK frame. -/
def quiet (s : State) (k : Claim) : Bool :=
  (match k.turn with | some u => u.due || u.begun | none => false) || k.shift == .none
    || (match k.sweep with | some w => w.due || w.started | none => false) || !tickReady s k || k.dead || !running s
/-- Steps that are late at boundary n: still issuing at b + T - 1, or not retired before b + T (R337). -/
def lateSteps (s : State) (c n : Nat) : State :=
  (s.batches.filter fun b => b.claim == c).foldl (fun s b =>
    match findReq s b.req with
    | some q =>
      if b.formed + b.ticks ≤ n + 1 ∧ !(q.started && q.progs.all (·.ended)) ∨ b.formed + b.ticks ≤ n then failRequest s q.id stStepLate
      else s
    | none => if b.formed + b.ticks ≤ n then failBatch s b stStepLate else s) s
/-- A request may issue its first slices: its command was consumed before the boundary, or its batch is ready. -/
def mayStart (s : State) (q : Req) (t : Nat) : Bool :=
  match q.batch with
  | some b => (match findBatch s b with | some b => b.ready | none => false)
  | none => decide (q.stamp < t)
/-- Requests of the claim in the order of their stamps, started and issued. -/
def issueDue (s : State) (c t : Nat) : State :=
  let l := (s.reqs.filter fun q => q.claim == c).foldl (fun acc q =>
    let r := acc.span fun (y : Req) => y.stamp ≤ q.stamp
    r.1 ++ q :: r.2) []
  l.foldl (fun s q =>
    match findReq s q.id with
    | none => s
    | some q =>
      if q.failed ≠ 0 then s else
      let s := if !q.started && mayStart s q t && !s.waits.any (fun w => w.who == .request q.id) then startReq s q else s
      issueSlices s q.id t) s

/-! ### Digest and summary (R309, R310, R507) -/

def configDigest (s : State) (c : Nat) : BitVec 256 :=
  let k := claim s c
  let fw := match s.boot.running with | some f => f.digest.toNat | none => 0
  let vid := match currentSlot k with | some i => (ver k i).vid | none => 0
  sha3 (byte 3 :: leBytes 32 fw ++ leBytes 2 k.ctag.toNat ++ leBytes 2 k.period ++ leBytes 8 k.origin ++ leBytes 6 k.originNum
    ++ leBytes 4 k.epoch ++ leBytes 2 vid ++ leBytes 8 k.canary.toNat ++ [byte (b2n k.extended)]
    ++ leBytes 8 ((k.members.map fun m => 2 ^ m.1).foldl (· + ·) 0) ++ [byte k.master])
def inTransit (k : Claim) : Bool :=
  k.turn.isSome || (match k.pset with | some p => 1 ≤ p.phase | none => false) || k.switch.isSome
/-- Every member computes the digest and queues a GOSSIP frame; one whose GOSSIP of the last round is missing is counted. -/
def gossipRound (s : State) (c n : Nat) : State :=
  let k := claim s c
  if k.members.isEmpty then s else
  let missing := if k.digests.isEmpty then 0 else
    ((k.members.filter fun m => m.2 != s.devAddr && !k.gossip.contains m.1).length)
  let d := configDigest s c
  let tr := inTransit k
  let s := setClaim s c { k with digests := (k.digests ++ [(n, d, tr)]).drop (k.digests.length - 1), gossip := [] }
  let s := { s with bell := { s.bell with count := bumpTab s.bell.count 7 missing } }
  queueBell s c 5 prGossip [n, d.toNat % 2 ^ 64, b2n tr]
/-- The tally summary as of the boundary. -/
def tallySummary (s : State) (c n : Nat) : State :=
  let k := claim s c
  setClaim s c { k with talGen := k.talGen + 2, talTick := n, talWin := k.winNum, talSum := tallyWords k.tally
                        talHeld := (tenants s c).filter fun t => (tally s t).held }

/-! ### The boundary (R334) -/

def boundary (s : State) (c : Nat) : State :=
  let k := claim s c
  let n := nextTick k
  let t := boundaryTime k n
  let window := k.rolled || isWindow k n
  let s := periodStep (advanceTo s t) c
  let s := if window && !k.rolled then rollWindow s c n else s
  let s := setClaim s c { claim s c with tick := n, ticking := true, rolled := false }
  let s := accrue s c n
  let s := endCancelled s c
  let s := freeVersions (releaseTubs s c) c n
  let s := switchVersion (heldAccrue (holdStreams s c n window) c) c n
  let s := formBatches (admitStreams s c n) c n
  let s := markDue (checkPromises s c n) c t
  let s := lateSteps s c n
  let s := if quiet s (claim s c) then s else issueDue s c t
  let s := if n % 1024 = 0 then gossipRound s c n else s
  tallySummary s c n
def tickStep (s : State) (c : Nat) : State := if ticksRun s (claim s c) then boundary s c else s
def execTickBoundary (c : Fin 8) (s : State) : Res := .next (settleFoul (tickStep s c))

end Sys2Proof.Machine
end

