-- ==== Sys2Proof/Machine/Bells.lean ====
section
/-!
DEFINITION. The bell (R289 to R313): frames sent in slots and received, joining, claim time from TICK frames, barrier
tokens, lag notices and sympathy, gossip and replica frames.
-/
namespace Sys2Proof.Machine
open Sys2Proof

/-- Counters of R313, by their place in its list. -/
def bcFec : Nat := 0
def bcCrc : Nat := 1
def bcCollision : Nat := 2
def bcBurst : Nat := 3
def bcStranger : Nat := 4
def bcAuth : Nat := 5
def bcStale : Nat := 6
def bcConflict : Nat := 8
/-- Bell cycles in nanoseconds, rounded up: a cycle is 3,177.6 ns (R290). -/
def cyclesNs (n : Nat) : Nat := ceilDiv (31776 * n) 10
def modBell (s : State) (g : Bell → Bell) : State := { s with bell := g s.bell }
def bumpBell (s : State) (i : Nat) : State := modBell s fun b => { b with count := bumpTab b.count i 1 }
/-- The bell runs in S0 and S1 (R289), and not after a device-fatal error (R471). -/
def bellRuns (s : State) : Bool :=
  !s.pins.perst && !s.pins.stopped && !s.fatal && (match s.power with | .s0 => true | .s1 => true | _ => false)
def bellCode : BellState → Nat | .off => 0 | .lock => 1 | .check => 2 | .measure => 3 | .joined => 4
/-- *Bell status word* (R313). -/
def bellWord (b : Bell) : Nat := at' b.addr 58 + at' b.master 52 + at' (bellCode b.state) 49 + at' (b.loop % 2 ^ 25) 24

/-! ### Frames (R293, R296) -/

def ftyp (ws : List W64) : Nat := fld (ws.getD 0 0) 63 60
def fsrc (ws : List W64) : Nat := fld (ws.getD 0 0) 59 54
def fcm (ws : List W64) : Bool := bit (ws.getD 0 0) 53
def ftag (ws : List W64) : W16 := BitVec.ofNat 16 (fld (ws.getD 0 0) 47 32)
def fcount (ws : List W64) : Nat := fld (ws.getD 0 0) 31 0 + at' (fld (ws.getD 7 0) 31 0) 32
def fbody (ws : List W64) (n : Nat) : Nat := (ws.getD n 0).toNat
/-- The MAC of a frame: the first 8 bytes of the GMAC over bytes 0 to 47. -/
def bellMac (key : BitVec 128) (tag : W16) (src cnt : Nat) (ws : List W64) : Nat :=
  let iv := leBytes 2 tag.toNat ++ [byte src, byte 0] ++ leBytes 8 cnt
  let t := (beBytes 16 (gmac (leBytes 16 key.toNat) iv (wordsBytes (ws.take 6))).toNat).take 8
  leNat (t.map byte)
/-- The CRC over bytes 0 to 59. -/
def bellCrc (ws : List W64) : Nat := (crc32c ((wordsBytes (ws.take 8)).take 60)).toNat
/-- The eight words of a frame. -/
def bellFrame (b : Bell) (key : Option (BitVec 128)) (typ : Nat) (tag : W16) (cnt : Nat) (body : List W64) : List W64 :=
  let w0 := w64 (at' typ 60 + at' b.addr 54 + at' (b2n b.isMaster) 53 + at' tag.toNat 32 + cnt % 2 ^ 32)
  let head := w0 :: (body ++ List.replicate (5 - body.length) 0)
  let mac := match key with | some k => bellMac k tag b.addr cnt head | none => 0
  let lo := cnt / 2 ^ 32 % 2 ^ 32
  let ws := head ++ [w64 mac, w64 lo]
  head ++ [w64 mac, w64 (at' (bellCrc ws) 32 + lo)]
/-- A queued frame as it goes out: a TICK frame takes the master's time and parameters at its sending (R303). -/
def sendQueued (s : State) (q : BellQ) : State × List W64 :=
  let k := claim s q.claim
  let typ := ftyp q.words
  let body := if typ = 2 then [w64 s.time, w64 (at' k.period 48 + k.originNum), w64 k.origin, w64 s.bell.loop] else q.words.drop 1
  let cnt := k.fcnt + 1
  (setClaim s q.claim { k with fcnt := cnt }, bellFrame s.bell (some k.key) typ k.ctag cnt body)
def presenceFrame (b : Bell) : List W64 := bellFrame b none 0 0 0 [w64 b.loop]

/-! ### Barrier tokens (R311) -/

def heardMask (p : PSet) (phase : Nat) : Nat :=
  ((p.tokens.filter fun t => t.1 / 64 == phase).map fun t => 2 ^ (t.1 % 64)).foldl (· + ·) 0
/-- Every rank's token is held, the own one too, and says that this device's own has been heard. -/
def barSettled (s : State) (k : Claim) (p : PSet) (phase : Nat) : Bool :=
  (setRanks k p).all fun r => p.tokens.any fun t => t.1 == rankBell k p r + 64 * phase && t.2.toNat.testBit s.bell.addr
/-- A token for every barrier reached and not settled, once in each bell cycle. -/
def queueTokens (s : State) : State :=
  (List.range 8).foldl (fun s c =>
    match (claim s c).pset with
    | none => s
    | some p => (List.range 3).foldl (fun s ph =>
        let w1 := at' p.issue 32 + at' p.group 2 + ph
        let old := s.bell.queue.any fun q => q.claim == c && ftyp q.words == 3 && fbody q.words 1 == w1
        if barReached s c p ph && !barSettled s (claim s c) p ph && !old then queueBell s c 3 prBarrier [w1, heardMask p ph] else s) s) s

/-! ### Slots (R292, R294, R298, R299) -/

/-- Queued frames but the one whose echo from a contention slot is awaited. -/
def readyFrames (b : Bell) : List BellQ := match b.flying with | some q => b.queue.erase q | none => b.queue
/-- The own slot of a joined device: the first queued frame, or PRESENCE. -/
def ownSlot (s : State) : State :=
  let s := queueTokens s
  match readyFrames s.bell with
  | q :: _ =>
    let r := sendQueued s q
    modBell r.1 fun b => { b with queue := b.queue.erase q, sent := r.2 }
  | [] => modBell s fun b => { b with sent := presenceFrame b }
/-- Slots to skip before a further attempt: drawn from 0 to 2^min(n + 1, 10) - 1. -/
def backoff (s : State) (hits : Nat) : Nat × State := let (v, s) := draw s; (v.toNat % 2 ^ min (hits + 1) 10, s)
/-- The first of a frame in the queue replaced, in its place. -/
def putFrame (q x : BellQ) : List BellQ → List BellQ
  | [] => []
  | y :: ys => if y = q then x :: ys else y :: putFrame q x ys
/-- A frame goes out in a contention slot; it keeps its place in the queue until its echo comes (R294). -/
def sendContention (s : State) (q : BellQ) : State :=
  let r := sendQueued s q
  modBell r.1 fun b => { b with queue := putFrame q { q with skip := 0 } b.queue, flying := some { q with skip := 0 }, away := r.2 }
/-- A contention slot: the second queued frame goes once its slots have been skipped. -/
def contentionSlot (s : State) : State :=
  match s.bell.queue, s.bell.flying with
  | _ :: q :: _, none =>
    let put := fun (s : State) n => modBell s fun b => { b with queue := putFrame q { q with skip := n } b.queue }
    if q.skip = 0 then
      let (k, s) := backoff s q.hits
      if k = 0 then sendContention s q else put s k
    else if q.skip = 1 then sendContention s q
    else put s (q.skip - 1)
  | _, _ => s
/-- The end of BELL_JOIN without success. -/
def joinFails (s : State) (status : Nat) : State :=
  let c := s.bell.cmd
  replyTo (modBell s fun b => { b with state := .off, cmd := none, samples := [], cycles := 0, isMaster := false, leaving := false }) c status 0 0
/-- The bell goes off at a BELL_LEAVE. A BELL_JOIN still under way ends with BELL_BUSY (DESIGN CHOICE, log 38). -/
def leaveBell (s : State) : State :=
  joinFails (modBell s fun b => { b with queue := [], flying := none, seen := [], next := none, heard := false, quiet := 0 }) stBellBusy
/-- One bell cycle more in which an address that was heard may have been silent (R300). -/
def ageSeen (s : State) : State := modBell s fun b => { b with seen := b.seen.foldl (fun t e => Tab.set 0 t e.1 (e.2 - 1)) [] }
/-- One bell cycle more since the last TICK frame of each claim (R303). -/
def countTicks (s : State) : State :=
  (List.range 8).foldl (fun s c =>
    let k := claim s c
    if k.live then setClaim s c { k with tickCyc := min 32 (k.tickCyc + 1) } else s) s
/-- The end of a bell cycle. -/
def cycleEnd (s : State) : State :=
  let s := ageSeen (countTicks s)
  let b := s.bell
  if b.leaving then leaveBell s
  else match b.state with
  | .lock =>
    if b.cycles = 0 then s
    else if b.cycles = 16 then modBell s fun b => { b with state := .check, cycles := 0, busy := false }
    else modBell s fun b => { b with cycles := b.cycles + 1 }
  | .check =>
    if b.busy then joinFails s stBellAddrBusy
    else if b.cycles = 15 then modBell s fun b => { b with state := .measure, cycles := 0, samples := [], spreads := 0 }
    else modBell s fun b => { b with cycles := b.cycles + 1 }
  | .joined => modBell s fun b => { b with heard := false, quiet := if b.heard then 0 else b.quiet + 1 }
  | _ => s
/-- BELL_SLOT: a slot of the bell cycle comes round. The slots follow one another, 0 to 79; once the timing is known another
slot than the next one does not come (R290). -/
def bellSlotStep (s : State) (slot : Nat) : State :=
  let b := s.bell
  if !bellRuns s || b.state == .off || b.next.any (· != slot) then s else
  let s := modBell s fun b => { b with next := some ((slot + 1) % 80) }
  let s := match b.state with
    | .joined => if slot = b.addr then ownSlot s else if 64 ≤ slot then contentionSlot s else s
    | .measure =>
      if b.samples.length < 8 then
        (if slot = 64 then modBell s fun b => { b with sentAt := s.time, sent := bellFrame b none 1 0 0 [w64 s.time] } else s)
      else if slot = b.addr then modBell s fun b => { b with sent := presenceFrame b } else s
    | _ => s
  if slot = 79 then cycleEnd s else s
def execBellSlot (slot : Fin 80) (s : State) : Res := .next (bellSlotStep s slot)
def lockStep (s : State) : State :=
  if s.bell.state == .lock && s.bell.cycles == 0 && bellRuns s then modBell s fun b => { b with cycles := 1 } else s
def execBellReceiverLock (s : State) : Res := .next (lockStep s)
/-- BELL_NO_SIGNAL: the device becomes cycle master and measures its loop in an empty star. -/
def noSignalStep (s : State) : State :=
  if s.bell.state == .lock && s.bell.cycles == 0 && bellRuns s then
    modBell s fun b => { b with state := .measure, isMaster := true, master := b.addr, samples := [], spreads := 0 }
  else s
def execBellNoSignal (s : State) : Res := .next (noSignalStep s)

/-! ### Reception (R295, R300) -/

/-- Bell cycles for which a device counts as joined after a burst in its slot: like the cycle master's (R300), its slot may stay
empty for 8. -/
def seenCycles : Nat := 9
/-- A burst in the named slot while it is checked makes it busy; one in the cycle master's slot shows that it is not empty, and one
in the slot of a device that was heard that it is still there. -/
def noteBusy (s : State) (slot : Nat) : State :=
  let s := if Tab.get 0 s.bell.seen slot != 0 then modBell s fun b => { b with seen := Tab.set 0 b.seen slot seenCycles } else s
  let s := if slot == s.bell.master then modBell s fun b => { b with heard := true } else s
  if s.bell.state == .check && slot == s.bell.addr then modBell s fun b => { b with busy := true } else s
/-- A burst that fails FEC or CRC. -/
def badBurst (s : State) (slot : Nat) (fecOk : Bool) : State :=
  bumpBell s (if 64 ≤ slot then bcCollision else if fecOk then bcCrc else bcFec)
def rxGood (rx : BellRx) : Bool := bellFec rx && rx.words.length == 8 && fld (rx.words.getD 7 0) 63 32 == bellCrc rx.words
/-- An intact echo of the device's own frame. A device that joins below the cycle master's address is the cycle master (R292). -/
def ownEcho (s : State) (rx : BellRx) : State :=
  if 64 ≤ rx.slot then modBell s fun b => { b with queue := readyFrames b, flying := none, away := [] } else
  let s := modBell s fun b => { b with bad := 0 }
  if s.bell.state != .measure || s.bell.samples.length < 8 then s
  else if s.bell.cycles = 3 then
    let c := s.bell.cmd
    let first := s.bell.isMaster || decide (s.bell.addr < s.bell.master)
    replyTo (modBell s fun b => { b with state := .joined, cycles := 0, cmd := none
                                         isMaster := first, master := if first then b.addr else b.master
                                         heard := false, quiet := 0 }) c stOk 0 0
  else modBell s fun b => { b with cycles := b.cycles + 1 }
/-- What an accepted frame of another device tells: its address, and the cycle master (R300). -/
def noteFrame (s : State) (rx : BellRx) : State :=
  let src := fsrc rx.words
  let s := if rx.slot = src then modBell s fun b => { b with seen := Tab.set 0 b.seen src seenCycles } else s
  if !fcm rx.words then s
  else if s.bell.isMaster && decide (src < s.bell.addr) then
    modBell s fun b => { b with isMaster := false, master := src, state := .lock, cycles := 1, samples := [], next := none }
  else if s.bell.isMaster then s else modBell s fun b => { b with master := src }
/-- A token held: the latest of each sender, by barrier (R311). The wait of the set's members up to now counts (R252). -/
def takeBarrier (s : State) (c src : Nat) (ws : List W64) : State :=
  let s := waitSet s c
  let k := claim s c
  let b := fbody ws
  match k.pset with
  | some p =>
    let ph := bits (b 1) 1 0
    if bits (b 1) 63 32 ≠ p.issue ∨ bits (b 1) 7 2 ≠ p.group ∨ ph = 3 then s
    else
      let key := src + 64 * ph
      setClaim s c { k with pset := some { p with tokens := p.tokens.filter (fun t => t.1 != key) ++ [(key, ws.getD 2 0)] } }
  | none => s
/-- The echo of an own claim frame: its counter is the last accepted from the own address (R296), and an own token is held too
(R311). -/
def ownToken (s : State) (rx : BellRx) : State :=
  match tagClaim s (ftag rx.words) with
  | some c =>
    let s := setClaim s c { claim s c with fseen := Tab.set 0 (claim s c).fseen (fsrc rx.words) (fcount rx.words) }
    if ftyp rx.words = 3 then takeBarrier s c (fsrc rx.words) rx.words else s
  | none => s
/-- A frame is the intact echo of the one that the device sent: word for word the last of its own slot, or of a contention slot. -/
def isEcho (b : Bell) (rx : BellRx) : Bool :=
  (b.state == .joined || b.state == .measure) && rx.words == (if 64 ≤ rx.slot then b.away else b.sent)
/-- The checks of R295 on a frame of a type, and what it then does: an echo of the device's own frame is taken as such, and
`take` says what any other frame does. -/
def onBell (s : State) (typ : Nat) (rx : BellRx) (take : State → Nat → Nat → State) : State :=
  if !bellRuns s || s.bell.state == .off then s else
  let s := noteBusy s rx.slot
  if !rxGood rx then badBurst s rx.slot (bellFec rx)
  else if ftyp rx.words ≠ typ then s
  else
    let src := fsrc rx.words
    let tag := ftag rx.words
    if isEcho s.bell rx then ownToken (ownEcho s rx) rx
    else match tagClaim s tag with
      | none =>
        if tag ≠ 0 then bumpBell s bcStranger
        else if typ ≤ 1 then take (noteFrame s rx) 0 src
        else bumpBell s bcAuth
      | some c =>
        if typ ≤ 1 then take (noteFrame s rx) c src else
        let k := claim s c
        let cnt := fcount rx.words
        if cnt ≤ Tab.get 0 k.fseen src || (rx.words.getD 6 0).toNat ≠ bellMac k.key tag src cnt rx.words then bumpBell s bcAuth
        else take (setClaim (noteFrame s rx) c { k with fseen := Tab.set 0 k.fseen src cnt }) c src
def execPresence (rx : BellRx) (s : State) : Res := .next (onBell s 0 rx fun s _ _ => s)
/-- One sample of the loop delay; eight give the mean, unless they spread over more than 1 ns (R299). -/
def takeSample (s : State) (d : Nat) : State :=
  let b := s.bell
  let l := b.samples ++ [d]
  if l.length < 8 then modBell s fun b => { b with samples := l }
  else if 1 < l.foldl max 0 - l.foldl min d then
    if b.spreads + 1 = 4 then joinFails s stBellLoopUnstable
    else modBell s fun b => { b with samples := [], spreads := b.spreads + 1 }
  else modBell s fun b => { b with samples := l, loop := 64 * l.foldl (· + ·) 0 / 8, cycles := 0 }
/-- JOIN: the echo of the device's own JOIN frame is a sample. -/
def joinStep (s : State) (rx : BellRx) : State :=
  let b := s.bell
  let mine := rxGood rx && rx.words == b.sent && ftyp rx.words == 1
  if bellRuns s && b.state == .measure && mine && decide (b.samples.length < 8) then takeSample s (s.time - fbody rx.words 1)
  else onBell s 1 rx fun s _ _ => s
def execJoin (rx : BellRx) (s : State) : Res := .next (joinStep s rx)
/-- COLLISION: a burst fails FEC or CRC; the echo of the own contention frame backs off, or is dropped after 16. -/
def collisionStep (s : State) (rx : BellRx) (own : Bool) : State :=
  if !bellRuns s || s.bell.state == .off || rxGood rx then s else
  let s := badBurst (noteBusy s rx.slot) rx.slot (bellFec rx)
  if !own then s
  else if 64 ≤ rx.slot then
    match s.bell.flying with
    | none => s
    | some q =>
      if q.hits + 1 = 16 then bumpBell (modBell s fun b => { b with queue := readyFrames b, flying := none }) bcBurst
      else modBell s fun b => { b with flying := none, queue := putFrame q { q with hits := q.hits + 1, skip := 0 } b.queue }
  else modBell s fun b => { b with bad := b.bad + 1, cycles := if b.state = .measure then 0 else b.cycles }
def execCollision (rx : BellRx) (own : Bool) (s : State) : Res := .next (collisionStep s rx own)
def conflictStep (s : State) : State :=
  if s.bell.state == .joined && decide (4 ≤ s.bell.bad) && bellRuns s then
    postEvent (bumpBell (modBell s fun b => { b with bad := 0 }) bcConflict) none 0x0101 [1, bellWord s.bell]
  else s
def execAddrConflict (s : State) : Res := .next (conflictStep s)
/-- CYCLE_MASTER_TAKEOVER: the cycle master's slot has stayed empty for 8 bell cycles, and the joined device with the next
lowest address becomes cycle master. -/
def takeoverStep (s : State) : State :=
  let b := s.bell
  if b.state != .joined || b.isMaster || decide (b.quiet < 8) || !bellRuns s then s else
  let others := b.seen.filter fun e => e.1 != b.master
  let next := (others.map Prod.fst ++ [b.addr]).foldl min 63
  modBell s fun b => { b with seen := others, master := next, isMaster := next == b.addr, heard := false, quiet := 0 }
def execCycleMasterTakeover (s : State) : Res := .next (takeoverStep s)

/-! ### Claim time (R302 to R306, R332) -/

/-- Number of the last boundary at or before a claim time, if there is one. -/
def lastBoundary (k : Claim) (t : Int) : Option Nat :=
  let n : Int := (k.originNum : Int) + (t - 64 * (k.origin : Int)) / (64000 * (k.period : Int))
  if 0 ≤ n then some n.toNat else none
/-- A member's target, and its offset or slew (R304). -/
def takeTime (k : Claim) (now master loops : Nat) : Claim :=
  let err : Int := 64 * (master : Int) + ((loops / 2 : Nat) : Int) - claimTime k now
  if k.ticking then { k with offset := offsetAt k now, slew := err, slewAt := now }
  else { k with offset := offsetAt k now + err, slew := 0, slewAt := now }
/-- A member takes the master's parameters: at once with its first frame, else at boundary TAKE_AT. -/
def takeParams (k : Claim) (now period num origin : Nat) : Claim :=
  if k.period = period ∧ k.originNum = num ∧ k.origin = origin then k
  else
    let j := { k with period := period, originNum := num, origin := origin }
    if k.tickSeen && decide (k.tick < num) then { j with tickPend := some (k.period, k.origin, k.originNum, num) }
    else match lastBoundary { j with tickPend := none } (claimTime j now) with
      | some n => { j with tickPend := none, tick := n, ticking := true }
      | none => { j with tickPend := none, tick := 0, ticking := false }
def takeTick (s : State) (c src : Nat) (ws : List W64) : State :=
  let k := claim s c
  if isTickMaster s k || src ≠ k.master then s else
  let b := fbody ws
  let k := takeTime k s.time (b 1) (bits (b 4) 31 0 + s.bell.loop)
  let k := takeParams k s.time (bits (b 2) 63 48) (bits (b 2) 47 0) (b 3)
  setClaim s c { k with tickSeen := true, tickAt := s.time, tickLost := false }
def execTick (rx : BellRx) (s : State) : Res := .next (onBell s 2 rx fun s c src => takeTick s c src rx.words)
/-- TICK_FRAME_SEND: 32 bell cycles have passed since the last TICK frame. -/
def tickSendStep (s : State) (c : Nat) : State :=
  if bellRuns s && decide (32 ≤ (claim s c).tickCyc) then queueTick s c else s
def execTickFrameSend (c : Fin 8) (s : State) : Res := .next (tickSendStep s c)
/-- TICK_MASTER_LOST: no TICK frame accepted for 2,048 bell cycles. -/
def lostStep (s : State) (c : Nat) : State :=
  let k := claim s c
  if !inService k || isTickMaster s k || k.tickLost || !timeRuns s then s else
  let s := advanceTo s (k.tickAt + cyclesNs 2048)
  postEvent (setClaim s c { k with tickLost := true }) (some c) 0x0009 [k.tick]
def execTickMasterLost (c : Fin 8) (s : State) : Res := .next (lostStep s c)

/-! ### Barriers, lag, gossip, replicas (R307 to R312) -/

def execBarrier (rx : BellRx) (s : State) : Res := .next (onBell s 3 rx fun s c src => takeBarrier s c src rx.words)
/-- LAG: the event, and the limit that SYMPATHY sets or ends. -/
def takeLag (s : State) (c src : Nat) (ws : List W64) : State :=
  let b := fbody ws
  let s := postEvent s (some c) 0x000A [src, b 1, b 2]
  let e := bits (b 2) 31 0
  if !(claim s c).sympathy && e != 0 then s else
  let rest := s.winder.symp.filter fun x => !(x.claim == c && x.src == src)
  let mine : Sympathy :=
    { claim := c, src := src, op := bits (b 1) 12 8, ends := if e = 0xFFFFFFFF then none else some (s.time + 1000 * e), heard := s.time }
  { s with winder := { s.winder with symp := if e = 0 then rest else rest ++ [mine] } }
def execLag (rx : BellRx) (s : State) : Res := .next (onBell s 4 rx fun s c src => takeLag s c src rx.words)
/-- SYMPATHY_EXPIRE: EXPECT has elapsed, or no repeat came within 2,048 bell cycles. -/
def expireStep (s : State) (c src : Nat) : State :=
  match s.winder.symp.find? fun x => x.claim == c && x.src == src with
  | none => s
  | some x =>
    if !timeRuns s then s else
    let due := match x.ends with | some t => min t (x.heard + cyclesNs 2048) | none => x.heard + cyclesNs 2048
    let s := advanceTo s due
    { s with winder := { s.winder with symp := s.winder.symp.erase x } }
def execSympathyExpire (c : Fin 8) (src : Fin 64) (s : State) : Res := .next (expireStep s c src)
/-- GOSSIP: compared with the own digest of the round. -/
def takeGossip (s : State) (c src : Nat) (ws : List W64) : State :=
  let k := claim s c
  let b := fbody ws
  let n := bits (b 1) 47 0
  match k.digests.find? fun d => d.1 == n with
  | none => bumpBell s bcStale
  | some d =>
    let last := match k.digests.getLast? with | some x => x.1 == n | none => false
    let s := if last && !k.gossip.contains src then setClaim s c { k with gossip := k.gossip ++ [src] } else s
    let own := d.2.1.toNat % 2 ^ 64
    if d.2.2 || (b 3).testBit 0 || own == b 2 then s
    else postEvent s (some c) 0x000B [n + at' src 48, own, b 2]
def execGossip (rx : BellRx) (s : State) : Res := .next (onBell s 5 rx fun s c src => takeGossip s c src rx.words)
/-- One assay hears a prefix: device, range and prefix. -/
def hearReplica (c : Nat) (h : Nat × Nat × W64) (s : State) (a : Assay) : State :=
  if a.heard.any fun x => x.1 == h.1 && x.2.1 == h.2.1 then s else
  let s := setAssay s c { a with heard := a.heard ++ [h] }
  if heardWrong a h then mismatchEvent s c a.id h.2.1 h.1 false else s
/-- REPLICA: a prefix of a range, for every assay of that id with COMPARE = 1 (log 39), compared once the own digest is known. -/
def takeReplica (s : State) (c src : Nat) (ws : List W64) : State :=
  let b := fbody ws
  match (claim s c).members.find? fun m => m.1 == src with
  | some m => ((claim s c).assays.filter fun a => a.id == w32 (bits (b 1) 63 32) && a.compare == 1).foldl
      (hearReplica c (m.2, bits (b 1) 31 0, w64 (b 2))) s
  | none => s
def execReplica (rx : BellRx) (s : State) : Res := .next (onBell s 6 rx fun s c src => takeReplica s c src rx.words)

/-! ### Lag notices sent (R307, R404) -/

def lagBody (s : State) (c start expect : Nat) : List Nat :=
  let w := s.winder
  [at' w.dutyC 13 + at' w.op 8 + allReasons w, expect, (claimTime (claim s c) start / 64).toNat]
/-- LAG_NOTICE_SEND: the first notice of an episode, its repeat, or its end. -/
def lagStep (s : State) (c : Nat) (expect : Nat) : State :=
  let k := claim s c
  if !inService k || k.members.length < 2 || s.bell.state != .joined || !bellRuns s || !timeRuns s then s else
  let put := fun (s : State) e => setClaim s c { claim s c with lag := e }
  let now := lagReasons s.winder
  let e := if expect = 0 then 0xFFFFFFFF else expect
  match k.lag with
  | none =>
    if now.isEmpty then s else
    let start := (now.map fun n => (reason s.winder n).start).foldl min (2 ^ 64)
    let s := advanceTo s (start + cyclesNs 32)
    queueBell (put s (some { start := start, last := s.time })) c 4 prLag (lagBody s c start e)
  | some l =>
    if now.isEmpty then queueBell (put s none) c 4 prLag (lagBody s c l.start 0)
    else
      let s := advanceTo s (l.last + cyclesNs 1024)
      queueBell (put s (some { l with last := s.time })) c 4 prLag (lagBody s c l.start e)
def execLagNoticeSend (c : Fin 8) (expect : W32) (s : State) : Res := .next (lagStep s c expect.toNat)

end Sys2Proof.Machine
end

