-- ==== Sys2Proof/Machine/Lervo.lean ====
section
/-!
DEFINITION. The command processor (R354 to R376, R509, R511): which ring it serves next, the consumption of
one packet with the checks of R360, and the shape that every Lervo command's meaning has.
-/
namespace Sys2Proof.Machine
open Sys2Proof

/-! ### Which ring is served next (R363, R364, R366) -/

/-- The command processor consumes packets: firmware-ready, in S0, with no entry to a power state under way. -/
def cmdsRun (s : State) : Bool := running s && s.boot.stage == .ready && s.entry.isNone
/-- Host address of the packet at SQ_HEAD. -/
def packetAt (x : Ring) : Nat := x.w0.toNat / 4096 * 4096 + 64 * x.sqHead
/-- A ring has a packet that may be consumed. A packet that cannot be read is taken up, for its failure. -/
def ringReady (s : State) (x : Ring) : Bool :=
  ringState x == 2 && x.sqHead != x.sqTail && decide (cqUsed x + x.out.length < cqSize x - 1) &&
  !(hostOk s (packetAt x) 64 && bit (hostWord s (packetAt x)) 51 && !x.out.isEmpty)
/-- The ring served next: management rings first, in order of number, then the others in turn. -/
def nextRing (s : State) : Option Nat :=
  let all := List.range 256
  let ready := fun n => let x := ring s n; ringReady s x
  match all.find? fun n => (ring s n).cls == .management && ready n with
  | some n => some n
  | none => ((all.drop (s.turnRing + 1)) ++ all.take (s.turnRing + 1)).find? fun n => (ring s n).cls != .management && ready n

/-! ### The checks of R360 -/

/-- A consumed packet: its ring, the claim of that ring, its SEQ, its words, and its consumption stamp. -/
structure Call where
  r     : Nat
  c     : Nat
  seq   : W32
  ws    : List W64
  stamp : Nat
deriving DecidableEq, Repr
/-- A field of a packet's word. -/
def par (k : Call) (n hi lo : Nat) : Nat := fld (k.ws.getD n 0) hi lo
def callCmd (k : Call) : Option (Nat × W32) := some (k.r, k.seq)
/-- Bits hi to lo of a word, as a mask. -/
def span (hi lo : Nat) : Nat := (2 ^ (hi + 1 - lo) - 1) <<< lo
/-- A whole word, and a claim address in bits [47:0] (R374). -/
def whole : Nat := 2 ^ 64 - 1
def vaBits : Nat := span 47 0
/-- *Class privileges*, with the two exceptions of R355. -/
def classOk (cls : RingClass) (op : Nat) : Bool :=
  let g := op / 256
  op == 1 || match cls with
  | .management => g == 0 || g == 8 || g == 9 || g == 10
  | .claim => op == 2 || g == 1 || g == 2 || g == 4 || g == 7
  | .serving => g == 2 || g == 3 || g == 4
  | .training => g == 5 || g == 6 || g == 7
/-- A non-zero bit outside the fields that the command's row names (R12, R358, R374). -/
def reservedSet (ws : List W64) (used : List Nat) : Bool :=
  ws.zipIdx.any fun p =>
    let m := if p.2 = 0 then whole - span 49 48 - span 39 32 else used.getD (p.2 - 1) 0
    p.1.toNat &&& m != p.1.toNat
/-- A ring whose claim is gone or out of service (R379, R470). -/
def noClaim (s : State) (x : Ring) (op : Nat) : Bool :=
  x.cls != .management && (x.orphan || !(claim s x.claim).live || (!inService (claim s x.claim) && op != 1))
/-- The checks of R360 after SEQ, in order, and then NO_CLAIM (R509): 0, or the status of the first that fails. -/
def gate (s : State) (r : Nat) (x : Ring) (ws : List W64) (used : List Nat) : Nat :=
  let w0 := ws.getD 0 0
  let op := fld w0 63 52
  if fld w0 47 40 ≠ r then stBadEncoding
  else if !classOk x.cls op then stClassDenied
  else if reservedSet ws used then stReservedField
  else if noClaim s x op then stNoClaim
  else 0

/-! ### Consumption -/

/-- The outcome of an opcode's own work: done with a reply, or accepted with the reply deferred (R365). -/
inductive Ans | done (s : State) (status r0 r1 : Nat) | wait (s : State)
def okay (s : State) : Ans := .done s stOk 0 0
def refuse (s : State) (status : Nat) : Ans := .done s status 0 0
/-- The shadow block after a packet whose reply comes later (R362). -/
def putShadow (s : State) (r : Nat) : State :=
  let x := ring s r
  let sh := x.w2.toNat / 64 * 64
  if x.err = 4 then s
  else if hostOk s sh 64 then hostWrite s sh (ringShadow x)
  else logHost (setRing s r { x with err := 4 }) (ringHolder s r) none 0
/-- The last edge of `aon` at or before device time. -/
def lastEdge (s : State) : Nat := s.time / 40 * 40
/-- Headframe cycles since the last edge at the stamp of the packet consumed now: those elapsed, and as many more as it takes for
its stamp to differ from the last packet's (R363; DESIGN CHOICE, log 11: the fewest). -/
def nextElapsed (s : State) : Nat :=
  max s.elapsed (max (cyclesAt s.time) (match s.stamp with | some t => ceilDiv (3 * (t + 1 - lastEdge s)) 2 | none => 0))
/-- Stamp of the packet consumed now: the last edge, and 2/3 ns for each elapsed headframe cycle, rounded down (R329). -/
def nextStamp (s : State) : Nat := lastEdge s + 2 * nextElapsed s / 3
/-- Device time at the consumption of a packet. -/
def stamped (s : State) : State := { s with time := nextStamp s, elapsed := nextElapsed s, stamp := some (nextStamp s) }
/-- The packet at SQ_HEAD leaves its ring. -/
def takePacket (s : State) (r : Nat) : State :=
  let x := ring s r
  let s := setRing s r { x with sqHead := (x.sqHead + 1) % sqSize x }
  { stamped s with turnRing := if x.cls = .management then s.turnRing else r }
/-- A packet consumed: SEQ, the other checks of R360, then the opcode's own work and its reply. -/
def runPacket (s : State) (r : Nat) (ws : List W64) (used : List Nat) (body : Call → State → Ans) : State :=
  let w0 := ws.getD 0 0
  let q := w32 w0.toNat
  let s := takePacket s r
  let cmd : Cmd := { seq := q, opcode := fld w0 63 52, quiet := bit w0 50, time := s.time }
  let x := ring s r
  if q ≠ x.last + 1 then sendReply s r cmd stBadSeq 0 0
  else
    let s := setRing s r { x with last := q, out := x.out ++ [cmd] }
    let bad := gate s r x ws used
    if bad ≠ 0 then reply s r q bad 0 0 else
    match body { r := r, c := x.claim, seq := q, ws := ws, stamp := s.time } s with
    | .done s st a b => reply s r q st a b
    | .wait s => putShadow s r
/-- Ring r consumes its next packet, if it is the ring served next and the packet's opcode is one of those
named. A packet that cannot be read puts the ring in STATE 3 with ERR 0x4 (R357, R448). -/
def serveRing (s : State) (r : Nat) (ops : Nat → Bool) (used : List Nat) (body : Call → State → Ans) : State :=
  if !cmdsRun s ∨ nextRing s ≠ some r then s else
  let a := packetAt (ring s r)
  if !hostOk s a 64 then logHost (setRing s r { ring s r with err := 4 }) (ringHolder s r) none 0
  else
    let ws := bytesWords (hostRead s a 64)
    if ops (fld (ws.getD 0 0) 63 52) then runPacket s r ws used body else s
/-- A command of one opcode; `used` are the bits of w1, w2, … that its row names (R374). -/
def lervo (s : State) (r : Nat) (op : Nat) (used : List Nat) (body : Call → State → Ans) : State :=
  serveRing s r (· == op) used body

/-! ### What a command reads and writes (R375, R511) -/

/-- Host bytes read by a command. -/
def readHost (s : State) (k : Call) (a n : Nat) (f : List Byte → Ans) : Ans :=
  if n = 0 ∨ hostOk s a n then f (hostRead s a n) else refuse (logHost s (ringHolder s k.r) (callCmd k) stHostAccessFail) stHostAccessFail
/-- Host bytes written by a command. -/
def putHost (s : State) (k : Call) (a : Nat) (bs : List Byte) (f : State → Ans) : Ans :=
  if bs.isEmpty ∨ hostOk s a bs.length then f (hostWrite s a bs)
  else refuse (logHost s (ringHolder s k.r) (callCmd k) stHostAccessFail) stHostAccessFail
/-- A failed check of an access to claim memory by a command: a wrong tag is claim-fatal (R345). -/
def badReach (s : State) (c status : Nat) : Ans :=
  refuse (if status = stOwnerFault then ownerFault s c 0x0B 0 else s) status
/-- Claim bytes read by a command: poison, a marked leaf, an absent object and a page that is not in T1 refuse it. -/
def readClaim (s : State) (c va n : Nat) (f : State → List Byte → Ans) : Ans :=
  match access (claim s c) (.request none) va n with
  | .ok =>
    match goodBytes s c va n with
    | .ok bs => f (noteVa s c va n) bs
    | .bad x => refuse (noteVa s c va n) x
    | .absent _ => refuse s stNotResident
  | .bad x => badReach s c x
  | .absent _ => refuse s stNotResident
def readClaimWords (s : State) (c va n : Nat) (f : State → List W64 → Ans) : Ans :=
  readClaim s c va (8 * n) fun s bs => f s (bytesWords bs)
/-- What the words of structures do as a command reads them (R174, R175), where its checks get as far as that. -/
def noted {α : Type} (x : Got α) (note : State → State) (s : State) : State :=
  match x with | .ok _ => note s | .bad n => if n = stPoisonRead ∨ n = stWeightPoisoned then note s else s | .absent _ => s
/-- The outcome of a read by a command's acceptance checks. -/
def gotAns {α : Type} (s : State) (c : Nat) (x : Got α) (f : α → Ans) : Ans :=
  match x with | .ok a => f a | .bad n => badReach s c n | .absent _ => refuse s stNotResident
/-- Claim bytes written by a command. -/
def putClaim (s : State) (c va : Nat) (bs : List Byte) (f : State → Ans) : Ans :=
  match access (claim s c) (.request none) va bs.length with
  | .ok => f (vaStore s c va bs)
  | .bad x => badReach s c x
  | .absent _ => refuse s stNotResident

/-! ### Opcodes that no table lists (R373) -/

def opRange (hi lo : Nat) : List Nat := (List.range (hi + 1 - lo)).map (lo + ·)
/-- The opcodes of "Command Reference". -/
def lervoOps : List Nat :=
  opRange 0x004 0x001 ++ opRange 0x013 0x010 ++ opRange 0x022 0x020 ++ opRange 0x035 0x030 ++ opRange 0x043 0x040 ++
  opRange 0x10B 0x101 ++ opRange 0x206 0x201 ++ opRange 0x307 0x301 ++ opRange 0x406 0x401 ++ opRange 0x506 0x501 ++
  opRange 0x602 0x601 ++ opRange 0x704 0x701 ++ opRange 0x808 0x801 ++ opRange 0x903 0x901 ++ [0xA01]
/-- RESERVED_OPCODE: CLASS_DENIED outside the ring's groups, else RESERVED_FIELD. -/
def reservedOpStep (s : State) (r : Nat) : State :=
  serveRing s r (fun n => !lervoOps.contains n) (List.replicate 7 whole) fun _ s => refuse s stReservedField
def execReservedOpcode (r : Fin 256) (s : State) : Res := .next (reservedOpStep s r)

end Sys2Proof.Machine
end

