-- ==== Sys2Proof/Machine/Muster.lean ====
section
/-!
DEFINITION. The ring commands of the management group: MUSTER (R372), OUTQ_SET (R368, R377), RING_GRANT and
RING_REVOKE (R354).
-/
namespace Sys2Proof.Machine
open Sys2Proof

/-! ### The MUSTER summary -/

def shiftCode : Shift → Nat | .generation => 0 | .learning => 1 | .none => 2
def verCode : VerState → Nat | .empty => 0 | .building => 1 | .ready => 2 | .current => 3 | .draining => 4
def classCode : RingClass → Nat | .management => 0 | .claim => 1 | .serving => 2 | .training => 3
def powerCode : Power → Nat | .s0 => 0 | .s1 => 1 | .s2 => 2 | .s3 => 3 | .s4 => 4
/-- Bit c for each claim that exists. -/
def claimMask (s : State) : Nat := ((liveClaims s).map (2 ^ ·)).foldl (· + ·) 0
/-- Words 0 to 3 of the header. -/
def musterHead (s : State) (seq : W32) : List Nat :=
  let b := s.bell
  [at' 1 48 + at' (claimMask s) 40 + at' (powerCode s.power) 36 + seq.toNat, s.time,
   at' s.sump.written 32 + s.sump.head,
   at' s.devAddr 52 + (if b.state = .joined then at' b.addr 46 + at' 1 45 else 0)]
/-- *MUSTER ring entry*. -/
def musterRing (s : State) (r : Nat) : List Nat :=
  let x := ring s r
  [at' x.last.toNat 32 + (watermark x).toNat,
   at' (ringState x) 62 + at' (classCode x.cls) 60 + at' x.claim 57 + at' x.fn 51 + at' x.out.length 34 + at' x.sqHead 18 + at' x.cqTail 2]
/-- Stream slots of a claim in state k. -/
def streamsIn (s : State) (c k : Nat) : Nat :=
  let l := (claimStreams s c).map fun n => streamCode (stream s n).state
  if k = 0 then 1024 * (bitsSet (claim s c).sblk.toNat 128).length - l.length else (l.filter (· == k)).length
/-- *MUSTER claim block*, words 0 to 20. -/
def musterClaim (s : State) (c : Nat) : List Nat :=
  let k := claim s c
  if !k.live then List.replicate 21 0 else
  let count := fun (n w : Nat) => (bitsSet n w).length
  let vs := (List.range 4).map (ver k)
  let dig := k.digests.getLast?
  let d := match dig with | some x => x.2.1.toNat | none => 0
  [at' 1 63 + at' (shiftCode k.shift) 61 + at' (b2n k.turn.isSome) 60 + at' (b2n k.sweep.isSome) 59 + at' (b2n k.pset.isSome) 58
     + at' (b2n k.extended) 57 + at' k.ctag.toNat 32 + k.epoch,
   k.step, at' k.tick 16 + periodAt k k.tick,
   at' k.units.toNat 48 + at' (count k.t1g.toNat 768) 38 + at' (count k.t2g.toNat 2048) 26 + at' (count k.sblk.toNat 128) 18
     + at' (count k.tblk.toNat 128) 10,
   (vs.zipIdx.map fun p => at' p.1.vid (16 * p.2)).foldl (· + ·) 0,
   (vs.zipIdx.map fun p => at' (verCode p.1.state) (3 * p.2)).foldl (· + ·) 0] ++
  ((List.range 5).map fun n => streamsIn s c (2 * n) + at' (streamsIn s c (2 * n + 1)) 32) ++
  ((List.range 5).map fun n => let x := outq s (queueId (n + 1) c); at' x.tail 48 + min x.drops (2 ^ 32 - 1)) ++
  ((List.range 4).map fun n => bits d (64 * n + 63) (64 * n)) ++
  [match dig with | some x => x.1 | none => 0]
/-- Bytes of the words given, filled with zeros to n bytes. -/
def padTo (n : Nat) (ws : List Nat) : List Byte :=
  let bs := wordsBytes (ws.map w64)
  bs ++ List.replicate (n - bs.length) 0
/-- The 16,384 bytes, for a ring of claim `own`, or for a management ring. -/
def musterBytes (s : State) (seq : W32) (own : Option Nat) : List Byte :=
  let shown := fun (n : Nat) => own.isNone || own == some n
  let rings := (List.range 256).map fun r =>
    let x := ring s r
    padTo 16 (if x.cls = .management ∨ shown x.claim then musterRing s r else [])
  let claims := (List.range 8).map fun c => padTo 512 (if shown c then musterClaim s c else [])
  padTo 64 (musterHead s seq) ++ wordsBytes (winderWords s.winder) ++ List.replicate 704 0 ++ rings.flatten ++ claims.flatten
    ++ List.replicate 7168 0
/-- MUSTER: every field at the consumption stamp. -/
def musterStep (s : State) (r : Nat) : State :=
  lervo s r 0x001 [whole] fun k s =>
    let a := par k 1 63 0
    if a % 4096 ≠ 0 then refuse s stBadEncoding else
    putHost s k a (musterBytes s k.seq (if (ring s r).cls = .management then none else some k.c)) okay
def execMuster (r : Fin 256) (s : State) : Res := .next (musterStep s r)

/-! ### Output queues and ring grants -/

/-- OUTQ_SET (R368, R377, R451): the queue belongs to the function of the ring. DESIGN CHOICE (log 34): KIND 6 and 7, which
*Output queue kinds* does not list, are values out of range and give BAD_ENCODING, after the checks of R377. -/
def outqSetStep (s : State) (r : Nat) : State :=
  lervo s r 0x002 [span 39 0, whole, whole] fun k s =>
    let x := ring s r
    let kind := par k 1 2 0
    let base := par k 2 63 0
    let shadow := par k 3 63 0
    if x.cls ≠ .management ∧ (kind = 0 ∨ par k 1 38 36 ≠ k.c) then refuse s stClaimDenied
    else if 5 < kind ∨ 12 < par k 1 6 3 ∨ base % 4096 ≠ 0 ∨ shadow % 64 ≠ 0 ∨ vectors x.fn ≤ par k 1 17 7 then refuse s stBadEncoding
    else
      let q : OutQ := { conf := true, fn := x.fn, base := w64 base, log2 := par k 1 6 3 + 4, shadow := w64 shadow
                        vector := par k 1 17 7, coalN := par k 1 25 18, coalUs := par k 1 35 26 }
      okay (setOutq s (queueId kind (par k 1 38 36)) (if par k 1 39 39 = 1 then q else {}))
def execOutqSet (r : Fin 256) (s : State) : Res := .next (outqSetStep s r)
def classOf : Nat → RingClass | 0 => .management | 1 => .claim | 2 => .serving | _ => .training
/-- A claim to which a ring may be bound. -/
def claimThere (k : Claim) : Bool := k.live && k.creating.isNone && (match k.clearing with | some (_, _, again) => again | none => true)
/-- RING_GRANT (R354, R377). -/
def ringGrantStep (s : State) (r : Nat) : State :=
  lervo s r 0x003 [span 18 0] fun k s =>
    let n := par k 1 7 0
    let cls := classOf (par k 1 9 8)
    let fn := par k 1 15 10
    let c := par k 1 18 16
    if n = 0 ∨ 32 < fn then refuse s stBadEncoding
    else if cls = .management ∧ fn ≠ 0 then refuse s stClassDenied
    else if (ring s n).bound then refuse s stRingBusy
    else if cls ≠ .management ∧ !claimThere (claim s c) then refuse s stNoClaim
    else okay (setRing s n { bound := true, cls := cls, fn := fn, claim := if cls = .management then 0 else c })
def execRingGrant (r : Fin 256) (s : State) : Res := .next (ringGrantStep s r)
/-- RING_REVOKE: only while the ring is disabled (STATE 1) with no command outstanding; an unbound ring is not (R354). -/
def ringRevokeStep (s : State) (r : Nat) : State :=
  lervo s r 0x004 [span 7 0] fun k s =>
    let n := par k 1 7 0
    if n = 0 then refuse s stBadEncoding
    else if ringState (ring s n) ≠ 1 ∨ !(ring s n).out.isEmpty then refuse s stRingBusy
    else okay (setRing s n {})
def execRingRevoke (r : Fin 256) (s : State) : Res := .next (ringRevokeStep s r)

end Sys2Proof.Machine
end

