-- ==== Sys2Proof/Machine/Pages.lean ====
section
/-!
DEFINITION. The end of a page's stay in T1 (R150, R164, R165): write-backs started and frames returned.
-/
namespace Sys2Proof.Machine
open Sys2Proof

/-- A frame back in the claim's free-frame set; hoists that wait for one may take it (R150, R159, R160). -/
def giveFrame (s : State) (c f : Nat) : State := assignHoists (setClaim s c (freeFrame (claim s c) f))
/-- A CLEAN page returns to T2. -/
def toT2 (s : State) (c p : Nat) : State :=
  let k := claim s c
  let e := pte k p
  giveFrame (setClaim s c (setPte k p { e with state := .t2, t1f := 0 })) c e.t1f
/-- A DIRTY page is written back. -/
def startBack (s : State) (c p : Nat) (cmd : Option (Nat × W32)) : State :=
  let k := claim s c
  let e := pte k p
  let h : Hoist := { claim := c, page := p, back := true, near := false, engine := none, frame := some e.t1f
                     bench := none, quarter := none, doomed := false, again := false, cmd := cmd }
  assignHoists { setClaim s c (setPte k p { e with state := .writeback }) with hoists := s.hoists ++ [h] }
/-- A page leaves T1, as an eviction or the end of a near-bank hoist makes it. -/
def dropPage (s : State) (c p : Nat) (cmd : Option (Nat × W32)) : State :=
  match (pte (claim s c) p).state with
  | .clean => toT2 s c p
  | .dirty => startBack s c p cmd
  | _ => s
/-- The end of a near-bank hoist of a page (R165); one still running, or still to follow a write-back, gives its frame
back when it ends. -/
def releaseNear (s : State) (c p : Nat) : State :=
  let mark := fun (h : Hoist) => if h.claim = c ∧ h.page = p ∧ (!h.back || (h.again && h.near)) then { h with release := true } else h
  match (pte (claim s c) p).state with
  | .hoisting => { s with hoists := s.hoists.map mark }
  | .writeback => { s with hoists := s.hoists.map mark }
  | _ => dropPage s c p none
/-- Frame of a page that has one; a hoist that still waits for its frame has none (R156). -/
def frameOf (s : State) (c p : Nat) : Option Nat :=
  let e := pte (claim s c) p
  match e.state with
  | .hoisting => (s.hoists.find? fun h => h.claim == c && h.page == p && !h.back).bind (·.frame)
  | _ => if hasFrame e then some e.t1f else none

end Sys2Proof.Machine
end

