-- ==== Sys2Proof/Machine/Shafts.lean ====
section
/-!
DEFINITION. The shafts (R265 to R286): flit reception with replay, relay and credit, what each flit does, the slots
of a transmitter, claim authentication, bring-up, retraining and failures.
-/
namespace Sys2Proof.Machine
open Sys2Proof

/-- Shafts are lit in S0, S1 and S2 (R412). -/
def linksRun (s : State) : Bool :=
  !s.pins.perst && !s.pins.stopped && (match s.power with | .s0 => true | .s1 => true | .s2 => true | _ => false)
/-- They carry flits other than IDLE, and relay, in S0 and S1 (R414). -/
def linksCarry (s : State) : Bool := match s.power with | .s0 => true | .s1 => true | _ => false
def hdrTag (hdr : W64) : W16 := BitVec.ofNat 16 (fld hdr 47 32)
def hdrDst (hdr : W64) : Nat := fld hdr 59 48
def hdrXfer (hdr : W64) : Nat := fld hdr 31 20

/-! ### Shares (R274 to R276) -/

/-- Share of a claim tag on a shaft: the local share of a claim of the device, else the relay share. -/
def tagShare (s : State) (n : Nat) (tag : W16) : Nat :=
  let x := shaft s n
  match tagClaim s tag with
  | some c => Tab.get 0 x.share c
  | none => match x.relay.find? fun r => r.1 == tag with | some r => r.2 | none => 0
/-- Owners of a shaft's positions, in owner order. -/
def owners (s : State) (x : Shaft) : List (W16 × Nat) :=
  (List.range 8).map (fun c => ((claim s c).ctag, Tab.get 0 x.share c)) ++ x.relay
/-- Owner of position p. -/
def ownerAt : List (W16 × Nat) → Nat → Option W16
  | [], _ => none
  | o :: os, p => if p < o.2 then some o.1 else ownerAt os (p - o.2)
def slotOwner (s : State) (x : Shaft) (k : Nat) : Option W16 := ownerAt (owners s x) (rev6 (k % 64))
/-- Flits of a tag held in a shaft's receive queue. -/
def rxHeld (x : Shaft) (tag : W16) : Nat := match x.rx.find? fun e => e.1 == tag with | some e => e.2 | none => 0
def setHeld (x : Shaft) (tag : W16) (n : Nat) : Shaft :=
  { x with rx := x.rx.filter (fun e => e.1 != tag) ++ (if n = 0 then [] else [(tag, n)]) }
/-- One more flit held: XOFF goes out when the queue of 24 flits per sixty-fourth is half full. -/
def holdFlit (s : State) (n : Nat) (tag : W16) : State :=
  let h := rxHeld (shaft s n) tag + 1
  let s := modShaft s n fun x => setHeld x tag h
  if 24 * tagShare s n tag ≤ 2 * h && !(shaft s n).xoffed.contains tag then
    queueHop (bumpShaft (modShaft s n fun x => { x with xoffed := x.xoffed ++ [tag] }) n ctXoff) n tag.toNat .xoff
  else s
/-- One flit less: XON goes out when the queue has fallen to a quarter. -/
def letFlit (s : State) (n : Nat) (tag : W16) : State :=
  let h := rxHeld (shaft s n) tag - 1
  let s := modShaft s n fun x => setHeld x tag h
  if 4 * h ≤ 24 * tagShare s n tag && (shaft s n).xoffed.contains tag then
    queueHop (modShaft s n fun x => { x with xoffed := x.xoffed.erase tag }) n tag.toNat .xon
  else s

/-! ### States of a shaft (R277 to R279, R286) -/

/-- The corrected record of a replay or a retrain: KIND 5 (R469; DEDUCED, log 51). -/
def linkRec (n : Nat) : SumpRec := { cls := 0, unit := 7, inst := n, kind := 5 }
/-- The shaft retrains at its width. -/
def retrain (s : State) (n : Nat) (half : Bool) : State :=
  let s := modShaft s n fun x => { x with state := .train, locked := false, retrains := true, toHalf := half, tries := 0, txLen := 0, txBits := 0 }
  postSump (bumpShaft s n ctRetrain) (linkRec n)
/-- Direct transfers with a member on the shaft fail SHAFT_DOWN on every rank. -/
def failMembers (s : State) (n : Nat) : State :=
  let h := shaft s n
  (List.range 8).foldl (fun s c => (claim s c).colls.foldl (fun s x =>
    let tx := x.sends.any fun t => !t.acked && t.members.contains n
    let rx := s.rxctx.any fun e => match e.2 with
      | some r => r.claim == c && r.coll == x.id && r.sender == h.peer && r.members.contains h.peerS
      | none => false
    if tx || rx then pumpDescs (failColl s c x.id stShaftDown true) else s) s) s
/-- A shaft goes OFF or DOWN: its flits are gone, and every routing-table entry loses it. -/
def shaftLeaves (s : State) (n : Nat) (st : ShaftState) (cause : Nat) : State :=
  let x := shaft s n
  let s := x.queue.foldl (fun s q => match q.2.2 with | some m => letFlit s m q.1 | none => s) s
  let s := setShaft s n
    { shaft s n with
      state := st, locked := false, retrains := false, toHalf := false, flips := [], queue := [], ctrl := [], sent := none, replay := [], resend := [], tries := 0
      seq := 0, good := 0x3FF, nak := false, gap := false, stopped := [], rx := [], xoffed := []
      laneFail := if st = .off then 0 else x.laneFail }
  shaftEvent (failMembers (clearRoutes s n) n) n cause
/-- A shaft goes OFF, and its channels close as after R279. -/
def shaftOff (s : State) (n : Nat) : State :=
  if (shaft s n).state = .off then s else shaftLeaves (closeChannels s n stShaftDown) n .off 2

/-! ### Reception (R268, R270, R271) -/

def dropAcked (ack : Nat) (l : List (Nat × Flit)) : List (Nat × Flit) :=
  match l.findIdx? (fun e => e.1 == ack) with | some i => l.drop (i + 1) | none => l
/-- Every unacknowledged flit is sent again; after eight resends without an ACK advance the shaft retrains. -/
def resendAll (s : State) (n : Nat) : State :=
  let x := shaft s n
  if x.replay.isEmpty then s
  else if 8 ≤ x.tries then shaftEvent (retrain s n (x.state == .half)) n 2
  else postSump (bumpShaft (setShaft s n { x with resend := x.replay, tries := x.tries + 1 }) n ctReplay) (linkRec n)
/-- ACK and NAK of a received flit. -/
def takeAck (s : State) (n : Nat) (hdr : W64) : State :=
  let x := shaft s n
  let left := dropAcked (fld hdr 9 0) x.replay
  let s := setShaft s n { x with replay := left, resend := x.resend.filter fun e => left.any fun f => f.1 == e.1
                                 tries := if left.length < x.replay.length then 0 else x.tries }
  if bit hdr 60 then resendAll s n else s
/-- A flit decoded and its CRC checked: one that lies in an uncorrectable codeword, or fails its CRC, is discarded, and the
replay is asked for (R270). -/
def rxCheck (s : State) (n : Nat) (crcOk : Bool) (wrong : List Nat) : State × Bool :=
  let f := fecTake (shaft s n) wrong
  let s := setShaft s n f.1
  if f.2 && crcOk then (s, true)
  else (modShaft (if f.2 then bumpShaft s n ctCrc else s) n fun x => { x with nak := true, gap := true }, false)
/-- A sequenced flit checked: the state after it, and whether it is taken. -/
def rxSeq (s : State) (n : Nat) (hdr : W64) (crcOk : Bool) (wrong : List Nat) : State × Bool :=
  let r := rxCheck s n crcOk wrong
  if !r.2 then r
  else
    let s := takeAck r.1 n hdr
    let x := shaft s n
    let q := fld hdr 19 10
    if q = (x.good + 1) % 1024 then (setShaft s n { x with good := q, gap := false }, true)
    else if (x.good + 1024 - q) % 1024 < 512 || x.gap then (s, false)
    else (setShaft s n { x with nak := true, gap := true }, false)
/-- A flit for another device is forwarded on the member of its entry's bond numbered XFER mod m, or discarded where the entry is
invalid (R284). Where the device holds the claim, the flit waits on that member until its channel carries it. -/
def relayFlit (s : State) (n : Nat) (hdr : W64) (body : FlitBody) : State :=
  let tag := hdrTag hdr
  let ms := if linksCarry s then routeShafts s (hdrDst hdr) else []
  match ms[hdrXfer hdr % ms.length]? with
  | none => bumpShaft s n ctNoRoute
  | some m =>
    let x : Flit := ⟨mkHdr (fld hdr 63 61) (hdrDst hdr) tag.toNat (hdrXfer hdr), body⟩
    holdFlit (modShaft s m fun h => { h with queue := h.queue ++ [(tag, x, some n)] }) n tag
/-- A DESC of a tag without a share is refused (R276). -/
def refuseDesc (s : State) (n : Nat) (hdr : W64) (b : DescBody) : State :=
  let ms := bondUp s b.sender
  let m := (ms[hdrXfer hdr % ms.length]?).getD n
  let g : Flit := ⟨mkHdr typCtrl b.sender (hdrTag hdr).toNat (hdrXfer hdr), .grant { context := 0, refusal := stNoCredit }⟩
  modShaft s m fun x => { x with ctrl := x.ctrl ++ [g] }
/-- An end-to-end flit that has passed its checks: foreign, relayed, or delivered to its claim. -/
def routeFlit (s : State) (n : Nat) (hdr : W64) (body : FlitBody) (deliver : State → Nat → State) : State :=
  if tagShare s n (hdrTag hdr) = 0 then
    let s := bumpShaft s n ctForeign
    match body with | .desc b => refuseDesc s n hdr b | _ => s
  else if hdrDst hdr ≠ s.devAddr then relayFlit s n hdr body
  else match tagClaim s (hdrTag hdr) with
    | none => s
    | some c => if carries s n c then deliver s c else s
def onFlit (s : State) (n : Nat) (hdr : W64) (crcOk : Bool) (wrong : List Nat) (body : FlitBody) (deliver : State → Nat → State) : State :=
  if !linksRun s || s.fatal || !shaftUp (shaft s n) then s else
  let r := rxSeq s n hdr crcOk wrong
  if r.2 then routeFlit r.1 n hdr body deliver else r.1
/-- A hop-scoped flit, which the shaft's own controller consumes. -/
def onHop (s : State) (n : Nat) (hdr : W64) (rx : FlitRx) (take : State → State) : State :=
  let x := shaft s n
  if !linksRun s || s.fatal || !(shaftUp x || x.locked) then s else
  let r := rxSeq s n hdr rx.crcOk rx.wrong
  if r.2 then take r.1 else r.1

/-! ### What each end-to-end flit does (R240, R253, R271 to R273, R283) -/

def execData (n : Fin 52) (hdr : W64) (payload : List Byte) (crc : W32) (wrong : List Nat) (s : State) : Res :=
  .next (settleFoul (onFlit s n hdr (payload.length == 244 && flitCrc hdr payload == crc) wrong (.data payload) fun s c =>
    deliverData s n (hdrXfer hdr) c payload))
/-- An IDLE flit that passes its checks gives its ACK; it is never discarded for its sequence. -/
def idleStep (s : State) (n : Nat) (hdr : W64) (rx : FlitRx) : State :=
  let x := shaft s n
  if linksRun s && !s.fatal && (shaftUp x || x.locked) then
    let r := rxCheck s n rx.crcOk rx.wrong
    if r.2 then takeAck r.1 n hdr else r.1
  else s
def execIdle (n : Fin 52) (f : IdleRx) (s : State) : Res := .next (idleStep s n f.hdr f.rx)
def execDesc (n : Fin 52) (hdr : W64) (rx : FlitRx) (body : DescBody) (s : State) : Res :=
  .next (onFlit s n hdr rx.crcOk rx.wrong (.desc body) fun s _ =>
    if running s then deliverDesc s n hdr body else { s with descs := s.descs ++ [(n.val, hdr, body)] })
def execGrant (n : Fin 52) (hdr : W64) (rx : FlitRx) (body : GrantBody) (s : State) : Res :=
  .next (onFlit s n hdr rx.crcOk rx.wrong (.grant body) fun s c => deliverGrant s c (hdrXfer hdr) body)
def execClose (n : Fin 52) (hdr : W64) (rx : FlitRx) (body : CloseBody) (s : State) : Res :=
  .next (settleFoul (onFlit s n hdr rx.crcOk rx.wrong (.close body) fun s c => deliverClose s (hdrXfer hdr) c body))
def execXdone (n : Fin 52) (hdr : W64) (rx : FlitRx) (s : State) : Res :=
  .next (onFlit s n hdr rx.crcOk rx.wrong .xdone fun s c => deliverXdone s c (hdrXfer hdr))
def execSig (n : Fin 52) (hdr : W64) (rx : FlitRx) (body : SigBody) (s : State) : Res :=
  .next (onFlit s n hdr rx.crcOk rx.wrong (.sig body) fun s c => deliverSig s c body)
def execAbort (n : Fin 52) (hdr : W64) (rx : FlitRx) (body : AbortBody) (s : State) : Res :=
  .next (onFlit s n hdr rx.crcOk rx.wrong (.abort body) fun s c => deliverAbort s c body)

/-! ### Hop-scoped flits (R276, R277, R279, R280) -/

def xoffStep (s : State) (n : Nat) (hdr : W64) (rx : FlitRx) : State :=
  onHop s n hdr rx fun s => modShaft s n fun x =>
    { x with stopped := if x.stopped.contains (hdrTag hdr) then x.stopped else x.stopped ++ [hdrTag hdr] }
def execXoff (n : Fin 52) (hdr : W64) (rx : FlitRx) (s : State) : Res := .next (xoffStep s n hdr rx)
def xonStep (s : State) (n : Nat) (hdr : W64) (rx : FlitRx) : State :=
  onHop s n hdr rx fun s => modShaft s n fun x => { x with stopped := x.stopped.filter fun t => t != hdrTag hdr }
def execXon (n : Fin 52) (hdr : W64) (rx : FlitRx) (s : State) : Res := .next (xonStep s n hdr rx)

def setAuth (s : State) (n c : Nat) (a : Auth) : State := modShaft s n fun x => { x with auths := Tab.set {} x.auths c a }
/-- Authentication of a claim on a shaft begins: a fresh nonce goes to the peer. -/
def startAuth (s : State) (n c : Nat) (cmd : Option (Nat × W32)) : State :=
  let (v, s) := draw s
  let a : Auth := Tab.get {} (shaft s n).auths c
  let s := replyTo s a.cmd stOk 0 0
  queueHop (setAuth s n c { a with mine := some v, ok := false, cmd := cmd }) n (claim s c).ctag.toNat (.nonce v)
/-- Claims with a local share whose channel is closed start to authenticate. -/
def startAuths (s : State) (n : Nat) : State :=
  (List.range 8).foldl (fun s c =>
    let x := shaft s n
    if inService (claim s c) && Tab.get 0 x.share c != 0 && !x.auth.getLsbD c then startAuth s n c none else s) s
/-- New shares in force: a claim that gains a local share starts to authenticate, and the channel of one that
loses it closes (R275, R280). -/
def takeShares (s : State) (n : Nat) (share : Tab Nat) (relay : List (W16 × Nat)) : State :=
  let x := shaft s n
  let s := setShaft s n { x with share := share, relay := relay, pend := none }
  (List.range 8).foldl (fun s c =>
    let was := Tab.get 0 x.share c
    let now := Tab.get 0 share c
    if was = 0 ∧ now ≠ 0 ∧ inService (claim s c) ∧ shaftUp x then startAuth s n c none
    else if was ≠ 0 ∧ now = 0 then
      let y := shaft s n
      let a : Auth := Tab.get {} y.auths c
      replyTo (setShaft s n { y with auth := y.auth &&& ~~~(BitVec.ofNat 8 (2 ^ c)), auths := Tab.set {} y.auths c {} }) a.cmd stShaftDown 0 0
    else s) s
/-- Shares set: at the next frame boundary, or at once on a shaft that sends no frames. -/
def setShares (s : State) (n : Nat) (share : Tab Nat) (relay : List (W16 × Nat)) : State :=
  let x := shaft s n
  if shaftUp x || x.locked then setShaft s n { x with pend := some (share, relay) } else takeShares s n share relay
/-- The shares that a further change starts from. -/
def nextShares (x : Shaft) : Tab Nat × List (W16 × Nat) := x.pend.getD (x.share, x.relay)
/-- The flits that wait on a shaft, and those unacknowledged, go: they were for the peer of before (R279). -/
def dropFlits (s : State) (n : Nat) : State :=
  let s := (shaft s n).queue.foldl (fun s q => match q.2.2 with | some m => letFlit s m q.1 | none => s) s
  modShaft s n fun x => { x with queue := [], replay := [], resend := [], flips := [] }
/-- An IDENT, which a shaft in lock takes whatever its SEQ, since replay resumes only after it (R271, R278; DEDUCED, log 37). -/
def onIdent (s : State) (n : Nat) (hdr : W64) (rx : FlitRx) (take : State → State) : State :=
  let x := shaft s n
  if !x.locked then onHop s n hdr rx take
  else if !linksRun s || s.fatal then s
  else
    let r := rxCheck s n rx.crcOk rx.wrong
    if !r.2 then r.1
    else
      let s := takeAck r.1 n hdr
      let x := shaft s n
      let q := fld hdr 19 10
      take (if q = (x.good + 1) % 1024 then setShaft s n { x with good := q, gap := false } else s)
/-- IDENT: the shaft becomes UP or HALF, or another peer closes its channels and routes. -/
def identStep (s : State) (n : Nat) (hdr : W64) (rx : FlitRx) (b : IdentBody) : State :=
  onIdent s n hdr rx fun s =>
    let x := shaft s n
    if b.addr = s.devAddr then shaftLeaves (closeChannels s n stShaftDown) n .down 6
    else
      let other := x.peer != 0xFFF && (x.peer != b.addr || x.peerS != b.shaft)
      let s := if other then dropFlits (closeChannels s n stShaftDown) n else s
      let s := modShaft s n fun x =>
        { x with peer := b.addr, peerS := b.shaft, halfSel := if x.toHalf then b.half else x.halfSel
                 state := if x.toHalf then .half else .up, locked := false, retrains := false, resend := x.replay }
      let s := if other then shaftEvent (clearRoutes s n) n 3 else s
      let s := if shaftUp x then s else shaftEvent s n 2
      startAuths s n
def execIdent (n : Fin 52) (hdr : W64) (rx : FlitRx) (body : IdentBody) (s : State) : Res := .next (identStep s n hdr rx body)

/-- The message of R280 for the end that holds address `own`. -/
def authMsg (tag : W16) (own ownS peer peerS : Nat) (nOwn nPeer : BitVec 128) (mine : Bool) : List Byte :=
  let lo := own < peer
  let side := fun a sh => leBytes 2 a ++ [byte sh]
  let first := if lo then side own ownS ++ side peer peerS else side peer peerS ++ side own ownS
  let nonces := if lo then leBytes 16 nOwn.toNat ++ leBytes 16 nPeer.toNat else leBytes 16 nPeer.toNat ++ leBytes 16 nOwn.toNat
  [byte 0x4B, byte 0x5A, byte 0x41, byte 0x55] ++ leBytes 2 tag.toNat ++ first ++ nonces ++ [byte (if lo == mine then 1 else 2)]
/-- The tag that this end sends (`mine`), or expects. -/
def authTag (s : State) (n c : Nat) (nOwn nPeer : BitVec 128) (mine : Bool) : BitVec 128 :=
  let x := shaft s n
  let k := claim s c
  gmac (leBytes 16 k.key.toNat) ((leBytes 16 (if mine then nOwn else nPeer).toNat).take 12)
    (authMsg k.ctag s.devAddr n x.peer x.peerS nOwn nPeer mine)
/-- The claim of a hop-scoped flit's tag, while it is in service and holds a local share: an ended one's channels stay closed
(R470). -/
def hopClaim (s : State) (n : Nat) (hdr : W64) : Option Nat :=
  (tagClaim s (hdrTag hdr)).filter fun c => inService (claim s c) && Tab.get 0 (shaft s n).share c != 0
/-- NONCE: the own nonce goes out where the peer may not have it, and the own tag follows. -/
def nonceStep (s : State) (n : Nat) (hdr : W64) (rx : FlitRx) (v : BitVec 128) : State :=
  onHop s n hdr rx fun s =>
    match hopClaim s n hdr with
    | none => s
    | some c =>
      let a : Auth := Tab.get {} (shaft s n).auths c
      let s := match a.mine with
        | none => startAuth s n c a.cmd
        | some m => if a.peer = some v then s else queueHop s n (hdrTag hdr).toNat (.nonce m)
      let a : Auth := Tab.get {} (shaft s n).auths c
      let s := setAuth s n c { a with peer := some v }
      queueHop s n (hdrTag hdr).toNat (.tag (authTag s n c (a.mine.getD 0) v true))
def execNonce (n : Fin 52) (hdr : W64) (rx : FlitRx) (v : BitVec 128) (s : State) : Res := .next (nonceStep s n hdr rx v)
/-- TAG: the channel opens, or the check fails. -/
def tagStep (s : State) (n : Nat) (hdr : W64) (rx : FlitRx) (t : BitVec 128) : State :=
  onHop s n hdr rx fun s =>
    match hopClaim s n hdr with
    | none => s
    | some c =>
      let a : Auth := Tab.get {} (shaft s n).auths c
      match a.mine, a.peer with
      | some m, some p =>
        let good := authTag s n c m p false == t
        let one := BitVec.ofNat 8 (2 ^ c)
        let s := modShaft s n fun x => { x with auth := if good then x.auth ||| one else x.auth &&& ~~~one }
        let s := setAuth s n c { a with ok := good, cmd := none }
        let s := if good then s else shaftEvent (bumpShaft s n ctAuthFail) n 5
        replyTo s a.cmd stOk 0 0
      | _, _ => s
def execTag (n : Fin 52) (hdr : W64) (rx : FlitRx) (t : BitVec 128) (s : State) : Res := .next (tagStep s n hdr rx t)

/-! ### The transmitter (R268, R271, R274) -/

def isFlow (b : FlitBody) : Bool := match b with | .xoff => true | .xon => true | _ => false
def isAuthFlit (b : FlitBody) : Bool := match b with | .ident _ => true | .nonce _ => true | .tag _ => true | _ => false
/-- What a slot carries. -/
inductive Pick | idle | again | hop (x : Flit) | own (q : W16 × Flit × Option Nat)
deriving DecidableEq, Repr
/-- The tag whose slots a flit takes; none for a hop-scoped flit, and for a refusal to a tag without a share. -/
def flitTag (s : State) (x : Shaft) (f : Flit) : Option W16 :=
  let t := hdrTag f.hdr
  if isFlow f.body || isAuthFlit f.body || !(owners s x).any (fun o => o.1 == t && o.2 != 0) then none else some t
/-- Slot k and the 15 after it all have owners. -/
def noneFree (s : State) (x : Shaft) (k : Nat) : Bool := !((List.range 16).any fun i => (slotOwner s x (k + i)).isNone)
/-- A flit may take slot k (R274): XOFF and XON any slot; a hop-scoped flit one beyond the shares, or any when no such slot comes
within 16; another flit a slot of its owner. -/
def slotFits (s : State) (x : Shaft) (k : Nat) (f : Flit) : Bool :=
  isFlow f.body ||
  match flitTag s x f, slotOwner s x k with
  | none, none => true
  | none, some _ => noneFree s x k
  | some t, some o => t == o
  | some _, none => false
/-- A queued flit of a tag may go out: the tag is not stopped, and its claim's channel carries it (R276, R277, R280); an
ABORT goes out although the channel has closed (R470). -/
def mayGo (s : State) (n : Nat) (x : Shaft) (tag : W16) (f : Flit) : Bool :=
  !x.stopped.contains tag && shaftUp x &&
  match tagClaim s tag with | some c => carries s n c || isAbort f | none => true
/-- A hop-scoped flit that slot k takes: XOFF and XON before the others. -/
def hopPick (s : State) (x : Shaft) (k : Nat) : Option Flit :=
  match x.ctrl.find? fun f => isFlow f.body with
  | some f => some f
  | none => x.ctrl.find? fun f => (flitTag s x f).isNone && slotFits s x k f
/-- The flit that slot k takes: a hop-scoped flit, which waits for no resend; a flit to be resent, in SEQ order and in a slot of its
owner, whether or not its tag has been stopped since (DEDUCED, log 37), or so another owner's flits would wait with it (R276); then a
queued flit of the owner. With 511 flits unacknowledged nothing new is sent; before IDENT nothing but hop-scoped flits is; and after a
device-fatal error ABORTs alone (R271, R274, R277, R471). -/
def pickOf (s : State) (n : Nat) (x : Shaft) (k : Nat) : Pick :=
  let room := decide (x.replay.length < 511)
  match (hopPick s x k).filter fun _ => room, x.resend with
  | some f, _ => .hop f
  | none, e :: _ => if shaftUp x && slotFits s x k e.2 then .again else .idle
  | none, [] =>
    if !room then .idle
    else match slotOwner s x k with
      | none => .idle
      | some tag =>
        match x.ctrl.find? (fun f => flitTag s x f == some tag), x.queue.find? fun q => q.1 == tag && mayGo s n x tag q.2.1 with
        | some f, _ => .hop f
        | none, some q => .own q
        | none, none => .idle
/-- A header with NAK, SEQ and ACK as they go out. -/
def outHdr (x : Shaft) (hdr : W64) (seq : Nat) : W64 := w64 (hdr.toNat + at' (b2n x.nak) 60 + at' seq 10 + x.good)
/-- A flit takes the next SEQ and a place in the replay buffer, behind those being resent. -/
def sendNew (x : Shaft) (f : Flit) : Shaft :=
  { x with sent := some ⟨outHdr x f.hdr x.seq, f.body⟩, replay := x.replay ++ [(x.seq, f)]
           resend := if x.resend.isEmpty then [] else x.resend ++ [(x.seq, f)], seq := (x.seq + 1) % 1024, nak := false }
/-- Words of a kept flit: its header, then its payload. -/
def keptWords (f : Flit) : List W64 := f.hdr :: (match f.body with | .data p => bytesWords p | _ => List.replicate 31 0)
/-- Words of a kept flit that read with errors: place, and the 80 bits as read (R271). The code is linear, so which bits are flipped
alone decides what a word of a CTRL flit, whose layout is not given, reads as. -/
def flipped (x : Shaft) (e : Nat × Flit) : List (Nat × W80) :=
  (x.flips.filter fun b => b.1 == e.1).map fun b => (b.2.1, encode80 ((keptWords e.2).getD b.2.1 0) false ^^^ b.2.2)
/-- A flit as the replay buffer gives it back: corrected, or with data 0 for a word beyond correction (R174, R175, R467). DEDUCED (log
37): the CLOSE is formed before, so it does not list such a word; and a flit whose header, or a word of whose CTRL payload, is beyond
correction goes out as one with header 0. -/
def keptFlit (x : Shaft) (e : Nat × Flit) : Flit :=
  let l := flipped x e
  let lost := l.any fun b => (readP b.2).poison && (b.1 == 0 || match e.2.body with | .data _ => false | _ => true)
  if l.isEmpty then e.2
  else if lost then ⟨0, .idle⟩
  else match e.2.body with
    | .data p => ⟨e.2.hdr, .data ((wordsBytes ((l.filter (·.1 != 0)).foldl (fun ws b => ws.set (b.1 - 1) (readP b.2).data) (bytesWords p))).take 244)⟩
    | _ => e.2
/-- The records of those words, which are then whole again. -/
def noteKept (s : State) (n : Nat) (e : Nat × Flit) : State :=
  let s := (flipped (shaft s n) e).foldl (fun s b =>
    match (decode80 b.2).2 with
    | .clean => s
    | .fixed k => postSump s { cls := 0, unit := 7, inst := n, kind := k }
    | .bad => postSump s { cls := 1, unit := 7, inst := n, kind := 3 }) s
  modShaft s n fun x => { x with flips := x.flips.filter fun b => b.1 != e.1 }
/-- Hundredths of a link bubble due at the next slot: bubbles are spread evenly over the slots (R397). -/
def bubbleAt (s : State) (n : Nat) : Nat := (shaft s n).bubble + s.winder.dutyL
/-- What a flit slot sends: IDLE in a link bubble, whichever owner the slot belongs to (R397). -/
def slotSend (s : State) (n : Nat) : State :=
  let k := (shaft s n).slot
  let s := match (shaft s n).pend with | some (a, b) => if k = 0 then takeShares s n a b else s | none => s
  let x := { shaft s n with slot := (k + 1) % 64, bubble := bubbleAt s n % 100 }
  match if linksCarry s && decide (bubbleAt s n < 100) then pickOf s n x k else .idle with
  | .idle => setShaft s n { x with sent := some ⟨outHdr x (mkHdr typIdle 0 0 0) 0, .idle⟩, nak := false }
  | .again =>
    (match x.resend with
      | e :: rest =>
        let f := keptFlit x e
        noteKept (setShaft s n { x with sent := some ⟨outHdr x f.hdr e.1, f.body⟩, resend := rest, nak := false }) n e
      | [] => setShaft s n x)
  | .hop f => setShaft s n { sendNew x f with ctrl := x.ctrl.erase f }
  | .own q =>
    let s := setShaft s n { sendNew x q.2.1 with queue := x.queue.erase q }
    match q.2.2 with | some m => letFlit s m q.1 | none => s
/-- FLIT_SLOT: a flit is chosen and its bits go onto the fibre. -/
def slotStep (s : State) (n : Nat) : State :=
  if !linksRun s || !(shaftUp (shaft s n) || (shaft s n).locked) then s else
  let t := slotSend s n
  modShaft t n fun x => match x.sent with | some f => putWire x f | none => x
def execFlitSlot (n : Fin 52) (s : State) : Res := .next (slotStep s n)
/-- REPLAY_TIMEOUT: no ACK advance while flits are unacknowledged. -/
def replayStep (s : State) (n : Nat) : State :=
  if linksRun s && !s.fatal && shaftUp (shaft s n) then resendAll s n else s
def execReplayTimeout (n : Fin 52) (s : State) : Res := .next (replayStep s n)

/-! ### Bring-up, retraining, failures (R277 to R279, R286) -/

/-- IDENT as this end sends it. -/
def ownIdent (s : State) (n : Nat) (half : Bool) : FlitBody := .ident { addr := s.devAddr, shaft := n, half := half }
/-- SHAFT_RETRAIN: steps 4 and 5 at the shaft's width and IDENT with the peer of before; replay resumes (R278). -/
def retrainStep (s : State) (n : Nat) : State :=
  let x := shaft s n
  if x.state = .train ∧ x.retrains ∧ x.peer ≠ 0xFFF ∧ linksRun s then
    let s := if x.locked then s else queueHop s n 0 (ownIdent s n x.halfSel)
    shaftEvent (modShaft s n fun x => { x with state := if x.toHalf then .half else .up, locked := false, retrains := false
                                               rxBit := if x.locked then x.rxBit else 0, cwBad := x.locked && x.cwBad
                                               resend := x.replay, txLen := if x.locked then x.txLen else 0
                                               txBits := if x.locked then x.txBits else 0 }) n 2
  else s
def execShaftRetrain (n : Fin 52) (s : State) : Res := .next (retrainStep s n)
/-- Lasers are supplied, and firmware sequences the shafts. -/
def lasersOn (s : State) : Bool :=
  [Rail.vinB0, .vinB1, .vinB2, .vinB3, .vddLas].all s.pins.good.contains && s.boot.stage == .ready
/-- Lanes of a half. -/
def halfMask (sel : Bool) : BitVec 8 := if sel then 0xF0 else 0x0F
/-- Lanes trained: full width, or a half; none when no half trained whole. -/
def trained (good : BitVec 8) : Option (Bool × Bool) :=
  if good = 0xFF then some (false, false)
  else if good &&& 0x0F = 0x0F then some (true, false)
  else if good &&& 0xF0 = 0xF0 then some (true, true)
  else none
/-- Codeword lock is found: IDENT goes out (R277 steps 5 and 6). -/
def lockShaft (s : State) (n : Nat) (half sel : Bool) : State :=
  let s := modShaft s n fun x => { x with locked := true, toHalf := half, halfSel := if half then sel else x.halfSel
                                          rxBit := 0, cwBad := false, txLen := 0, txBits := 0 }
  queueHop s n 0 (ownIdent s n sel)
/-- A lane is in use at the width the shaft has. -/
def laneUsed (x : Shaft) (l : Nat) : Bool :=
  let half := x.state == .half || (x.state == .train && x.toHalf)
  !half || (x.halfSel == decide (4 ≤ l))
/-- A lane of a shaft fails (R286): the first brings HALF, on the half without it; a further one DOWN. A shaft that has not trained
yet records it, and goes DOWN when all eight have failed, as with its laser or engine; one that is DOWN only records it, and a lane that
has already failed in the dark half changes nothing. -/
def failLane (s : State) (n : Nat) (l : Nat) : State :=
  let x := shaft s n
  let old := x.laneFail.getLsbD l
  let all := x.laneFail ||| BitVec.ofNat 8 (2 ^ l)
  let s := setShaft s n { x with laneFail := all }
  let live := shaftUp x || (x.state == .train && (x.retrains || x.locked))
  if !live then (if all = 0xFF ∧ x.state ≠ .down ∧ x.state ≠ .off then shaftLeaves s n .down 1 else s)
  else if x.state == .up || (x.state == .train && !x.toHalf) then
    shaftEvent (modShaft (retrain s n true) n fun x => { x with halfSel := decide (l < 4) }) n 1
  else if laneUsed x l || !old then shaftLeaves s n .down 1
  else s
/-- The lanes that fail training. -/
def failLanes (s : State) (n : Nat) (lanes : BitVec 8) : State :=
  ((List.range 8).filter lanes.getLsbD).foldl (fun s l => failLane s n l) s
/-- One bring-up step. A training attempt in which no lane finds the peer is repeated (R277); lanes that fail training fail
(R286), and a shaft of which no half trains whole goes DOWN. A retrain keeps the width the shaft had (R278). -/
def bringupStep (s : State) (n : Nat) (good : BitVec 8) : State :=
  let x := shaft s n
  if !x.enabled || !linksRun s || s.fatal || !lasersOn s then s else
  match x.state with
  | .off => setShaft s n { x with state := .laser }
  | .laser => setShaft s n { x with state := .tune }
  | .tune => setShaft s n { x with state := .train }
  | .down => setShaft s n { x with state := .train }
  | .train =>
    if good = 0 then s
    else if x.retrains then
      let need := if x.toHalf then halfMask x.halfSel else 0xFF
      if good &&& need = need then lockShaft s n x.toHalf x.halfSel else failLanes s n (need &&& ~~~good)
    else
      let s := modShaft s n fun x => { x with laneFail := x.laneFail ||| ~~~good }
      (match trained good with
        | none => shaftLeaves s n .down 1
        | some (half, sel) => lockShaft s n half sel)
  | _ => s
def execShaftBringupStep (n : Fin 52) (good : BitVec 8) (s : State) : Res := .next (bringupStep s n good)
/-- LANE_FAIL: a lane of a lit shaft fails. A laser or engine failure is this row for each lane of its four shafts (R23). -/
def laneStep (s : State) (n : Nat) (l : Nat) : State :=
  if (shaft s n).state == .off || !linksRun s then s else failLane s n l
def execLaneFail (n : Fin 52) (lane : Fin 8) (s : State) : Res := .next (laneStep s n lane)
/-- LOSS_OF_SIGNAL: more than 10 ms without a signal. -/
def lossStep (s : State) (n : Nat) : State :=
  let x := shaft s n
  if x.state = .off ∨ !linksRun s then s
  else if shaftUp x || x.state == .train then
    shaftLeaves (modShaft (closeChannels s n stShaftDown) n fun x => { x with laneFail := 0xFF }) n .down 4
  else shaftEvent (clearRoutes (closeChannels s n stShaftDown) n) n 4
def execLossOfSignal (n : Fin 52) (s : State) : Res := .next (lossStep s n)

end Sys2Proof.Machine
end

