-- ==== Sys2Proof/Machine/Claims.lean ====
section
/-!
DEFINITION. Claims come and go: CLAIM_CREATE, CLAIM_DESTROY, CLAIM_RESET, the clearing of a claim's memory and
CLAIM_QUERY (R343, R346, R378, R426), and the list of retired frames (R179).
-/
namespace Sys2Proof.Machine
open Sys2Proof

/-! ### The claim descriptor (R378) -/

/-- A little-endian field of a descriptor's bytes. -/
def dsc (d : List Byte) (at0 n : Nat) : Nat := leNat ((d.drop at0).take n)
def dscSys (d : List Byte) : List Nat := (List.range (min (dsc d 468 4) 64)).map fun i => dsc d (472 + 4 * i) 4
def dscShares (d : List Byte) : List Nat := (List.range 52).map fun n => dsc d (416 + n) 1
/-- Resources that claims hold now. -/
def takenBits (s : State) (f : Claim → Nat) : Nat := (liveClaims s).foldl (fun n c => n ||| f (claim s c)) 0
/-- The share of shaft n that a claim whose creation waits will take (R28, R423). -/
def shareHeld (s : State) (n c : Nat) : Nat := let k := claim s c; if k.creating.isSome then (dscShares k.desc).getD n 0 else 0
/-- Local and relay shares of a shaft, as they will stand, but for those of claim c (R28, R275). -/
def otherShares (s : State) (n c : Nat) : Nat :=
  let x := nextShares (shaft s n)
  (((List.range 8).filter (· != c)).map fun d => max (Tab.get 0 x.1 d) (shareHeld s n d)).foldl (· + ·) 0 +
    (x.2.map Prod.snd).foldl (· + ·) 0
def isRetiredT1 (s : State) (f : Nat) : Bool := s.retired.contains (false, f)
/-- The checks of R343, R378 and R441: 0, or the status of the first that fails. -/
def createStatus (s : State) (d : List Byte) : Nat :=
  let c := dsc d 0 1
  let busy := dsc d 4 2 &&& takenBits s (fun k => k.units.toNat) != 0 ||
    dsc d 32 96 &&& takenBits s (fun k => k.t1g.toNat) != 0 || dsc d 128 256 &&& takenBits s (fun k => k.t2g.toNat) != 0 ||
    dsc d 384 16 &&& takenBits s (fun k => k.sblk.toNat) != 0 || dsc d 400 16 &&& takenBits s (fun k => k.tblk.toNat) != 0
  let sys := dscSys d
  if dsc d 6 2 ≠ 0 ∨ dsc d 728 40 ≠ 0 ∨ 1 < dsc d 1 1 then stReservedField
  else if 7 < c then stBadEncoding
  else if (claim s c).live then stClaimLimit
  else if dsc d 2 2 = 0 ∨ (liveClaims s).any (fun o => (claim s o).ctag.toNat == dsc d 2 2) then stBadEncoding
  else if busy then stResourceBusy
  else if dsc d 4 2 = 0 ∨ dsc d 32 96 = 0 ∨ (dscShares d).zipIdx.any (fun p => 64 < p.1 + otherShares s p.2 c) then stBadEncoding
  else if sys.any (isRetiredT1 s) then stFrameRetired
  else if sys.any (fun f => !((dsc d 32 96).testBit (f / 512))) then stFrameNotOwned
  else if dsc d 468 4 = 0 ∨ 64 < dsc d 468 4 ∨ sys.eraseDups.length ≠ sys.length then stBadEncoding
  else if dsc d 16 16 = 0 then stBadEncoding
  else 0
/-- A claim as its descriptor makes it (R30, R331, R343). -/
def newClaim (d : List Byte) (salt : BitVec 128) (stamp : Nat) : Claim :=
  { live := true, desc := d, extended := dsc d 1 1 == 1, ctag := BitVec.ofNat 16 (dsc d 2 2), seed := w64 (dsc d 8 8)
    key := BitVec.ofNat 128 (dsc d 16 16), salt := salt, units := BitVec.ofNat 16 (dsc d 4 2), t1g := BitVec.ofNat 768 (dsc d 32 96)
    t2g := BitVec.ofNat 2048 (dsc d 128 256), sblk := BitVec.ofNat 128 (dsc d 384 16), tblk := BitVec.ofNat 128 (dsc d 400 16)
    sys := dscSys d, origin := 1000 * ceilDiv stamp 1000 }
/-- The claim that takes the place of another, or of none: the generation words of its summaries count on, for the summaries change
(R504). -/
def afterClaim (k x : Claim) : Claim := { x with canGen := k.canGen + 2, talGen := k.talGen + 2 }
/-- Bytes 0 to 7 of the hash of the claim salt. -/
def saltHash (salt : BitVec 128) : Nat := leNat ((sha3Bytes (leBytes 16 salt.toNat)).take 8)
/-- Every granule that the claim names is initialised (R423). -/
def granulesReady (s : State) (k : Claim) : Bool :=
  ((List.range 768).all fun g => !k.t1g.getLsbD g || s.boot.t1init.getLsbD (g / 64) || s.boot.keptT1.getLsbD g) &&
  ((List.range 2048).all fun g => !k.t2g.getLsbD g || s.boot.t2init || s.boot.keptT2.getLsbD (g / 256))
/-- The claim starts, as a command consumed at `stamp` made it: its shaft shares are set. A share that no longer fits beside
the others (only after CLAIM_RESET, when SHAFT_SHARE_SET has changed them since the creation) stays as it stands (R28). -/
def startClaim (s : State) (c : Nat) (d : List Byte) (salt : BitVec 128) (stamp : Nat) : State :=
  let s := setClaim s c (afterClaim (claim s c) (newClaim d salt stamp))
  (dscShares d).zipIdx.foldl (fun s p =>
    let x := nextShares (shaft s p.2)
    if Tab.get 0 x.1 c = p.1 ∨ 64 < p.1 + otherShares s p.2 c then s else setShares s p.2 (Tab.set 0 x.1 c p.1) x.2) s
/-- CLAIM_CREATE: deferred while a granule is not initialised. -/
def claimCreateStep (s : State) (r : Nat) : State :=
  lervo s r 0x010 [whole] fun k s =>
    readHost s k (par k 1 63 0) 768 fun d =>
      let st := createStatus s d
      if st ≠ 0 then refuse s st else
      let c := dsc d 0 1
      let (salt, s) := draw s
      let x := newClaim d salt s.time
      if granulesReady s x then .done (startClaim s c d salt s.time) stOk (saltHash salt) 0
      else .wait (setClaim s c { afterClaim (claim s c) x with creating := some (k.r, k.seq), shift := .none })
def execClaimCreate (r : Fin 256) (s : State) : Res := .next (claimCreateStep s r)
/-- Claims whose creation waited for granules that are now initialised (R423). -/
def createWaiting (s : State) : State :=
  (List.range 8).foldl (fun s c =>
    let k := claim s c
    match k.creating with
    | some (r, q) =>
      if granulesReady s k then reply (startClaim s c k.desc k.salt (cmdTime s r q)) r q stOk (saltHash k.salt) 0 else s
    | none => s) s

/-! ### The end of a claim (R346, R426, R452) -/

/-- Commands of the claim still outstanding complete with REQUEST_ABORTED. -/
def abortCmds (s : State) (c : Nat) : State :=
  (List.range 256).foldl (fun s r =>
    let x := ring s r
    if x.bound ∧ x.cls ≠ .management ∧ x.claim = c then
      x.out.foldl (fun s q => reply s r q.seq stRequestAborted 0 0) s else s) s
/-- Window entries that name a granule of the claim are cleared. -/
def clearWindows (s : State) (k : Claim) : State :=
  { s with fns := s.fns.foldl (fun t e =>
      let w := e.2.window.foldl (fun w p => if k.t1g.getLsbD (fld p.2 9 0) then Tab.set 0 w p.1 0 else w) e.2.window
      Tab.set {} t e.1 { e.2 with window := w }) s.fns }
/-- Parks that have not taken effect complete with REQUEST_ABORTED, as every outstanding command does (R426). -/
def abortParks (s : State) (c : Nat) : State :=
  (liveStreams s c).foldl (fun s n =>
    match (stream s n).park with
    | some (r, q, _) => setStream (reply s r q stRequestAborted 0 0) n { stream s n with park := none }
    | none => s) s
/-- Descriptors and posts that the claim's programs left on faces go with the claim: its faces stand idle (R19, R29). -/
def dropFaces (s : State) (c : Nat) : State :=
  { s with faces := s.faces.foldl (fun t e =>
      Tab.set {} t e.1 { e.2 with dma := e.2.dma.filter fun d => d.2.claim != c, post := e.2.post.filter fun p => p.claim != c }) s.faces }
/-- A claim's work, bell frames and channels end, and its key is erased (R346, R441). -/
def closeClaim (s : State) (c : Nat) : State :=
  let s := abortParks s c
  let s := stopBell (closeClaimChannels (endWork s c stRequestAborted) c stRequestAborted) c
  let s := clearWindows (abortCmds s c) (claim s c)
  let s := dropFaces { s with hoists := s.hoists.filter fun h => h.claim != c } c
  setClaim s c { claim s c with members := [], shift := .none, key := 0 }
/-- The state that a claim has outside its own record: rings keep their binding, and its slots are FREE again. -/
def wipeSlots (s : State) (c : Nat) : State :=
  let k := claim s c
  let st := s.streams.filter fun e => !k.sblk.getLsbD (e.1 / 1024)
  let ta := s.tallies.filter fun e => !k.tblk.getLsbD (e.1 / 32)
  { s with streams := st, tallies := ta }
/-- Every word of its granules, and the T0 of its faces, becomes data 0 with P 0; shared words stay as they are. -/
def wipeMemory (s : State) (c : Nat) : State :=
  let k := claim s c
  let t1 := s.t1.filter fun e => !k.t1g.getLsbD (e.1 / pageWords / 512)
  let t2 := s.t2.filter fun e => !k.t2g.getLsbD (e.1 / pageWords / 512)
  let s := { s with t1 := t1, t2 := t2 }
  { s with faces := s.faces.foldl (fun t e =>
      if k.units.getLsbD (e.1 / 8) then Tab.set {} t e.1 { e.2 with t0 := [], lost := none, t0By := [] } else t) s.faces }
/-- A claim's shares on every shaft go. -/
def dropShares (s : State) (c : Nat) : State :=
  (List.range 52).foldl (fun s n =>
    let x := nextShares (shaft s n)
    if Tab.get 0 x.1 c = 0 then s else setShares s n (Tab.set 0 x.1 c 0) x.2) s
/-- A descriptor without its claim key (R441). -/
def keyless (d : List Byte) : List Byte := d.take 16 ++ List.replicate (min 16 (d.length - 16)) 0 ++ d.drop 32
/-- CLAIM_DESTROY (R346): its rings answer NO_CLAIM from now on (R379). -/
def claimDestroyStep (s : State) (r : Nat) : State :=
  lervo s r 0x011 [span 2 0] fun k s =>
    let c := par k 1 2 0
    let x := claim s c
    if !x.live ∨ x.creating.isSome ∨ x.clearing.isSome then refuse s stNoClaim else
    let s := closeClaim s c
    let rs := s.rings.foldl (fun t e =>
      if e.2.cls ≠ .management ∧ e.2.claim = c ∧ e.2.bound then Tab.set {} t e.1 { e.2 with orphan := true } else t) s.rings
    let s := { s with rings := rs }
    .wait (setClaim s c { claim s c with clearing := some (k.r, k.seq, false), desc := keyless (claim s c).desc })
def execClaimDestroy (r : Fin 256) (s : State) : Res := .next (claimDestroyStep s r)
/-- CLAIM_RESET (R426). The claim is created again from its original descriptor, which keeps the key till then
(log 35). Its queues stay configured, with TAIL and DROPS restarted. -/
def claimResetStep (s : State) (r : Nat) : State :=
  lervo s r 0x012 [span 2 0] fun k s =>
    let c := par k 1 2 0
    let x := claim s c
    if !x.live ∨ x.creating.isSome ∨ x.clearing.isSome then refuse s stNoClaim else
    let s := closeClaim s c
    let s := ((List.range 5).map fun n => queueId (n + 1) c).foldl (fun s q =>
      if (outq s q).conf then setOutq s q { outq s q with tail := 0, head := 0, drops := 0, unsig := 0 } else s) s
    .wait (coolCap (setClaim s c { claim s c with clearing := some (k.r, k.seq, true) }))
def execClaimReset (r : Fin 256) (s : State) : Res := .next (claimResetStep s r)
/-- The clearing write of a claim ends: its tags go, or it is created again with a new salt. -/
def clearDone (s : State) (c : Nat) : State :=
  match (claim s c).clearing with
  | none => s
  | some (r, q, again) =>
    let d := (claim s c).desc
    let s := wipeSlots (wipeMemory s c) c
    if again then
      let (salt, s) := draw s
      reply (startClaim s c d salt s.time) r q stOk 0 0
    else reply (setClaim (dropShares s c) c (afterClaim (claim s c) {})) r q stOk 0 0
/-- CLAIM_CLEAR_DONE: for the first claim whose destruction or reset came on ring r; one that a warm reset clears
counts under ring 0. -/
def clearDoneStep (s : State) (r : Nat) : State :=
  if !running s || s.boot.stage != .ready then s else
  match (List.range 8).find? fun c => match (claim s c).clearing with | some (n, _, _) => n % 256 == r | none => false with
  | some c => clearDone s c
  | none => s
def execClaimClearDone (r : Fin 256) (s : State) : Res := .next (clearDoneStep s r)
/-- CLAIM_QUERY: the descriptor as created, with seed and key as 0 (R377). -/
def claimQueryStep (s : State) (r : Nat) : State :=
  lervo s r 0x013 [span 2 0, whole] fun k s =>
    let x := claim s (par k 1 2 0)
    if !x.live ∨ x.creating.isSome then refuse s stNoClaim
    else putHost s k (par k 2 63 0) (x.desc.take 8 ++ List.replicate 24 0 ++ x.desc.drop 32) okay
def execClaimQuery (r : Fin 256) (s : State) : Res := .next (claimQueryStep s r)

/-! ### Retired frames (R179) -/

/-- Claims whose tags name something. -/
def t1Used (s : State) (f : Nat) : Bool :=
  (liveClaims s).any fun c =>
    let k := claim s c
    k.sys.contains f || k.free.contains f || k.pages.any fun e => frameOf s c e.1 == some f
def t2Used (s : State) (f : Nat) : Bool :=
  (liveClaims s).any fun c => (claim s c).pages.any fun e =>
    e.2.state != .unmapped && e.2.state != .t1 && e.2.t2f == f
def frameLimit (t2 : Bool) : Nat := if t2 then 1048576 else 393216
def regionRetireStep (s : State) (r : Nat) : State :=
  lervo s r 0x020 [span 0 0, span 19 0] fun k s =>
    let t2 := par k 1 0 0 == 1
    let f := par k 2 19 0
    if frameLimit t2 ≤ f then refuse s stBadEncoding
    else if (if t2 then t2Used s f else t1Used s f) then refuse s stFrameInUse
    else if s.retired.contains (t2, f) then okay s
    else if 4096 ≤ s.retired.length then refuse s stRetireFull
    else okay { s with retired := s.retired ++ [(t2, f)] }
def execRegionRetire (r : Fin 256) (s : State) : Res := .next (regionRetireStep s r)
def regionRestoreStep (s : State) (r : Nat) : State :=
  lervo s r 0x021 [span 0 0, span 19 0] fun k s =>
    let e := (par k 1 0 0 == 1, par k 2 19 0)
    if s.retired.contains e then okay { s with retired := s.retired.erase e } else refuse s stBadEncoding
def execRegionRestore (r : Fin 256) (s : State) : Res := .next (regionRestoreStep s r)
def regionListStep (s : State) (r : Nat) : State :=
  lervo s r 0x022 [whole] fun k s =>
    let bs := s.retired.flatMap fun e => leBytes 4 (at' (b2n e.1) 31 + e.2)
    putHost s k (par k 1 63 0) (bs ++ List.replicate (16384 - bs.length) 0) fun s => .done s stOk s.retired.length 0
def execRegionList (r : Fin 256) (s : State) : Res := .next (regionListStep s r)

end Sys2Proof.Machine
end

