-- ==== Sys2Proof/Machine/Winder.lean ====
section
/-!
DEFINITION. The winder (R389 to R411): arbitration of each control period, throttle reasons, margins, droop and
current bubbles, temperature, and the power commands of the management ring.
-/
namespace Sys2Proof.Machine
open Sys2Proof

def modWinder (s : State) (g : Winder → Winder) : State := { s with winder := g s.winder }
/-- The winder decides: the headframe runs and firmware is ready (R390, R412). -/
def winderRuns (s : State) : Bool := timeRuns s && !s.fatal && !s.pins.stopped && s.boot.stage == .ready

/-! ### Settings and their draws (R394, R395, R401, R402) -/

/-- The lowest margin cap in force (R392). -/
def marginTop (w : Winder) : Nat := w.margin.foldl (fun n e => match e.2 with | some x => min n x | none => n) 18
/-- The top point of compute; `lim` when OP_LIMIT and the sympathy limits count (R394, R402). -/
def topPoint (w : Winder) (lim : Bool) : Nat :=
  let n := min (marginTop w) (w.fix.getD 18)
  if lim then (w.symp.map (·.op)).foldl min (min n w.limit) else n
def duties (op : Nat) : List (Nat × Nat) := (List.range 26).map fun d => (op, d)
/-- Settings of compute, highest first: points and compute bubbles. -/
def computeSets (w : Winder) (lim : Bool) : List (Nat × Nat) :=
  let top := topPoint w lim
  if outside w then duties 0
  else if w.fix.isSome then duties top
  else ((List.range (top + 1)).reverse.map fun n => (n, 0)) ++ (duties 0).drop 1
/-- The measured over the predicted power of the last period, clamped to 0.80 to 1.25, as a fraction. -/
def scaleOf (p : Prediction) : Nat × Nat :=
  if p.predicted = 0 then (1, 1)
  else if 5 * p.measured < 4 * p.predicted then (4, 5)
  else if 5 * p.predicted < 4 * p.measured then (5, 4)
  else (p.measured, p.predicted)
/-- Predicted draws of a class at its settings, highest first: (operating point and duty, or duty; draw). -/
def drawsOf (w : Winder) (p : Prediction) (lim : Bool) (cls : Nat) : List ((Nat × Nat) × Nat) :=
  let k := (scaleOf p).1
  match cls with
  | 0 => (List.range 26).map fun d => ((0, d), k * p.links.getD d 0)
  | 1 => (List.range 26).map fun d => ((0, d), k * p.memory.getD d 0)
  | _ => (computeSets w lim).map fun x => (x, k * p.compute.getD (26 * (18 - x.1) + x.2) 0)
def topDraw (l : List ((Nat × Nat) × Nat)) : Nat := match l.head? with | some x => x.2 | none => 0
def floorDraw (l : List ((Nat × Nat) × Nat)) : Nat := match l.getLast? with | some x => x.2 | none => 0
/-- The setting of each class, in the order of priority (R395). -/
def arbitrate (w : Winder) (p : Prediction) (lim : Bool) : List (Nat × (Nat × Nat)) :=
  let lists := fun c => drawsOf w p lim c
  let floors : Nat := ([0, 1, 2].map fun c => floorDraw (lists c)).foldl (· + ·) 0
  let most : Nat := 1000 * capEff w * (scaleOf p).2
  let least : Nat := (scaleOf p).1 * p.fixed + floors
  let avail : Int := (most : Int) - (least : Int)
  (w.order.foldl (fun (acc : Int × List (Nat × (Nat × Nat))) c =>
    let l := lists c
    let want := topDraw l - floorDraw l
    let give := min (want : Int) (max acc.1 0)
    let grant := (floorDraw l : Int) + give
    let set := match l.find? (fun x => decide ((x.2 : Int) ≤ grant)) with
      | some x => x.1
      | none => (l.getLast?.map Prod.fst).getD (0, 0)
    (acc.1 - give, acc.2 ++ [(c, set)])) (avail, [])).2
def setOf (l : List (Nat × (Nat × Nat))) (c : Nat) : Nat × Nat := (lookup? l c).getD (0, 0)
/-- The floor in W, rounded up (R405). -/
def floorOf (w : Winder) (p : Prediction) : Nat :=
  let sum := (scaleOf p).1 * p.fixed + ([0, 1, 2].map fun c => floorDraw (drawsOf w p true c)).foldl (· + ·) 0
  ceilDiv sum (1000 * (scaleOf p).2)

/-! ### Throttle reasons and the unmet cap (R403, R407) -/

/-- The eight reasons after an arbitration, in bit order. `free` is the compute setting without OP_LIMIT and the
sympathy limits. -/
def reasonsNow (w : Winder) (set : List (Nat × (Nat × Nat))) (free : Nat × Nat) : List Bool :=
  let c := setOf set 2
  let low := fun a b => decide ((a : Nat × Nat).1 < b.1) || (a.1 == b.1 && decide (b.2 < a.2))
  [(computeSets w true).head? != some c, (setOf set 1).2 != 0, (setOf set 0).2 != 0,
   decide (w.capTherm < 3600) || w.recovery, w.current, w.droop,
   decide (w.capSb < w.capHost) && decide (w.capSb < w.capTherm),
   (decide (w.capHost < w.capSb) && decide (w.capHost < w.capTherm)) || (!outside w && low c free)]
/-- A sympathy limit alone makes the host-request reason active: without any, OP_LIMIT and CAP_HOST would not (R404). -/
def onlySympathy (w : Winder) (p : Prediction) : Bool :=
  let x := { w with symp := [] }
  let free := setOf (arbitrate w p false) 2
  (reasonsNow w (arbitrate w p true) free).getD 7 false && !(reasonsNow x (arbitrate x p true) free).getD 7 false
/-- One reason's episode begins, goes on or ends. -/
def stepReason (time : Nat) (x : Reason) (on : Bool) : Reason :=
  if on && !x.on then { x with on := true, start := time }
  else if !on && x.on then { on := false, start := 0, total := sat64 (x.total + (time - x.start) / 1000) }
  else x
def stepReasons (w : Winder) (time : Nat) (now : List Bool) : Winder :=
  { w with reasons := now.zipIdx.foldl (fun t p => Tab.set {} t p.2 (stepReason time (Tab.get {} t p.2) p.1)) w.reasons }
/-- Every class stood at its floor setting in the last period; in fixed-frequency mode, at 25% duty. -/
def atFloor (w : Winder) : Bool :=
  w.dutyC == 25 && w.dutyM == 25 && w.dutyL == 25 && (w.op == 0 || w.fix.isSome)
/-- The cap-unmet state over the last period, with the record at its end. -/
def unmetStep (s : State) (measured : Nat) : State :=
  let w := s.winder
  let bad := atFloor w && decide (1000 * capEff w < measured)
  match w.unmet with
  | none => if bad then modWinder s fun w => { w with unmet := some s.time } else s
  | some t =>
    if bad then s else
    postSump (modWinder s fun w => { w with unmet := none })
      { cls := 0, unit := 0x0C, kind := 10, d4 := t, d5 := (s.time - t) / 1000 }

/-! ### The control period (R390, R395, R399, R505) -/

/-- The settings of an arbitration applied: a lower point at once, a higher one once the supply has settled. -/
def applySet (w : Winder) (set : List (Nat × (Nat × Nat))) : Winder :=
  let c := setOf set 2
  let w := { w with dutyC := c.2, dutyM := (setOf set 1).2, dutyL := (setOf set 0).2 }
  if c.1 < w.op then { w with op := c.1, raise := none }
  else if w.op < c.1 then { w with raise := some (w.op + 1) }
  else { w with raise := none }
/-- CONTROL_PERIOD. The bubbles of droop and of rail currents belong to the period that ends. -/
def controlStep (s : State) (p : Prediction) : State :=
  if !winderRuns s then s else
  let s := unmetStep s p.measured
  let w := s.winder
  let recent := (p.measured :: w.recent).take 500
  let w := { w with recent := recent, pin := recent.foldl (· + ·) 0 / (1000 * recent.length), floor := floorOf w p }
  let set := arbitrate w p true
  let only := onlySympathy w p
  let w := applySet (stepReasons w s.time (reasonsNow w set (setOf (arbitrate w p false) 2))) set
  let w := { w with droop := false, current := false, currentB := [], sympOnly := only }
  let w := { w with sum := winderWords w, gen := w.gen + 2 }
  let fs := s.faces.foldl (fun t e => Tab.set {} t e.1 { e.2 with droop := false }) s.faces
  { s with winder := w, faces := fs }
def execControlPeriod (p : Prediction) (s : State) : Res := .next (controlStep s p)
/-- OP_RAISE_SETTLED: the frequency follows the supply by one step (R390). -/
def settledStep (s : State) : State :=
  if !winderRuns s then s else
  match s.winder.raise with | some n => modWinder s fun w => { w with op := n, raise := none } | none => s
def execOpRaiseSettled (s : State) : Res := .next (settledStep s)
/-- One step down, where bubbles pass or reach the limit of R397; never in fixed-frequency mode (R401). -/
def lowerPoint (w : Winder) : Winder := if w.fix.isNone then { w with op := w.op - 1, raise := none } else w
/-- Face cycles in 1 µs at the operating point (R389). -/
def faceCycles (w : Winder) : Nat := 700 + 50 * w.op
/-- Percent of the duty that cap bubbles leave below the limit of R397. -/
def spareDuty (w : Winder) : Nat := 25 - w.dutyC
/-- DROOP_DETECT: bubbles on the face while its supply stays low, for 1 to 8 cycles, a free value (R399, log 36). With the cap
bubbles they stay within 25% of any 1 µs; where they would pass it, the operating point goes one step down. -/
def droopStep (s : State) (f : Nat) : State :=
  if !winderRuns s || s.power != .s0 then s else
  let (v, s) := freeValue s
  let recent := (face s f).bubbles.filter fun b => decide (s.time < b.1 + 1000)
  let left := spareDuty s.winder * faceCycles s.winder / 100 - (recent.map Prod.snd).foldl (· + ·) 0
  let n := v.toNat % 8 + 1
  let s := setFace s f { face s f with droop := true, bubbles := recent ++ [(s.time, min n left)] }
  modWinder s fun w => if left < n then lowerPoint { w with droop := true } else { w with droop := true }
def execDroopDetect (f : Fin 128) (s : State) : Res := .next (droopStep s f)
/-- The rails whose current starts bubbles (R400). -/
def feedsBench : Rail → Bool
  | .vinB0 => true | .vinB1 => true | .vinB2 => true | .vinB3 => true | .vinM => true
  | .vddIo => false | .vddAna => false | .vddAux => false | .vddLas => false
/-- The benches that a rail feeds: its own quadrant, or every quadrant for VIN_M (R483, DEDUCED, log 36). -/
def railBenches : Rail → List Nat
  | .vinB0 => [0] | .vinB1 => [1] | .vinB2 => [2] | .vinB3 => [3] | .vinM => [0, 1, 2, 3]
  | .vddIo => [] | .vddAna => [] | .vddAux => [] | .vddLas => []
/-- RAIL_CURRENT_SAMPLE: the rails named exceed their rated current. Bubbles begin on the benches they feed, at a duty that is a
free value from 1% to 25% (R400, log 36); at the limit of R397 the operating point goes one step down. -/
def currentStep (s : State) (rails : List Rail) : State :=
  if !winderRuns s || !rails.any feedsBench then s else
  let (v, s) := freeValue s
  let n := v.toNat % 25 + 1
  let left := spareDuty s.winder
  modWinder s fun w =>
    let w := { w with current := true, currentB := (rails.flatMap railBenches).foldl (fun t b => Tab.set 0 t b (min n left)) w.currentB }
    if left ≤ n then lowerPoint w else w
def execRailCurrentSample (rails : List Rail) (s : State) : Res := .next (currentStep s rails)

/-! ### Margins (R392): trims in steps of 0.5 mV -/

def trimOf (w : Winder) (b : Nat) : Int := Tab.get 0 w.trim b
/-- The supply of a bench's faces, in steps of 0.5 mV: its table entry at the operating point, trimmed (R391, R392). -/
def supplyOf (s : State) (b : Nat) : Int := 2 * (Tab.get 0 s.boot.volts (19 * b + s.winder.op) : Nat) + trimOf s.winder b
/-- LAMP_CANARY_FAIL: the trim rises by 5 mV, or the bench is capped one point below; bubbles on its faces. -/
def canaryFailStep (s : State) (b : Nat) : State :=
  if !winderRuns s || s.power == .s2 then s else
  let s := (List.range 32).foldl (fun s i => setFace s (32 * b + i) { face s (32 * b + i) with droop := true }) s
  let s := modWinder s fun w => { w with cleanAt := Tab.set 0 w.cleanAt b s.time }
  let w := s.winder
  if trimOf w b < 80 then modWinder s fun w => { w with trim := Tab.set 0 w.trim b (min 80 (trimOf w b + 10)) }
  else
    let n := match Tab.get none w.margin b with | some n => min n (w.op - 1) | none => w.op - 1
    postSump (modWinder s fun w => { w with margin := Tab.set none w.margin b (some n) })
      { cls := 0, unit := 0x0C, kind := 11, d4 := b + at' n 8 }
def execLampCanaryFail (bench : Fin 4) (s : State) : Res := .next (canaryFailStep s bench)
/-- LAMP_TRIM_LOWER: 2.5 mV, not below -20 mV, once the bench's canaries have stayed clean for 1 s. -/
def trimLowerStep (s : State) (b : Nat) : State :=
  if !winderRuns s then s else
  let s := advanceTo s (Tab.get 0 s.winder.cleanAt b + 1000000000)
  modWinder s fun w => { w with trim := Tab.set 0 w.trim b (max (-40) (trimOf w b - 5)), cleanAt := Tab.set 0 w.cleanAt b s.time }
def execLampTrimLower (bench : Fin 4) (s : State) : Res := .next (trimLowerStep s bench)
def saveTrims (s : State) : State := modWinder s fun w => { w with saved := w.trim }
/-- TRIM_SAVE: once per hour in S0. -/
def trimSaveStep (s : State) : State := if winderRuns s && s.power == .s0 then saveTrims s else s
def execTrimSave (s : State) : Res := .next (trimSaveStep s)

/-! ### Temperature (R408 to R411): readings in 0.25 °C -/

/-- THERMAL_LOOP: the mean input power of the last 1 ms is given, in W (R409). -/
def thermalStep (s : State) (mean : Nat) : State :=
  if !winderRuns s then s
  else if 360 ≤ s.winder.hottest then modWinder s fun w => { w with capTherm := min w.capTherm mean - 50 }
  else if s.winder.hottest ≤ 352 then modWinder s fun w => { w with capTherm := min 3600 (w.capTherm + 25) }
  else s
def execThermalLoop (meanPower : Nat) (s : State) : Res := .next (thermalStep s meanPower)
/-- Recovery begins: OP0, and one MMA every N cycles, where the winder sets N from 1 to 16 (R410). -/
def beginRecovery (s : State) : State :=
  let (v, s) := freeValue s
  modWinder s fun w => { w with recovery := true, cool := none, op := 0, raise := none, mmaEvery := v.toNat % 16 + 1 }
/-- TEMPERATURE_SAMPLE: the hottest sensor of a sample (R408, R410). -/
def temperatureStep (s : State) (t : Int) : State :=
  if !winderRuns s then s else
  let s := modWinder s fun w => { w with hottest := t }
  if 380 ≤ t then
    if s.winder.recovery then modWinder s fun w => { w with cool := none } else beginRecovery s
  else if !s.winder.recovery then s
  else if t ≤ 352 then
    match s.winder.cool with
    | none => modWinder s fun w => { w with cool := some s.time }
    | some t0 =>
      if t0 + 10000000 ≤ s.time then modWinder s fun w => { w with recovery := false, cool := none, mmaEvery := 1 } else s
  else modWinder s fun w => { w with cool := none }
def execTemperatureSample (hottest : Int) (s : State) : Res := .next (temperatureStep s hottest)
/-- Every domain but the always-on one stops, and the lasers go off (R411, R488). -/
def stopDomains (s : State) : State :=
  let sh := s.shafts.foldl (fun t e => Tab.set {} t e.1
    { e.2 with state := .off, auth := 0, auths := [], queue := [], ctrl := [], resend := [], replay := [], locked := false }) s.shafts
  let b := { s.bell with state := .off, queue := [], flying := none }
  { s with shafts := sh, bell := b, pins := { s.pins with stopped := true } }
/-- THERMTRIP: from 105 °C on, in any power state; independent of firmware. -/
def thermtripStep (s : State) (sensor : Nat) (t : Int) : State :=
  if t < 420 ∨ s.pins.trip ∨ !s.pins.good.contains .vddAux then s else
  let s := deviceFatal s { cls := 3, unit := 0x0D, kind := 13, d4 := sensor, d5 := (BitVec.ofInt 64 t).toNat }
  let s := stopDomains s
  { s with pins := { s.pins with trip := true } }
def execThermtrip (sensor : Fin 224) (reading : Int) (s : State) : Res := .next (thermtripStep s sensor reading)

/-! ### Commands of the management ring -/

/-- CAP_SET (R387, R393, R406). -/
def capSetStep (s : State) (r : Nat) : State :=
  lervo s r 0x801 [span 12 0] fun k s =>
    let n := par k 1 12 0
    if n = 0 ∨ 3600 < n then refuse s stBadEncoding else
    let s := modWinder s fun w => { w with capHost := n }
    .done s (if n < s.winder.floor then stCapBelowFloor else stOk) s.winder.floor 0
def execCapSet (r : Fin 256) (s : State) : Res := .next (capSetStep s r)
/-- CAP_FLOOR (R405). -/
def capFloorStep (s : State) (r : Nat) : State := lervo s r 0x802 [] fun _ s => .done s stOk s.winder.floor 0
def execCapFloor (r : Fin 256) (s : State) : Res := .next (capFloorStep s r)
/-- WINDER_PRIORITY_SET (R396). -/
def prioritySetStep (s : State) (r : Nat) : State :=
  lervo s r 0x803 [span 5 0] fun k s =>
    let l := [par k 1 5 4, par k 1 3 2, par k 1 1 0]
    if l.contains 3 ∨ l.eraseDups.length ≠ 3 then refuse s stBadEncoding
    else okay (modWinder s fun w => { w with order := l })
def execWinderPrioritySet (r : Fin 256) (s : State) : Res := .next (prioritySetStep s r)
/-- OP_FIX (R387, R401). -/
def opFixStep (s : State) (r : Nat) : State :=
  lervo s r 0x804 [span 4 0 + span 8 8] fun k s =>
    let n := par k 1 4 0
    if 11 < n then refuse s stBadEncoding
    else okay (modWinder s fun w => { w with fix := if par k 1 8 8 = 1 then some n else none })
def execOpFix (r : Fin 256) (s : State) : Res := .next (opFixStep s r)
/-- OP_LIMIT (R387, R402). -/
def opLimitStep (s : State) (r : Nat) : State :=
  lervo s r 0x805 [span 4 0] fun k s =>
    let n := par k 1 4 0
    if 18 < n then refuse s stBadEncoding else okay (modWinder s fun w => { w with limit := n })
def execOpLimit (r : Fin 256) (s : State) : Res := .next (opLimitStep s r)
/-- WINDER_QUERY: bytes 64 to 319 of the MUSTER layout. -/
def winderQueryStep (s : State) (r : Nat) : State :=
  lervo s r 0x806 [whole] fun k s => putHost s k (par k 1 63 0) (wordsBytes (winderWords s.winder)) okay
def execWinderQuery (r : Fin 256) (s : State) : Res := .next (winderQueryStep s r)
/-- MARGIN_CLEAR: caps and trims of the named benches (R392). -/
def marginClearStep (s : State) (r : Nat) : State :=
  lervo s r 0x808 [span 3 0] fun k s =>
    let m := par k 1 3 0
    if m = 0 then refuse s stBadEncoding else
    let bs := (List.range 4).filter m.testBit
    let capped := bs.filter fun b => (Tab.get none s.winder.margin b).isSome
    let w := bs.foldl (fun (w : Winder) b => { w with margin := Tab.set none w.margin b none, trim := Tab.set 0 w.trim b 0 }) s.winder
    .done { s with winder := w } stOk ((capped.map (2 ^ ·)).foldl (· + ·) 0) 0
def execMarginClear (r : Fin 256) (s : State) : Res := .next (marginClearStep s r)

end Sys2Proof.Machine
end

