-- ==== Sys2Proof/Machine/Resets.lean ====
section
/-!
DEFINITION. The resets (R424 to R427): what a warm and a fundamental reset keep, and the sump's way to flash (R474).
-/
namespace Sys2Proof.Machine
open Sys2Proof

/-! ### The sump and module flash (R474, R488) -/

/-- The write buffer goes to flash, and records that wait take its place. -/
def writeSump (u : Sump) : Sump :=
  { u with pending := u.waiting.take 64, waiting := u.waiting.drop 64 }
/-- Everything posted goes to flash: records survive every reset and power state. -/
def flushSump (u : Sump) : Sump :=
  { u with pending := [], waiting := [] }
/-- The sump after a reset; SUMP_WRITTEN goes on until a fundamental reset. -/
def resetSump (u : Sump) (written : Nat) : Sump :=
  let v := flushSump u
  { recs := v.recs, head := v.head, written := written, since := v.since }
/-- Records that were not written when VDD_AUX failed may be lost: which ones, and what flash then reads, is free (R488). -/
def loseSump (s : State) : State :=
  let (which, s) := freeValue s
  let u := s.sump
  let s := { s with sump := { u with pending := [], waiting := [] } }
  (u.pending ++ u.waiting).zipIdx.foldl (fun s p =>
    if which.getLsbD (p.2 % 64) then
      let (ws, s) := (List.range 8).foldl (fun (acc : List W64 × State) _ =>
        let (v, s) := freeValue acc.2
        (acc.1 ++ [v], s)) ([], s)
      { s with sump := { s.sump with recs := Tab.set [] s.sump.recs p.1 ws } }
    else s) s
/-- SUMP_FLASH_WRITE. -/
def flashWriteStep (s : State) : State :=
  if s.pins.good.contains .vddAux && !s.pins.perst then { s with sump := writeSump s.sump } else s
def execSumpFlashWrite (s : State) : Res := .next (flashWriteStep s)

/-! ### The warm reset -/

/-- Outstanding commands receive their one reply (R359), but for one that is named. -/
def abortRings (s : State) (but : Option (Nat × W32)) : State :=
  (List.range 256).foldl (fun s r =>
    (ring s r).out.foldl (fun s q => if but = some (r, q.seq) then s else reply s r q.seq stRequestAborted 0 0) s) s
/-- Every claim ends (R346). -/
def endClaims (s : State) : State := (liveClaims s).foldl closeClaim s
/-- A claim that a reset has ended keeps its tags until its memory is cleared (R346, R424), and no key (R441). -/
def clearingClaim (k : Claim) : Claim :=
  { live := true, clearing := some (256, 0, false), shift := .none, desc := keyless k.desc, ctag := k.ctag, units := k.units, t1g := k.t1g
    t2g := k.t2g, sblk := k.sblk, tblk := k.tblk, sys := k.sys }
/-- A ring keeps its binding; one of an ended claim completes with NO_CLAIM (R379, R420). -/
def unboundRing (x : Ring) : Ring :=
  if x.bound then { bound := true, cls := x.cls, fn := x.fn, claim := x.claim, orphan := x.cls != .management } else {}
/-- The winder keeps caps, priority order, throttle counts, and what lies in flash (R391 to R393, R396, R403). -/
def resetWinder (w : Winder) (time : Nat) : Winder :=
  let v := stepReasons w time (List.replicate 8 false)
  { capHost := w.capHost, capSb := w.capSb, order := w.order, reasons := v.reasons
    margin := w.margin, trim := w.saved, saved := w.saved }
/-- T2 controllers that need no initialisation after the reset: those initialised or retained, and not fenced (R423, R466). -/
def keptT2After (s : State) : BitVec 8 :=
  BitVec.ofNat 8 (((List.range 8).filter fun n =>
    !s.fenced.contains n && (s.boot.t2init || s.boot.keptT2.getLsbD n)).map (2 ^ ·) |>.foldl (· + ·) 0)
/-- Everything returned to its reset value but what a warm reset keeps. -/
def warmKeep (s : State) : State :=
  { State.reset with
    pending := s.pending, time := s.time, stamp := s.stamp, freeCtr := s.freeCtr, rand := s.rand, nextId := s.nextId
    t1 := s.t1, t2 := s.t2, host := s.host, hostBad := s.hostBad, retired := s.retired, vfs := s.vfs, aer := s.aer
    rings := s.rings.foldl (fun t e => Tab.set {} t e.1 (unboundRing e.2)) []
    devAddr := s.devAddr, winder := resetWinder s.winder s.time
    boot := { s.boot with stage := .adit, running := none, perPart := 0, seed := none, volts := [], staging := [], warm := false, waking := false
                          t2init := s.boot.t2init && s.fenced.isEmpty, keptT2 := keptT2After s }
    pins := { s.pins with fault := false }
    side := { reply := s.side.reply, packets := s.side.packets }
    sump := resetSump s.sump s.sump.written }
/-- The warm reset (R424). After a device-fatal error commands already consumed receive no reply (R471). -/
def warmReset (s : State) : State :=
  let s := if s.fatal then s else abortRings (endClaims s) none
  let cs := s.claims.foldl (fun t e => if e.2.live then Tab.set {} t e.1 (clearingClaim e.2) else t) []
  { warmKeep s with claims := cs }

/-! ### The fundamental reset -/

/-- Only module flash, the pins and the model's own counters stay (R424). -/
def fundamental (s : State) : State :=
  { State.reset with
    pending := s.pending, freeCtr := s.freeCtr, rand := { draws := s.rand.draws, seeds := s.rand.seeds }, nextId := s.nextId, host := s.host, hostBad := s.hostBad
    retired := s.retired
    winder := { margin := s.winder.margin, trim := s.winder.saved, saved := s.winder.saved }
    boot := { slotA := s.boot.slotA, slotB := s.boot.slotB, sel0 := s.boot.sel0, sel1 := s.boot.sel1
              ctr0 := s.boot.ctr0, ctr1 := s.boot.ctr1, ctrRest := s.boot.ctrRest, serial := s.boot.serial }
    pins := { trip := s.pins.trip, stopped := s.pins.trip, good := s.pins.good, offB := s.pins.offB, tap := s.pins.tap, tapReset := s.pins.tapReset
              bound := s.pins.bound }
    sump := { resetSump s.sump 0 with since := 0 } }
/-- PERST_N_ASSERT: in any power state. -/
def execPerstNAssert (s : State) : Res := .next (fundamental s)

/-! ### Hot reset and function-level reset (R369, R424, R425) -/

/-- A ring disabled by a reset of its function: replies not yet written are discarded, as they come (R369). -/
def dropRing (x : Ring) : Ring :=
  { x with enable := false, err := 0, sqTail := 0, unsig := 0, out := x.out.map fun c => { c with gone := true } }
/-- One function: its rings, output queues, window, vectors, and for the physical function its DOE mailbox. -/
def resetFn (s : State) (n : Nat) : State :=
  let rs := s.rings.foldl (fun t e => if e.2.bound && e.2.fn == n then Tab.set {} t e.1 (dropRing e.2) else t) s.rings
  let qs := s.outqs.foldl (fun t e => if e.2.conf && e.2.fn == n then Tab.set {} t e.1 {} else t) s.outqs
  let ms := s.msix.filter fun e => e.1 / 512 != n
  let s := { setFn s n {} with rings := rs, outqs := qs, msix := ms }
  if n = 0 then { s with side := { s.side with doe := none } } else s
/-- The adit link is up (R412, R421). -/
def aditUp (s : State) : Bool :=
  !s.pins.perst && !s.pins.stopped && timeRuns s && (match s.boot.stage with | .adit => true | .ready => true | .stopped => true | _ => false)
/-- FUNCTION_LEVEL_RESET; one of the physical function resets every virtual function as well. -/
def flrStep (s : State) (n : Nat) : State :=
  if !aditUp s || decide (s.vfs < n) then s else coolCap (if n = 0 then (List.range 33).foldl resetFn s else resetFn s n)
def execFunctionLevelReset (fn : Fin 33) (s : State) : Res := .next (flrStep s fn)
/-- HOT_RESET: every function, and the IDE streams. -/
def hotStep (s : State) : State :=
  if !aditUp s then s else
  let s := coolCap ((List.range 33).foldl resetFn s)
  { s with side := { s.side with ide0 := .insecure, ide1 := .insecure } }
def execHotReset (s : State) : Res := .next (hotStep s)

end Sys2Proof.Machine
end

