-- ==== Sys2Proof/Machine/Boot.lean ====
section
/-!
DEFINITION. Signed images, boot and firmware (R421 to R423, R428 to R436): verification, the slots, the anti-rollback
counters, staging and activation, and the initialisation of memory.
-/
namespace Sys2Proof.Machine
open Sys2Proof

/-! ### Signed images (R429, R430) -/

def someSet (l : List Byte) : Bool := l.any (· != 0)
/-- The form of an image: magic, format, kind, reserved bytes, length. -/
def imageForm (img : List Byte) (kind : Nat) : Bool :=
  let n := dsc img 16 4
  dsc img 0 4 == 0x564C5349 && dsc img 4 2 == 1 && dsc img 6 2 == kind && n != 0 && decide (n ≤ 16771584) &&
  img.length == 5632 + n && !someSet ((img.drop 20).take 108) && !someSet ((img.drop 5485).take 147)
/-- The digest that both signatures cover: the image's measurement. -/
def imageDigest (img : List Byte) : List Byte := sha3Bytes (img.take 128 ++ img.drop 5632)
/-- Keys and signatures. -/
def imageSigned (img : List Byte) : Bool :=
  let ed := (img.drop 128).take 32
  let pq := (img.drop 160).take 1952
  let d := imageDigest img
  sha3 ed == Config.romEdHash && sha3 pq == Config.romPqHash &&
  ed25519Verify ed d ((img.drop 2112).take 64) && mldsa65Verify pq d ((img.drop 2176).take 3309)
/-- verify_image: 0, IMAGE_BAD, or ROLLBACK where the SVN check alone fails. -/
def verifyImage (img : List Byte) (kind ctr : Nat) : Nat :=
  if !imageForm img kind || !imageSigned img then stImageBad
  else if dsc img 12 4 < ctr then stRollback
  else 0
def fwOf (img : List Byte) : FwImage :=
  { version := dsc img 8 4, svn := dsc img 12 4, digest := BitVec.ofNat 256 (leNat (imageDigest img)) }

/-! ### Slots (R431 to R434) -/

/-- The slot selector names slot B: the valid copy with the higher sequence number says so. DESIGN CHOICE (log 8): with no valid
copy it names A. -/
def selB (b : Boots) : Bool :=
  if b.sel0.good && (!b.sel1.good || decide (b.sel1.seq < b.sel0.seq)) then b.sel0.slotB
  else b.sel1.good && b.sel1.slotB
/-- The selector made to name the other slot, in the copy that is not in force. -/
def flipSel (b : Boots) : Boots :=
  let first := b.sel0.good && (!b.sel1.good || decide (b.sel1.seq < b.sel0.seq))
  if first then { b with sel1 := ⟨b.sel0.seq + 1, !b.sel0.slotB, true⟩ }
  else { b with sel0 := ⟨b.sel1.seq + 1, !selB b, true⟩ }
/-- An image that still verifies against counter 0. -/
def fresh (b : Boots) (o : Option FwImage) : Option FwImage := o.filter fun i => decide (b.ctr0 ≤ i.svn)
/-- The image that the boot ROM runs: the selected slot, else the other. -/
def bootImage (b : Boots) : Option FwImage :=
  let first := if selB b then b.slotB else b.slotA
  let second := if selB b then b.slotA else b.slotB
  match fresh b first with | some i => some i | none => fresh b second
/-- The slot that the selector does not name. -/
def inactive (b : Boots) : Option FwImage := if selB b then b.slotA else b.slotB
def setInactive (b : Boots) (o : Option FwImage) : Boots := if selB b then { b with slotA := o } else { b with slotB := o }
/-- The verified image that may be activated. -/
def staged (b : Boots) : Option FwImage := if b.staging.isEmpty then fresh b (inactive b) else none

/-! ### The identity (R432, R435) -/

def seedBytes (seed : BitVec 256) : List Byte := leBytes 32 seed.toNat
/-- The Ed25519 private key, the seed of the ML-DSA key pair, and the key of the counter region. -/
def keyEd (seed : BitVec 256) : List Byte := shake256 (seedBytes seed ++ ascii "YM-ID-ED25519") 32
def keyXi (seed : BitVec 256) : List Byte := shake256 (seedBytes seed ++ ascii "YM-ID-MLDSA65") 32
def keyCtr (seed : BitVec 256) : List Byte := shake256 (seedBytes seed ++ ascii "YM-CTR") 32
/-- Both derived public keys are those of the certificates. -/
def identityOk (seed : BitVec 256) : Bool :=
  edPublic (keyEd seed) == Config.leafKey 0 && mldsaPublic (keyXi seed) == Config.leafKey 1
/-- The eight counters as the region holds them. DESIGN CHOICE (log 8): 4 bytes each, least significant first, in order. -/
def regionBytes (b : Boots) : List Byte := (b.ctr0 :: b.ctr1 :: b.ctrRest).flatMap (leBytes 4)
/-- The region authenticates under the counter key. -/
def regionOk (b : Boots) (seed tag : BitVec 256) : Bool := hmac (keyCtr seed) (regionBytes b) == leBytes 32 tag.toNat

/-! ### Boot (R421, R422, R431, R432, R435) -/

/-- Every rail but that of the lasers is good, and no bench is kept unpowered (R485, R486). -/
def railsGood (s : State) : Bool :=
  [Rail.vinB0, .vinB1, .vinB2, .vinB3, .vinM, .vddIo, .vddAna, .vddAux].all s.pins.good.contains && s.pins.offB.isEmpty
/-- Every bench and operating point has its entry (R391). -/
def voltsComplete (t : List (Nat × Nat × Nat)) : Bool :=
  (List.range 4).all fun b => (List.range 19).all fun n => t.any fun e => e.1 == b && e.2.1 == n && e.2.2 != 0
/-- The voltage table of an image as it is kept. -/
def voltTab (t : List (Nat × Nat × Nat)) : Tab Nat := t.foldl (fun a e => Tab.set 0 a (19 * e.1 + e.2.1) e.2.2) []
/-- *Boot failure causes*; 0 when firmware-ready is reached. DESIGN CHOICE (log 8): the counters are authenticated before an image is
held to them, once the seed gives the key. -/
def bootCause (s : State) (inp : BootInputs) : Nat :=
  if !inp.flashReadable || inp.seed.any (fun k => !regionOk s.boot k inp.regionTag) then 4
  else if (bootImage s.boot).isNone then 1
  else if !inp.seed.any identityOk then 3
  else if verifyImage inp.perPartImage 2 s.boot.ctr1 ≠ 0 ∨ !voltsComplete inp.voltages then 2
  else if !inp.pllAndRailsOk || !railsGood s then 5
  else 0
/-- The end of boot: firmware-ready, with the counters advanced, or a stop with FAULT_N. -/
def bootEnd (s : State) (inp : BootInputs) : State :=
  let b := s.boot
  let cause := bootCause s inp
  let fw := bootImage b
  let per := fwOf inp.perPartImage
  let loaded := cause == 0 || cause == 5
  let b := { b with running := if cause = 4 then none else fw
                    perPart := if loaded then per.digest else 0
                    volts := if loaded then voltTab inp.voltages else []
                    seed := if loaded || cause == 2 then inp.seed else none
                    ctr1 := if loaded then max b.ctr1 per.svn else b.ctr1 }
  if cause = 0 then
    let n := match fw with | some i => i.svn | none => 0
    { s with boot := { b with stage := .ready, ctr0 := max b.ctr0 n }
             winder := { s.winder with startup := false, mmaEvery := 1 } }
  else { s with boot := { b with stage := .stopped, cause := cause }, pins := { s.pins with fault := true } }
def readyStep (s : State) (inp : BootInputs) : State :=
  if s.pins.perst || s.pins.stopped || s.boot.stage != .adit || s.power != .s0 then s else bootEnd s inp
def execFirmwareReady (inp : BootInputs) (s : State) : Res := .next (readyStep s inp)
/-- ADIT_READY (R421 step 2). -/
def aditStep (s : State) : State :=
  if s.pins.perst || s.pins.stopped || s.boot.stage != .straps || s.power != .s0 then s
  else { s with boot := { s.boot with stage := .adit } }
def execAditReady (s : State) : Res := .next (aditStep s)

/-! ### Initialisation of T1 and T2 (R423) -/

/-- Firmware runs, in S0, S1 or S2. -/
def firmwareRuns (s : State) : Bool := aditUp s && !s.fatal && s.boot.stage == .ready
/-- Every word becomes data 0, but those of retained granules. -/
def initStack (s : State) (n : Nat) : State :=
  if s.boot.t1init.getLsbD n then s else
  let t := s.t1.filter fun e => t1Stack e.1 != n || s.boot.keptT1.getLsbD (e.1 / pageWords / 512)
  { s with t1 := t, boot := { s.boot with t1init := s.boot.t1init ||| BitVec.ofNat 12 (2 ^ n) } }
def initT2 (s : State) : State :=
  if s.boot.t2init then s else
  let t := s.t2.filter fun e => s.boot.keptT2.getLsbD (t2Ctl e.1)
  { s with t2 := t, boot := { s.boot with t2init := true } }
def memInitStep (s : State) (u : MemUnit) : State :=
  if !firmwareRuns s then s else
  createWaiting (match u with | .stack n => initStack s n | .t2All => initT2 s)
def execMemoryInitDone (u : MemUnit) (s : State) : Res := .next (memInitStep s u)

/-! ### Commands (R387, R433, R434) -/

/-- FW_STAGE: the slot is erased when the staging begins. -/
def fwStageStep (s : State) (r : Nat) : State :=
  lervo s r 0x901 [whole, span 31 0] fun k s =>
    let b := s.boot
    let b := if b.staging.isEmpty then setInactive b none else b
    .wait { s with boot := { b with staging := b.staging ++ [(k.r, k.seq, par k 1 63 0, par k 2 31 0)] } }
def execFwStage (r : Fin 256) (s : State) : Res := .next (fwStageStep s r)
/-- The first staging ends with a status and what the slot then holds; the next one erases it again. -/
def endStaging (s : State) (status : Nat) (o : Option FwImage) : State :=
  match s.boot.staging with
  | [] => s
  | (r, q, _, _) :: rest =>
    let b := setInactive { s.boot with staging := rest } (if rest.isEmpty then o else none)
    reply { s with boot := b } r q status 0 0
/-- FW_STAGE_DONE, of a staging that came on ring r. -/
def stageDoneStep (s : State) (r : Nat) : State :=
  if !firmwareRuns s then s else
  match s.boot.staging with
  | [] => s
  | (n, q, a, len) :: _ =>
    if n ≠ r then s
    else if !hostOk s a len then endStaging (logHost s (ringHolder s n) (some (n, q)) stHostAccessFail) stHostAccessFail none
    else
      let img := hostRead s a len
      let st := verifyImage img 1 s.boot.ctr0
      endStaging s st (if st = 0 then some (fwOf img) else none)
def execFwStageDone (r : Fin 256) (s : State) : Res := .next (stageDoneStep s r)
/-- FW_ACTIVATE: the selector names the staged slot, the reply goes, and the warm reset follows. -/
def fwActivateStep (s : State) (r : Nat) : State :=
  let t := lervo s r 0x902 [] fun _ s =>
    if (staged s.boot).isNone then refuse s stFwBusy
    else okay { s with boot := { flipSel s.boot with warm := true } }
  if t.boot.warm then warmReset t else t
def execFwActivate (r : Fin 256) (s : State) : Res := .next (fwActivateStep s r)
/-- VERSION of an image, 0 for none (R387, FW_QUERY). No command runs before firmware-ready, and FW_ID reads a free value
until then (`fwId`). -/
def versionOf (o : Option FwImage) : Nat := match o with | some i => i.version | none => 0
/-- FW_QUERY. -/
def fwQueryStep (s : State) (r : Nat) : State :=
  lervo s r 0x903 [] fun _ s => .done s stOk (versionOf s.boot.running) (versionOf (staged s.boot))
def execFwQuery (r : Fin 256) (s : State) : Res := .next (fwQueryStep s r)

/-! ### SUMP_READ (R474, R475) -/

/-- Records of the sump in index order, and how many were ever written. -/
def sumpRecords (u : Sump) (first n : Nat) : List (List W64) := (List.range n).map fun i => Tab.get [] u.recs ((first + i) % 4096)
def recordBytes (ws : List W64) : List Byte := if ws.isEmpty then List.replicate 64 0 else wordsBytes ws
def sumpReadStep (s : State) (r : Nat) : State :=
  lervo s r 0xA01 [whole, span 24 0] fun k s =>
    let n := par k 2 24 12
    if n = 0 ∨ 4096 < n then refuse s stBadEncoding else
    let rs := sumpRecords s.sump (par k 2 11 0) n
    putHost s k (par k 1 63 0) (rs.map recordBytes).flatten fun s =>
      .done s stOk (rs.filter fun ws => !ws.isEmpty).length s.sump.head
def execSumpRead (r : Fin 256) (s : State) : Res := .next (sumpReadStep s r)

end Sys2Proof.Machine
end

