-- ==== Sys2Proof/Machine/Errors.lean ====
section
/-!
DEFINITION. Errors that no request finds (R463, R466, R473): the firmware cores' watchdogs, the bench fabric, and the
fence of a T2 controller.
-/
namespace Sys2Proof.Machine
open Sys2Proof

/-- The headframe runs: S0 to S2, once boot has begun. -/
def headframeRuns (s : State) : Bool :=
  timeRuns s && !s.pins.perst && !s.pins.stopped && (match s.boot.stage with | .held => false | .straps => true | .adit => true | .ready => true | .stopped => true)
/-- CORE_WATCHDOG. -/
def watchdogStep (s : State) (core pc : Nat) : State :=
  if headframeRuns s then deviceFatal s { cls := 3, unit := 0x0A, inst := core, kind := 7, d4 := pc } else s
def execCoreWatchdog (core : Fin 4) (pc : W64) (s : State) : Res := .next (watchdogStep s core pc.toNat)
/-- FABRIC_CRC_FAIL of the port of a bench; `again` for the flit that failed last, sent once more. The sixteenth
failure of one flit is device-fatal; each other one is a resend. An error after a device-fatal one is recorded as well (R472). -/
def fabricStep (s : State) (b : Nat) (again : Bool) : State :=
  if !headframeRuns s then s else
  let n := (if again then Tab.get 0 s.fabric b else 0) + 1
  let s := { s with fabric := Tab.set 0 s.fabric b n }
  let r : SumpRec := { cls := 0, unit := 0x06, inst := b, kind := 5 }
  if 16 ≤ n then deviceFatal s { r with cls := 3 } else postSump s r
def execFabricCrcFail (bench : Fin 4) (again : Bool) (s : State) : Res := .next (fabricStep s bench again)
/-- Claims that own a granule on a T2 controller. -/
def claimsOnT2 (s : State) (n : Nat) : List Nat :=
  (liveClaims s).filter fun c => (List.range 256).any fun g => (claim s c).t2g.getLsbD (256 * n + g)
/-- A controller has found at least 16 words with errors within 1 ms, with every erroneous bit on the lanes of one device. -/
def fenceDue (s : State) (n : Nat) : Bool :=
  (List.range 5).any fun d =>
    decide (16 ≤ (s.t2Errs.filter fun e => e.1 == n && (e.2.1 == d || e.2.1 == 5) && decide (s.time < e.2.2 + 1000000)).length)
/-- T2_FENCE: a controller that meets this pattern is fenced, and each of its claims ends. The manual names no status for them: it
is free among the codes of R388 beside OK. -/
def fenceT2Step (s : State) (n : Nat) : State :=
  if !headframeRuns s || !fenceDue s n || s.fenced.contains n then s else
  let (v, s) := freeValue s
  let s := { s with fenced := insSorted n s.fenced }
  (claimsOnT2 s n).foldl (fun s c =>
    claimFatal s c (failCodes.getD (v.toNat % failCodes.length) stOwnerFault) { cls := 2, unit := 0x05, inst := n, kind := 14 }) s
def execT2Fence (t2c : Fin 8) (s : State) : Res := .next (fenceT2Step s t2c)

end Sys2Proof.Machine
end

