-- ==== Sys2Proof/Machine/Learning.lean ====
section
/-!
DEFINITION. The update sweep (R184 to R199): block and hyperparameter records, the rules, a block's update and
its failures, the canary (R201 to R207, R514) and the end of the sweep with the scale tables (R63, R193).
-/
namespace Sys2Proof.Machine
open Sys2Proof

/-! ### Descriptors and records (R184 to R186) -/

structure Blk where
  count : Nat
  first : Nat
  group : Nat
  layer : Nat
  wa    : Nat
  va    : Nat
  ra    : Nat
  m1    : Nat
  m2    : Nat
  ta    : Nat
  tid   : Nat
  rows  : Nat
  cols  : Nat
deriving DecidableEq, Repr

def parseBlk (ws : List W64) : Blk :=
  let w := fun n => ws.getD n 0
  { count := fld (w 0) 63 40 + 1, first := fld (w 0) 39 0, group := fld (w 1) 63 56, layer := fld (w 1) 55 48
    wa := fld (w 1) 47 0, va := fld (w 2) 47 0, ra := fld (w 3) 47 0, m1 := fld (w 4) 47 0, m2 := fld (w 5) 47 0
    ta := fld (w 6) 47 0, tid := fld (w 7) 63 32, rows := fld (w 7) 31 16 + 1, cols := fld (w 7) 15 0 + 1 }
def descOf (w : Sweep) (i : Nat) : List W64 := w.descs.getD i []
def blkOf (w : Sweep) (i : Nat) : Blk := parseBlk (descOf w i)
def ruleOf (h : List W64) : Nat := fld (h.getD 0 0) 18 16
/-- A reserved RULE, or a reserved field of a record that is not 0. -/
def hyperBad (h : List W64) : Bool :=
  let w := fun n => h.getD n 0
  4 < ruleOf h || fld (w 0) 23 19 != 0 || fld (w 0) 15 0 != 0 || w 6 != 0 || w 7 != 0
/-- First and second moments that a rule uses. -/
def usesM1 (rule : Nat) : Bool := 1 ≤ rule && rule ≤ 4
def usesM2 (rule : Nat) : Bool := rule == 2 || rule == 4
/-- The descriptor breaks R184 or R185. -/
def blkBad (ext : Bool) (ws : List W64) (rule : Nat) : Bool :=
  let b := parseBlk ws
  [2, 3, 4, 5, 6].any (fun n => fld (ws.getD n 0) 63 48 != 0) || b.first % 128 != 0 ||
  [b.wa, b.va, b.ra, b.m1, b.m2, b.ta].any (fun a => a % 8 != 0) || 0xFFFFFFFD < b.tid ||
  (!usesM1 rule && b.m1 != 0) || (!usesM2 rule && b.m2 != 0) || (!ext && b.ta != 0) ||
  (rule == 4 && b.rows * b.cols != b.count)
/-- Ranges of the cell values of n parameters: the V8 blocks that hold one, and their seams; the other blocks of the last
seam group are not read (R192). -/
def cellSpans (va n : Nat) : List (Nat × Nat) :=
  let v := ceilDiv n 16
  let g := va + 136 * (v / 8)
  (va, 136 * (v / 8) + 16 * (v % 8)) :: (if v % 8 = 0 then [] else [(g + 128, v % 8)])
/-- Claim ranges of a block's state, in the order working weights, cell values, moments, tails. -/
def blkSpans (ext : Bool) (b : Blk) (rule : Nat) : List (Nat × Nat) :=
  (b.wa, 2 * b.count) :: cellSpans b.va b.count ++
  (if usesM1 rule then [(b.m1, 2 * (if rule = 4 then b.rows else b.count))] else []) ++
  (if usesM2 rule then [(b.m2, 2 * (if rule = 4 then b.cols else b.count))] else []) ++
  (if ext then [(b.ta, 2 * b.count)] else [])

def setSweep (s : State) (c : Nat) (g : Sweep → Sweep) : State :=
  let k := claim s c
  setClaim s c { k with sweep := k.sweep.map g }
def hyperRec (w : Sweep) (g : Nat) : Option HyperRec := w.recs.find? fun r => r.group == g
/-- Hyperparameter groups that blocks of the sweep name. -/
def groupsOf (w : Sweep) : List Nat := (w.descs.map fun d => (parseBlk d).group).eraseDups
def allRead (w : Sweep) : Bool := (groupsOf w).all fun g => (hyperRec w g).isSome
/-- Records read that have not been, or waited for (R186). -/
def readHyper (s : State) (c : Nat) : State :=
  match (claim s c).sweep with
  | none => s
  | some w =>
    if !w.started then s else
    (groupsOf w).foldl (fun s g =>
      if (hyperRec w g).isSome then s else
      let put := fun st ws => setSweep s c fun w => { w with recs := w.recs ++ [{ group := g, status := st, words := ws }] }
      let s := noteRead s c (w.hyper + 64 * g) 64
      match rdWords s c (w.hyper + 64 * g) 8 with
      | .ok ws => put 0 ws
      | .bad st => put st []
      | .absent l => stallAll s c l .hyper) s

/-! ### The start (R187, R514) -/

/-- The canary table of a claim set to zeros: at once, or as its pages become resident. -/
def zeroTable (s : State) (c va : Nat) : State := storeLater s c none va (List.replicate 131072 0)
/-- A pending canary word and table address take effect; a new mode's statistics begin from zero. -/
def canaryBegin (s : State) (c : Nat) : State :=
  let k := claim s c
  match k.canPend with
  | none => s
  | some (w, tab) =>
    let fresh := fld w 1 0 != fld k.canary 1 0
    let s := setClaim s c { k with canary := w, canTab := some tab, canPend := none, canGen := k.canGen + 2, canCtl := w
                                   alarm := if fresh then [] else k.alarm }
    if fresh && fld w 1 0 == 2 then zeroTable s c tab else s
def sweepStartStep (s : State) (c : Nat) : State :=
  match (claim s c).sweep with
  | some w =>
    if w.due && !w.started && running s then
      readHyper (setSweep (canaryBegin s c) c fun w => { w with started := true }) c
    else s
  | none => s
def execSweepStart (c : Fin 8) (s : State) : Res := .next (sweepStartStep s c)

/-! ### The checks on a block (R156, R190) -/

/-- The block's home quarter: of the first page of WADDR, VADDR, M1ADDR or M2ADDR that has a T1 frame. -/
def homeQuarter (s : State) (c : Nat) (b : Blk) (rule : Nat) : Option Nat :=
  ([b.wa, b.va] ++ (if usesM1 rule then [b.m1] else []) ++ (if usesM2 rule then [b.m2] else [])).findSome? fun a =>
    (frameOf s c (a / 2097152)).map frameQuarter
def blkRule (w : Sweep) (i : Nat) : Nat := match hyperRec w (blkOf w i).group with | some r => ruleOf r.words | none => 0
def homeOf (s : State) (c : Nat) (w : Sweep) (i : Nat) : Option Nat := homeQuarter s c (blkOf w i) (blkRule w i)
/-- One page of a block's state: unmapped, private, or in another quarter; 0 when it may be used. -/
def pieceStatus (s : State) (c q p : Nat) : Nat :=
  let k := claim s c
  let e := pte k p
  if e.state = .unmapped then stAddrUnmapped
  else if (obj k e.obj).priv then stTenantDenied
  else match frameOf s c p with
    | some f => if frameQuarter f = q then 0 else stNotColocated
    | none => 0
/-- A mapped page of the tails lies in an object that is not T2-home (R184). -/
def tailsHome (k : Claim) (b : Blk) : Bool :=
  (pagesOf b.ta (2 * b.count)).all fun p => (pte k p).state == .unmapped || (obj k (pte k p).obj).t2home
/-- The checks before any state is written: 0 or the block's status. -/
def blkStatus (s : State) (c : Nat) (w : Sweep) (i : Nat) : Nat :=
  let k := claim s c
  let b := blkOf w i
  let r := (hyperRec w b.group).getD { group := b.group, status := 0, words := [] }
  let rule := ruleOf r.words
  if r.status ≠ 0 then r.status
  else if hyperBad r.words || blkBad k.extended (descOf w i) rule then stBadBlock
  else if k.extended && !tailsHome k b then stBadBlock
  else match homeQuarter s c b rule with
    | none => stNotColocated
    | some q => (((blkSpans k.extended b rule).flatMap fun p => pagesOf p.1 p.2).find? fun p => pieceStatus s c q p != 0).elim 0
        (pieceStatus s c q)
/-- Pages of the block that are not resident, or of which it touches a leaf under repair (R327). -/
def blkAbsent (s : State) (c : Nat) (b : Blk) (rule : Nat) : List Nat :=
  let k := claim s c
  let spans := blkSpans k.extended b rule
  (((spans.flatMap fun p => pagesOf p.1 p.2).filter fun p => !resident (pte k p)) ++ mendPages k spans).eraseDups
/-- The unit waits for a page, which it hoists into its own quarter where it starts the hoist (R159, R165). -/
def nearWait (s : State) (c i q p : Nat) : State :=
  if waiting s c p (.block i) then s else
  let e := pte (claim s c) p
  let own := e.state == .t2 || (e.state == .writeback && s.hoists.any fun h => h.claim == c && h.page == p && !h.again)
  let s := if own then setSweep s c fun w => { w with near := w.near ++ [(i, p)] } else s
  waitFor s c p (.block i) none (some q)

/-! ### A block's end (R165, R193) -/

/-- *Sweep failure entry*. -/
def failEntry (i status seg : Nat) : List W64 := [w64 (at' i 32 + at' status 16 + seg), 0]
/-- The block is done: counted, its failure listed, its near-bank hoists ended. -/
def endBlock (s : State) (c i status seg : Nat) : State :=
  match (claim s c).sweep with
  | none => s
  | some w =>
    if w.done.contains i then s else
    let pages := (w.near.filter fun p => p.1 == i).map Prod.snd
    let s := { s with waits := s.waits.filter fun x => !(x.claim == c && x.who == .block i) }
    let s := setSweep s c fun w =>
      { w with done := w.done ++ [i], updated := w.updated + (if status = 0 then 1 else 0)
               failed := w.failed + (if status = 0 then 0 else 1), near := w.near.filter fun p => p.1 != i }
    let s := if status ≠ 0 ∧ w.failed < w.flen then
        let va := w.fails + 16 * w.failed
        match access (claim s c) (.request none) va 16 with
        | .bad st => setSweep s c fun w => { w with dropped := if w.dropped = 0 then st else w.dropped }
        | _ => putLater s c va (failEntry i status seg) []
      else s
    pages.foldl (fun s p => releaseNear s c p) s

/-! ### Master values (R198, R199) -/

/-- `master`. -/
def masterOf (w t : Nat) : Nat :=
  let top := if 0x8000 < t then w / 2 ^ 15 * 2 ^ 15 + (w % 2 ^ 15 + 2 ^ 15 - 1) % 2 ^ 15 else w
  top * 2 ^ 16 + t
/-- `store_master`: working weight and tail. -/
def storeMaster (m : Xr) : Nat × Nat :=
  let p := (r32 m).toNat
  let w := encodeFp fpkB (convertFp fpkB none (x32 (w32 p)))
  let t := p % 2 ^ 16
  (w, if t = 0x8000 then (if w = p / 2 ^ 16 then 0x7FFF else 0x8001) else t)

/-! ### The rules (R194 to R196) -/

def hyp (h : List W64) (n : Nat) (high : Bool) : Xr := x32 (w32 (if high then fld (h.getD n 0) 63 32 else fld (h.getD n 0) 31 0))
/-- eta with its sign changed. -/
def negEta (h : List W64) : Xr := (rne ((hyp h 0 true).scale (sext (fld (h.getD 0 0) 31 24) 8))).neg
def sqrtX (x : Xr) : Xr := if x.isZero then .zero else if x == .inf false then x else mulX x (rsqrtX x)
def sgnX (x : Xr) : Xr := if x.isNan then .nan else if x.isZero then .zero else if x.isNeg then .ofInt (-1) else .ofInt 1
/-- A value stored in BF16 under SR. -/
def toB (k : Claim) (tid idx : Nat) (x : Xr) : Xr := convertFp fpkB (some (srDraw k.seed tid k.step (idx % 2 ^ 64))) x
/-- The statistics of a FACTOR block: r', c' and recip(mr). -/
def factorStats (k : Claim) (b : Blk) (h : List W64) (gs r0 c0 : List Xr) : List Xr × List Xr × Xr :=
  let q := gs.map fun g => let gg := mulX g (hyp h 1 true); fmaX gg gg (hyp h 5 false)
  let ir := quotX 1 b.rows
  let ic := quotX 1 b.cols
  let r' := (chunks b.cols q).zipIdx.map fun p =>
    toB k (b.tid + 1) p.2 (fmaX (hyp h 2 false) (r0.getD p.2 .zero) (mulX (hyp h 3 false) (mulX (treeSum p.1) ic)))
  let c' := (List.range b.cols).map fun j =>
    let col := (List.range b.rows).map fun i => q.getD (i * b.cols + j) .zero
    toB k (b.tid + 2) j (fmaX (hyp h 2 false) (c0.getD j .zero) (mulX (hyp h 3 false) (mulX (treeSum col) ir)))
  (r', c', recipX (mulX (treeSum r') ir))
/-- One parameter: new value and new moments. -/
def ruleStep (k : Claim) (b : Blk) (h : List W64) (st : List Xr × List Xr × Xr) (i : Nat) (w g m v : Xr) : Xr × Xr × Xr :=
  let gg := mulX g (hyp h 1 true)
  let wdw := mulX w (hyp h 1 false)
  let out := fun u => fmaX (negEta h) u wdw
  let idx := b.first + i
  let b1g := mulX (hyp h 3 true) gg
  match ruleOf h with
  | 0 => (out gg, m, v)
  | 1 => let m' := toB k (b.tid + 1) idx (fmaX (hyp h 2 true) m gg); (out m', m', v)
  | 2 =>
    let m' := toB k (b.tid + 1) idx (fmaX (hyp h 2 true) m b1g)
    let v' := toB k (b.tid + 2) idx (fmaX (hyp h 2 false) v (mulX (hyp h 3 false) (mulX gg gg)))
    let den := addX (sqrtX (mulX v' (hyp h 4 false))) (hyp h 5 true)
    (out (mulX (mulX m' (hyp h 4 true)) (recipX den)), m', v')
  | 3 => (out (sgnX (fmaX (hyp h 2 true) m b1g)), toB k (b.tid + 1) idx (fmaX (hyp h 2 false) m (mulX (hyp h 3 false) gg)), v)
  | _ =>
    let vh := mulX (mulX (st.1.getD (i / b.cols) .zero) (st.2.1.getD (i % b.cols) .zero)) st.2.2
    (out (mulX gg (rsqrtX vh)), m, v)

/-! ### The update of a block (R189 to R192, R197) -/

def half (s : State) (c base i : Nat) : Nat := (rdAtom s c 16 (8 * base + 16 * i)).1
def halfX (s : State) (c base i : Nat) : Xr := decodeFp fpkB (half s c base i)
def halfBad (s : State) (c base i : Nat) : Bool := (rdAtom s c 16 (8 * base + 16 * i)).2
def cellAts (b : Blk) (u : Nat) : List Nat := (unitOffs .v8 u).map (8 * b.va + ·)
def cellBad (s : State) (c : Nat) (b : Blk) (u : Nat) : Bool := (cellAts b u).any fun a => (rdAtom s c 8 a).2
def cellVals (s : State) (c : Nat) (b : Blk) : List Xr :=
  ((List.range (ceilDiv b.count 16)).flatMap fun u => unitVals .v8 ((cellAts b u).map fun a => (rdAtom s c 8 a).1)).take b.count
/-- Parameters of segment j. -/
def segOf (b : Blk) (j : Nat) : List Nat := (List.range (min 4096 (b.count - 4096 * j))).map (4096 * j + ·)
def segs (b : Blk) : Nat := ceilDiv b.count 4096
/-- Claim ranges that a segment reads. -/
def segSpans (ext : Bool) (b : Blk) (rule j : Nat) : List (Nat × Nat) :=
  let n := (segOf b j).length
  let at' := fun base => (base + 8192 * j, 2 * n)
  at' b.wa :: cellSpans (b.va + 4352 * j) n ++ (if usesM1 rule && rule != 4 then [at' b.m1] else []) ++
  (if usesM2 rule && rule != 4 then [at' b.m2] else []) ++ (if ext then [at' b.ta] else [])
/-- Claim ranges that the statistics pass of a FACTOR block reads. -/
def statSpans (b : Blk) : List (Nat × Nat) := cellSpans b.va b.count ++ [(b.m1, 2 * b.rows), (b.m2, 2 * b.cols)]
/-- A segment has a poisoned input, or one in a marked leaf (R191, R327). -/
def segBad (s : State) (c : Nat) (b : Blk) (rule j : Nat) : Bool :=
  let ext := (claim s c).extended
  touchesMarked (claim s c) (segSpans ext b rule j) || (segOf b j).any (fun i => halfBad s c b.wa i || (ext && halfBad s c b.ta i) ||
    (rule != 4 && ((usesM1 rule && halfBad s c b.m1 i) || (usesM2 rule && halfBad s c b.m2 i)))) ||
  ((segOf b j).map (· / 16)).eraseDups.any (cellBad s c b)
/-- The statistics pass of a FACTOR block finds such an input. -/
def statBad (s : State) (c : Nat) (b : Blk) : Bool :=
  touchesMarked (claim s c) (statSpans b) || (List.range (ceilDiv b.count 16)).any (cellBad s c b) || (List.range b.rows).any (halfBad s c b.m1)
    || (List.range b.cols).any (halfBad s c b.m2)
/-- The first segment that cannot be updated; the number of segments when all can. -/
def firstBad (s : State) (c : Nat) (b : Blk) (rule : Nat) : Nat :=
  if rule == 4 && statBad s c b then 0 else ((List.range (segs b)).find? (segBad s c b rule)).getD (segs b)

/-- What the read of a bad input gives (R176, R327). -/
def badStatus (s : State) (c : Nat) (b : Blk) (rule j : Nat) : Nat :=
  let k := claim s c
  if touchesMarked k (if rule == 4 && statBad s c b then statSpans b else segSpans k.extended b rule j) then stWeightPoisoned
  else stPoisonRead
/-- What the update of one parameter stores, and its value before and after. -/
structure NewParam where
  w    : Nat
  t    : Nat
  m    : Xr
  v    : Xr
  old  : Xr
  new  : Xr
  same : Bool
deriving DecidableEq, Repr
def newParam (s : State) (c : Nat) (b : Blk) (h : List W64) (st : List Xr × List Xr × Xr) (gs : List Xr) (i : Nat) : NewParam :=
  let k := claim s c
  let w0 := half s c b.wa i
  let t0 := if k.extended then half s c b.ta i else 0
  let old := if k.extended then x32 (w32 (masterOf w0 t0)) else decodeFp fpkB w0
  let m := if usesM1 (ruleOf h) && ruleOf h != 4 then halfX s c b.m1 i else .zero
  let v := if ruleOf h = 2 then halfX s c b.m2 i else .zero
  let r := ruleStep k b h st i old (gs.getD i .zero) m v
  let p := if k.extended then storeMaster r.1 else (encodeFp fpkB (toB k b.tid (b.first + i) r.1), 0)
  { w := p.1, t := p.2, m := r.2.1, v := r.2.2, old := old
    new := if k.extended then x32 (w32 (masterOf p.1 p.2)) else decodeFp fpkB p.1
    same := p.1 == w0 && p.2 == t0 }
def putHalf (base : Nat) (xs : List Nat) : List Put := xs.zipIdx.map fun p => (8 * base + 16 * p.2, (p.1, false))
def bfOf (x : Xr) : Nat := encodeFp fpkB x
/-- Mode A sums of a block: a tree sum for each segment, combined in ascending order (R202). -/
def blockSum (ps : List NewParam) (g : NewParam → Xr) : Xr :=
  match (chunks 4096 ps).map (fun l => treeSum (l.map g)) with
  | [] => .zero
  | x :: xs => xs.foldl addX x
def moveSq (p : NewParam) : Xr := let d := subX p.new p.old; mulX d d
def sizeSq (p : NewParam) : Xr := mulX p.new p.new
def halfCount (xs : List Xr) : List Nat :=
  let n := xs.foldl (fun (n : ConvCount) x => n.add (fpCount x)) {}
  [n.elems, n.zeros, n.sats, n.nonfin]
/-- Every segment before `bad` written whole; then the block's end. DESIGN CHOICE (log 27): a FACTOR block that fails at a
later segment keeps the new row and column statistics, whole, where segment 0 was written. -/
def updateBlock (s : State) (c i : Nat) (b : Blk) (h : List W64) : State :=
  let k := claim s c
  let rule := ruleOf h
  let s := (blkSpans k.extended b rule).foldl (fun s p => noteVa s c p.1 p.2) s
  let bad := firstBad s c b rule
  let st0 := badStatus s c b rule bad
  let lim := min b.count (4096 * bad)
  let gs := cellVals s c b
  let st := if rule = 4 ∧ lim ≠ 0 then
      factorStats k b h gs ((List.range b.rows).map (halfX s c b.m1)) ((List.range b.cols).map (halfX s c b.m2))
    else ([], [], .zero)
  let ps := (List.range lim).map (newParam s c b h st gs)
  let m1 := if rule = 4 then st.1 else if usesM1 rule then ps.map (·.m) else []
  let m2 := if rule = 4 then st.2.1 else if usesM2 rule then ps.map (·.v) else []
  let s := vaPutAtoms s c 16 (putHalf b.wa (ps.map (·.w)) ++ putHalf b.m1 (m1.map bfOf) ++ putHalf b.m2 (m2.map bfOf)
    ++ (if k.extended then putHalf b.ta (ps.map (·.t)) else []))
  let s := vaPutAtoms s c 8 ((List.range (ceilDiv lim 16)).flatMap fun u => (cellAts b u).map fun a => (a, (0, false)))
  let s := countsAdd s c b.tid (halfCount (ps.map fun p => decodeFp fpkB p.w))
  let s := countsAdd s c (b.tid + 1) (halfCount m1)
  let s := countsAdd s c (b.tid + 2) (halfCount m2)
  let sum : LayerSum :=
    { block := i, layer := b.layer, touched := lim != 0, changed := ps.any fun p => !p.same
      su := r32 (blockSum ps moveSq), sw := r32 (blockSum ps sizeSq) }
  let s := setSweep s c fun w => { w with sums := w.sums ++ [sum] }
  if bad < segs b then endBlock s c i st0 bad else endBlock s c i 0 0
/-- BLOCK_UPDATE: the block is checked, its pages hoisted, and it is updated; a unit takes its blocks in table order. -/
def blockStep (s : State) (c i : Nat) : State :=
  match (claim s c).sweep with
  | none => s
  | some w =>
    let mine := homeOf s c w i
    let earlier := (List.range i).any fun j => !w.done.contains j && homeOf s c w j == mine
    if !(running s && w.started && allRead w && decide (i < w.descs.length)) || w.done.contains i || earlier then s else
    let b := blkOf w i
    let rule := blkRule w i
    match blkStatus s c w i, mine with
    | 0, some q =>
      (match blkAbsent s c b rule with
        | [] =>
          (match (blkSpans (claim s c).extended b rule).map (fun p => access (claim s c) (.request none) p.1 p.2) with
            | l => if l.contains (.bad stOwnerFault) then ownerFault s c 3 q
                   else updateBlock s c i b ((hyperRec w b.group).elim [] (·.words)))
        | l => l.foldl (fun s p => nearWait s c i q p) s)
    | st, _ => endBlock s c i st 0
def execBlockUpdate (c : Fin 8) (block : Nat) (s : State) : Res := .next (blockStep s c block)

/-! ### The canary at the end of a sweep (R202 to R207) -/

/-- *Ratio codes*, as a 16-bit pattern. -/
def ratioCode (su sw : Xr) : Nat :=
  if su.isNan || sw.isNan then 0x8001
  else if su.isZero then 0x8002
  else if sw.isZero || (sw.isInf && !su.isInf) then 0x7FFF
  else if su.isInf && sw.isInf then 0x8001
  else
    let n : Int := match mulX (.fin 1 (-1)) (subX (log2X su) (log2X sw)) with
      | .fin m e => if m < 0 then -(rneQ m.natAbs (e + 8) 0 : Int) else (rneQ m.natAbs (e + 8) 0 : Int)
      | .inf neg => if neg then -32765 else 32766
      | .nan => 0
    (max (-32765) (min 32766 n) % 65536).toNat
def insSum (x : LayerSum) : List LayerSum → List LayerSum
  | [] => [x]
  | y :: ys => if x.block < y.block then x :: y :: ys else y :: insSum x ys
/-- The blocks of a layer with an updated parameter, in table order. -/
def layerSums (w : Sweep) (n : Nat) : List LayerSum :=
  (w.sums.filter fun x => x.layer == n && x.touched).foldl (fun l x => insSum x l) []
def sumX (g : LayerSum → W32) : List LayerSum → Xr
  | [] => .zero
  | x :: xs => xs.foldl (fun a y => addX a (x32 (g y))) (x32 (g x))
def layerCode (k : Claim) (w : Sweep) (n : Nat) : Nat :=
  let l := layerSums w n
  if fld k.canary 1 0 ≠ 1 ∨ l.isEmpty then 0x8000 else ratioCode (sumX (·.su) l) (sumX (·.sw) l)
/-- The still counter and alarm state of one layer, and the alarms they raise. -/
def layerEnd (w : Sweep) (acc : Claim × List (Nat × Nat)) (n : Nat) : Claim × List (Nat × Nat) :=
  let k := acc.1
  let l := layerSums w n
  if l.isEmpty then acc else
  let old := Tab.get 0 k.still n
  let new := if l.any (·.changed) then 0 else min (old + 1) 65535
  let th := fld k.canary 63 48
  let a1 := if th ≠ 0 ∧ new = th ∧ old ≠ th then [(n, 0)] else []
  let code := layerCode k w n
  let v := sext code 16
  let cause := if code = 0x8000 ∨ code = 0x8001 ∨ code = 0x8002 then none
    else some (if sext (fld k.canary 47 32) 16 < v then 1 else if v < sext (fld k.canary 31 16) 16 then 2 else 0)
  let set := Tab.get false k.alarm n
  let a2 := match cause with | some x => if x ≠ 0 ∧ !set then [(n, x)] else [] | none => []
  let alarm := match cause with | some x => Tab.set false k.alarm n (x != 0) | none => k.alarm
  ({ k with still := Tab.set 0 k.still n new, alarm := alarm }, acc.2 ++ a1 ++ a2)

/-! ### The end (R63, R180, R193, R506) -/

/-- Scale entries of a claim in the step that ends: those that its drains used, and those of the tables that its tensor
descriptors name, where software may have set USED (R63). -/
def scaleEntries (c : Nat) (k : Claim) : List (Nat × Bool) := k.scales ++ Config.scaleTables c k.step
/-- Pages of scale entries that are not resident, but for those whose fetch has failed. -/
def scaleAbsent (c : Nat) (k : Claim) (w : Sweep) : List Nat :=
  (((scaleEntries c k).filterMap fun e => match access k (.request none) e.1 8 with | .absent l => some (l.headD 0) | _ => none).filter
    fun p => !w.skip.contains p).eraseDups
/-- The scale tables advance: every entry with USED set (R63), its errors put right and recorded (R468). An entry that reads as poison
stays as it is. -/
def advanceScales (s : State) (c : Nat) : State :=
  let s := (scaleEntries c (claim s c)).foldl (fun s e =>
    match access (claim s c) (.request none) e.1 8 with
    | .ok =>
      let s := noteVa s c e.1 8
      let w := vaWord s c (e.1 / 8)
      if w.poison then s else vaPut s c e.1 [⟨advanceEntry w.data (if e.2 then 8 else 128), false⟩]
    | .bad n => blocked s c n
    | .absent _ => s) s
  setClaim s c { claim s c with scales := [] }
/-- A failure entry has not yet been written. -/
def entryWaits (s : State) (c : Nat) (w : Sweep) : Bool :=
  s.waits.any fun x => x.claim == c && (match x.who with
    | .record a _ _ => w.fails ≤ a && a < w.fails + 16 * w.flen
    | _ => false)
def sweepFinish (s : State) (c : Nat) (w : Sweep) : State :=
  let k := claim s c
  let codes := (List.range 256).map (layerCode k w)
  let rec1 := leBytes 8 k.step ++ leBytes 8 s.time ++ List.replicate 48 0 ++ codes.flatMap (leBytes 2)
  let r := (List.range 256).foldl (layerEnd w) (k, [])
  let s := postQueue (setClaim s c r.1) (queueId 3 c) rec1
  let s := r.2.foldl (fun s a => postEvent s (some c) 0x0002 [a.1 + at' a.2 8, k.step]) s
  let s := advanceScales s c
  let k := claim s c
  let s := setClaim s c { k with step := (k.step + 1) % 2 ^ 64, lastStep := k.step, canGen := k.canGen + 2, canCtl := k.canary, sweep := none }
  reply s w.ring w.seq w.dropped w.updated w.failed
def sweepEndStep (s : State) (c : Nat) : State :=
  match (claim s c).sweep with
  | none => s
  | some w =>
    if !(running s && w.started && allRead w) || w.done.length < w.descs.length || entryWaits s c w then s else
    match scaleAbsent c (claim s c) w with
    | [] => sweepFinish s c w
    | l => stallAll s c l .hyper
def execSweepEnd (c : Fin 8) (s : State) : Res := .next (settleFoul (sweepEndStep s c))

end Sys2Proof.Machine
end

