-- ==== Sys2Proof/Machine/Hoists.lean ====
section
/-!
DEFINITION. Pages between T1 and T2: the end of a hoist and of a write-back (R150, R161 to R163, R165 to R170),
fetch deadlines (R162), evictions and destructions as they take effect (R150, R164), weight repair (R327), and
patrol scrub (R177, R178).
-/
namespace Sys2Proof.Machine
open Sys2Proof

/-! ### Accesses that end or go on (R163, R512) -/

/-- One page of a prefetch is resident or has failed; the command replies after the last (R162). -/
def fetchOne (s : State) (r : Nat) (q : W32) (p : Nat) (good : Bool) : State :=
  let step := fun (f : Nat × W32 × Nat × List Nat × Nat × Nat) =>
    let (a, b, c, left, n, m) := f
    if a = r ∧ b = q ∧ left.contains p then (a, b, c, left.erase p, if good then n + 1 else n, if good then m else m + 1) else f
  let s := { s with fetches := s.fetches.map step }
  match s.fetches.find? fun f => f.1 == r && f.2.1 == q with
  | some (_, _, _, [], n, m) =>
    reply { s with fetches := s.fetches.filter fun f => !(f.1 == r && f.2.1 == q) } r q stOk n m
  | _ => s
/-- Transfers of a collective whose flits have all come are tried once more. -/
def retryRx (s : State) (c id : Nat) : State :=
  (s.rxctx.filter fun e => match e.2 with | some x => x.claim == c && x.coll == id && x.closed.isSome | none => false).foldl
    (fun s e => finishRx s e.1) s
/-- An access that stalled goes on; a prefetched page whose object has gone meanwhile counts as failed. Rows of the table retry what
is not named here. -/
def resume (s : State) (w : Wait) : State :=
  match w.who with
  | .prefetch r q => fetchOne s r q w.page ((pte (claim s w.claim) w.page).state != .unmapped)
  | .transfer id => goOn (retryRx s w.claim id) w.claim id
  | .step b => prepareBatch s b
  | .hyper => readHyper s w.claim
  | .record a ws ev => putLater s w.claim a ws ev
  | .ended id a ws ev => putEnded s w.claim id a ws ev
  | .store t a bs => storePage s w.claim t a bs
  | .counts t n => countsAdd s w.claim t n
  | .assay id => assayTry s w.claim id
  | .ledger r q => ledgerTry s w.claim r q
  | _ => s
/-- Groups not yet read whose record touches a page. -/
def groupsOn (w : Sweep) (p : Nat) : List Nat :=
  (groupsOf w).filter fun g => (hyperRec w g).isNone && (pagesOf (w.hyper + 64 * g) 64).contains p
/-- Hyperparameter records, and scale entries, that a failed fetch leaves unread: all on the page after a deadline,
the first group otherwise. -/
def hyperFail (s : State) (c p status : Nat) (all : Bool) : State :=
  match (claim s c).sweep with
  | none => s
  | some w =>
    let gs := groupsOn w p
    let s := (if all then gs else gs.take 1).foldl (fun s g =>
      setSweep s c fun w => { w with recs := w.recs ++ [{ group := g, status := status, words := [] }] }) s
    if gs.isEmpty then setSweep s c fun w => { w with skip := w.skip ++ [p] } else s
/-- A pending park ends a live stream DONE, with the status as its reply (R226). -/
def parkFail (s : State) (n status : Nat) : State :=
  match (stream s n).park, isLive (stream s n) with
  | some (r, q, _), true => reply (endStream s n .done 3 0) r q status 0 0
  | _, _ => s
/-- A record that cannot be written is dropped, with its events posted: the reply of its command tells (R512). -/
def recordFail (s : State) (c a : Nat) (ws : List W64) (ev : List (Nat × List Nat)) (status : Nat) : State :=
  let s := ev.foldl (fun s e => postEvent s (some c) e.1 e.2) s
  let s := match (claim s c).sweep with
    | some w => if w.fails ≤ a ∧ a < w.fails + 16 * w.flen then
        setSweep s c fun w => { w with dropped := if w.dropped = 0 then status else w.dropped } else s
    | none => s
  match s.reqs.find? fun q => q.claim == c && !q.area.1 && decide (q.area.2 ≤ a) && decide (a < q.area.2 + 32 * q.progs.length) with
  | some q => if ws.isEmpty then closeRequest s { q with dropped := status }
      else modReq s q.id fun q => { q with dropped := if q.dropped = 0 then status else q.dropped }
  | none => s
/-- A WEIGHT_LOAD, known by its command, ends with a status; its entry stays unloaded (R318, R319). -/
def loadFail (s : State) (c ring : Nat) (seq : W32) (status : Nat) : State :=
  let k := claim s c
  match k.loads.find? fun l => l.ring == ring && l.seq == seq with
  | some l => reply (setClaim s c { k with loads := k.loads.erase l }) l.ring l.seq status 0 0
  | none => s
/-- A collective fails with its fetch's status; a DESC that waits for the page is answered with a refusal (R272). -/
def failTransfer (s : State) (c id page status : Nat) : State := pumpDescs (failColl (refuseOn s c id page status) c id status true)
/-- A dropped completion record of a turn's set: the turn's reply tells (R512). -/
def turnDropped (s : State) (c id status : Nat) : State :=
  let k := claim s c
  match k.turn, k.colls.find? (fun x => x.id == id) with
  | some u, some x =>
    if x.op = .permute ∧ x.epoch = u.epoch ∧ u.dropped = 0 then setClaim s c { k with turn := some { u with dropped := status } } else s
  | _, _ => s
/-- A stalled access fails: only what made it (R163). DESIGN CHOICE (log 21): where the tub map of an ended stream cannot be fetched,
its tubs keep their references. -/
def failWait (s : State) (w : Wait) (status : Nat) : State :=
  let c := w.claim
  match w.who with
  | .dma f n => let d : Dma := Tab.get {} (face s f).dma n; if d.busy then failRequest s d.req status else s
  | .block i => endBlock s c i status 0
  | .prefetch r q => fetchOne s r q w.page (status != stFetchDeadline)
  | .transfer id =>
    (match (claim s c).pset with
      | some p => if p.members.contains id && setPast s c p then stagedStep s c else failTransfer s c id w.page status
      | none => failTransfer s c id w.page status)
  | .step b =>
    (match findBatch s b with
      | some x =>
        if writeOnly s x w.page then modBatch s b fun y => { y with skip := y.skip ++ [(w.page, status)] }
        else if (findReq s x.req).isSome then failRequest s x.req status else failBatch s x status
      | none => s)
  | .park n => parkFail s n status
  | .request q => failRequest s q status
  | .hyper => hyperFail s c w.page status (status == stFetchDeadline)
  | .opening n => if (stream s n).state = .opened then endStream s n .failed 6 status else s
  | .tubs m => let k := claim s c; setClaim s c { k with freeing := k.freeing.filter fun e => e.1 != m }
  | .record a ws ev => recordFail s c a ws ev status
  | .ended id _ _ ev => ev.foldl (fun s e => postEvent s (some c) e.1 e.2) (dropColl (turnDropped s c id status) c id)
  | .store _ _ _ => s
  | .counts _ _ => s
  | .assay id => (match assayOf s c id with | some a => failAssay s c a status | none => s)
  | .ledger r q => (match (claim s c).ledgers.find? fun l => l.ring == r && l.seq == q with
      | some l => endLedger s c l status 0 0 | none => s)
  | .load r q => loadFail s c r q status
  | .serve _ _ _ => s
/-- Every access that waits for a page goes on; the one that started the fetch fails where the fetch brought poison
or a codec error (R163). -/
def releasePage (s : State) (c p init status : Nat) : State :=
  let here := fun (w : Wait) => w.claim == c && w.page == p
  let ws := s.waits.filter here
  let s := { s with waits := s.waits.filter fun w => !here w }
  ws.foldl (fun s w => if status ≠ 0 ∧ w.id = init then failWait s w status else resume s w) s

/-- FETCH_DEADLINE: an access has waited longer than its claim's deadline. -/
def deadlineStep (s : State) (id : Nat) : State :=
  match s.waits.find? fun w => w.id == id with
  | none => s
  | some w =>
    if !timeRuns s then s else
    let s := advanceTo s (w.since + 1000 * (claim s w.claim).deadline + 1)
    failWait { s with waits := s.waits.filter fun x => x.id != id } w stFetchDeadline
def execFetchDeadline (stall : Nat) (s : State) : Res := .next (deadlineStep s stall)

/-! ### Destruction (R150, R380) -/

/-- A page of a destroyed object becomes UNMAPPED; a hoisted frame returns to the free-frame set. -/
def unmapPage (s : State) (c p : Nat) : State :=
  let k := claim s c
  let e := pte k p
  let s := setClaim s c (setPte k p {})
  match e.state with
  | .clean => giveFrame s c e.t1f
  | .dirty => giveFrame s c e.t1f
  | .hoisting => giveFrame s c e.t1f
  | .writeback => giveFrame s c e.t1f
  | _ => s
def objPages (k : Claim) (o : Nat) : List Nat :=
  (k.pages.filter fun e => e.2.obj == o && e.2.state != .unmapped).map Prod.fst
/-- An object without marked leaves: reloaded (R328), or gone. -/
def noMarks (k : Claim) (o : Nat) : Claim :=
  { k with marked := k.marked.filter (fun m => m.1 != o), markAll := k.markAll.filter (· != o) }
/-- No leaf of an object is under repair any more. -/
def noRepairs (k : Claim) (o : Nat) : Claim :=
  { k with repairs := k.repairs.filter (fun m => m.1 != o), repairAt := k.repairAt.filter (fun m => m.1 != o) }
/-- The last page of a destroyed object has gone: its number is free, and the command replies. -/
def objGone (s : State) (c o : Nat) : State :=
  let k := claim s c
  match (obj k o).dying with
  | some (r, q) => if (objPages k o).isEmpty then reply (setClaim s c (noRepairs (noMarks (setObj k o {}) o) o)) r q stOk 0 0 else s
  | none => s
/-- A DMA descriptor that has translated its pages touches page p. -/
def dmaTouches (s : State) (c p : Nat) : Bool :=
  s.faces.any fun x => x.2.dma.any fun d =>
    d.2.busy && d.2.claim == c && !s.waits.any (fun w => w.who == .dma x.1 d.1)
      && (dmaSpans d.2).any fun r => (pagesOf r.1 r.2).contains p
/-- A collective that moves data touches an object. -/
def collTouches (s : State) (c o : Nat) : Bool :=
  (claim s c).colls.any fun x => 1 ≤ x.phase && !x.ending && (match touchObjs s c x with | .ok l => l.contains o | _ => true)
/-- An access already translated to the page has not completed. -/
def pageInUse (s : State) (c p : Nat) : Bool := dmaTouches s c p || collTouches s c (pte (claim s c) p).obj
/-- OBJ_DESTROY_EFFECT: every page without an access in progress goes; a hoist or write-back takes its page with it. -/
def destroyStep (s : State) (c o : Nat) : State :=
  if (obj (claim s c) o).dying.isNone then s else
  let s := (objPages (claim s c) o).foldl (fun s p =>
    match (pte (claim s c) p).state with
    | .hoisting => { s with hoists := s.hoists.map fun h => if h.claim = c ∧ h.page = p then { h with doomed := true } else h }
    | .writeback => { s with hoists := s.hoists.map fun h => if h.claim = c ∧ h.page = p then { h with doomed := true } else h }
    | _ => if pageInUse s c p then s else unmapPage s c p) s
  objGone s c o
def execObjDestroyEffect (c : Fin 8) (obj : Fin 4096) (s : State) : Res := .next (destroyStep s c obj)
/-- HOIST_EVICT_EFFECT: the page returns to T2, or its write-back begins. -/
def evictStep (s : State) (c p : Nat) : State :=
  match s.evicts.find? fun e => e.1 == c && e.2.1 == p with
  | none => s
  | some e =>
    if pageInUse s c p || !running s then s else
    let s := { s with evicts := s.evicts.erase e }
    match (pte (claim s c) p).state with
    | .dirty => startBack s c p (some (e.2.2.1, e.2.2.2))
    | _ => reply (dropPage s c p none) e.2.2.1 e.2.2.2 stOk 0 0
def execHoistEvictEffect (c : Fin 8) (page : Nat) (s : State) : Res := .next (evictStep s c page)

/-! ### The end of a hoist (R161, R163, R169, R176, R327) -/

/-- First T2 word of chunk n of a page, and first T1 word. -/
def chunkT2 (e : Pte) (n : Nat) : Nat := e.t2f * pageWords + 8192 * n
def chunkT1 (e : Pte) (n : Nat) : Nat := e.t1f * pageWords + 8192 * n
def chunkRaw (k : Claim) (e : Pte) (n : Nat) : Bool := !(obj k e.obj).cmp || e.raw.getLsbD n
/-- Stored words of a chunk (R167). -/
def chunkLen (s : State) (e : Pte) (n : Nat) (raw : Bool) : Nat :=
  if raw then 8192 else min 8191 (4114 + ceilDiv (fld (readWord s .t2 (chunkT2 e n)).data 63 32) 64)
/-- A chunk as a hoist brings it: its words, the status it brings, and whether T2 held an uncorrectable word. -/
structure ChunkGot where
  words  : List PWord
  status : Nat
  bad    : Bool
deriving DecidableEq, Repr
def poisonChunk : List PWord := List.replicate 8192 ⟨0, true⟩
/-- The first 64 bytes of a chunk's slot hold an uncorrectable word. -/
def headBad (s : State) (e : Pte) (n : Nat) : Bool :=
  (List.range 8).any fun i => (decode80 (memWord s .t2 (chunkT2 e n + i))).2 == .bad
def readChunk (s : State) (e : Pte) (n : Nat) (raw : Bool) : ChunkGot :=
  let len := chunkLen s e n raw
  let at0 := chunkT2 e n
  let ws := (List.range len).map fun i => readWord s .t2 (at0 + i)
  let bad := (List.range len).any fun i => (decode80 (memWord s .t2 (at0 + i))).2 == .bad
  if raw then { words := ws, status := if ws.any (·.poison) then stPoisonRead else 0, bad := bad }
  else if ws.any (·.poison) then { words := poisonChunk, status := stPoisonRead, bad := bad }
  else match decodeChunk (wordsBytes (ws.map (·.data))) with
    | some bs => { words := (bytesWords bs).map fun w => ⟨w, false⟩, status := 0, bad := false }
    | none => { words := poisonChunk, status := stCodecError, bad := false }
def putT1Run (s : State) (i : Nat) (ws : List PWord) : State := { s with t1 := Tab.setRun 0 s.t1 i (ws.map storeP) }
/-- Leaf of chunk n of page p of an object (R320, R327). -/
def leafOf (k : Claim) (o p n : Nat) : Nat := 32 * (p - (obj k o).base) + n
/-- The words of a chunk of a claim's page, as they are read from T2 (R174, R175). -/
def noteChunk (s : State) (k : Claim) (e : Pte) (n : Nat) : State := noteRun s .t2 (chunkT2 e n) (chunkLen s e n (chunkRaw k e n))
/-- One chunk lands in the frame. An uncorrectable word of a weight, `head` among its first 64 bytes, which were read before, starts a
repair, but in a marked leaf. -/
def landChunk (s : State) (h : Hoist) (e : Pte) (n : Nat) (head : Bool) : State × Nat :=
  let k := claim s h.claim
  let raw := chunkRaw k e n
  let g := readChunk s e n raw
  let s := noteChunk s k e n
  let s := putT1Run s (chunkT1 e n) g.words
  let s := if g.status = stCodecError then
      postSump s { cls := 1, unit := 4, inst := h.engine.getD 0, kind := 6, status := stCodecError, claim := some h.claim
                   tier := 2, addr := 8 * chunkT2 e n }
    else s
  let leaf := leafOf k e.obj h.page n
  if isWeight k e.obj && g.status != stCodecError then
    (if leafMarked k e.obj leaf then (if g.status ≠ 0 then poisonLeaf s h.claim e.obj leaf else s)
     else if g.bad || head then startRepair s h.claim e.obj leaf else s, 0)
  else (s, g.status)
/-- Leaves of a page under repair. -/
def pageRepairs (k : Claim) (o p : Nat) : Bool :=
  k.repairs.any fun r => r.1 == o && (obj k o).base + r.2 / 32 == p
def theHoist (s : State) (c p : Nat) (back : Bool) : Option Hoist :=
  s.hoists.find? fun h => h.claim == c && h.page == p && h.back == back && h.engine.isSome && h.frame.isSome
/-- The page becomes CLEAN, or DIRTY after a repair, or UNMAPPED when its object is destroyed; stalled accesses resume. -/
def finishHoist (s : State) (h : Hoist) (status : Nat) : State :=
  let c := h.claim
  let k := claim s c
  let e := pte k h.page
  let s := { s with hoists := s.hoists.filter fun x => !(x.claim == c && x.page == h.page) }
  if h.doomed then
    objGone (releasePage (unmapPage s c h.page) c h.page 0 0) c e.obj
  else
    let s := setClaim s c (setPte k h.page { e with state := if h.mended then .dirty else .clean })
    let s := assignHoists s
    let s := if h.release then dropPage s c h.page none else s
    releasePage s c h.page h.init status
/-- The T1 and T2 granules of a page's frames belong to its claim (R344). -/
def hoistOwns (k : Claim) (e : Pte) : Bool := ownsT1 k (e.t1f / 512) && ownsT2 k (e.t2f / 512)
/-- A hoist or write-back whose tag check fails moves nothing: its claim ends (R345). -/
def hoistFault (s : State) (h : Hoist) : State :=
  ownerFault { s with hoists := s.hoists.filter fun x => !(x.claim == h.claim && x.page == h.page) } h.claim 4 (h.engine.getD 0)
/-- The first 64 bytes of all 32 slots are read before any chunk (R161). -/
def noteHeads (s : State) (e : Pte) : State := (List.range 32).foldl (fun s n => noteRun s .t2 (chunkT2 e n) 8) s
/-- HOIST_DONE: the last chunk is in the frame. -/
def hoistStep (s : State) (c p : Nat) : State :=
  match theHoist s c p false with
  | none => s
  | some h =>
    if h.landed || !running s then s else
    let e := pte (claim s c) p
    if !hoistOwns (claim s c) e then hoistFault s h else
    let heads := (List.range 32).map (headBad s e)
    let r := (List.range 32).foldl (fun (acc : State × Nat) n =>
      let x := landChunk acc.1 h e n (heads.getD n false)
      (x.1, if acc.2 = 0 then x.2 else acc.2)) (noteHeads s e, 0)
    if pageRepairs (claim r.1 c) e.obj p then
      { r.1 with hoists := r.1.hoists.map fun x => if x.claim = c ∧ x.page = p then { x with landed := true, status := r.2 } else x }
    else finishHoist r.1 h r.2
def execHoistDone (c : Fin 8) (page : Nat) (s : State) : Res := .next (settleFoul (hoistStep s c page))

/-! ### The end of a write-back (R150, R170) -/

/-- A chunk as it is stored: raw or coded; and whether it is raw. -/
def packChunk (cmp : Bool) (ws : List PWord) : List PWord × Bool :=
  if !cmp || ws.any (·.poison) then (ws, true)
  else match encodeChunk (wordsBytes (ws.map (·.data))) with
    | some bs => ((bytesWords bs).map fun w => ⟨w, false⟩, false)
    | none => (ws, true)
/-- One chunk goes to its slot in T2, with its RAW bit. -/
def storeChunk (s : State) (c p n : Nat) : State :=
  let k := claim s c
  let e := pte k p
  let ws := (List.range 8192).map fun i => readWord s .t1 (chunkT1 e n + i)
  let s := noteRun s .t1 (chunkT1 e n) 8192
  let x := packChunk (obj k e.obj).cmp ws
  let m : W32 := BitVec.ofNat 32 (2 ^ n)
  let s := if isFenced s .t2 (chunkT2 e n) then s else { s with t2 := Tab.setRun 0 s.t2 (chunkT2 e n) (x.1.map storeP) }
  setClaim s c (setPte (claim s c) p { e with raw := if x.2 then e.raw ||| m else e.raw &&& ~~~m })
/-- WRITEBACK_DONE: the page becomes T2 and its frame returns; an access that came meanwhile starts a new hoist (R158). -/
def backStep (s : State) (c p : Nat) : State :=
  match theHoist s c p true with
  | none => s
  | some h =>
    if !running s then s else
    if !hoistOwns (claim s c) (pte (claim s c) p) then hoistFault s h else
    let s := (List.range 32).foldl (fun s n => storeChunk s c p n) s
    let s := { s with hoists := s.hoists.filter fun x => !(x.claim == c && x.page == p) }
    let o := (pte (claim s c) p).obj
    let s := if h.doomed then objGone (releasePage (unmapPage s c p) c p 0 0) c o else toT2 s c p
    let s := replyTo s h.cmd stOk 0 0
    if h.again && !h.doomed then
      let s := startHoist s c p h.bench h.quarter h.near h.init
      if h.release then releaseNear s c p else s
    else s
def execWritebackDone (c : Fin 8) (page : Nat) (s : State) : Res := .next (settleFoul (backStep s c page))

/-! ### Weight repair (R327) -/

/-- What a peer that does not give the words ends a fetch with: one of R318's list; one that gives less is silent. -/
def peerEnds (status : Nat) : Nat := if status = stPeerNotReady ∨ status = stNoCredit then status else stCollTimeout
/-- Time without progress after which a peer is silent, in ns (R318). -/
def peerSilence : Nat := 100000000
/-- The mirror peer that a slot declares which lists the object. -/
def mirrorNamed (k : Claim) (o : Nat) : Option Nat :=
  (List.range 4).findSome? fun n =>
    let v := ver k n
    let used := match v.state with | .ready => true | .current => true | .draining => true | _ => false
    if used && v.entries.any (·.obj == o) then v.mirror else none
/-- The same where the claim's transfers reach it (R284, R318). -/
def mirrorOf (s : State) (c o : Nat) : Option Nat := (mirrorNamed (claim s c) o).filter fun a => pathOpen s c a
/-- A leaf rewritten with good words; a T2-home page becomes DIRTY. -/
def mendLeaf (s : State) (c o leaf p : Nat) (ws : List PWord) : State :=
  let k := claim s c
  let e := pte k p
  let s := if hasFrame e then putT1Run s (physWord k (leafWord k o leaf)) ws else s
  let s := setClaim s c (dirtyPage k p)
  let s := { s with hoists := s.hoists.map fun h => if h.claim = c ∧ h.page = p ∧ !h.back then { h with mended := true } else h }
  postEvent s (some c) 0x0007 [at' o 52 + leaf]
def markLeaf (s : State) (c o leaf : Nat) : State :=
  let k := setObj (claim s c) o { obj (claim s c) o with marked := true }
  let k := if k.marked.length < 256 then { k with marked := k.marked ++ [(o, leaf)] } else { k with markAll := k.markAll ++ [o] }
  postEvent (setClaim s c k) (some c) 0x0008 [at' o 52 + leaf]
/-- Step 1: the leaf from T2 once more. -/
def homeLeaf (s : State) (c o leaf p : Nat) : Option (List PWord) :=
  let k := claim s c
  let e := pte k p
  let g := readChunk s e (leaf % 32) (chunkRaw k e (leaf % 32))
  if (obj k o).t2home && !g.bad && g.status == 0 then some g.words else none
/-- The leaf from T2 once more, or from the mirror peer; none when neither brings every word. -/
def goodLeaf (s : State) (c o leaf p : Nat) (mirror : PeerAnswer) : Option (List PWord) :=
  match homeLeaf s c o leaf p, mirror, mirrorOf s c o with
  | some ws, _, _ => some ws
  | none, .words ws, some _ => if ws.length = leafWords ∧ !ws.any (·.poison) then some ws else none
  | none, _, _ => none
/-- The mirror fetch ends because the peer is silent for 100 ms: it has a route, but is not reached, or its answer is neither the
leaf nor one that R318 names. -/
def mirrorSilent (s : State) (c o leaf p : Nat) (mirror : PeerAnswer) : Bool :=
  match homeLeaf s c o leaf p, mirrorNamed (claim s c) o with
  | none, some a => !(routeShafts s a).isEmpty && (!pathOpen s c a || (match mirror with
      | .ends st => peerEnds st == stCollTimeout
      | .words ws => ws.length != leafWords))
  | _, _ => false
/-- A silent mirror is given up 100 ms after the repair started. -/
def mirrorWait (s : State) (c o leaf p : Nat) (mirror : PeerAnswer) : State :=
  match mirrorSilent s c o leaf p mirror, (claim s c).repairAt.find? fun r => r.1 == o && r.2.1 == leaf with
  | true, some r => advanceTo s (r.2.2 + peerSilence)
  | _, _ => s
/-- The leaf is no longer under repair. -/
def endRepair (s : State) (c o leaf : Nat) : State :=
  let k := claim s c
  setClaim s c { k with repairs := k.repairs.erase (o, leaf), repairAt := k.repairAt.filter fun r => !(r.1 == o && r.2.1 == leaf) }
def repairStep (s : State) (c o leaf : Nat) (mirror : PeerAnswer) : State :=
  let k := claim s c
  if !k.repairs.contains (o, leaf) || !running s then s else
  let p := (obj k o).base + leaf / 32
  let e := pte k p
  if (hasFrame e && !ownsT1 k (e.t1f / 512)) || ((obj k o).t2home && !ownsT2 k (e.t2f / 512)) then ownerFault s c 4 0 else
  let g := goodLeaf s c o leaf p mirror
  let s := mirrorWait s c o leaf p mirror
  let s := if (obj k o).t2home then noteChunk s k (pte k p) (leaf % 32) else s
  let s := match g with
    | some ws => mendLeaf s c o leaf p ws
    | none => markLeaf s c o leaf
  let s := endRepair s c o leaf
  if pageRepairs (claim s c) o p then s
  else match s.hoists.find? fun h => h.claim == c && h.page == p && h.landed with
    | some h => finishHoist s h h.status
    | none => if resident (pte (claim s c) p) then releasePage s c p 0 0 else s
def execWeightRepair (c : Fin 8) (obj : Fin 4096) (leaf : Nat) (mirror : PeerAnswer) (s : State) : Res :=
  .next (settleFoul (repairStep s c obj leaf mirror))

/-! ### Patrol scrub (R177, R178) -/

/-- Words of a T1 transfer, a T2 read, and a T0 line. -/
def scrubWords : Tier → Nat | .t1 => 64 | .t2 => 32 | .t0 => 16
/-- 8-byte words of T1 and of T2 (R145). -/
def tierWords : Tier → Nat | .t0 => t0Words | .t1 => 393216 * pageWords | .t2 => 1048576 * pageWords
def scrubLoc (t : Tier) (f : Nat) : Loc := match t with | .t0 => .t0 f | .t1 => .t1 | .t2 => .t2
def isRetired (s : State) (t : Tier) (frame : Nat) : Bool :=
  match t with | .t0 => false | .t1 => s.retired.contains (false, frame) | .t2 => s.retired.contains (true, frame)
/-- A face without a running slice is clock-gated (R91). -/
def faceGated (s : State) (f : Nat) : Bool := !streamsBFU.any fun st => (lane (face s f) st).live
def tierNo : Tier → Nat | .t0 => 0 | .t1 => 1 | .t2 => 2
/-- The end of a full pass of a tier: frames in which it found no error are no longer counted. -/
def endPass (s : State) (t : Nat) : State :=
  let u := s.sump
  { s with sump := { u with track := u.track.filter fun e => e.1.1 != t || u.passErr.contains e.1
                            passErr := u.passErr.filter fun e => e.1 != t, passed := u.passed.filter fun e => e.1 % 3 != t } }
/-- Frames of a tier, and lines of a frame, that a scrub pass reads (R145, R177). -/
def tierFrames : Tier → Nat | .t0 => 0 | .t1 => 393216 | .t2 => 1048576
def frameLines (t : Tier) : Nat := pageWords / scrubWords t
/-- The present pass of a tier has read every line of every frame that is neither retired nor, in T2, fenced (R177, R466). -/
def passFull (s : State) (t : Tier) : Bool :=
  let all := 2 ^ frameLines t - 1
  let out := fun f => isRetired s t f || (t == .t2 && isFenced s .t2 (f * pageWords))
  let whole := s.sump.passed.filter fun e => e.1 % 3 == tierNo t && e.2 == all && !out (e.1 / 3)
  let fenced := if t = .t2 then s.fenced.eraseDups else []
  let retired := (s.retired.filter fun e => e.1 == (t == .t2) && !fenced.contains (t2Ctl (e.2 * pageWords))).eraseDups
  whole.length + retired.length + 131072 * fenced.length == tierFrames t
def scrubStep (s : State) (t : Tier) (f addr : Nat) : State :=
  let n := scrubWords t
  let i := addr / 8
  let frame := i / pageWords
  if !running s || addr % (8 * n) != 0 || tierWords t < i + n || isRetired s t frame || (t == .t0 && faceGated s f) then s else
  let l := scrubLoc t f
  if isFenced s l i then s else
  let found := (List.range n).any fun k => (decode80 (memWord s l (i + k))).2 != .clean
  let s := noteRun s l i n
  if t = .t0 then s else
  let key := (tierNo t, frame)
  let u := s.sump
  let s := if found && !u.passErr.contains key then { s with sump := { u with passErr := key :: u.passErr } } else s
  let place := 3 * frame + tierNo t
  let seen := Tab.get 0 s.sump.passed place ||| 2 ^ (i % pageWords / n)
  let s := { s with sump := { s.sump with passed := Tab.set 0 s.sump.passed place seen } }
  if passFull s t then endPass s (tierNo t) else s
def execPatrolScrub (tier : Tier) (f : Fin 128) (addr : Nat) (s : State) : Res := .next (settleFoul (scrubStep s tier f addr))

end Sys2Proof.Machine
end

