-- ==== Sys2Proof/Machine/Versions.lean ====
section
/-!
DEFINITION. Weight loads as they end (R318, R319, R328), audits (R326), and requests of peers for weight bytes (R318).
-/
namespace Sys2Proof.Machine
open Sys2Proof

/-! ### Loaded entries (R317, R319) -/

def sameEntry (a b : VEntry) : Bool := a.obj == b.obj && a.bytes == b.bytes && a.digest == b.digest
def verEntry (k : Claim) (slot n : Nat) : Option VEntry := (ver k slot).entries[n]?
/-- VERSION_READY. -/
def readyEvent (s : State) (c slot vid : Nat) : State := postEvent s (some c) 0x0004 [at' slot 16 + vid]
/-- BUILDING slots all of whose entries are loaded become READY. -/
def settleSlots (s : State) (c : Nat) : State :=
  (List.range 4).foldl (fun s i =>
    let v := ver (claim s c) i
    if v.state = .building ∧ v.entries.all (·.loaded) then
      readyEvent (setClaim s c (setVer (claim s c) i { v with state := .ready })) c i v.vid
    else s) s
/-- An entry counts as loaded in every slot that shares it. -/
def markLoaded (s : State) (c : Nat) (e : VEntry) : State :=
  let k := claim s c
  let k := (List.range 4).foldl (fun k i =>
    let v := ver k i
    if v.state = .empty then k
    else setVer k i { v with entries := v.entries.map fun x => if sameEntry x e then { x with loaded := true } else x }) k
  settleSlots (setClaim s c k) c
/-- A reloaded object has no marked leaf any more (R328). -/
def unmark (s : State) (c o : Nat) : State :=
  setClaim s c (noMarks (setObj (claim s c) o { obj (claim s c) o with marked := false }) o)

/-! ### WEIGHT_LOAD_DONE (R318, R319, R328) -/

/-- Words of a run of bytes; a last part of a word is filled with zeros. -/
def byteWords (bs : List Byte) : List PWord := (bytesWords bs).map fun w => ⟨w, false⟩
/-- What a source gives: the words of the shard, or a status. Source 2 gives none. A peer that the claim's transfers do not
reach makes no progress (R318). -/
def loadWords (s : State) (c : Nat) (l : Load) (n : Nat) (peer : PeerAnswer) : Got (Option (List PWord)) :=
  if l.source = 2 then (match mendPages (claim s c) [(objBase (claim s c) l.ent.obj, n)] with | [] => .ok none | ps => .absent ps)
  else if l.source = 0 then
    (if hostOk s l.arg n then .ok (some (byteWords (hostRead s l.arg n))) else .bad stHostAccessFail)
  else if (routeShafts s l.arg).isEmpty then .bad stNoRoute
  else if !pathOpen s c l.arg then .bad stCollTimeout
  else match peer with
    | .ends st => .bad (peerEnds st)
    | .words ws => if ws.length = ceilDiv n 8 then .ok (some ws) else .bad stCollTimeout
/-- Words written to a claim range of n bytes: a last part of a word merges. -/
def putShard (s : State) (c va n : Nat) (ws : List PWord) : State :=
  let s := vaPut s c va (ws.take (n / 8))
  let tail := (wordsBytes ((ws.drop (n / 8)).map (·.data))).take (n % 8)
  if (ws.drop (n / 8)).any (·.poison) then vaPut s c (va + n / 8 * 8) [⟨0, true⟩] else vaStore s c (va + n / 8 * 8) tail
/-- Only the marked leaves of a shard written. -/
def putMarked (s : State) (c o n : Nat) (ws : List PWord) : State :=
  (List.range (ceilDiv n 65536)).foldl (fun s i =>
    if leafMarked (claim s c) o i then
      putShard s c (objBase (claim s c) o + 65536 * i) (min 65536 (n - 65536 * i)) ((ws.drop (8192 * i)).take 8192)
    else s) s
def shardBytes (ws : List PWord) (n : Nat) : List Byte := (wordsBytes (ws.map (·.data))).take n
/-- A load ends well: the entry is loaded, or the object unmarked. -/
def loadGood (s : State) (c : Nat) (l : Load) (e : VEntry) : State :=
  let k := claim s c
  let s := setClaim s c { k with loads := k.loads.erase l }
  reply (if l.reload then unmark s c e.obj else markLoaded s c e) l.ring l.seq stOk 0 0
/-- A load ends badly with its bytes written: their contents are undefined, poisoned words but for (R319). -/
def loadBad (s : State) (c : Nat) (l : Load) (va n : Nat) (ws : Option (List PWord)) (status : Nat) : State :=
  let s := match ws with
    | some ws => if l.reload then s else
        ws.zipIdx.foldl (fun s w => if w.1.poison then vaPut s c (va + 8 * w.2) [w.1] else s) (freeSpan s c va n)
    | none => s
  loadFail s c l.ring l.seq status
/-- The load of a slot and entry that ends: the first of those that wait for no page, else the first (log 39). A reload whose slot
has been built anew may still run beside a new load of that slot and entry (R328). -/
def theLoad (s : State) (c slot entry : Nat) : Option Load :=
  let ls := (claim s c).loads.filter fun l => l.slot == slot && l.entry == entry
  match ls.find? fun l => !s.waits.any fun w => w.claim == c && w.who == .load l.ring l.seq with
  | some l => some l
  | none => ls.head?
/-- The entry is the one that the command named, even where its slot has become EMPTY since (R328). Bytes may have been written
where the source fell silent or the host read failed, and only then (R318, R319). -/
def loadStep (s : State) (c slot entry : Nat) (peer : PeerAnswer) : State :=
  let k := claim s c
  match theLoad s c slot entry with
  | none => s
  | some l =>
    if !running s then s else
    let e := l.ent
    let va := objBase k e.obj
    match access k (.request none) va e.bytes with
    | .bad st => failOwned (loadFail s c l.ring l.seq st) c st
    | .absent ps => stallAll s c ps (.load l.ring l.seq)
    | .ok =>
      match loadWords s c l e.bytes peer with
      | .bad st =>
        if st = stCollTimeout then loadBad (advanceTo s (l.since + peerSilence)) c l va e.bytes (some []) st
        else if st = stHostAccessFail then loadBad s c l va e.bytes (some []) st
        else loadFail s c l.ring l.seq st
      | .absent ps => stallAll s c ps (.load l.ring l.seq)
      | .ok src =>
        let ws := src.getD (vaWords s c va (ceilDiv e.bytes 8))
        let s := if src.isNone then noteVa s c va e.bytes else s
        if ws.any (·.poison) then loadBad s c l va e.bytes src stPoisonRead
        else if treeDigest (shardBytes ws e.bytes) ≠ e.digest then loadBad s c l va e.bytes src stDigestBad
        else
          let s := match src with
            | some ws => if l.reload then putMarked s c e.obj e.bytes ws else putShard s c va e.bytes ws
            | none => s
          loadGood s c l e
def execWeightLoadDone (c : Fin 8) (slot : Fin 4) (entry : Fin 1024) (peer : PeerAnswer) (s : State) : Res :=
  .next (loadStep s c slot entry peer)

/-! ### Audits (R326) -/

/-- Slots whose entries are audited. -/
def auditable (v : Ver) : Bool := match v.state with | .ready => true | .current => true | .draining => true | _ => false
/-- Entries in slot order and entry order, a shared one once: slot, index and entry. -/
def auditList (k : Claim) : List (Nat × Nat × VEntry) :=
  let all := (List.range 4).flatMap fun i => if auditable (ver k i) then (ver k i).entries.zipIdx.map fun e => (i, e.2, e.1) else []
  all.foldl (fun acc e => if acc.any fun x => sameEntry x.2.2 e.2.2 then acc else acc ++ [e]) []
def auditStep (s : State) (c : Nat) : State :=
  let k := claim s c
  let l := auditList k
  if !inService k || !running s || k.auditInt == 0 || !k.ticking || k.tick % k.auditInt != 0 || k.auditAt == k.tick + 1
    || k.audit.isSome || l.isEmpty then s
  else setClaim s c { k with audit := l[k.auditPos % l.length]?, auditPos := (k.auditPos + 1) % l.length, auditAt := k.tick + 1 }
def execVersionAudit (c : Fin 8) (s : State) : Res := .next (auditStep s c)
/-- Words of one page as the audit reads them: from T1, or from T2 without a frame. -/
def auditPage (s : State) (c p : Nat) : List PWord :=
  let k := claim s c
  let e := pte k p
  match e.state with
  | .t2 => (List.range 32).flatMap fun n => (readChunk s e n (chunkRaw k e n)).words
  | .hoisting => (List.range 32).flatMap fun n => (readChunk s e n (chunkRaw k e n)).words
  | _ => (List.range pageWords).map fun i => readWord s .t1 (e.t1f * pageWords + i)
/-- The same words, as they are read (R174, R175). -/
def notePage (s : State) (c p : Nat) : State :=
  let k := claim s c
  let e := pte k p
  let chunked := fun s => (List.range 32).foldl (fun s n => noteChunk s k e n) s
  match e.state with
  | .t2 => chunked s
  | .hoisting => chunked s
  | _ => noteRun s .t1 (e.t1f * pageWords) pageWords
/-- Slot and index under which an audited entry is named: those it was taken from while they list it, else the first that do. -/
def auditName (k : Claim) (slot n : Nat) (e : VEntry) : Option (Nat × Nat) :=
  ((slot, n) :: (List.range 4).flatMap fun i => (List.range (ver k i).entries.length).map fun j => (i, j)).find? fun p =>
    (ver k p.1).state != .empty && (verEntry k p.1 p.2).any (sameEntry e)
def auditFail (s : State) (c slot n : Nat) (e : VEntry) (d : BitVec 256) : State :=
  let k := claim s c
  let k := (List.range 4).foldl (fun k i =>
    let v := ver k i
    if v.state != .empty && v.entries.any (sameEntry e) then setVer k i { v with auditFail := min 65535 (v.auditFail + 1) } else k) k
  postEvent (setClaim s c k) (some c) 0x0006 [at' slot 16 + n, d.toNat % 2 ^ 64]
/-- The audit that runs ends, once no leaf that it reads is under repair (R327): a mismatch counts in every slot that lists the entry
now, and nowhere when none does any more. -/
def auditDoneStep (s : State) (c : Nat) : State :=
  let k := claim s c
  match k.audit with
  | none => s
  | some (slot, n, e) =>
    if !running s || !(mendPages k [(objBase k e.obj, e.bytes)]).isEmpty then s else
    let s := setClaim s c { k with audit := none }
    match auditName k slot n e with
    | none => s
    | some p =>
      let ps := (List.range (ceilDiv e.bytes 2097152)).map ((obj k e.obj).base + ·)
      let ws := (ps.flatMap (auditPage s c)).take (ceilDiv e.bytes 8)
      let d := treeDigest (shardBytes ws e.bytes)
      let s := ps.foldl (fun s p => notePage s c p) s
      if ws.any (·.poison) || d != e.digest then auditFail s c p.1 p.2 e d else s
def execVersionAuditDone (c : Fin 8) (s : State) : Res := .next (auditDoneStep s c)

/-! ### A peer's request (R318) -/

/-- The slot of the claim that holds a version id. -/
def slotOf (k : Claim) (vid : Nat) : Option Nat := (List.range 4).find? fun i => (ver k i).state != .empty && (ver k i).vid == vid
def serveStep (s : State) (n peer : Nat) (tag : W16) (vid entry : Nat) : State :=
  if !running s || !shaftUp (shaft s n) then s else
  let put := fun (s : State) a => { s with served := some (n, peer, a) }
  match tagClaim s tag with
  | none => put s (.ends stNoCredit)
  | some c =>
    if tagShare s n tag = 0 then put s (.ends stNoCredit)
    else if !carries s n c then s else
    let k := claim s c
    match (slotOf k vid).bind fun i => verEntry k i entry with
    | none => put s (.ends stPeerNotReady)
    | some e =>
      if !e.loaded then put s (.ends stPeerNotReady) else
      match access k (.request none) (objBase k e.obj) e.bytes with
      | .ok =>
        match mendPages k [(objBase k e.obj, e.bytes)] with
        | p :: ps => stallAll s c (p :: ps) (.serve peer vid entry)
        | [] => put (noteVa s c (objBase k e.obj) e.bytes) (.words (vaWords s c (objBase k e.obj) (ceilDiv e.bytes 8)))
      | .bad st => put s (.ends st)
      | .absent l => stallAll s c l (.serve peer vid entry)
def execPeerWeightRequest (n : Fin 52) (peer : Nat) (ctag : W16) (vid : W16) (entry : Nat) (s : State) : Res :=
  .next (serveStep s n peer ctag vid.toNat entry)

end Sys2Proof.Machine
end

