-- ==== Sys2Proof/Machine/HostRegs.lean ====
section
/-!
DEFINITION. What the host does to the device through BAR0 and BAR2 (R356, R357, R361, R367, R448, R451 to R453, R494 to
R508): ring configuration, doorbells, windows, MSI-X, and the registers whose reading has an effect.
-/
namespace Sys2Proof.Machine
open Sys2Proof

/-- A host request is taken: its function is enabled (R449), and no IDE stream that has failed covers it (R443). -/
def tlpTaken (s : State) (bar2 : Bool) (fn off : Nat) : Bool :=
  decide (fn ≤ s.vfs) && !(s.side.ide0 == .failed && Config.ideCovers 0 bar2 fn off) && !(s.side.ide1 == .failed && Config.ideCovers 1 bar2 fn off)
/-- It reaches the device too. -/
def hostOn (s : State) (bar2 : Bool) (fn off : Nat) : Bool := aditUp s && tlpTaken s bar2 fn off
/-- A request that is not taken is dropped. -/
def onHost (s : State) (bar2 : Bool) (fn off : Nat) (f : State → State) : State := if tlpTaken s bar2 fn off then f s else s
/-- BAR0 offsets of the registers that have rows of their own (R494, R498 to R503). -/
def ringOff (r n : Nat) : Nat := 0x10000 + 64 * r + 8 * n
def bellOff (r n : Nat) : Nat := 0x100000 + 4096 * r + 8 * n
def outqOff (q : Nat) : Nat := 0x200000 + 4096 * q
def vecOff (vec : Nat) : Nat := 0x400000 + 16 * vec + 8
def fnOff (target n : Nat) : Nat := 0x500000 + 1024 * target + 8 * n
def complete (s : State) (st : CplStatus) (data : List W64) (ep : Bool) : State := { s with cpl := some ⟨st, data, ep⟩ }

/-! ### Rings (R356, R357, R361, R500) -/

/-- The function sees the ring's block: it owns a bound ring (R494). -/
def ringSeen (s : State) (fn r : Nat) : Bool := aditUp s && (ring s r).bound && (ring s r).fn == fn
/-- Fields of ring configuration word n that software may write. -/
def ringMask : Nat → Nat
  | 0 => span 63 12 | 1 => span 63 12 | 2 => span 63 6 | 3 => span 60 22 | 4 => span 63 32 | _ => 0
def keep (n m : Nat) : W64 := w64 (n &&& m)
/-- ERR of a ring being enabled: 0 when every field is in range (*Ring errors*). -/
def enableErr (x : Ring) : Nat :=
  let sq := fld x.w3 60 56
  let cq := fld x.w3 55 51
  if sq < 4 ∨ 16 < sq ∨ cq < 4 ∨ 16 < cq then 1
  else if vectors x.fn ≤ fld x.w3 50 40 then 2
  else if sqSize x ≤ x.sqTail then 3
  else 0
/-- ENABLE from 0 to 1: nothing happens while a command is outstanding. An interrupt still due for replies already
written stays due (R367): it is none of the effects that R357 lists. -/
def enableRing (x : Ring) (w3 : Nat) : Ring :=
  if x.enable || !x.out.isEmpty then x else
  let x := { x with w3 := keep w3 (ringMask 3) }
  { x with enable := true, err := enableErr x, sqHead := 0, cqTail := 0, cqHead := 0, last := w32 (fld x.w4 63 32) - 1, passes := [] }
def disableRing (x : Ring) : Ring := { x with enable := false, err := 0, sqTail := 0 }
def modRing (s : State) (r : Nat) (g : Ring → Ring) : State := setRing s r (g (ring s r))
/-- RING_ENABLE: a write of word 3 with ENABLE = 1. -/
def ringOnStep (s : State) (fn r w3 : Nat) : State := if ringSeen s fn r then modRing s r fun x => enableRing x w3 else s
def execRingEnable (fn : Fin 33) (r : Fin 256) (w3 : W64) (s : State) : Res := .next (onHost s false fn (ringOff r 3) fun s => ringOnStep s fn r w3.toNat)
/-- RING_DISABLE: a write of word 3 with ENABLE = 0. -/
def ringOffStep (s : State) (fn r : Nat) : State := if ringSeen s fn r then modRing s r disableRing else s
def execRingDisable (fn : Fin 33) (r : Fin 256) (s : State) : Res := .next (onHost s false fn (ringOff r 3) fun s => ringOffStep s fn r)
/-- SQ_TAIL: kept while the ring is disabled (R361); the device acts on no doorbell after a device-fatal error (R508). -/
def tailWritten (x : Ring) (v : Nat) : Ring :=
  match ringState x with
  | 1 => { x with sqTail := v }
  | 2 => if sqSize x ≤ v then { x with err := 3 } else { x with sqTail := v }
  | _ => x
def sqTailStep (s : State) (fn r v : Nat) : State :=
  if ringSeen s fn r && !s.fatal then modRing s r fun x => tailWritten x (v % 65536) else s
def execSqTail (fn : Fin 33) (r : Fin 256) (v : W64) (s : State) : Res := .next (onHost s false fn (bellOff r 0) fun s => sqTailStep s fn r v.toNat)
/-- CQ_HEAD: ignored while the ring is disabled. A value beyond the last reply written frees every entry that holds one, as its
name is among those freed (R508). -/
def headWritten (x : Ring) (v : Nat) : Ring :=
  match ringState x with
  | 2 => if cqSize x ≤ v then { x with err := 3 }
         else if (v + cqSize x - x.cqHead % cqSize x) % cqSize x ≤ cqUsed x then { x with cqHead := v }
         else { x with cqHead := x.cqTail }
  | _ => x
def cqHeadStep (s : State) (fn r v : Nat) : State :=
  if ringSeen s fn r && !s.fatal then modRing s r fun x => headWritten x (v % 65536) else s
def execCqHead (fn : Fin 33) (r : Fin 256) (v : W64) (s : State) : Res := .next (onHost s false fn (bellOff r 1) fun s => cqHeadStep s fn r v.toNat)
/-- OUTQ_HEAD (R501). -/
def outqHeadStep (s : State) (fn q v : Nat) : State :=
  let x := outq s q
  if aditUp s && !s.fatal && x.conf && x.fn == fn && decide (v % 65536 < 2 ^ x.log2) then setOutq s q { x with head := v % 65536 } else s
def execOutqHead (fn : Fin 33) (q : Fin 41) (v : W64) (s : State) : Res := .next (onHost s false fn (outqOff q) fun s => outqHeadStep s fn q v.toNat)

/-! ### Function claims and windows (R452, R503) -/

/-- FN_CLAIM_WRITE, by the physical function: every window entry becomes invalid. -/
def fnClaimStep (s : State) (fn target v : Nat) : State :=
  if !aditUp s || fn != 0 then s else
  let x := fnOf s target
  let w := x.window.foldl (fun t e => Tab.set 0 t e.1 (keep e.2.toNat (span 9 0))) x.window
  setFn s target { x with fcClaim := bits v 2 0, fcValid := v.testBit 3, entryErr := x.entryErr && !v.testBit 4, window := w }
def execFnClaimWrite (fn target : Fin 33) (v : W64) (s : State) : Res := .next (onHost s false fn (fnOff target 0) fun s => fnClaimStep s fn target v.toNat)
/-- A granule that the function claim owns. -/
def fnOwns (s : State) (x : Fn) (g : Nat) : Bool := x.fcValid && decide (g ≤ 767) && ownsT1 (claim s x.fcClaim) g
/-- WINDOW_ENTRY_WRITE, by the physical function; the granule is checked whatever VALID is (R452). -/
def entryStep (s : State) (fn target slot v : Nat) : State :=
  if !aditUp s || fn != 0 then s else
  let x := fnOf s target
  if !fnOwns s x (bits v 9 0) then setFn s target { x with entryErr := true }
  else setFn s target { x with window := Tab.set 0 x.window slot (keep v (span 63 63 + span 9 0)) }
def execWindowEntryWrite (fn target : Fin 33) (slot : Fin 64) (v : W64) (s : State) : Res :=
  .next (onHost s false fn (fnOff target (64 + slot)) fun s => entryStep s fn target slot v.toNat)
/-- WINDOW_DROP_READ: the physical function reads and clears the count; any other reads 0. -/
def windowDropStep (s : State) (fn target : Nat) : State :=
  if !aditUp s then s
  else if fn ≠ 0 then complete s .success [0] false
  else
    let x := fnOf s target
    complete (setFn s target { x with drop := 0 }) .success [w64 x.drop] false
def execWindowDropRead (fn target : Fin 33) (s : State) : Res := .next (onHost s false fn (fnOff target 1) fun s => windowDropStep s fn target)

/-! ### The T1 window (R453, R454) -/

/-- A BAR2 access needs the tiers awake. -/
def barRuns (s : State) : Bool := aditUp s && s.power == .s0
/-- T1 word that BAR2 word n falls on, with the granule, when the slot is mapped and the frame is no system or retired frame. -/
def barWord (s : State) (fn n : Nat) : Option Nat :=
  let slot := n / 134217728
  let e := Tab.get 0 (fnOf s fn).window slot
  let i := fld e 9 0 * 134217728 + n % 134217728
  let frame := i / pageWords
  if slot < 64 ∧ bit e 63 ∧ !((liveClaims s).any fun c => (claim s c).sys.contains frame) ∧ !isRetiredT1 s frame then some i else none
/-- 8-byte words that n bytes at an offset touch. -/
def barWords (off n : Nat) : List Nat := if n = 0 then [] else (List.range ((off + n + 7) / 8 - off / 8)).map (off / 8 + ·)
/-- The outcome of the checks on a whole TLP: its words, or why it is refused. -/
inductive Window | words (l : List Nat) | unmapped | foreign (addr : Nat)
deriving DecidableEq, Repr
def barCheck (s : State) (fn off n : Nat) : Window :=
  let ws := (barWords off n).map (barWord s fn)
  let x := fnOf s fn
  let is := ws.filterMap id
  if ws.any (·.isNone) then .unmapped
  else match is.find? fun i => !(x.fcValid && ownsT1 (claim s x.fcClaim) (i / 134217728)) with
    | some i => .foreign (8 * i)
    | none => .words is
/-- A refused access is counted (R503). -/
def countDrop (s : State) (fn : Nat) : State :=
  let x := fnOf s fn
  setFn s fn { x with drop := sat64 (x.drop + 1) }
/-- A tag that does not match FC_CLAIM ends that claim, with the TLP as the request (R345). -/
def barForeign (s : State) (fn addr : Nat) : State :=
  if !(fnOf s fn).fcValid then countDrop s fn else
  claimFatal (countDrop s fn) (fnOf s fn).fcClaim stOwnerFault { cls := 2, unit := 0x09, kind := 8, tier := 1, addr := addr }
/-- BAR2_READ. -/
def barReadStep (s : State) (fn off n : Nat) : State :=
  if !barRuns s then s else
  match barCheck s fn off n with
  | .unmapped => complete (countDrop s fn) .unsupported [] false
  | .foreign a => complete (barForeign s fn a) .abort [] false
  | .words is =>
    let ws := is.map (readWord s .t1)
    let bs := ((wordsBytes (ws.map (·.data))).drop (off % 8)).take n
    complete (is.foldl (fun s i => noteWord s .t1 i) s) .success (bytesWords bs) (ws.any (·.poison))
def execBar2Read (fn : Fin 33) (offset len : Nat) (s : State) : Res := .next (onHost s true fn offset fun s => barReadStep s fn offset len)
/-- A write by any path makes a CLEAN page DIRTY (R150). -/
def dirtyFrames (s : State) (c : Nat) (is : List Nat) : State :=
  let fs := (is.map (· / pageWords)).eraseDups
  let k := claim s c
  setClaim s c ((k.pages.filter fun e => e.2.state == .clean && fs.contains e.2.t1f).foldl (fun k e => dirtyPage k e.1) k)
/-- BAR2_WRITE: with EP set every word it covers is written poisoned; a part of a word merges. -/
def barWriteStep (s : State) (fn off : Nat) (bs : List Byte) (ep : Bool) : State :=
  if !barRuns s then s else
  match barCheck s fn off bs.length with
  | .unmapped => countDrop s fn
  | .foreign a => barForeign s fn a
  | .words is =>
    let s := dirtyFrames s (fnOf s fn).fcClaim is
    if ep then is.foldl (fun s i => putWord s .t1 i ⟨0, true⟩) s
    else
      let base := off / 8
      (gatherBytes (bs.zipIdx.map fun p => (off + p.2, p.1))).foldl (fun s e => mergeWord s .t1 (is.getD (e.1 - base) 0) e.2.1 e.2.2) s
def execBar2Write (fn : Fin 33) (offset : Nat) (bytes : List Byte) (ep : Bool) (s : State) : Res :=
  .next (onHost s true fn offset fun s => barWriteStep s fn offset bytes ep)

/-! ### Interrupts (R367, R451, R502) -/

/-- MSIX_UNMASK: a pending interrupt is sent. -/
def unmask (s : State) (fn vec : Nat) : State :=
  let k := 512 * fn + vec
  let e := Tab.get {} s.msix k
  let s := { s with msix := Tab.set {} s.msix k { e with ctrl := e.ctrl &&& ~~~(1 : W32), pend := false } }
  if e.pend then interrupt s fn vec else s
def unmaskStep (s : State) (fn vec : Nat) : State := if aditUp s && decide (vec < vectors fn) then unmask s fn vec else s
def execMsixUnmask (fn : Fin 33) (vec : Fin 512) (s : State) : Res := .next (onHost s false fn (vecOff vec) fun s => unmaskStep s fn vec)
/-- INTERRUPT_COALESCE_TIMEOUT of a ring: COAL_US after the first reply that no interrupt has signalled. -/
def ringIrqStep (s : State) (r : Nat) : State :=
  let x := ring s r
  if !aditUp s || s.fatal || x.unsig == 0 || !x.bound then s else
  let s := advanceTo s (x.unsigAt + 1000 * fld x.w3 31 22)
  interrupt (setRing s r { x with unsig := 0 }) x.fn (fld x.w3 50 40)
def queueIrqStep (s : State) (q : Nat) : State :=
  let x := outq s q
  if !aditUp s || s.fatal || x.unsig == 0 || !x.conf then s else
  let s := advanceTo s (x.unsigAt + 1000 * x.coalUs)
  interrupt (setOutq s q { x with unsig := 0 }) x.fn x.vector
def coalesceStep (s : State) (src : IrqSource) : State :=
  match src with | .ring r => ringIrqStep s r | .queue q => queueIrqStep s q
def execInterruptCoalesceTimeout (src : IrqSource) (s : State) : Res := .next (coalesceStep s src)

/-! ### Host reads that fail (R448) -/

/-- The completion timeout of a read of host memory, in ns. -/
def hostPatience : Nat := 50000000
/-- A command whose work reads host memory fails: the staging of an image, or a weight load from the host. Its read was issued after
its consumption, so 50 ms have passed since. -/
def commandTimeout (s : State) (r : Nat) (q : W32) : State :=
  let waited := fun s => advanceTo s (cmdTime s r q + hostPatience)
  if (s.boot.staging.head?).any (fun x => x.1 == r && x.2.1 == q) then
    endStaging (logHost (waited s) (ringHolder s r) (some (r, q)) stHostAccessFail) stHostAccessFail none
  else
    (List.range 8).foldl (fun s c =>
      let k := claim s c
      match k.loads.find? fun l => l.ring == r && l.seq == q && l.source == 0 with
      | none => s
      | some l =>
        let s := logHost (waited s) (ringHolder s r) (some (r, q)) stHostAccessFail
        match access k (.request none) (objBase k l.ent.obj) l.ent.bytes with
        | .ok => loadBad s c l (objBase k l.ent.obj) l.ent.bytes (some []) stHostAccessFail
        | .bad _ => loadFail s c l.ring l.seq stHostAccessFail
        | .absent _ => loadFail s c l.ring l.seq stHostAccessFail) s
/-- HOST_READ_TIMEOUT. -/
def timeoutStep (s : State) (w : HostReader) : State :=
  if !aditUp s || s.fatal then s else
  match w with
  | .ring r => if ringState (ring s r) = 2 then logHost (modRing s r fun x => { x with err := 4 }) (ringHolder s r) none 0 else s
  | .queue q => if (outq s q).conf then logHost (setOutq s q { outq s q with err := true }) (queueHolder q) none 0 else s
  | .command r q => commandTimeout s r q
def execHostReadTimeout (who : HostReader) (s : State) : Res := .next (timeoutStep s who)
/-- UNSUPPORTED_REQUEST (R447). -/
def execUnsupportedRequest (fn : Fin 33) (s : State) : Res :=
  .next (if aditUp s && decide (fn.val ≤ s.vfs) then complete s .unsupported [] false else s)

/-! ### Registers whose reading has an effect (R498, R499) -/

/-- DEV_TIME_READ: the low half latches the high half for the function. -/
def devTimeStep (s : State) (fn : Nat) (h : TimeHalf) : State :=
  if !aditUp s then s else
  let x := fnOf s fn
  let t := s.time % 2 ^ 64
  match h with
  | .whole => complete s .success [w64 t] false
  | .low => complete (setFn s fn { x with latch := some (t / 2 ^ 32) }) .success [w64 (t % 2 ^ 32)] false
  | .high => complete (setFn s fn { x with latch := none }) .success [w64 (x.latch.getD (t / 2 ^ 32))] false
def execDevTimeRead (fn : Fin 33) (part : TimeHalf) (s : State) : Res := .next (onHost s false fn 0x28 fun s => devTimeStep s fn part)
/-- SUMP_DROPPED_READ: the physical function reads and clears the count. -/
def droppedStep (s : State) (fn : Nat) : State :=
  if !aditUp s then s
  else if fn ≠ 0 then complete s .success [0] false
  else complete { s with sump := { s.sump with dropped := 0 } } .success [w64 s.sump.dropped] false
def execSumpDroppedRead (fn : Fin 33) (s : State) : Res := .next (onHost s false fn 0x2008 fun s => droppedStep s fn)

/-! ### Any other write of a BAR0 register (R8, R494, R495, R499, R500, R502) -/

/-- A 64-bit register after a write of it, or of the half at the offset. -/
def halfWrite (old off size v : Nat) : Nat :=
  if size = 8 then v
  else if off % 8 = 0 then old / 2 ^ 32 * 2 ^ 32 + v % 2 ^ 32
  else v % 2 ^ 32 * 2 ^ 32 + old % 2 ^ 32
/-- A ring configuration word; word 3 may change ENABLE. -/
def ringWrite (s : State) (fn r n off size v : Nat) : State :=
  let x := ring s r
  if n = 3 then
    let w := halfWrite (x.w3.toNat + at' (b2n x.enable) 63) off size v
    if w.testBit 63 then ringOnStep s fn r w
    else if x.enable then ringOffStep s fn r
    else if ringSeen s fn r then
      let high := size == 8 || off % 8 == 4
      modRing s r fun x => { (if high then disableRing x else x) with w3 := keep w (ringMask 3) }
    else s
  else if !ringSeen s fn r || x.enable then s
  else
    let put := fun (w : W64) => keep (halfWrite w.toNat off size v) (ringMask n)
    match n with
    | 0 => setRing s r { x with w0 := put x.w0 }
    | 1 => setRing s r { x with w1 := put x.w1 }
    | 2 => setRing s r { x with w2 := put x.w2 }
    | 4 => setRing s r { x with w4 := put x.w4 }
    | _ => s
/-- A table entry of MSI-X; one that ends unmasked sends what is pending. -/
def msixWrite (s : State) (fn vec off size v : Nat) : State :=
  if vectors fn ≤ vec then s else
  let k := 512 * fn + vec
  let e := Tab.get {} s.msix k
  let hi := halfWrite (e.data.toNat + at' e.ctrl.toNat 32) off size v
  let e := if off % 16 < 8 then { e with addr := w64 (halfWrite e.addr.toNat off size v) }
           else { e with data := w32 (hi % 2 ^ 32), ctrl := w32 (hi / 2 ^ 32 % 2) }
  let s := { s with msix := Tab.set {} s.msix k e }
  if e.ctrl.getLsbD 0 then s else unmask s fn vec
/-- A doorbell: a write of its low half is a full write. -/
def doorbell (off size v : Nat) : Option Nat := if off % 8 = 0 then some (if size = 4 then v % 2 ^ 32 else v) else none
/-- The block of a function: its claim register and its window entries. -/
def fnBlockWrite (s : State) (fn target off size v : Nat) : State :=
  let x := fnOf s target
  if off < 8 then
    let old := x.fcClaim + at' (b2n x.fcValid) 3
    fnClaimStep s fn target (halfWrite old off size v)
  else if 512 ≤ off then
    let slot := (off - 512) / 8
    entryStep s fn target slot (halfWrite (Tab.get 0 x.window slot).toNat off size v)
  else s
/-- REGISTER_WRITE: a write that is not 4 or 8 bytes, or not aligned, is dropped; a field without write access, and a
region that the function does not see, are left alone. -/
def regWriteStep (s : State) (fn off size v : Nat) : State :=
  if !aditUp s || !(size == 4 || size == 8) || off % size != 0 then s
  else if off / 8 * 8 = 0x2018 then
    let u := s.sump
    let w := halfWrite (at' (b2n u.svEn) 11 + u.svVec) off size v
    if fn = 0 then { s with sump := { u with svEn := w.testBit 11, svVec := bits w 10 0 } } else s
  else if 0x10000 ≤ off ∧ off < 0x14000 then ringWrite s fn ((off - 0x10000) / 64) (off % 64 / 8) off size v
  else if 0x100000 ≤ off ∧ off < 0x200000 then
    let r := (off - 0x100000) / 4096
    match doorbell off size v, off % 4096 with
    | some v, 0 => sqTailStep s fn r v
    | some v, 8 => cqHeadStep s fn r v
    | _, _ => s
  else if 0x200000 ≤ off ∧ off < 0x229000 then
    match doorbell off size v, off % 4096 with
    | some v, 0 => outqHeadStep s fn ((off - 0x200000) / 4096) v
    | _, _ => s
  else if 0x400000 ≤ off ∧ off < 0x402000 then msixWrite s fn ((off - 0x400000) / 16) off size v
  else if 0x500000 ≤ off ∧ off < 0x508400 ∧ fn = 0 then
    fnBlockWrite s fn ((off - 0x500000) / 1024) ((off - 0x500000) % 1024) size v
  else s
def execRegisterWrite (fn : Fin 33) (offset size : Nat) (v : W64) (s : State) : Res :=
  .next (onHost s false fn offset fun s => regWriteStep s fn offset size v.toNat)

end Sys2Proof.Machine
end

