-- ==== Sys2Proof/Machine/LinkCmds.lean ====
section
/-!
DEFINITION. The management commands of the shafts, the routes and the bell (R269, R275, R277, R280 to R282, R298,
R301, R313, R377).
-/
namespace Sys2Proof.Machine
open Sys2Proof

/-! ### Shafts -/

/-- SHAFT_ADDR_SET (R269). -/
def addrSetStep (s : State) (r : Nat) : State :=
  lervo s r 0x030 [span 11 0] fun k s =>
    if (List.range 52).any fun n => (shaft s n).state != .off && (shaft s n).state != .down then refuse s stShaftBusy
    else okay { s with devAddr := par k 1 11 0 }
def execShaftAddrSet (r : Fin 256) (s : State) : Res := .next (addrSetStep s r)
/-- SHAFT_CTL: a shaft whose bit is 0 goes OFF; bring-up of one whose bit is 1 is for its own steps (R277). -/
def shaftCtlStep (s : State) (r : Nat) : State :=
  lervo s r 0x031 [span 51 0] fun k s =>
    okay ((List.range 52).foldl (fun s n =>
      if par k 1 n n = 1 then modShaft s n fun x => { x with enabled := true }
      else modShaft (shaftOff s n) n fun x => { x with enabled := false }) s)
def execShaftCtl (r : Fin 256) (s : State) : Res := .next (shaftCtlStep s r)
/-- SHAFT_QUERY (R281, R377). -/
def shaftQueryStep (s : State) (r : Nat) : State :=
  lervo s r 0x032 [span 5 0, whole] fun k s =>
    let n := par k 1 5 0
    if 51 < n then refuse s stBadEncoding else
    let x := shaft s n
    putHost s k (par k 2 63 0) (wordsBytes ((List.range 16).map fun i => w64 (Tab.get 0 x.count i))) fun s =>
      .done s stOk (shaftWord x) 0
def execShaftQuery (r : Fin 256) (s : State) : Res := .next (shaftQueryStep s r)
/-- A routed transfer's flits, by their XFER numbers, go over shaft n (R284). -/
def routesOver (s : State) (dst n : Nat) (xfers : List Nat) : Bool :=
  let ms := routeShafts s dst
  xfers.any fun x => ms[x % ms.length]? == some n
/-- The owner of a claim tag has flits queued or transfers in flight on a shaft (R275): flits waiting, unacknowledged or held, DESCs
that came over it and wait, transfers that are sent or received over it, and weights loaded or served over it (R318). -/
def ownerBusy (s : State) (n : Nat) (tag : W16) : Bool :=
  let h := shaft s n
  h.queue.any (fun q => q.1 == tag) || h.replay.any (fun e => hdrTag e.2.hdr == tag) || rxHeld h tag != 0 ||
  s.descs.any (fun d => d.1 == n && hdrTag d.2.1 == tag) ||
  match tagClaim s tag with
  | some c =>
    ((claim s c).colls.any fun x => x.sends.any fun t => !t.acked &&
      (t.members.contains n || (t.members.isEmpty && routesOver s (rankAddr (claim s c) x t.rank) n (t.ctx :: t.granted.toList)))) ||
    (s.rxctx.any fun e => match e.2 with
      | some x => x.claim == c && (x.via == n || (x.sender == h.peer && x.members.contains h.peerS) ||
          (x.members.isEmpty && routesOver s x.sender n [x.sctx]))
      | none => false) ||
    ((claim s c).loads.any fun l => l.source == 1 && (membersFor s c l.arg).contains n) ||
    (s.waits.any fun w => w.claim == c && (match w.who with | .serve peer _ _ => (membersFor s c peer).contains n | _ => false))
  | none => false
/-- SHAFT_SHARE_SET: bytes of w2 for the claims, then eight relay shares (R275); the share that a creation under way will take
counts in the sum of 64 (R28). -/
def shareSetStep (s : State) (r : Nat) : State :=
  let relayBits := span 63 48 + span 39 32 + span 31 16 + span 7 0
  lervo s r 0x033 [span 5 0, whole, relayBits, relayBits, relayBits, relayBits] fun k s =>
    let n := par k 1 5 0
    let loc := (List.range 8).map fun c => par k 2 (8 * c + 7) (8 * c)
    let rel : List (W16 × Nat) := (List.range 4).flatMap fun i =>
      [(BitVec.ofNat 16 (par k (3 + i) 63 48), par k (3 + i) 39 32), (BitVec.ofNat 16 (par k (3 + i) 31 16), par k (3 + i) 7 0)]
    let rel := rel.filter fun p => p.2 != 0
    let old := nextShares (shaft s n)
    let gone := (List.range 8).any (fun c =>
        loc.getD c 0 == 0 && Tab.get 0 old.1 c != 0 && ownerBusy s n (claim s c).ctag) ||
      old.2.any fun p => !rel.any (fun q => q.1 == p.1) && ownerBusy s n p.1
    let sum : Nat := (loc.zipIdx.map fun p => max p.1 (shareHeld s n p.2)).foldl (· + ·) 0 + (rel.map Prod.snd).foldl (· + ·) 0
    let absent := loc.zipIdx.any fun p => p.1 != 0 && !(claim s p.2).live
    if decide (51 < n) || decide (64 < sum) || absent || rel.any (fun p => p.1 == 0) then refuse s stBadEncoding
    else if gone then refuse s stShareBusy
    else okay (setShares s n (loc.zipIdx.foldl (fun t p => Tab.set 0 t p.2 p.1) []) rel)
def execShaftShareSet (r : Fin 256) (s : State) : Res := .next (shareSetStep s r)
/-- SHAFT_AUTH: authentication of a claim on a shaft is tried again (R280). -/
def shaftAuthStep (s : State) (r : Nat) : State :=
  lervo s r 0x034 [span 5 0 + span 10 8] fun k s =>
    let n := par k 1 5 0
    let c := par k 1 10 8
    if 51 < n then refuse s stBadEncoding
    else if !inService (claim s c) then refuse s stNoClaim
    else if Tab.get 0 (shaft s n).share c = 0 then refuse s stBadEncoding
    else if !shaftUp (shaft s n) then refuse s stShaftDown
    else if (shaft s n).auth.getLsbD c then okay s
    else .wait (startAuth s n c (callCmd k))
def execShaftAuth (r : Fin 256) (s : State) : Res := .next (shaftAuthStep s r)
/-- ROUTE_SET (R282). -/
def routeSetStep (s : State) (r : Nat) : State :=
  lervo s r 0x035 [span 11 0, span 63 63 + span 51 0] fun k s =>
    let dst := par k 1 11 0
    let ns := (List.range 52).filter fun n => par k 2 n n = 1
    let peers := (ns.map fun n => (shaft s n).peer).eraseDups
    if (par k 2 63 63 = 1 ∧ ns.isEmpty) ∨ ns.any (fun n => !shaftUp (shaft s n)) ∨ 1 < peers.length ∨ dst = s.devAddr then
      refuse s stRouteInvalid
    else okay { s with routes := Tab.set 0 s.routes dst (k.ws.getD 2 0) }
def execRouteSet (r : Fin 256) (s : State) : Res := .next (routeSetStep s r)

/-! ### The bell -/

/-- BELL_JOIN: the optics go on, and the steps of R298 follow. -/
def bellJoinStep (s : State) (r : Nat) : State :=
  lervo s r 0x040 [span 5 0] fun k s =>
    if s.bell.state ≠ .off then refuse s stBellBusy
    else .wait (modBell s fun b => { b with
      state := .lock, addr := par k 1 5 0, cycles := 0, samples := [], spreads := 0, bad := 0, busy := false, isMaster := false
      next := none, heard := false, quiet := 0
      leaving := false, cmd := callCmd k })
def execBellJoin (r : Fin 256) (s : State) : Res := .next (bellJoinStep s r)
/-- BELL_LEAVE: transmission stops at the end of the bell cycle; a BELL_JOIN under way goes on. -/
def bellLeaveStep (s : State) (r : Nat) : State :=
  lervo s r 0x041 [] fun _ s =>
    okay (if s.bell.state = .off then s
      else if s.bell.state = .lock ∧ s.bell.cycles = 0 then leaveBell s
      else modBell s fun b => { b with leaving := true })
def execBellLeave (r : Fin 256) (s : State) : Res := .next (bellLeaveStep s r)
/-- BELL_CLAIM_SET (R296, R301, R302): the stored counters restart, and the first TICK frame is awaited anew. -/
def bellClaimStep (s : State) (r : Nat) : State :=
  lervo s r 0x042 [span 2 0 + span 13 8 + span 16 16 + span 30 24, whole] fun k s =>
    let c := par k 1 2 0
    let n := par k 1 30 24
    let x := claim s c
    if !inService x then refuse s stNoClaim
    else if n = 0 ∨ 64 < n then refuse s stBadEncoding
    else if x.pset.isSome then refuse s stPermuteBusy
    else readHost s k (par k 2 63 0) (4 * n) fun bs =>
      let es := (chunks 4 bs).map leNat
      let ms := es.map fun e => (bits e 5 0, bits e 27 16)
      if es.any fun e => bits e 31 28 != 0 || bits e 15 6 != 0 then refuse s stReservedField
      else if !ms.any (fun m => m.2 == s.devAddr) then refuse s stBadEncoding
      else
        let y := { x with members := ms, master := par k 1 13 8, sympathy := par k 1 16 16 == 1, fseen := [], tickAt := s.time, tickCyc := 32
                          tickSeen := false, tickLost := false }
        let y := if isTickMaster s y then { y with offset := 0, slew := 0 } else y
        okay (setClaim s c y)
def execBellClaimSet (r : Fin 256) (s : State) : Res := .next (bellClaimStep s r)
/-- BELL_QUERY (R313, R377). -/
def bellQueryStep (s : State) (r : Nat) : State :=
  lervo s r 0x043 [whole] fun k s =>
    putHost s k (par k 1 63 0) (wordsBytes ((List.range 9).map fun i => w64 (Tab.get 0 s.bell.count i))) fun s =>
      .done s stOk (bellWord s.bell) 0
def execBellQuery (r : Fin 256) (s : State) : Res := .next (bellQueryStep s r)

end Sys2Proof.Machine
end

