-- ==== Sys2Proof/Machine/ObjCmds.lean ====
section
/-!
DEFINITION. The commands over objects, pages and hoists, and the branch tables (R148 to R164, R380, R381).
-/
namespace Sys2Proof.Machine
open Sys2Proof

/-! ### Objects (R152, R153, R380) -/

/-- Second-level tables that a claim's mapped pages need, with `more` pages besides (R148). -/
def tableSpans (k : Claim) (more : List Nat) : Nat :=
  let here : List Nat := (k.pages.filter fun (e : Nat × Pte) => e.2.state != .unmapped).map fun e => e.1 / 8192
  (here ++ more.map (· / 8192)).eraseDups.length
def objMeets (k : Claim) (base n : Nat) : Bool :=
  k.objs.any fun e => e.2.live && decide (e.2.base < base + n) && decide (base < e.2.base + e.2.pages)
/-- The words of a descriptor (R152). -/
def objWord0 (o : Obj) : Nat := at' o.base 37 + at' o.pages 13
def objWord1 (o : Obj) : Nat :=
  at' o.tenant 52 + at' (b2n o.marked) 7 + at' (b2n o.priv) 6 + at' (b2n o.pin) 5 + at' (b2n o.cmp) 4 + at' (b2n o.t2home) 2
/-- An object as its descriptor words give it; a written MARKED is ignored. -/
def objOf (a b : W64) : Obj :=
  { live := true, base := fld a 63 37, pages := fld a 36 13, tenant := fld b 63 52, priv := bit b 6, pin := bit b 5
    cmp := bit b 4, t2home := bit b 2 }
/-- The checks of OBJ_CREATE that need no frame list: those of running sentences (R148, R380), then the list of R153. -/
def objStatus (k : Claim) (n : Nat) (o : Obj) : Nat :=
  if o.pages = 0 ∨ 2 ^ 27 < o.base + o.pages then stBadEncoding
  else if 16 * k.sys.length < tableSpans k ((List.range o.pages).map (o.base + ·)) then stNoTableSpace
  else if (obj k n).live then stObjBusy
  else if objMeets k o.base o.pages then stObjOverlap
  else if o.cmp && !o.t2home then stBadAttribute
  else 0
/-- The checks of OBJ_CREATE on its frames. -/
def frameStatus (s : State) (c : Nat) (o : Obj) (fs : List Nat) : Nat :=
  let k := claim s c
  if fs.any fun f => (if o.t2home then 2 ^ 20 else 2 ^ 19) ≤ f then stReservedField
  else if fs.any fun f => !(if o.t2home then k.t2g.getLsbD (f / 512) else k.t1g.getLsbD (f / 512)) then stFrameNotOwned
  else if fs.eraseDups.length ≠ fs.length ∨ fs.any (fun f => if o.t2home then t2Used s f else t1Used s f) then stFrameInUse
  else if fs.any fun f => s.retired.contains (o.t2home, f) then stFrameRetired
  else 0
/-- The page-table entry of a page of a new object (R150). -/
def newPte (n : Nat) (o : Obj) (f : Nat) : Pte :=
  if o.t2home then { state := .t2, obj := n, t2f := f } else { state := .t1, obj := n, t1f := f }
def mapObj (k : Claim) (n : Nat) (o : Obj) (fs : List Nat) : Claim :=
  { setObj k n o with pages := Tab.setRun {} k.pages o.base (fs.map (newPte n o)) }
/-- Little-endian 4-byte numbers. -/
def words32 (bs : List Byte) : List Nat := (chunks 4 bs).map leNat
def objCreateStep (s : State) (r : Nat) : State :=
  lervo s r 0x101 [span 63 13, span 63 52 + span 7 4 + span 2 2, span 11 0, whole] fun k s =>
    let o := objOf (k.ws.getD 1 0) (k.ws.getD 2 0)
    let n := par k 3 11 0
    let st := objStatus (claim s k.c) n o
    if st ≠ 0 then refuse s st else
    readHost s k (par k 4 63 0) (4 * o.pages) fun bs =>
      let fs := words32 bs
      let st := frameStatus s k.c o fs
      if st ≠ 0 then refuse s st else okay (setClaim s k.c (mapObj (claim s k.c) n o fs))
def execObjCreate (r : Fin 256) (s : State) : Res := .next (objCreateStep s r)
/-- A version slot lists the object, or the serving configuration names it (R380). -/
def objHeld (k : Claim) (n : Nat) : Bool :=
  (List.range 4).any (fun i => (ver k i).state != .empty && (ver k i).entries.any fun e => e.obj == n) ||
  match k.serve with
  | some v => [v.pool, v.tags, v.vein, v.counts, v.steerTab, v.steerBuf, v.batchTab].contains n
  | none => false
/-- OBJ_DESTROY: pages in a hoist or write-back go when it ends, the rest at OBJ_DESTROY_EFFECT. -/
def objDestroyStep (s : State) (r : Nat) : State :=
  lervo s r 0x102 [span 11 0] fun k s =>
    let n := par k 1 11 0
    let x := claim s k.c
    let o := obj x n
    if !o.live || o.dying.isSome then refuse s stBadEncoding
    else if objHeld x n then refuse s stObjBusy
    else
      let ps := objPages x n
      let s := setClaim s k.c (setObj x n { o with dying := some (k.r, k.seq) })
      .wait { s with hoists := s.hoists.map fun h => if h.claim = k.c ∧ ps.contains h.page then { h with doomed := true } else h }
def execObjDestroy (r : Fin 256) (s : State) : Res := .next (objDestroyStep s r)
def objQueryStep (s : State) (r : Nat) : State :=
  lervo s r 0x103 [span 11 0] fun k s =>
    let o := obj (claim s k.c) (par k 1 11 0)
    .done s stOk (objWord0 o) (objWord1 o)
def execObjQuery (r : Fin 256) (s : State) : Res := .next (objQueryStep s r)
def objSetPinStep (s : State) (r : Nat) : State :=
  lervo s r 0x104 [span 12 0] fun k s =>
    let n := par k 1 11 0
    let x := claim s k.c
    let o := obj x n
    if !o.live || o.dying.isSome then refuse s stBadEncoding
    else okay (setClaim s k.c (setObj x n { o with pin := par k 1 12 12 == 1 }))
def execObjSetPin (r : Fin 256) (s : State) : Res := .next (objSetPinStep s r)

/-! ### Pages (R149, R162, R164) -/

/-- *Page states*. -/
def pageCode : PageState → Nat
  | .unmapped => 0 | .t1 => 1 | .t2 => 2 | .hoisting => 3 | .clean => 4 | .dirty => 5 | .writeback => 6
def pteWord0 (e : Pte) : Nat := at' (pageCode e.state) 60 + at' e.obj 48 + at' e.t2f 20 + e.t1f
def pageQueryStep (s : State) (r : Nat) : State :=
  lervo s r 0x105 [vaBits] fun k s =>
    let e := pte (claim s k.c) (par k 1 47 21)
    .done s stOk (pteWord0 e) (at' e.raw.toNat 32)
def execPageQuery (r : Fin 256) (s : State) : Res := .next (pageQueryStep s r)
/-- HOIST_PREFETCH: pages that are resident count at once, the rest as they arrive. -/
def prefetchStep (s : State) (r : Nat) : State :=
  lervo s r 0x106 [vaBits, span 23 0] fun k s =>
    let x := claim s k.c
    let ps := (List.range (par k 2 23 0)).map (par k 1 47 21 + ·)
    if ps.any fun p => (pte x p).state == .unmapped then refuse s stAddrUnmapped else
    let left := ps.filter fun p => !resident (pte x p)
    let here := ps.length - left.length
    if left.isEmpty then .done s stOk here 0
    else .wait (stallAll { s with fetches := s.fetches ++ [(k.r, k.seq, k.c, left, here, 0)] } k.c left (.prefetch k.r k.seq))
def execHoistPrefetch (r : Fin 256) (s : State) : Res := .next (prefetchStep s r)
def evictCmdStep (s : State) (r : Nat) : State :=
  lervo s r 0x107 [vaBits] fun k s =>
    let x := claim s k.c
    let p := par k 1 47 21
    let e := pte x p
    match e.state with
    | .unmapped => refuse s stAddrUnmapped
    | .t1 => refuse s stWrongTier
    | .t2 => okay s
    | st =>
      if (obj x e.obj).pin then refuse s stPagePinned
      else if st == .hoisting || st == .writeback then refuse s stPageBusy
      else .wait { s with evicts := s.evicts ++ [(k.c, p, k.r, k.seq)] }
def execHoistEvict (r : Fin 256) (s : State) : Res := .next (evictCmdStep s r)

/-! ### The free-frame set and the fetch deadline (R160, R162, R179) -/

/-- A frame that may enter the claim's free-frame set: in its granules, unmapped, no system frame, not in the set, not
retired. -/
def frameAddable (s : State) (c f : Nat) : Bool :=
  decide (f < 393216) && ownsT1 (claim s c) (f / 512) && !t1Used s f && !isRetiredT1 s f
def addFrames (s : State) (c : Nat) (fs : List Nat) : State × Nat :=
  fs.foldl (fun (a : State × Nat) f =>
    if frameAddable a.1 c f then (setClaim a.1 c (freeFrame (claim a.1 c) f), a.2 + 1) else a) (s, 0)
def framesAddStep (s : State) (r : Nat) : State :=
  lervo s r 0x108 [whole, span 18 0] fun k s =>
    readHost s k (par k 1 63 0) (4 * par k 2 18 0) fun bs =>
      let x := addFrames s k.c (words32 bs)
      .done (assignHoists x.1) stOk x.2 0
def execHoistFramesAdd (r : Fin 256) (s : State) : Res := .next (framesAddStep s r)
def framesRemoveStep (s : State) (r : Nat) : State :=
  lervo s r 0x109 [whole, span 18 0] fun k s =>
    readHost s k (par k 1 63 0) (4 * par k 2 18 0) fun bs =>
      let x := claim s k.c
      let rest := x.free.filter fun f => !(words32 bs).contains f
      .done (setClaim s k.c { x with free := rest }) stOk (x.free.length - rest.length) 0
def execHoistFramesRemove (r : Fin 256) (s : State) : Res := .next (framesRemoveStep s r)
def deadlineSetStep (s : State) (r : Nat) : State :=
  lervo s r 0x10A [span 16 0] fun k s =>
    let us := par k 1 16 0
    if us < 100 ∨ 100000 < us then refuse s stBadEncoding
    else okay (setClaim s k.c { claim s k.c with deadline := us })
def execFetchDeadlineSet (r : Fin 256) (s : State) : Res := .next (deadlineSetStep s r)

/-! ### Branch tables (R113, R381) -/

/-- A reserved bit or comparison code of an entry; entry 0's comparison is ignored. -/
def branchBad (i : Nat) (w : W64) : Bool := fld w 60 11 != 0 || (i != 0 && decide (6 ≤ fld w 63 61))
def branchLoadStep (s : State) (r : Nat) : State :=
  lervo s r 0x10B [span 7 0, vaBits] fun k s =>
    readClaimWords s k.c (par k 2 47 0) 32 fun s ws =>
      let es := (List.range 16).map fun i => (ws.getD (2 * i) 0, ws.getD (2 * i + 1) 0)
      if es.zipIdx.any fun e => branchBad e.2 e.1.2 then refuse s stReservedField
      else
        let x := claim s k.c
        okay (setClaim s k.c { x with branch := Tab.set [] x.branch (par k 1 7 0) es })
def execBranchTableLoad (r : Fin 256) (s : State) : Res := .next (branchLoadStep s r)

end Sys2Proof.Machine
end

