-- ==== Sys2Proof/Machine/PowerStates.lean ====
section
/-!
DEFINITION. The power states (R412 to R420): POWER_STATE_SET, entry to S1 to S4, the return to S0, and the wake from S3.
-/
namespace Sys2Proof.Machine
open Sys2Proof

/-! ### Entry (R413, R416, R417) -/

/-- Work that keeps the device in S0 (R387), or an entry already under way. -/
def powerBusy (s : State) : Bool :=
  s.entry.isSome || (List.range 8).any fun c =>
    let k := claim s c
    s.reqs.any (fun q => q.claim == c) || !(liveStreams s c).isEmpty || k.sweep.isSome || k.turn.isSome || k.pset.isSome
def powerOf : Nat → Power | 1 => .s1 | 2 => .s2 | 3 => .s3 | 4 => .s4 | _ => .s0
def beginEntry (s : State) (target : Nat) (cmd : Option (Nat × W32)) (retained : List Byte) : State :=
  { s with entry := some { target := powerOf target, cmd := cmd, retained := retained, wake := false } }
/-- POWER_STATE_SET (R387, R413, R416). -/
def powerSetStep (s : State) (r : Nat) : State :=
  lervo s r 0x807 [span 2 0, whole] fun k s =>
    let n := par k 1 2 0
    if n = 0 ∨ 4 < n then refuse s stBadEncoding else
    readHost s k (par k 2 63 0) (if n = 3 then 128 else 0) fun bs =>
      if someSet (bs.drop 97) then refuse s stReservedField
      else if powerBusy s then refuse s stPowerBusy
      else .wait (beginEntry s n (callCmd k) bs)
def execPowerStateSet (r : Fin 256) (s : State) : Res := .next (powerSetStep s r)
/-- T0 of every face loses its contents in S2: each face's words become free values. -/
def loseT0 (s : State) : State :=
  let fs := (List.range 128).foldl (fun t f =>
    Tab.set {} t f { face s f with t0 := [], t0By := [], lost := some (s.freeCtr + f) }) s.faces
  { s with faces := fs, freeCtr := s.freeCtr + 128 }
/-- The bell stops, and the device will join again at its address (R414); a BELL_JOIN under way then goes on. -/
def sleepBell (b : Bell) : Bell :=
  { b with state := .off, queue := [], flying := none, isMaster := false, leaving := false, samples := [], cycles := 0, seen := []
           next := none, heard := false, quiet := 0, rejoin := b.state != .off && !b.leaving }
/-- Granules of a retained list (R416). -/
def keptT1Of (l : List Byte) : BitVec 768 := BitVec.ofNat 768 (dsc l 0 96)
def keptT2Of (l : List Byte) : BitVec 8 := BitVec.ofNat 8 (dsc l 96 1)
/-- Everything that is not retained is lost in S3, and every claim has ended; the adit link is down (R417). -/
def sealDown (s : State) (l : List Byte) (wake : Bool) : State :=
  let w := warmKeep (modWinder s fun w => { w with saved := w.trim })
  let t1 := s.t1.filter fun e => (keptT1Of l).getLsbD (e.1 / pageWords / 512)
  let t2 := s.t2.filter fun e => (keptT2Of l).getLsbD (t2Ctl e.1)
  { w with
    power := .s3, time := 0, stamp := none, t1 := t1, t2 := t2, sump := { w.sump with since := 0 }
    boot := { w.boot with stage := .straps, t1init := 0, t2init := false, keptT1 := keptT1Of l, keptT2 := keptT2Of l, waking := wake } }
/-- A sideband request that waited for the entry brings the device back at once (R413, R460). -/
def heldWakes (s : State) : State := if s.side.held.isEmpty then s else { s with exit := some .mctp }
/-- POWER_STATE_ENTERED: the reply is the last act of entry, or the last before the adit link goes down. -/
def enteredStep (s : State) : State :=
  if !running s then s else
  match s.entry with
  | none => s
  | some e =>
    let s := { s with entry := none }
    match e.target with
    | .s0 => s
    | .s1 => heldWakes (replyTo { s with power := .s1 } e.cmd stOk 0 0)
    | .s2 => heldWakes (replyTo { loseT0 s with power := .s2, bell := sleepBell s.bell } e.cmd stOk 0 0)
    | .s3 => sealDown (replyTo (abortRings (endClaims s) e.cmd) e.cmd stOk 0 0) e.retained e.wake
    | .s4 =>
      let s := fundamental (saveTrims (replyTo (abortRings (endClaims s) e.cmd) e.cmd stOk 0 0))
      { s with power := .s4, pins := { s.pins with perst := false } }
def execPowerStateEntered (s : State) : Res := .next (enteredStep s)

/-! ### The return from S1 and S2 (R413, R414) -/

def inS1S2 (s : State) : Bool := match s.power with | .s1 => true | .s2 => true | _ => false
/-- What returns the device to S0 has come. -/
def wakes (s : State) : WakeCause → Bool
  | .packet => (nextRing s).isSome
  | .desc => !s.descs.isEmpty
  | .bar2 => true
  | .mctp => true
/-- POWER_EXIT_EVENT. -/
def exitStep (s : State) (c : WakeCause) : State :=
  if inS1S2 s && !s.fatal && !s.pins.perst && !s.pins.stopped && s.exit.isNone && wakes s c then { s with exit := some c } else s
def execPowerExitEvent (cause : WakeCause) (s : State) : Res := .next (exitStep s cause)
/-- The bell joins again from step 1 of R298. -/
def rejoinBell (b : Bell) : Bell :=
  if b.rejoin then { b with state := .lock, rejoin := false, spreads := 0, bad := 0, busy := false } else b
/-- The device back in S0: the bell joins again, and DESC frames are taken up. -/
def returnStep (s : State) : State := pumpDescs { s with power := .s0, exit := none, bell := rejoinBell s.bell }

/-! ### The wake from S3 (R418 to R420) -/

/-- A wake in S3 starts the resume; one during entry is latched. -/
def wakeUp (s : State) : State :=
  match s.power, s.entry with
  | .s3, _ => { s with boot := { s.boot with waking := true } }
  | _, some e => if e.target = .s3 then { s with entry := some { e with wake := true } } else s
  | _, none => s
/-- WAKE_N held low for 1 µs. -/
def execWakeN (s : State) : Res := .next (if s.pins.perst || s.pins.stopped then s else wakeUp s)
/-- The match meets the hand-over window, the last 240 ns of an entry to S3: a free value says so (log 47). -/
def inHandOver (s : State) : Bool × State :=
  if s.entry.any fun e => e.target == .s3 then let (v, s) := freeValue s; (v.getLsbD 0, s) else (false, s)
/-- SMBUS_ADDRESS_MATCH at the strapped address: in S3 every byte after the address is NACKed, and a match in the hand-over
window is NACKed and lost. -/
def smbusStep (s : State) (addr : Nat) : State :=
  if s.pins.perst || s.pins.stopped || addr != 0x60 + s.boot.smbAddr.toNat then s
  else if s.power = .s4 then s
  else
  let (lost, s) := inHandOver s
  if lost then { s with side := { s.side with nack := true } }
  else wakeUp { s with side := { s.side with nack := s.power == .s3 } }
def execSmbusAddressMatch (addr : BitVec 7) (s : State) : Res := .next (smbusStep s addr.toNat)
/-- S3_RESUME: the adit link trains again with the kept configuration space, and boot runs. -/
def resumeStep (s : State) (inp : BootInputs) : State :=
  if s.power = .s3 ∧ s.boot.waking ∧ !s.pins.perst ∧ !s.pins.stopped then
    bootEnd { s with power := .s0, time := 0, elapsed := 0, sump := { s.sump with since := 0 }, boot := { s.boot with stage := .adit, waking := false } } inp
  else s
def execS3Resume (inp : BootInputs) (s : State) : Res := .next (resumeStep s inp)

end Sys2Proof.Machine
end

