-- ==== Sys2Proof/Machine/Pins.lean ====
section
/-!
DEFINITION. Pins, rails and the test port (R411, R415, R445, R479 to R493).
-/
namespace Sys2Proof.Machine
open Sys2Proof

def modPins (s : State) (g : Pins → Pins) : State := { s with pins := g s.pins }

/-! ### The test port (R445, R490 to R492) -/

def tapIdcode : Byte := 0x01
def tapBypass : Byte := 0xFF
/-- Every code that *TAP instructions* does not list selects BYPASS. -/
def tapListed (c : Byte) : Byte := if 1 ≤ c.toNat ∧ c.toNat ≤ 7 then c else tapBypass
/-- Accepted while PERST_N is deasserted. -/
def tapFree (c : Byte) : Bool := c == 0x01 || c == 0x02 || c == tapBypass
/-- The instruction that a load leaves. -/
def tapLoaded (perst : Bool) (c : Byte) : Byte := if perst || tapFree (tapListed c) then tapListed c else tapBypass
/-- The TAP works while VDD_AUX and VDD_IO are good. -/
def tapWorks (s : State) : Bool := s.pins.good.contains .vddAux && s.pins.good.contains .vddIo
/-- The identification register: version, part number, manufacturer and a 1 (R491). -/
def idRegister : W32 := w32 (at' 0x0 28 + at' 0x9612 12 + at' 0x3C5 1 + 1)
/-- What drives the lands that the device drives: its own logic, the boundary cells (EXTEST, CLAMP and the IEEE 1149.6
instructions), or nothing (HIGHZ). -/
inductive PinDrive | core | cells | none
deriving DecidableEq, Repr
def pinDrive (s : State) : PinDrive :=
  if !tapWorks s then .core else
  match s.pins.tap.toNat with
  | 3 => .cells | 4 => .cells | 6 => .cells | 7 => .cells
  | 5 => .none
  | _ => .core
/-- The register between TDI and TDO, by *TAP instructions*: its cells and what it holds; BYPASS captures 0. -/
def tapRegister (s : State) : Nat × Nat :=
  match s.pins.tap.toNat with
  | 1 => (32, idRegister.toNat)
  | 2 => (96, s.pins.bound.toNat) | 3 => (96, s.pins.bound.toNat) | 6 => (96, s.pins.bound.toNat) | 7 => (96, s.pins.bound.toNat)
  | _ => (1, 0)
/-- What the instruction register captures, and what shifts out at TDO, least significant bit first, as a code is shifted in (R490). -/
def irCapture : Byte := 0x01
def irShifted : List Bool := (List.range 8).map irCapture.getLsbD
/-- The signal lands of the chain: every one of *Signal lands* but the five of the TAP (R479, R493). -/
inductive Land
  | pet (k : Fin 8) (neg : Bool) | per (k : Fin 8) (neg : Bool) | refPcie (neg : Bool) | refSys | perst | wake | trip | fault
  | scl | sda | addr (n : Fin 2) | srns | pwrgdB (n : Fin 4) | pwrgdM | pwrgdLas
deriving DecidableEq, Repr
/-- Number of a land, in the order of the table. -/
def landNo : Land → Nat
  | .pet k g => 2 * k + b2n g | .per k g => 16 + 2 * k + b2n g | .refPcie g => 32 + b2n g | .refSys => 34 | .perst => 35 | .wake => 36
  | .trip => 37 | .fault => 38 | .scl => 39 | .sda => 40 | .addr n => 41 + n | .srns => 43 | .pwrgdB n => 44 + n | .pwrgdM => 48
  | .pwrgdLas => 49
/-- What a land's cells may do: the reference clocks are observe-only, and inputs drive nothing. -/
inductive LandUse | input | output | both | observe
deriving DecidableEq, Repr
def landUse : Land → LandUse
  | .pet _ _ => .output | .per _ _ => .input | .refPcie _ => .observe | .refSys => .observe | .perst => .input | .wake => .input
  | .trip => .output | .fault => .output | .scl => .both | .sda => .both | .addr _ => .input | .srns => .input
  | .pwrgdB _ => .output | .pwrgdM => .output | .pwrgdLas => .output
/-- The land's bit of the boundary register. -/
def landCell (s : State) (l : Land) : Bool :=
  s.pins.bound.getLsbD ((match l with | .trip => Config.tripCell | .fault => Config.faultCell | _ => Config.landCell (landNo l)) % 96)
/-- What a land that may drive shows: a level, the pulse or the train of IEEE 1149.6 on an adit transmit pair, or nothing. -/
inductive LandOut | level (b : Bool) | pulse (b : Bool) | train (b : Bool) | off
deriving DecidableEq, Repr
/-- The drive of a land other than THERMTRIP_N and FAULT_N, by the level that the core gives it. -/
def landDrive (s : State) (l : Land) (core : Bool) : LandOut :=
  if landUse l = .input ∨ landUse l = .observe then .off else
  match pinDrive s, l, s.pins.tap.toNat with
  | .core, _, _ => .level core
  | .none, _, _ => .off
  | .cells, .pet _ _, 6 => .pulse (landCell s l)
  | .cells, .pet _ _, 7 => .train (landCell s l)
  | .cells, _, _ => .level (landCell s l)
/-- The level of a land that is low when a signal is asserted: a thermal trip always drives it low (R493). -/
def landLevel (s : State) (asserted : Bool) (cell : Nat) : Option Bool :=
  if s.pins.trip then some false else
  match pinDrive s with
  | .core => some !asserted
  | .cells => some (s.pins.bound.getLsbD (cell % 96))
  | .none => none
def tripLand (s : State) : Option Bool := landLevel s s.pins.trip Config.tripCell
def faultLand (s : State) : Option Bool := landLevel s s.pins.fault Config.faultCell
/-- SAMPLE/PRELOAD: the boundary register takes the lands' levels or what is shifted in, of which no row tells; its contents
are a free value (log 8). -/
def sampleBound (s : State) : State :=
  let (a, s) := freeValue s
  let (b, s) := freeValue s
  modPins s fun p => { p with bound := BitVec.ofNat 96 (a.toNat + at' b.toNat 64) }
/-- An instruction is loaded; what moves the pins does not see the device (R492). -/
def tapStep (s : State) (c : Byte) : State :=
  if !tapWorks s then s else
  let t := tapLoaded s.pins.perst c
  let s := if t = 0x02 then sampleBound s else s
  modPins s fun p => { p with tap := t, tapReset := false, tapUsed := p.tapUsed || (t != tapBypass && t != tapIdcode) }
def execTapInstructionLoad (code : Byte) (s : State) : Res := .next (tapStep s code)
/-- TRST_N, or a power-up of VDD_AUX. -/
def execTapReset (s : State) : Res := .next (modPins s fun p => { p with tap := tapIdcode, tapReset := true })

/-! ### PERST_N (R421, R480, R492) -/

/-- PERST_N_DEASSERT: an instruction of the TAP that moves pins gives way, then the straps are latched and boot starts. -/
def deassertStep (s : State) (smb : BitVec 2) (srns : Bool) : State :=
  if !s.pins.perst || !s.pins.good.contains .vddAux then s else
  let s := modPins s fun p => { p with perst := false, tap := if tapFree p.tap then p.tap else tapBypass }
  { s with boot := { s.boot with smbAddr := smb, srns := srns, stage := if s.pins.stopped then .held else .straps } }
def execPerstNDeassert (smbAddr : BitVec 2) (srns : Bool) (s : State) : Res := .next (deassertStep s smbAddr srns)

/-! ### Rails (R415, R485 to R489) -/

/-- PWRGD of a rail is high while the rail is good and VDD_AUX is present (R479). -/
def pwrgd (p : Pins) (r : Rail) : Bool := p.good.contains r && p.good.contains .vddAux
/-- Bench fed by a rail. -/
def benchOf : Rail → Option Nat
  | .vinB0 => some 0 | .vinB1 => some 1 | .vinB2 => some 2 | .vinB3 => some 3
  | .vinM => none | .vddIo => none | .vddAna => none | .vddAux => none | .vddLas => none
def addRail (l : List Rail) (r : Rail) : List Rail := if l.contains r then l else l ++ [r]
/-- RAIL_WITHIN_TOLERANCE: `late` for a VIN_B rail that came more than 10 ms after the first, whose bench stays
unpowered (R486). A power-up of VDD_AUX resets the TAP. -/
def railGoodStep (s : State) (r : Rail) (late : Bool) : State :=
  if s.pins.good.contains r then s else
  let s := modPins s fun p => { p with good := addRail p.good r }
  if r = .vddAux then modPins s fun p => { p with tap := tapIdcode, tapReset := true } else
  match benchOf r with
  | some b => if late then modPins s fun p => { p with offB := insSorted b p.offB } else s
  | none => s
def execRailWithinTolerance (rail : Rail) (late : Bool) (s : State) : Res := .next (railGoodStep s rail late)
def dropRail (s : State) (r : Rail) : State :=
  modPins s fun p => { p with good := p.good.erase r, offB := match benchOf r with | some b => p.offB.erase b | none => p.offB }
/-- Rails of the last steps of power-down, which R487 has removed in S4 or after a thermal trip. -/
def ioRail : Rail → Bool
  | .vddIo => true | .vddAna => true | .vddAux => false | .vddLas => false
  | .vinB0 => false | .vinB1 => false | .vinB2 => false | .vinB3 => false | .vinM => false
/-- RAIL_LOSS: VDD_IO or VDD_ANA is removed, or a VIN_B or VIN_M rail stays below tolerance for more than 20 µs. That one may be removed in S4, after a thermal
trip, and in reset; else the device stops, and the sump's buffer is saved while VDD_AUX holds. -/
def railLossStep (s : State) (r : Rail) (aux : Bool) : State :=
  if !s.pins.good.contains r then s
  else if ioRail r then dropRail s r
  else if !feedsBench r then s else
  let s := dropRail s r
  if s.pins.perst || s.pins.stopped || s.power == .s4 then s else
  let s := modPins (stopDomains s) fun p => { p with fault := true }
  if aux then { s with sump := flushSump s.sump } else loseSump s
def execRailLoss (rail : Rail) (auxHolds : Bool) (s : State) : Res := .next (railLossStep s rail auxHolds)
/-- A shaft without laser power: it goes OFF, and its event is posted even where it was OFF already (R487). -/
def shaftDark (s : State) (n : Nat) : State := if (shaft s n).state = .off then shaftEvent s n 2 else shaftOff s n
/-- VDD_LAS_REMOVED: every shaft goes OFF, with its event. -/
def lasOffStep (s : State) : State :=
  if !s.pins.good.contains .vddLas then s else
  let s := dropRail s .vddLas
  (List.range 52).foldl shaftDark s
def execVddLasRemoved (s : State) : Res := .next (lasOffStep s)
/-- VDD_LAS_GOOD: bring-up starts for every enabled shaft. -/
def lasGoodStep (s : State) : State :=
  let s := modPins s fun p => { p with good := addRail p.good .vddLas }
  if !linksRun s || s.fatal || !lasersOn s then s else
  (List.range 52).foldl (fun s n =>
    let x := shaft s n
    if x.enabled && x.state == .off then setShaft s n { x with state := .laser } else s) s
def execVddLasGood (s : State) : Res := .next (lasGoodStep s)
/-- VDD_AUX_REMOVED: the always-on domain is off, and a fresh power-up can follow. -/
def auxOffStep (s : State) : State :=
  if !s.pins.good.contains .vddAux then s else
  let s := fundamental (loseSump (dropRail s .vddAux))
  modPins s fun p => { p with trip := false, stopped := false, tap := tapIdcode, tapReset := true }
def execVddAuxRemoved (s : State) : Res := .next (auxOffStep s)

end Sys2Proof.Machine
end

