-- ==== Sys2Proof/Machine/Scalar.lean ====
section
/-!
DEFINITION. The scalar instructions (R101, R130, R135): 64-bit arithmetic, the vector length, branches
and the end of a program.
-/
namespace Sys2Proof.Machine
open Sys2Proof

/-! ### Fields of the scalar class -/

def ssd (i : Ins) : Nat := fw i 50 47
def ssa (i : Ins) : Nat := fw i 46 43
def ssb (i : Ins) : Nat := fw i 42 39
/-- IMM, signed. -/
def simm (i : Ins) : Int := sext (fw i 31 0) 32
def fSD : Nat × Nat := (50, 47)
def fSA : Nat × Nat := (46, 43)
def fSB : Nat × Nat := (42, 39)
def fIMM : Nat × Nat := (31, 0)
def ofI64 (n : Int) : W64 := BitVec.ofInt 64 n

/-- A scalar instruction without an extension word: encoding, registers, effect. -/
def scalOp (s : State) (f : Nat) (st : IssueStream) (op : Nat) (fields : List (Nat × Nat)) (names : Ins → List Name)
    (body : State → Ins → State) : State :=
  issue s f st op fun s i =>
    if !encodingOk i fields .no [] then raise s i stBadEncoding
    else withRegs s i (names i) fun s => body s i
/-- sd := sa op sb. -/
def sBin (s : State) (f : Nat) (st : IssueStream) (op : Nat) (g : W64 → W64 → W64) : State :=
  scalOp s f st op [fSD, fSA, fSB] (fun i => [.sd (ssd i), .s (ssa i), .s (ssb i)]) fun s i =>
    done (setSreg s i.f (ssd i) (g (sreg s i.f (ssa i)) (sreg s i.f (ssb i)))) i

def execSNop (f : Fin 128) (st : IssueStream) (s : State) : Res :=
  .next (scalOp s f st 0x200 [] (fun _ => []) done)
def execSAdd (f : Fin 128) (st : IssueStream) (s : State) : Res := .next (sBin s f st 0x201 (· + ·))
def execSSub (f : Fin 128) (st : IssueStream) (s : State) : Res := .next (sBin s f st 0x202 (· - ·))
def execSMul (f : Fin 128) (st : IssueStream) (s : State) : Res := .next (sBin s f st 0x203 (· * ·))
def execSAnd (f : Fin 128) (st : IssueStream) (s : State) : Res := .next (sBin s f st 0x204 (· &&& ·))
def execSOr (f : Fin 128) (st : IssueStream) (s : State) : Res := .next (sBin s f st 0x205 (· ||| ·))
def execSXor (f : Fin 128) (st : IssueStream) (s : State) : Res := .next (sBin s f st 0x206 (· ^^^ ·))
/-- Shift counts are taken modulo 64. -/
def execSShl (f : Fin 128) (st : IssueStream) (s : State) : Res :=
  .next (sBin s f st 0x207 fun a b => a <<< (b.toNat % 64))
def execSShr (f : Fin 128) (st : IssueStream) (s : State) : Res :=
  .next (sBin s f st 0x208 fun a b => a.sshiftRight (b.toNat % 64))
def execSShrl (f : Fin 128) (st : IssueStream) (s : State) : Res :=
  .next (sBin s f st 0x209 fun a b => a >>> (b.toNat % 64))
/-- sd := sa + IMM. -/
def execSAddi (f : Fin 128) (st : IssueStream) (s : State) : Res :=
  .next (scalOp s f st 0x20A [fSD, fSA, fIMM] (fun i => [.sd (ssd i), .s (ssa i)]) fun s i =>
    done (setSreg s i.f (ssd i) (sreg s i.f (ssa i) + ofI64 (simm i))) i)
/-- sd := IMM sign-extended, or the extension word; IMM is then ignored. -/
def sLiStep (s : State) (f : Nat) (st : IssueStream) : State :=
  issue s f st 0x20B fun s i =>
    if !encodingOk i [fSD, fIMM] .opt [(63, 0)] then raise s i stBadEncoding
    else withRegs s i [.sd (ssd i)] fun s =>
      done (setSreg s i.f (ssd i) (if i.ext then w64 i.x else ofI64 (simm i))) i
def execSLi (f : Fin 128) (st : IssueStream) (s : State) : Res := .next (sLiStep s f st)

/-- vl := n, or VL_RANGE (R130). -/
def putVl (s : State) (i : Ins) (n : Int) : State :=
  if 1 ≤ n ∧ n ≤ 1024 then done (modLane s i.f i.st fun l => { l with vl := n.toNat }) i else raise s i stVlRange
def execSSetvl (f : Fin 128) (st : IssueStream) (s : State) : Res :=
  .next (scalOp s f st 0x210 [fSA] (fun i => [.s (ssa i)]) fun s i => putVl s i ((sreg s i.f (ssa i)).toNat : Int))
def execSSetvli (f : Fin 128) (st : IssueStream) (s : State) : Res :=
  .next (scalOp s f st 0x211 [fIMM] (fun _ => []) fun s i => putVl s i (simm i))

/-- pc := pc + IMM, in words from the branch's own word; checked when the branch is taken (R135). -/
def branch (s : State) (i : Ins) : State := jump s i ((i.l.pc : Int) + simm i)
def execSBr (f : Fin 128) (st : IssueStream) (s : State) : Res :=
  .next (scalOp s f st 0x218 [fIMM] (fun _ => []) branch)
/-- A branch on a relation of sa and sb. -/
def sCond (s : State) (f : Nat) (st : IssueStream) (op : Nat) (g : W64 → W64 → Bool) : State :=
  scalOp s f st op [fSA, fSB, fIMM] (fun i => [.s (ssa i), .s (ssb i)]) fun s i =>
    if g (sreg s i.f (ssa i)) (sreg s i.f (ssb i)) then branch s i else done s i
def execSBeq (f : Fin 128) (st : IssueStream) (s : State) : Res := .next (sCond s f st 0x219 (· == ·))
def execSBne (f : Fin 128) (st : IssueStream) (s : State) : Res := .next (sCond s f st 0x21A (· != ·))
def execSBlt (f : Fin 128) (st : IssueStream) (s : State) : Res := .next (sCond s f st 0x21B fun a b => a.slt b)
def execSBge (f : Fin 128) (st : IssueStream) (s : State) : Res := .next (sCond s f st 0x21C fun a b => !a.slt b)
/-- sa := sa - 1; branch if sa is then non-zero. -/
def execSLoop (f : Fin 128) (st : IssueStream) (s : State) : Res :=
  .next (scalOp s f st 0x21D [fSA, fIMM] (fun i => [.s (ssa i)]) fun s i =>
    let n := sreg s i.f (ssa i) - 1
    let s := setSreg s i.f (ssa i) n
    if n = 0 then done s i else branch s i)

/-- The end of a slice on its lane: it awaits the headframe (R107, R371). -/
def sliceEnd (l : Lane) (pc entry : Nat) (ended : Bool) : Lane :=
  { l with live := false, ended := ended, report := true, slices := l.slices + 1, stall := .run, pc := pc, entry := entry, counts := l.counts }
/-- S_END ends the slice and the program once the stream's pending signals are applied (R135, R138). -/
def sEndStep (s : State) (f : Nat) (st : IssueStream) : State :=
  scalOp s f st 0x21F [] (fun _ => []) fun s i =>
    if !i.l.signals.isEmpty then stalled s i .fence
    else modLane s i.f i.st fun l => sliceEnd l (i.l.pc + 1) l.entry true
def execSEnd (f : Fin 128) (st : IssueStream) (s : State) : Res := .next (sEndStep s f st)

end Sys2Proof.Machine
end

