-- ==== Sys2Proof/Machine/Sideband.lean ====
section
/-!
DEFINITION. The sideband (R456 to R460): MCTP control messages, and the vendor commands of the board controller.
-/
namespace Sys2Proof.Machine
open Sys2Proof

def modSide (s : State) (g : Sideband → Sideband) : State := { s with side := g s.side }
/-- A packet whose PEC fails is NACKed; else the message is taken (R456). -/
def withPec (s : State) (ok : Bool) (f : State → State) : State := if ok then f (modSide s fun d => { d with nack := false }) else modSide s fun d => { d with nack := true }

/-! ### What the device sends (R456, R458); the packets of DSP0237: PRESUMED (log 30) -/

/-- The packet error code of SMBus: CRC-8 with polynomial 0x07. -/
def crc8 (bs : List Byte) : Nat :=
  bs.foldl (fun c b => (List.range 8).foldl (fun c _ => let d := 2 * c; if d < 256 then d else d ^^^ 0x107) (c ^^^ b.toNat)) 0
def withCode (bs : List Byte) : List Byte := bs ++ [byte (crc8 bs)]
/-- A message cut into packets of at most 64 bytes. -/
def packetsOf (s : State) (msg : List Byte) : List (List Byte) :=
  let parts := chunks 64 msg
  parts.zipIdx.map fun p =>
    withCode ([byte (2 * Config.smbusPeer.toNat), 0x0F, byte (p.1.length + 5), byte (2 * (0x60 + s.boot.smbAddr.toNat) + 1), 0x01,
      Config.peerEid, s.side.eid,
      byte (128 * b2n (p.2 == 0) + 64 * b2n (p.2 + 1 == parts.length) + 16 * (p.2 % 4) + Config.peerTag.toNat)] ++ p.1)
def sendSide (s : State) (bs : List Byte) : State := modSide s fun d => { d with reply := some bs, packets := packetsOf s bs }
/-- The port runs once the always-on domain and firmware core 0 do. -/
def portRuns (s : State) : Bool :=
  !s.pins.perst && !s.pins.stopped &&
  (match s.boot.stage with | .held => false | .straps => true | .adit => true | .ready => true | .stopped => true)
/-- After a device-fatal error a request is answered only while a headframe core still runs, which the manual leaves
open: a free value decides (R471). -/
def ifAnswered (s : State) (f : State → State) : State :=
  if s.fatal then
    let (v, s) := freeValue s
    if v.getLsbD 0 then f s else s
  else f s

/-! ### MCTP control (R458); message layouts as in DSP0236: PRESUMED (log 30) -/

/-- A response: message type 0, the request's number, which no command carries (a free value), command, completion code,
data. -/
def mctpReply (s : State) (cmd cc : Nat) (data : List Byte) : State :=
  let (v, s) := freeValue s
  sendSide s ([byte 0, byte (fld v 4 0), byte cmd, byte cc] ++ data)
/-- Completion codes: success, invalid data, and a message type that is not supported. -/
def ccOk : Nat := 0
def ccInvalid : Nat := 2
def ccNoType : Nat := 0x80
/-- Set Endpoint ID, with the operation that sets it; 0x00 and 0xFF are no endpoint's. -/
def setEid (s : State) (e : Byte) : State :=
  if e == 0 || e == 0xFF then mctpReply s 1 ccInvalid []
  else mctpReply (modSide s fun d => { d with eid := e }) 1 ccOk [byte 0, e, byte 0]
def getEid (s : State) : State := mctpReply s 2 ccOk [s.side.eid, byte 0, byte 0]
/-- Versions of the base specification and of the control type; no other type has one. -/
def mctpVersions (s : State) (t : Byte) : State :=
  if t == 0xFF || t == 0 then mctpReply s 4 ccOk (byte 1 :: leBytes 4 Config.mctpVersion.toNat) else mctpReply s 4 ccNoType []
/-- Message types beside control: vendor defined, PCI. -/
def mctpTypes (s : State) : State := mctpReply s 5 ccOk [byte 1, byte 0x7E]
/-- One vendor: selector 0, the last one. -/
def vendorTypes (s : State) (sel : Byte) : State :=
  if sel == 0 then mctpReply s 6 ccOk ([byte 0xFF, byte 0, byte 0x1F, byte 0x4B] ++ leBytes 2 Config.vendorSet.toNat)
  else mctpReply s 6 ccInvalid []

/-! ### Vendor commands (R459) -/

/-- A response: type, vendor, command with bit 7, the request's number, reserved, status, payload. -/
def vendorReply (s : State) (h : VendorHdr) (cmd status : Nat) (payload : List Byte) : State :=
  sendSide s ([byte 0x7E, byte 0x1F, byte 0x4B, byte (cmd ||| 128), h.inst, byte 0, byte 0] ++ leBytes 2 status ++ payload)
/-- A vendor request with its reserved bytes checked. -/
def vendor (s : State) (h : VendorHdr) (cmd : Nat) (f : State → State) : State :=
  if h.reserved ≠ 0 then vendorReply s h cmd stBadEncoding [] else f s
/-- *Telemetry block*. -/
def telemetry (s : State) : List W64 :=
  let w := s.winder
  [w64 (at' (powerCode s.power) 60 + at' w.op 55 + at' w.dutyC 48 + at' (allReasons w) 40 + at' (wstate w) 37 + at' (w.pin % 65536) 16
      + (BitVec.ofInt 16 w.hottest).toNat),
   w64 (at' (capEff w) 48 + at' w.capHost 32 + at' w.capSb 16 + w.capTherm), w64 (at' w.floor 48 + s.sump.head), w64 s.time]
def telemetryGet (s : State) (h : VendorHdr) : State := vendor s h 1 fun s => vendorReply s h 1 stOk (wordsBytes (telemetry s))
/-- SUMP_EXTRACT: records that were written, in index order. -/
def sumpExtract (s : State) (h : VendorHdr) (first n : Nat) : State :=
  vendor s h 5 fun s =>
    if n = 0 ∨ 15 < n ∨ 4096 ≤ first then vendorReply s h 5 stBadEncoding []
    else
      let rs := (sumpRecords s.sump first n).filter fun ws => !ws.isEmpty
      vendorReply s h 5 stOk (byte rs.length :: (rs.map wordsBytes).flatten)
/-- Any command byte but the five. -/
def reservedCmd (s : State) (h : VendorHdr) (cmd : Nat) : State :=
  if 1 ≤ cmd ∧ cmd ≤ 5 then s else vendorReply s h cmd stBadEncoding []

/-! ### Requests that the command processor takes (R460) -/

/-- CAP_SB_SET (R393, R406): the message is consumed and stamped as a management-class packet is. -/
def capSb (s : State) (h : VendorHdr) (cap : Nat) : State :=
  vendor s h 2 fun s =>
    let s := stamped s
    if cap = 0 ∨ 3600 < cap then vendorReply s h 2 stBadEncoding []
    else
      let s := modWinder s fun w => { w with capSb := cap }
      vendorReply s h 2 (if cap < s.winder.floor then stCapBelowFloor else stOk) (leBytes 2 s.winder.floor)
/-- POWER_REQ: the response goes before the state is entered; one that comes during an entry is busy. -/
def powerReq (s : State) (h : VendorHdr) (target : Nat) : State :=
  vendor s h 3 fun s =>
    let s := stamped s
    if target ≠ 2 ∧ target ≠ 4 then vendorReply s h 3 stBadEncoding []
    else if powerBusy s then vendorReply s h 3 stPowerBusy []
    else vendorReply (beginEntry s target none []) h 3 stOk []
/-- WARM_RESET: the response, then the warm reset. -/
def sideReset (s : State) (h : VendorHdr) : State := vendor s h 4 fun s => warmReset (vendorReply (stamped s) h 4 stOk [])

/-! ### When a request is served (R413, R457, R460) -/

def holdSide (s : State) (q : MctpReq) : State := modSide s fun d => { d with held := d.held ++ [q] }
/-- A vendor request is dropped before firmware-ready. -/
def atReady (s : State) (f : State → State) : State := if s.boot.stage == .ready then f s else s
/-- A request of the command processor: none after a device-fatal error, and it waits for a power entry to end. -/
def processed (s : State) (q : MctpReq) (f : State → State) : State :=
  atReady s fun s => if s.fatal then s else if s.entry.isSome then holdSide s q else f s
/-- A request served in S0. -/
def serveSide (s : State) (q : MctpReq) : State :=
  match q with
  | .setEid e => ifAnswered s fun s => setEid s e
  | .getEid => ifAnswered s getEid
  | .version t => ifAnswered s fun s => mctpVersions s t
  | .types => ifAnswered s mctpTypes
  | .vendorTypes n => ifAnswered s fun s => vendorTypes s n
  | .telemetry h => atReady s fun s => ifAnswered s fun s => telemetryGet s h
  | .extract h first n => atReady s fun s => ifAnswered s fun s => sumpExtract s h first.toNat n.toNat
  | .reserved h c => atReady s fun s => ifAnswered s fun s => reservedCmd s h c.toNat
  | .capSb h cap => processed s q fun s => capSb s h cap.toNat
  | .powerReq h target => atReady s fun s => if s.fatal then s else powerReq s h target.toNat
  | .warmReset h => processed s q fun s => sideReset s h
/-- A request arrives: served in S0; in S1 and S2 it brings the device back to S0 and waits for it. -/
def takeSide (s : State) (pec : Bool) (q : MctpReq) : State :=
  if !portRuns s then s else
  match s.power with
  | .s0 => withPec s pec fun s => serveSide s q
  | .s1 | .s2 => withPec s pec fun s => if s.fatal then s else holdSide { s with exit := some (s.exit.getD .mctp) } q
  | .s3 | .s4 => s
def execSetEndpointId (pecOk : Bool) (eid : Byte) (s : State) : Res := .next (takeSide s pecOk (.setEid eid))
def execGetEndpointId (pecOk : Bool) (s : State) : Res := .next (takeSide s pecOk .getEid)
def execGetMctpVersionSupport (pecOk : Bool) (typ : Byte) (s : State) : Res := .next (takeSide s pecOk (.version typ))
def execGetMessageTypeSupport (pecOk : Bool) (s : State) : Res := .next (takeSide s pecOk .types)
def execGetVendorMessageSupport (pecOk : Bool) (selector : Byte) (s : State) : Res := .next (takeSide s pecOk (.vendorTypes selector))
def execTelemetryGet (h : VendorHdr) (s : State) : Res := .next (takeSide s h.pecOk (.telemetry h))
def execSumpExtract (h : VendorHdr) (first : W16) (count : Byte) (s : State) : Res := .next (takeSide s h.pecOk (.extract h first count))
def execCapSbSet (h : VendorHdr) (cap : W16) (s : State) : Res := .next (takeSide s h.pecOk (.capSb h cap))
def execPowerReq (h : VendorHdr) (target : Byte) (s : State) : Res := .next (takeSide s h.pecOk (.powerReq h target))
def execReservedVendorCommand (h : VendorHdr) (cmd : Byte) (s : State) : Res := .next (takeSide s h.pecOk (.reserved h cmd))
/-- WARM_RESET: after a device-fatal error the always-on responder takes it; a device that a trip or a lost rail has stopped
answers and stays stopped (R488, R489). -/
def warmResetStep (s : State) (h : VendorHdr) : State :=
  if s.fatal then
    if s.pins.perst || !s.pins.good.contains .vddAux then s else
    withPec s h.pecOk fun s =>
      let s := vendorReply s h 4 stOk []
      if s.pins.stopped then s else warmReset s
  else takeSide s h.pecOk (.warmReset h)
def execWarmReset (h : VendorHdr) (s : State) : Res := .next (warmResetStep s h)
/-- S0_RETURN: the device is in S0, where what woke it takes effect. -/
def s0ReturnStep (s : State) : State :=
  if inS1S2 s && s.exit.isSome && !s.fatal && !s.pins.perst && !s.pins.stopped then
    let t := returnStep s
    s.side.held.foldl serveSide (modSide t fun d => { d with held := [] })
  else s
def execS0Return (s : State) : Res := .next (s0ReturnStep s)

end Sys2Proof.Machine
end

