-- ==== Sys2Proof/Machine/Spdm.lean ====
section
/-!
DEFINITION. The DOE mailbox, the SPDM responder and the IDE streams (R437 to R439, R443, R455).
-/
namespace Sys2Proof.Machine
open Sys2Proof

/-- The mailbox of the physical function answers while the adit is up and firmware runs. -/
def doeRuns (s : State) : Bool := firmwareRuns s
def putDoe (s : State) (o : Option (List Byte)) : State := { s with side := { s.side with doe := o } }

/-! ### Data objects (R455); the header is that of PCIe DOE: PRESUMED (log 31) -/

/-- A data object: vendor, type, length in dwords, content filled to a dword. -/
def doeObject (typ : Nat) (body : List Byte) : List Byte :=
  let pad := List.replicate ((4 - body.length % 4) % 4) (0 : Byte)
  leBytes 2 1 ++ [byte typ, byte 0] ++ leBytes 4 (2 + ceilDiv body.length 4) ++ body ++ pad
/-- DOE Discovery: the object type at an index, and the next index; the last answers 0. -/
def discoveryStep (s : State) (i : Nat) : State :=
  if !doeRuns s then s
  else if i ≤ 2 then putDoe s (some (doeObject 0 (leBytes 2 1 ++ [byte i, byte (if i = 2 then 0 else i + 1)])))
  else putDoe s (some (doeObject 0 [byte 0xFF, byte 0xFF, byte 0, byte 0]))
def execDoeDiscovery (index : Byte) (s : State) : Res := .next (discoveryStep s index.toNat)
/-- DOE_ABORT: the object in progress is discarded. -/
def execDoeAbort (s : State) : Res := .next (if doeRuns s then putDoe s none else s)
/-- UNSUPPORTED_DATA_OBJECT: discarded, with no response object. -/
def unsupportedObjStep (s : State) (vendor typ : Nat) : State :=
  if !doeRuns s || (vendor == 1 && decide (typ ≤ 2)) then s else putDoe s none
def execUnsupportedDataObject (vendor : W16) (typ : Byte) (s : State) : Res := .next (unsupportedObjStep s vendor.toNat typ.toNat)

/-! ### SPDM (R437 to R439); message layouts as in the SPDM standard: PRESUMED (log 31) -/

/-- A response, under the version of the request. -/
def spdmHead (msg : List Byte) (code p1 p2 : Nat) : List Byte := [msg.headD 0x12, byte code, byte p1, byte p2]
/-- A response in the mailbox. -/
def answer (s : State) (resp : List Byte) : State := putDoe s (some (doeObject 1 resp))
/-- SPDM ERROR. -/
def spdmError (s : State) (msg : List Byte) (code : Nat) : State := answer s (spdmHead msg 0x7F code 0)
def erInvalid : Nat := 0x01
def erUnexpected : Nat := 0x04
def erDecrypt : Nat := 0x06
def erUnsupported : Nat := 0x07
def erVersion : Nat := 0x41
/-- What any request but a vendor-defined one clears: the kept message M, and the run of unsigned measurements (R439). -/
def clearKept (s : State) : State := { s with side := { s.side with kept := none, measMsgs := [] } }
/-- A request at its version and in its order: `ok` when the connection has come so far. A message longer than the largest
data object is discarded (R455). -/
def spdm (s : State) (msg : List Byte) (ver : List Nat) (ok : Sideband → Bool) (f : State → State) : State :=
  if !doeRuns s then s
  else if 16376 < msg.length then putDoe s none
  else
    let s := clearKept s
    if !ver.contains (msg.headD 0).toNat then spdmError s msg erVersion
    else if !ok s.side then spdmError s msg erUnexpected
    else f s
/-- 32 random bytes (R436). -/
def nonce32 (s : State) : List Byte × State :=
  let (a, s) := draw s
  let (b, s) := draw s
  (leBytes 16 a.toNat ++ leBytes 16 b.toNat, s)
/-- The negotiated versions and algorithms travel in the transcript. -/
def vca (s : State) (msg resp : List Byte) : State :=
  answer { s with side := { s.side with transcript := s.side.transcript ++ msg ++ resp } } resp
/-- GET_VERSION starts the connection anew; the versions are 1.2 and 1.3. -/
def versionBody : List Byte := [0x10, 0x04, 0, 0, 0, 2] ++ leBytes 2 0x1200 ++ leBytes 2 0x1300
def getVersionStep (s : State) (msg : List Byte) : State :=
  spdm s msg [0x10] (fun _ => true) fun s =>
    vca { s with side := { s.side with stage := 1, transcript := [], certMsgs := [], exchange := false, session := false, keys := none } }
      msg versionBody
def execGetVersion (msg : List Byte) (s : State) : Res := .next (getVersionStep s msg)
/-- Capabilities: certificates, challenge, fresh signed measurements, encryption, authentication, key exchange. -/
def capsBody (msg : List Byte) : List Byte :=
  spdmHead msg 0x61 0 0 ++ [0, Config.spdmTime, 0, 0] ++ leBytes 4 0x2F6 ++ leBytes 4 16376 ++ leBytes 4 16376
def getCapabilitiesStep (s : State) (msg : List Byte) : State :=
  spdm s msg [0x12, 0x13] (fun d => d.stage == 1) fun s =>
    vca { s with side := { s.side with stage := 2, ver := (msg.headD 0).toNat } } msg (capsBody msg)
def execGetCapabilities (msg : List Byte) (s : State) : Res := .next (getCapabilitiesStep s msg)
/-- What the device takes of an offered structure: ECDHE secp384r1, AES-256-GCM, the key schedule. -/
def algTaken (e : List Byte) : List Byte :=
  let t := dsc e 0 1
  let mask := if t = 2 then 0x10 else if t = 3 then 2 else if t = 5 then 1 else 0
  [byte t, 0x20] ++ leBytes 2 (dsc e 2 2 &&& mask)
/-- Ed25519, SHA3-256 for hash and measurements, and the structures offered. -/
def algsBody (msg : List Byte) : List Byte :=
  let n := dsc msg 2 1
  let offered := chunks 4 ((msg.drop (32 + 4 * (dsc msg 28 1 + dsc msg 29 1))).take (4 * n))
  spdmHead msg 0x63 n 0 ++ leBytes 2 (36 + 4 * n) ++ [byte (dsc msg 6 1 &&& 1), byte (dsc msg 7 1 &&& 2)] ++ leBytes 4 0x10 ++
    leBytes 4 (dsc msg 8 4 &&& 0x200) ++ leBytes 4 (dsc msg 12 4 &&& 8) ++ List.replicate 16 0 ++ offered.flatMap algTaken
def negotiateStep (s : State) (msg : List Byte) : State :=
  spdm s msg [s.side.ver] (fun d => d.stage == 2) fun s =>
    if (dsc msg 8 4).testBit 9 && (dsc msg 12 4).testBit 3 then
      vca { s with side := { s.side with stage := 3 } } msg (algsBody msg)
    else spdmError s msg erInvalid
def execNegotiateAlgorithms (msg : List Byte) (s : State) : Res := .next (negotiateStep s msg)
def negotiated (d : Sideband) : Bool := d.stage == 3
/-- The chain of slot 0 (Ed25519) or 1 (ML-DSA-65): root, intermediate, and a leaf with the serial number (R436). -/
def certChain (s : State) (slot : Nat) : List Byte :=
  let root := Config.certificate slot 0 []
  let certs := root ++ Config.certificate slot 1 [] ++ Config.certificate slot 2 (leBytes 8 s.boot.serial.toNat)
  leBytes 2 (36 + certs.length) ++ [0, 0] ++ sha3Bytes root ++ certs
def certAnswer (s : State) (msg resp : List Byte) : State :=
  answer { s with side := { s.side with certMsgs := s.side.certMsgs ++ msg ++ resp } } resp
/-- GET_DIGESTS: both certificate slots. -/
def getDigestsStep (s : State) (msg : List Byte) : State :=
  spdm s msg [s.side.ver] negotiated fun s =>
    certAnswer s msg (spdmHead msg 0x01 0 3 ++ sha3Bytes (certChain s 0) ++ sha3Bytes (certChain s 1))
def execGetDigests (msg : List Byte) (s : State) : Res := .next (getDigestsStep s msg)
/-- GET_CERTIFICATE: a portion of the chain of slot 0 or 1. -/
def getCertificateStep (s : State) (msg : List Byte) (slot off len : Nat) : State :=
  spdm s msg [s.side.ver] negotiated fun s =>
    let ch := certChain s slot
    if 1 < slot ∨ ch.length ≤ off then spdmError s msg erInvalid
    else
      let part := (ch.drop off).take (min len 16368)
      certAnswer s msg (spdmHead msg 0x02 slot 0 ++ leBytes 2 part.length ++ leBytes 2 (ch.length - off - part.length) ++ part)
def execGetCertificate (msg : List Byte) (slot offset len : Nat) (s : State) : Res :=
  .next (getCertificateStep s msg slot offset len)

/-- *Measurement blocks* 1 to 5: digest form, and content (R438). -/
def measurement (s : State) : Nat → Bool × List Byte
  | 1 => (true, leBytes 32 Config.romDigest.toNat)
  | 2 => (true, leBytes 32 (match s.boot.running with | some i => i.digest.toNat | none => 0))
  | 3 => (true, leBytes 32 s.boot.perPart.toNat)
  | 4 => (false, leBytes 4 s.boot.ctr0 ++ leBytes 4 s.boot.ctr1)
  | _ => (false, [byte (b2n (s.side.ide0 == .secure) + 2 * b2n (s.side.ide1 == .secure)), byte (b2n s.pins.tapUsed), 0, 0, 0, 0, 0, 0])
/-- A block: index, specification, size, value type with the raw bit, value size, value. -/
def measureBlock (s : State) (i : Nat) : List Byte :=
  let m := measurement s i
  [byte i, byte 1] ++ leBytes 2 (m.2.length + 3) ++ [byte (if m.1 then i - 1 else 128 + i - 1)] ++ leBytes 2 m.2.length ++ m.2
/-- The message M that a signature covers, under a version and a context. -/
def signedM (ver : Nat) (context : String) (tr : List Byte) : List Byte :=
  let v := ascii ("dmtf-spdm-v1." ++ (if ver = 0x13 then "3" else "2") ++ ".*")
  v ++ v ++ v ++ v ++ List.replicate (36 - context.length) 0 ++ ascii context ++ sha3Bytes tr
/-- The Ed25519 signature of a message under the identity key (R435). -/
def identitySign (s : State) (m : List Byte) : List Byte := ed25519Sign (keyEd (s.boot.seed.getD 0)) m
def keepM (s : State) (m : List Byte) : State := { s with side := { s.side with kept := some m } }
/-- The summary of the measurements that a request asks for. -/
def measureSummary (s : State) (kind : Nat) : List Byte :=
  if kind = 0 then [] else sha3Bytes (([1, 2, 3, 4, 5].map (measureBlock s)).flatten)
def measureSummaryOk (kind : Nat) : Bool := kind == 0 || kind == 1 || kind == 255
/-- The context that version 1.3 echoes. -/
def echoed (msg : List Byte) (off : Nat) : List Byte := if msg.headD 0 == 0x13 then (msg.drop off).take 8 else []
/-- CHALLENGE of slot 0. -/
def challengeStep (s : State) (msg : List Byte) : State :=
  spdm s msg [s.side.ver] negotiated fun s =>
    if dsc msg 2 1 ≠ 0 ∨ !measureSummaryOk (dsc msg 3 1) then spdmError s msg erInvalid else
    let (n, s) := nonce32 s
    let body := spdmHead msg 0x03 0 1 ++ sha3Bytes (certChain s 0) ++ n ++ measureSummary s (dsc msg 3 1) ++ [0, 0] ++ echoed msg 36
    let m := signedM s.side.ver "responder-challenge_auth signing" (s.side.transcript ++ s.side.certMsgs ++ msg ++ body)
    answer { keepM s m with side := { (keepM s m).side with certMsgs := [] } } (body ++ identitySign s m)
def execChallenge (msg : List Byte) (s : State) : Res := .next (challengeStep s msg)
/-- GET_MEASUREMENTS: index 0 asks for the count, 0xFF for every block. -/
def getMeasurementsStep (s : State) (msg : List Byte) (i : Nat) (sign : Bool) : State :=
  let l := s.side.measMsgs
  spdm s msg [s.side.ver] negotiated fun s =>
    if 5 < i ∧ i ≠ 255 then spdmError s msg erInvalid else
    let blocks := if i = 0 then [] else if i = 255 then [1, 2, 3, 4, 5] else [i]
    let record := (blocks.map (measureBlock s)).flatten
    let (n, s) := nonce32 s
    let body := spdmHead msg 0x60 (if i = 0 then 5 else 0) 0 ++ [byte blocks.length] ++ leBytes 3 record.length ++ record ++ n ++ [0, 0] ++
      echoed msg (if sign then 37 else 4)
    if sign then
      let m := signedM s.side.ver "responder-measurements signing" (s.side.transcript ++ l ++ msg ++ body)
      answer (keepM s m) (body ++ identitySign s m)
    else answer { s with side := { s.side with measMsgs := l ++ msg ++ body } } body
def execGetMeasurements (msg : List Byte) (index : Byte) (sign : Bool) (s : State) : Res :=
  .next (getMeasurementsStep s msg index.toNat sign)

/-! ### Sessions (R437) -/

/-- HKDF-Expand to at most 32 bytes, with the standard's label. -/
def expand (ver : Nat) (key : List Byte) (label : String) (context : List Byte) (n : Nat) : List Byte :=
  (hmac key (leBytes 2 n ++ ascii ("spdm1." ++ (if ver = 0x13 then "3 " else "2 ")) ++ ascii label ++ context ++ [1])).take n
/-- The secret of one direction, in the handshake or in the session. -/
def phaseSecret (k : Session) (app : Bool) (dir : String) : List Byte :=
  if app then expand k.ver (hmac (expand k.ver k.secret "derived" [] 32) (List.replicate 32 0)) (dir ++ " app data") (sha3Bytes k.thFin) 32
  else expand k.ver k.secret (dir ++ " hs data") (sha3Bytes k.th) 32
def finishedKey (k : Session) (dir : String) : List Byte := expand k.ver (phaseSecret k false dir) "finished" [] 32
/-- A secured message: session id, length, and the text under AES-256-GCM. -/
def sealMessage (k : Session) (app : Bool) (body : List Byte) : List Byte :=
  let p := phaseSecret k app "rsp"
  let iv := List.zipWith (· ^^^ ·) (expand k.ver p "iv" [] 12) (leBytes 12 k.count)
  let plain := leBytes 2 body.length ++ body
  let head := leBytes 4 k.sid ++ leBytes 2 (plain.length + 16)
  head ++ gcmSeal (expand k.ver p "key" [] 32) iv head plain
/-- A secured response in the mailbox. -/
def answerSealed (s : State) (app : Bool) (body : List Byte) : State :=
  match s.side.keys with
  | none => s
  | some k => putDoe { s with side := { s.side with keys := some { k with count := k.count + 1 } } } (some (doeObject 2 (sealMessage k app body)))
/-- The device's private key of an exchange, and a session id. -/
def ecdhePrivate (s : State) : (Nat × Nat) × State :=
  let (a, s) := draw s
  let (b, s) := draw s
  let (c, s) := draw s
  let (d, s) := draw s
  (((a.toNat + 2 ^ 128 * b.toNat + 2 ^ 256 * c.toNat) % (p384N - 1) + 1, d.toNat % 65536), s)
/-- KEY_EXCHANGE: one handshake at a time, and one session. -/
def keyExchangeStep (s : State) (msg : List Byte) : State :=
  spdm s msg [s.side.ver] (fun d => negotiated d && !d.session) fun s =>
    let (e, s) := ecdhePrivate s
    match ecdheShared e.1 ((msg.drop 40).take 96) with
    | none => spdmError s msg erInvalid
    | some z =>
      if dsc msg 3 1 ≠ 0 ∨ !measureSummaryOk (dsc msg 2 1) then spdmError s msg erInvalid else
      let (n, s) := nonce32 s
      let body := spdmHead msg 0x64 0 0 ++ leBytes 2 e.2 ++ [0, 0] ++ n ++ ecdhePublic e.1 ++ measureSummary s (dsc msg 2 1) ++ [0, 0]
      let th := s.side.transcript ++ sha3Bytes (certChain s 0) ++ msg ++ body
      let m := signedM s.side.ver "responder-key_exchange_rsp signing" th
      let sig := identitySign s m
      let k : Session :=
        { sid := dsc msg 4 2 + 65536 * e.2, ver := s.side.ver, secret := hmac (List.replicate 32 0) z, th := th ++ sig, thKex := [] }
      let proof := hmac (finishedKey k "rsp") (sha3Bytes k.th)
      let s := keepM s m
      answer { s with side := { s.side with exchange := true, keys := some { k with thKex := k.th ++ proof } } } (body ++ sig ++ proof)
def execKeyExchange (msg : List Byte) (s : State) : Res := .next (keyExchangeStep s msg)
/-- The requester's verify data is that of the handshake. -/
def finishGood (k : Session) (msg : List Byte) : Bool :=
  hmac (finishedKey k "req") (sha3Bytes (k.thKex ++ msg.take (msg.length - 32))) == msg.drop (msg.length - 32)
/-- FINISH establishes the session when its verify data is right. -/
def finishStep (s : State) (msg : List Byte) : State :=
  spdm s msg [s.side.ver] (fun d => d.exchange && d.keys.isSome) fun s =>
    match s.side.keys with
    | none => s
    | some k =>
      if finishGood k msg then
        let resp := spdmHead msg 0x65 0 0
        let s := answerSealed s false resp
        { s with side := { s.side with exchange := false, session := true, keys := some { k with thFin := k.thKex ++ msg ++ resp, count := 0 } } }
      else
        let s := answerSealed s false (spdmHead msg 0x7F erDecrypt 0)
        { s with side := { s.side with exchange := false, keys := none } }
def execFinish (msg : List Byte) (s : State) : Res := .next (finishStep s msg)
def endSessionStep (s : State) (msg : List Byte) : State :=
  spdm s msg [s.side.ver] (·.session) fun s =>
    let s := answerSealed s true (spdmHead msg 0x6C 0 0)
    { s with side := { s.side with session := false, keys := none } }
def execEndSession (msg : List Byte) (s : State) : Res := .next (endSessionStep s msg)
/-- A vendor-defined response: standard 3 (PCI-SIG), vendor, payload. -/
def vendorBody (msg : List Byte) (vendor : Nat) (payload : List Byte) : List Byte :=
  spdmHead msg 0x7E 0 0 ++ leBytes 2 3 ++ [byte 2] ++ leBytes 2 vendor ++ leBytes 2 payload.length ++ payload
/-- VENDOR_DEFINED_REQUEST: the ML-DSA-65 signature over the kept M (R439). A request of another standard, vendor or payload is
any other request. -/
def vendorSpdmStep (s : State) (msg : List Byte) (vendorId payload : Nat) : State :=
  if !doeRuns s then s
  else if 16376 < msg.length then putDoe s none
  else if (msg.headD 0).toNat ≠ s.side.ver then spdmError (clearKept s) msg erVersion
  else if dsc msg 4 2 ≠ 3 ∨ vendorId ≠ 0x1F4B ∨ payload ≠ 1 then spdmError (clearKept s) msg erUnsupported
  else match s.side.kept with
    | none => spdmError s msg erUnexpected
    | some m =>
      let (n, s) := nonce32 s
      answer s (vendorBody msg 0x1F4B (mldsa65Sign (keyXi (s.boot.seed.getD 0)) m n))
def execVendorDefinedRequest (msg : List Byte) (vendor : W16) (payload : Byte) (s : State) : Res :=
  .next (vendorSpdmStep s msg vendor.toNat payload.toNat)

/-! ### IDE (R443) -/

def setIde (s : State) (n : Nat) (x : Ide) : State :=
  { s with side := if n = 0 then { s.side with ide0 := x } else { s.side with ide1 := x } }
def ideOf (s : State) (n : Nat) : Ide := if n = 0 then s.side.ide0 else s.side.ide1
/-- IDE_KM sets the keys of a stream, inside a secured session, and is acknowledged there (log 31). -/
def ideKmStep (s : State) (n : Nat) : State :=
  if doeRuns s && s.side.session then
    answerSealed (setIde (clearKept s) n .secure) true (vendorBody [byte s.side.ver] 1 [0, 6, 0, 0, byte n, 0, 0, 0])
  else s
def execIdeKm (stream : Fin 2) (s : State) : Res := .next (ideKmStep s stream)
/-- IDE_INTEGRITY_FAIL of a TLP of a Secure stream: later TLPs of it are dropped until new keys are set. -/
def ideFailStep (s : State) (n : Nat) : State :=
  if aditUp s && ideOf s n == .secure then
    postSump (setIde s n .failed) { cls := 1, unit := 0x09, kind := 9, d4 := n }
  else s
def execIdeIntegrityFail (stream : Fin 2) (s : State) : Res := .next (ideFailStep s stream)

end Sys2Proof.Machine
end

