-- ==== Sys2Proof/Machine/Turns.lean ====
section
/-!
DEFINITION. Turns (R31 to R34, R264, R325, R386), and the start and end of a replica assay (R208, R209).
-/
namespace Sys2Proof.Machine
open Sys2Proof

/-! ### The effect of a turn (R31, R32) -/

/-- Requests in flight are discarded: a step's without a word, a learning request's with WRONG_SHIFT. -/
def dropRequests (s : State) (c : Nat) : State :=
  (s.reqs.filter fun q => q.claim == c).foldl (fun s q =>
    let s := failRequest s q.id stWrongShift
    match findReq s q.id with
    | some p => if p.batch.isSome then closeRequest s p else s
    | none => s) s
/-- Every stream that has not ended ends SHIFT_ENDED, and every tub and vein entry goes (R31 step 2); outside the generation
shift there is nothing to discard, and nothing is done. -/
def dropStreams (s : State) (c : Nat) : State :=
  if (claim s c).shift ≠ .generation then s else
  let s := { s with batches := s.batches.filter fun b => b.claim != c }
  let s := (claimStreams s c).foldl (fun s n =>
    match (stream s n).state with
    | .done => s | .cancelled => s | .failed => s | .shiftEnded => s
    | _ => endStream s n .shiftEnded 5 0) s
  let k := claim s c
  let s := setClaim s c { k with freeing := [] }
  match k.serve with | some v => clearTubs s c v | none => s
/-- CURRENT and DRAINING slots become EMPTY, and a pending switch ends (R325). -/
def dropVersions (s : State) (c : Nat) : State :=
  let s := match (claim s c).switch with
    | some (i, _, r, q) =>
      let k := claim s c
      reply (setClaim s c { setVer k i { ver k i with switchAt := 0 } with switch := none }) r q stWrongShift 0 0
    | none => s
  (List.range 4).foldl (fun s i =>
    match (ver (claim s c) i).state with
    | .current => setClaim s c (setVer (claim s c) i {})
    | .draining => setClaim s c (setVer (claim s c) i {})
    | _ => s) s
/-- The stamp under which a turn issues its set: the latest consumed, for step 3 comes after it (R256, R264). -/
def issueStamp (s : State) (u : Turn) : Nat := s.stamp.getD u.stamp
/-- The turn's PERMUTEs issued as one set; one that may not be issued fails the turn (R264). -/
def issueTurn (s : State) (c : Nat) (u : Turn) : State :=
  u.permutes.foldl (fun s ws =>
    match (claim s c).turn with
    | some t =>
      if t.failed ≠ 0 then s else
      let st := permuteStatus (claim s c) ws
      let st := if st = 0 ∧ (claim s c).pset.any (fun p => !p.turn) then stPermuteBusy else st
      if st = 0 then issueColl s c ws (issueStamp s u) true
      else
        let k := claim s c
        setClaim s c { k with turn := some { t with failed := st } }
    | none => s) s
/-- Whether the slot and id that a turn to the generation shift names still obey R314: 0 or a status. -/
def turnSlot (k : Claim) (u : Turn) : Nat :=
  if u.learning then 0
  else if (ver k u.slot).state ≠ .empty then stVersionSlotsFull
  else if (List.range 4).any fun i => (ver k i).state != .empty && (ver k i).vid == u.vid then stVersionInUse
  else 0
def turnEffectStep (s : State) (c : Nat) : State :=
  let k := claim s c
  match k.turn with
  | none => s
  | some u =>
    if !u.due || u.begun || !running s then s
    else if turnSlot k u ≠ 0 then reply (setClaim s c { k with turn := none }) u.ring u.seq (turnSlot k u) 0 0
    else
      let s := dropStreams (dropRequests s c) c
      let s := if u.learning then dropVersions s c else s
      let k := claim s c
      let s := setClaim s c { k with turn := some { u with begun := true } }
      issueTurn s c u
def execTurnEffect (c : Fin 8) (s : State) : Res := .next (turnEffectStep s c)

/-! ### The end of a turn (R31 steps 4 and 5, R34, R325, R386) -/

/-- The serving configuration and version of a turn to the generation shift. -/
def applyServe (s : State) (c : Nat) (u : Turn) : State :=
  match u.serve with
  | none => s
  | some v =>
    let k := claim s c
    let x : Ver := { state := .current, vid := u.vid, root := u.root, entries := u.entries.map fun (e : VEntry) => { e with loaded := true } }
    clearTubs (setClaim s c (setVer { k with serve := some v } u.slot x)) c v
/-- No step programs stay loaded in the learning shift (R31 step 4, R212). -/
def dropPrograms (s : State) (c : Nat) : State :=
  let k := claim s c
  setClaim s c { k with serve := k.serve.map fun v => { v with maxBound := 0 } }
def turnFinishStep (s : State) (c : Nat) : State :=
  let k := claim s c
  match k.turn with
  | none => s
  | some u =>
    let busy := k.colls.any fun x => x.op == .permute && x.epoch == u.epoch
    if !u.begun || k.pset.isSome || busy || !running s then s
    else if u.failed ≠ 0 then reply (setClaim s c { k with turn := none, shift := .none }) u.ring u.seq u.failed 0 0
    else
      let s := if u.learning then dropPrograms s c else applyServe s c u
      let s := setClaim s c { claim s c with turn := none, shift := if u.learning then .learning else .generation }
      reply s u.ring u.seq u.dropped u.epoch 0
def execTurnFinish (c : Fin 8) (s : State) : Res := .next (turnFinishStep s c)

/-! ### Replica assays (R208, R209) -/

/-- No sweep that was accepted before the assay is in progress. -/
def assayFree (k : Claim) (a : Assay) : Bool := match k.sweep with | some w => decide (a.stamp < w.stamp) | none => true
def assayStartStep (s : State) (c : Nat) (id : W32) : State :=
  match assayOf s c id with
  | none => s
  | some a =>
    if a.running || !running s || !assayFree (claim s c) a then s
    else assayTry (setAssay s c { a with running := true, since := s.time }) c id
def execReplicaAssayStart (c : Fin 8) (assay : W32) (s : State) : Res := .next (assayStartStep s c assay)
/-- Digest of a range that a peer gave, and whether it differs; none when it did not come. -/
def peerDiffers (a : Assay) (gathered : List (Nat × List (BitVec 256))) (dev i : Nat) : Option Bool :=
  if a.compare = 1 then
    (a.heard.find? fun h => h.1 == dev && h.2.1 == i).map (heardWrong a)
  else
    ((gathered.find? fun g => g.1 == dev).bind fun g => g.2[i]?).map fun d => a.digests[i]? != some d
/-- One peer of the comparison: mismatches counted, and whether it is absent; events follow. -/
def judgePeer (a : Assay) (c : Nat) (gathered : List (Nat × List (BitVec 256))) (acc : State × Nat × Nat) (dev : Nat) : State × Nat × Nat :=
  let is := List.range a.ranges.length
  let wrong := is.filter fun i => peerDiffers a gathered dev i == some true
  let gone := is.filter fun i => peerDiffers a gathered dev i == none
  let s := if a.compare = 1 then acc.1 else wrong.foldl (fun s i => mismatchEvent s c a.id i dev false) acc.1
  let s := gone.foldl (fun s i => mismatchEvent s c a.id i dev true) s
  (s, acc.2.1 + wrong.length, acc.2.2 + b2n (!gone.isEmpty))
/-- REPLICA_ASSAY_DONE (DESIGN CHOICE, log 39: the timeout runs from the assay's start): the digests are written and the comparison ends, at the timeout when a peer has not answered. A peer that the claim's transfers do
not reach gives its GATHER nothing. -/
def assayDoneStep (s : State) (c : Nat) (id : W32) (gathered : List (Nat × List (BitVec 256))) : State :=
  match assayOf s c id with
  | none => s
  | some a =>
    if !a.running || a.digests.isEmpty || !running s then s else
    match access (claim s c) (.request none) a.out (32 * a.ranges.length) with
    | .absent l => stallAll s c l (.assay id)
    | .bad n => failAssay s c a n
    | .ok =>
      let gathered := gathered.filter fun g => pathOpen s c g.1
      let peers := if a.compare = 0 then [] else a.peers
      let missing := peers.any fun p => (List.range a.ranges.length).any fun i => peerDiffers a gathered p i == none
      let s := if missing then advanceTo s (a.since + 1000000 * a.timeout) else s
      let s := vaStore s c a.out (a.digests.flatMap hashBytes)
      let r := peers.foldl (judgePeer a c gathered) (s, 0, 0)
      let k := claim r.1 c
      reply (setClaim r.1 c { k with assays := k.assays.filter fun b => !(b.ring == a.ring && b.seq == a.seq) }) a.ring a.seq stOk r.2.1 r.2.2
def execReplicaAssayDone (c : Fin 8) (assay : W32) (gathered : List (Nat × List (BitVec 256))) (s : State) : Res :=
  .next (assayDoneStep s c assay gathered)

end Sys2Proof.Machine
end

