-- ==== Sys2Proof/Machine/VersionCmds.lean ====
section
/-!
DEFINITION. The version commands (R314 to R328, R510).
-/
namespace Sys2Proof.Machine
open Sys2Proof

/-! ### Version roots (R315, R317) -/

/-- Entries of a version root as its words give them, none loaded. -/
def rootEntries (ws : List W64) : List VEntry :=
  (chunks 8 ws).map fun e =>
    { obj := fld (e.getD 0 0) 63 52, bytes := fld (e.getD 0 0) 47 0, loaded := false
      digest := BitVec.ofNat 256 (leNat (wordsBytes ((e.drop 1).take 4))) }
def rootReserved (ws : List W64) : Bool :=
  (chunks 8 ws).any fun e => fld (e.getD 0 0) 51 48 != 0 || (e.drop 5).any (· != 0)
/-- An object that a command may name. -/
def objThere (k : Claim) (o : Nat) : Bool := (obj k o).live && (obj k o).dying.isNone
/-- The turn to the generation shift that has begun: its slot and its id are taken (R314, R325). -/
def begunTurn (k : Claim) : Option Turn := k.turn.filter fun u => u.begun && !u.learning
/-- Slot and id of a new version: the slot EMPTY, the id held by no other slot, id and count in range. -/
def slotStatus (k : Claim) (slot vid n : Nat) : Nat :=
  if (ver k slot).state ≠ .empty ∨ (begunTurn k).any (·.slot == slot) then stVersionSlotsFull
  else if ((List.range 4).any fun i => (ver k i).state != .empty && (ver k i).vid == vid) || (begunTurn k).any (·.vid == vid) then
    stVersionInUse
  else if vid = 0 ∨ n = 0 ∨ 1024 < n then stBadEncoding
  else 0
/-- Entries of the slots that are not EMPTY, and of a turn that has begun. -/
def listedEntries (k : Claim) : List VEntry :=
  ((List.range 4).flatMap fun i => if (ver k i).state = .empty then [] else (ver k i).entries) ++
  (begunTurn k).elim [] (·.entries)
/-- The checks of R317 on the entries of a root. -/
def entriesStatus (k : Claim) (es : List VEntry) : Nat :=
  if es.any fun e => !objThere k e.obj || e.bytes == 0 || decide (objBytes k e.obj < e.bytes) then stBadEncoding
  else if es.any fun e => (obj k e.obj).priv then stBadAttribute
  else if (es.map (·.obj)).eraseDups.length ≠ es.length then stBadEncoding
  else if es.any fun e => (listedEntries k).any fun x => x.obj == e.obj && !sameEntry x e then stVersionInUse
  else 0
/-- A shared entry starts loaded where the other slot's entry is loaded (R317). -/
def sharedLoaded (k : Claim) (e : VEntry) : Bool :=
  (List.range 4).any fun i => (ver k i).state != .empty && (ver k i).entries.any fun x => sameEntry x e && x.loaded
def versionBuildStep (s : State) (r : Nat) : State :=
  lervo s r 0x201 [span 1 0 + span 31 16 + span 42 32, vaBits, span 12 0] fun k s =>
    let slot := par k 1 1 0
    let n := par k 1 42 32
    let st := slotStatus (claim s k.c) slot (par k 1 31 16) n
    if st ≠ 0 then refuse s st else
    readClaimWords s k.c (par k 2 47 0) (8 * n) fun s ws =>
      let x := claim s k.c
      let es := rootEntries ws
      let st := if rootReserved ws then stReservedField else entriesStatus x es
      if st ≠ 0 then refuse s st else
      let v : Ver := { state := .building, vid := par k 1 31 16, root := par k 2 47 0
                       mirror := if par k 3 12 12 = 1 then some (par k 3 11 0) else none
                       entries := es.map fun e => { e with loaded := sharedLoaded x e } }
      okay (settleSlots (setClaim s k.c (setVer x slot v)) k.c)
def execVersionBuild (r : Fin 256) (s : State) : Res := .next (versionBuildStep s r)

/-! ### WEIGHT_LOAD (R318, R319, R328) -/

/-- Bits of w2 that a source names (R374). -/
def sourceBits (source : Nat) : Nat := if source = 0 then whole else if source = 1 then span 11 0 else 0
/-- A load in progress of the same object in the claim. -/
def loadingObj (k : Claim) (o : Nat) : Bool := k.loads.any fun l => l.ent.obj == o
/-- VERSION_BUSY: the slot is not BUILDING and the object not MARKED, or the entry is loaded or being loaded. -/
def loadBusy (k : Claim) (v : Ver) (e : VEntry) : Bool :=
  !(obj k e.obj).live || loadingObj k e.obj || (if v.state = .building then e.loaded else !(obj k e.obj).marked)
def weightLoadStep (s : State) (r : Nat) : State :=
  lervo s r 0x202 [span 1 0 + span 19 8, whole] fun k s =>
    let x := claim s k.c
    let slot := par k 1 1 0
    let n := par k 1 17 8
    let src := par k 1 19 18
    let arg := par k 2 63 0
    let v := ver x slot
    if src = 3 ∨ arg &&& sourceBits src ≠ arg then refuse s stReservedField
    else if v.state = .empty then refuse s stVersionBusy
    else match verEntry x slot n with
      | none => refuse s stBadEncoding
      | some e =>
        if loadBusy x v e then refuse s stVersionBusy else
        let l : Load := { slot := slot, entry := n, source := src, arg := arg, ring := k.r, seq := k.seq
                          reload := v.state != .building, ent := e, since := s.time }
        .wait (setClaim s k.c { x with loads := x.loads ++ [l] })
def execWeightLoad (r : Fin 256) (s : State) : Res := .next (weightLoadStep s r)

/-! ### VERSION_CANCEL, VERSION_SWITCH, VERSION_QUERY, VERSION_AUDIT_SET -/

def switchTo (k : Claim) (slot : Nat) : Bool := match k.switch with | some (i, _, _, _) => i == slot | none => false
def versionCancelStep (s : State) (r : Nat) : State :=
  lervo s r 0x203 [span 1 0] fun k s =>
    let x := claim s k.c
    let slot := par k 1 1 0
    let st := (ver x slot).state
    if !(st == .building || st == .ready) || (x.loads.any fun l => l.slot == slot) || switchTo x slot then refuse s stVersionBusy
    else okay (setClaim s k.c (setVer x slot {}))
def execVersionCancel (r : Fin 256) (s : State) : Res := .next (versionCancelStep s r)
/-- Number of the first tick boundary after device time t. -/
def firstBoundary (k : Claim) (t : Nat) : Nat :=
  nextTick k + (((List.range 1024).find? fun i => t < boundaryTime k (nextTick k + i)).getD 1024)
def versionSwitchStep (s : State) (r : Nat) : State :=
  lervo s r 0x204 [span 1 0, span 47 0] fun k s =>
    let x := claim s k.c
    let slot := par k 1 1 0
    let at0 := par k 2 47 0
    let n := firstBoundary x k.stamp
    if shiftNow x ≠ .generation then refuse s stWrongShift
    else if (ver x slot).state ≠ .ready then refuse s stVersionNotReady
    else if x.switch.isSome then refuse s stVersionBusy
    else if at0 ≠ 0 ∧ at0 < n then refuse s stVersionLate
    else
      let x := setVer x slot { ver x slot with switchAt := if at0 = 0 then n else at0 }
      .wait (setClaim s k.c { x with switch := some (slot, at0, k.r, k.seq) })
def execVersionSwitch (r : Fin 256) (s : State) : Res := .next (versionSwitchStep s r)
/-- *Version slot status*. -/
def verWords (s : State) (c slot : Nat) : List W64 :=
  let v := ver (claim s c) slot
  let loaded := (v.entries.filter (·.loaded)).length
  [w64 (at' v.vid 48 + at' (verCode v.state) 45 + at' (b2n v.mirror.isSome) 44 + at' (v.mirror.getD 0) 32 + at' loaded 21
      + verRefs s c slot % 2 ^ 21),
   w64 (at' v.switchAt 16 + v.auditFail), w64 (at' (v.entries.length - 1) 48 + v.root)]
def versionQueryStep (s : State) (r : Nat) : State :=
  lervo s r 0x205 [span 1 0, whole] fun k s =>
    let ws := verWords s k.c (par k 1 1 0)
    putHost s k (par k 2 63 0) (wordsBytes ws) fun s => .done s stOk (ws.getD 0 0).toNat 0
def execVersionQuery (r : Fin 256) (s : State) : Res := .next (versionQueryStep s r)
def auditSetStep (s : State) (r : Nat) : State :=
  lervo s r 0x206 [span 31 0] fun k s => okay (setClaim s k.c { claim s k.c with auditInt := par k 1 31 0 })
def execVersionAuditSet (r : Fin 256) (s : State) : Res := .next (auditSetStep s r)

end Sys2Proof.Machine
end

