-- ==== Sys2Proof/Machine/StreamCmds.lean ====
section
/-!
DEFINITION. The serving configuration (R212, R383), the admission configuration (R336), and the stream commands
(R213 to R215, R225, R226, R233, R338, R382).
-/
namespace Sys2Proof.Machine
open Sys2Proof

/-! ### The serving descriptor (R212, R383) -/

/-- A serving configuration as its descriptor's words give it, without its programs. -/
def serveOf (ws : List W64) : Serve :=
  let w := fun n => ws.getD n 0
  { vocab := fld (w 0) 63 43, batchRows := fld (w 0) 42 30, chunk := fld (w 0) 29 13, steerBase := fld (w 0) 12 5
    tubBytes := fld (w 1) 63 32, pool := fld (w 1) 31 20, tags := fld (w 1) 19 8, vein := fld (w 2) 63 52
    veinLog2 := fld (w 2) 51 47, counts := fld (w 2) 46 35, steerTab := fld (w 2) 34 23, steerBuf := fld (w 2) 22 11
    batchTab := fld (w 3) 63 52, pre := [], dec := [], maxBound := 0 }
def serveReserved (ws : List W64) : Bool :=
  let w := fun n => ws.getD n 0
  fld (w 0) 4 0 != 0 || fld (w 1) 7 0 != 0 || fld (w 2) 10 0 != 0 || fld (w 3) 51 0 != 0 || fld (w 4) 55 48 != 0
    || fld (w 5) 55 48 != 0
def serveObjs (v : Serve) : List Nat := [v.pool, v.tags, v.vein, v.counts, v.steerTab, v.steerBuf, v.batchTab]
/-- *Serving configuration*: the ranges of its items. -/
def serveRange (v : Serve) : Bool :=
  2 ≤ v.vocab && v.vocab ≤ 1048576 && 1 ≤ v.batchRows && v.batchRows ≤ 4096 && 64 ≤ v.chunk && v.chunk ≤ 65536
    && v.chunk % 64 == 0 && v.tubBytes != 0 && v.tubBytes % 8 == 0 && 10 ≤ v.veinLog2 && v.veinLog2 ≤ 23
/-- Vein-table entries of the other claims. -/
def otherVeins (s : State) (c : Nat) : Nat :=
  (((liveClaims s).filter (· != c)).map fun o => match (claim s o).serve with | some v => 2 ^ v.veinLog2 | none => 0).foldl (· + ·) 0
/-- The cases of R212 that come before the images. -/
def serveStatus (s : State) (c : Nat) (v : Serve) : Nat :=
  let k := claim s c
  if (serveObjs v).any fun o => objThere k o && (obj k o).t2home then stBadAttribute
  else if !serveRange v || (serveObjs v).any fun o => !objThere k o then stBadEncoding
  else if 8388608 < otherVeins s c + 2 ^ v.veinLog2 then stVeinTooLarge
  else 0
/-- A face outside the claim's face units. -/
def foreignFace (k : Claim) (l : List ProgRef) : Bool := l.any fun p => !k.units.getLsbD (p.face / 8)
/-- The cases of R383, and last the objects that the headframe may not write (R154). -/
def listStatus (k : Claim) (v : Serve) (pre dec : List ProgRef) : Nat :=
  if foreignFace k pre || foreignFace k dec then stResourceBusy
  else if pre.isEmpty || dec.isEmpty then stBadEncoding
  else if (serveObjs v).any fun o => (obj k o).priv then stTenantDenied
  else 0
/-- A program list: entries of an address and a face (R383). -/
def progList (s : State) (c va n : Nat) : Got (List ProgRef) :=
  bindGot (rdWords s c va (2 * n)) fun ws =>
    if (chunks 2 ws).any fun e => fld (e.getD 0 0) 63 48 != 0 || fld (e.getD 1 0) 63 7 != 0 then .bad stReservedField
    else .ok ((chunks 2 ws).map fun e => { addr := fld (e.getD 0 0) 47 0, face := fld (e.getD 1 0) 6 0 })
/-- Every image of a list checked under R143 but for REG_CONFLICT; the largest BOUND. -/
def listBound (s : State) (c : Nat) (l : List ProgRef) : Got Nat :=
  l.foldl (fun acc p => bindGot acc fun n =>
    mapGot (checkedImage s c p.addr (budgetNow (claim s c))) fun i => i.bounds.foldl max n) (.ok 0)
/-- A serving descriptor read and checked. -/
def readServe (s : State) (c va : Nat) : Got Serve :=
  bindGot (rdWords s c va 6) fun ws =>
    let v := serveOf ws
    let n := fun i => fld (ws.getD i 0) 63 56
    let at0 := fun i => fld (ws.getD i 0) 47 0
    if serveReserved ws then .bad stReservedField else
    guardGot (serveStatus s c v) <|
    bindGot (progList s c (at0 4) (n 4)) fun pre =>
    bindGot (listBound s c pre) fun a =>
    bindGot (progList s c (at0 5) (n 5)) fun dec =>
    bindGot (listBound s c dec) fun b =>
    guardGot (listStatus (claim s c) v pre dec) <| .ok { v with pre := pre, dec := dec, maxBound := max a b }
/-- The words that the reading of a serving descriptor reads, as they are read (R174, R175). -/
def noteServe (s : State) (c va : Nat) : State :=
  let s := noteRead s c va 48
  match rdWords s c va 6 with
  | .ok ws => [4, 5].foldl (fun s i =>
      let a := fld (ws.getD i 0) 47 0
      let s := noteRead s c a (16 * fld (ws.getD i 0) 63 56)
      match progList s c a (fld (ws.getD i 0) 63 56) with
      | .ok l => l.foldl (fun s p => noteImage s c p.addr) s
      | _ => s) s
  | _ => s
/-- SERVE_SET and ADMIT_SET want the generation shift and no live stream. -/
def serveQuiet (s : State) (c : Nat) : Nat :=
  if shiftNow (claim s c) ≠ .generation then stWrongShift
  else if !(liveStreams s c).isEmpty then stStreamBusy
  else 0
def serveSetStep (s : State) (r : Nat) : State :=
  lervo s r 0x301 [vaBits] fun k s =>
    let st := serveQuiet s k.c
    if st ≠ 0 then refuse s st else
    let x := readServe s k.c (par k 1 47 0)
    let s := noted x (noteServe · k.c (par k 1 47 0)) s
    gotAns s k.c x fun v =>
      okay (clearTubs (setClaim s k.c { claim s k.c with serve := some v, admission := none, freeing := [] }) k.c v)
def execServeSet (r : Fin 256) (s : State) : Res := .next (serveSetStep s r)

/-! ### The admission configuration (R336) -/

/-- Sampler bounds of a decode and of a prefill step, in headframe cycles. -/
def decBound (v : Serve) : Nat := ceilDiv (v.batchRows * 9 * v.vocab) 4096
def preBound (v : Serve) : Nat := ceilDiv (v.batchRows * v.vocab) 4096
/-- Headframe cycles that a period leaves to the sampler. -/
def samplerCycles (p : Nat) : Nat := (p - 2) * 1500
def admitRange (a : Admit) : Bool :=
  2 ≤ a.td && a.td ≤ 64 && 2 ≤ a.tp && a.tp ≤ 64 && 1 ≤ a.lanesD && a.lanesD ≤ 15 && 1 ≤ a.lanesP && a.lanesP ≤ 15
    && a.lanesD + a.lanesP ≤ 16
def admitSetStep (s : State) (r : Nat) : State :=
  lervo s r 0x302 [span 31 0] fun k s =>
    let x := claim s k.c
    let st := serveQuiet s k.c
    if st ≠ 0 then refuse s st else
    match x.serve with
    | none => refuse s stNoServeConfig
    | some v =>
      let a : Admit := { td := par k 1 7 0, lanesD := par k 1 15 8, tp := par k 1 23 16, lanesP := par k 1 31 24 }
      if !admitRange a then refuse s stBadEncoding
      else if samplerCycles (periodAt x x.tick) < max (decBound v) (preBound v) then refuse s stAdmitInfeasible
      else .done (setClaim s k.c { x with admission := some a }) stOk (decBound v) (preBound v)
def execAdmitSet (r : Fin 256) (s : State) : Res := .next (admitSetStep s r)

/-! ### Tag-board entries (R213) -/

/-- RW fields of a tag-board entry, word by word. -/
def entryMasks : List Nat :=
  [span 56 41 + span 39 36, whole, 0, whole, whole, whole, span 63 32, vaBits, vaBits, 0, whole, 0]
def entryReserved (ws : List W64) : Bool :=
  ws.zipIdx.any fun p => p.1.toNat &&& entryMasks.getD p.2 0 != p.1.toNat
/-- A stream as the RW fields of an entry image give it. -/
def imageStream (ws : List W64) : Stream :=
  let w := fun n => ws.getD n 0
  let f := fun n hi lo => fld (w n) hi lo
  { tenant := f 0 56 45, vpin := bit (w 0) 44, steer := bit (w 0) 43, kvfmt := bit (w 0) 42, cntp := bit (w 0) 41, depth := f 0 39 36
    prompt := f 1 63 40, limit := f 1 39 16, period := f 1 15 0, temp := w32 (f 3 63 32), topP := w32 (f 3 31 0)
    minP := w32 (f 4 63 32), topK := f 4 31 21, stopEn := bit (w 4) 20, stopId := f 4 19 0, rep := w32 (f 5 63 32)
    pres := w32 (f 5 31 0), freq := w32 (f 6 63 32), tmap := f 7 47 0, hist := f 8 47 0, tag := w 10 }
/-- The twelve words of an entry. DESIGN CHOICE (log 20): POS after position 2^24 - 1 is 2^24, which shows in the reserved bit above the
field. -/
def entryWords (x : Stream) : List W64 :=
  let f := fun (b : Bool) n => at' (b2n b) n
  [w64 (at' (streamCode x.state) 60 + at' x.claim 57 + at' x.tenant 45 + f x.vpin 44 + f x.steer 43 + f x.kvfmt 42 + f x.cntp 41
      + at' x.depth 36 + at' x.rejRun 34 + at' x.accRun 31 + at' x.probe 26 + x.pos),
   w64 (at' x.prompt 40 + at' x.limit 16 + x.period), w64 (at' x.due 16 + x.version), w64 (at' x.temp.toNat 32 + x.topP.toNat),
   w64 (at' x.minP.toNat 32 + at' x.topK 21 + f x.stopEn 20 + x.stopId), w64 (at' x.rep.toNat 32 + x.pres.toNat),
   w64 (at' x.freq.toNat 32 + x.gen), w64 (at' x.undeliv 60 + x.tmap), w64 x.hist, w64 x.opened, x.tag,
   w64 (at' (x.heldT % 2 ^ 32) 32 + x.fin)]
/-- FP32 patterns: zero, positive and finite, finite. -/
def fpZero (w : W32) : Bool := w.toNat % 2 ^ 31 == 0
def fpPos (w : W32) : Bool := 0 < w.toNat && w.toNat < 0x7F800000
def fpFinite (w : W32) : Bool := w.toNat % 2 ^ 31 < 0x7F800000
/-- Every sampler field in its range (*Tag-board entry*). -/
def samplerGood (x : Stream) : Bool :=
  x.depth ≤ 8 && (fpZero x.temp || fpPos x.temp) && (fpPos x.topP && x.topP.toNat ≤ 0x3F800000)
    && (fpZero x.minP || (fpPos x.minP && x.minP.toNat ≤ 0x3F800000)) && x.topK ≤ 1024 && fpPos x.rep && fpFinite x.pres
    && fpFinite x.freq
/-- A range of claim addresses lies in objects. -/
def mapped (k : Claim) (va n : Nat) : Bool := (pagesOf va n).all fun p => (pte k p).state != .unmapped
/-- No page of a range lies in a PRIV object of another tenant (R154). -/
def mine (k : Claim) (x : Stream) (va n : Nat) : Bool :=
  (pagesOf va n).all fun p => let o := obj k (pte k p).obj; !o.priv || o.tenant == x.tenant
/-- The claim holds a stream slot (R28, R344). -/
def ownsStream (k : Claim) (n : Nat) : Bool := k.sblk.getLsbD (n / 1024)
/-- The checks of R213 from the prompt on, then those of R338 and R347. -/
def openStatus (s : State) (c : Nat) (v : Serve) (a : Admit) (x : Stream) (toks : List Nat) : Nat :=
  let k := claim s c
  if toks.any fun t => v.vocab ≤ t then stBadToken
  else if x.prompt = 0 ∨ x.limit < x.prompt then stBadEncoding
  else if !samplerGood x then stBadSampler
  else if !(mapped k x.tmap (4 * mapEntries x) && mapped k x.hist (4 * (x.limit + 1))) then stAddrUnmapped
  else if x.period ≠ 0 ∧ x.period < 2 * a.td then stPeriodInfeasible
  else if !ownsTally k x.tenant || !(tally s x.tenant).active then stTenantNotOwned
  else if !(mine k x x.tmap (4 * mapEntries x) && mine k x x.hist (4 * (x.limit + 1))) then stTenantDenied
  else 0
/-- An accepted open: the prompt copied, the tub map emptied, the entry OPEN (R213, R214). -/
def openStream (s : State) (c n : Nat) (x : Stream) (toks : List Nat) : State :=
  let s := storeLater s c (some x.tenant) x.hist (toks.flatMap (leBytes 4))
  let s := storeLater s c (some x.tenant) x.tmap (List.replicate (4 * mapEntries x) 0xFF)
  setStream s n { x with state := .opened, claim := c, opened := s.time }
/-- STREAM_OPEN (R33). DESIGN CHOICE (log 44): a claim in no shift, after a turn that failed, answers WRONG_SHIFT too; R33 speaks
of the learning shift and of a turn in progress. -/
def openStep (s : State) (r : Nat) : State :=
  lervo s r 0x303 [span 16 0, vaBits, vaBits] fun k s =>
    let x := claim s k.c
    let n := par k 1 16 0
    if shiftNow x ≠ .generation ∨ x.turn.isSome then refuse s stWrongShift else
    match x.serve, x.admission with
    | some v, some a =>
      readClaimWords s k.c (par k 2 47 0) 12 fun s ws =>
        let e := imageStream ws
        if entryReserved ws then refuse s stReservedField
        else if !ownsStream x n then refuse s stStreamNotOwned
        else if (stream s n).state ≠ .free then refuse s stStreamBusy
        else readClaim s k.c (par k 3 47 0) (4 * e.prompt) fun s bs =>
          let toks := words32 bs
          let st := openStatus s k.c v a e toks
          if st ≠ 0 then refuse s st else .done (openStream s k.c n e toks) stOk s.time 0
    | _, _ => refuse s stNoServeConfig
def execStreamOpen (r : Fin 256) (s : State) : Res := .next (settleFoul (openStep s r))

/-! ### STREAM_CANCEL, STREAM_PARK, STREAM_RELEASE, STREAM_QUERY -/

/-- A cancel masks the stream's row, unless the sampler has read it (R233, R515). -/
def maskStream (s : State) (n : Nat) : State :=
  match (stream s n).batch with
  | none => s
  | some b => modBatch s b fun b => { b with rows := b.rows.map fun r =>
      if r.stream = n ∧ !r.sampled then { r with masked := true } else r }
/-- STREAM_CANCEL: an admission or a park that waits for a page is over; the next boundary ends the stream (R215, R226). -/
def cancelStep (s : State) (r : Nat) : State :=
  lervo s r 0x304 [span 16 0] fun k s =>
    let n := par k 1 16 0
    let x := stream s n
    if !ownsStream (claim s k.c) n then refuse s stStreamNotOwned
    else if !isLive x then .done s stAlreadyDone (streamCode x.state) 0
    else
      let s := { s with waits := s.waits.filter fun w => w.who != .opening n && w.who != .park n }
      .done (maskStream (setStream s n { x with state := .cancelling }) n) stOk (streamCode x.state) 0
def execStreamCancel (r : Fin 256) (s : State) : Res := .next (cancelStep s r)
def parkCmdStep (s : State) (r : Nat) : State :=
  lervo s r 0x305 [span 16 0, whole] fun k s =>
    let n := par k 1 16 0
    let x := stream s n
    if !ownsStream (claim s k.c) n then refuse s stStreamNotOwned
    else if !isLive x then refuse s stAlreadyDone
    else if x.park.isSome then refuse s stStreamBusy
    else .wait (setStream s n { x with park := some (k.r, k.seq, par k 2 63 0) })
def execStreamPark (r : Fin 256) (s : State) : Res := .next (parkCmdStep s r)
def releaseStep (s : State) (r : Nat) : State :=
  lervo s r 0x306 [span 16 0] fun k s =>
    let n := par k 1 16 0
    let x := stream s n
    if !ownsStream (claim s k.c) n then refuse s stStreamNotOwned
    else if x.state = .free then refuse s stAlreadyDone
    else if isLive x || x.state == .cancelling then refuse s stStreamBusy
    else okay (setStream s n {})
def execStreamRelease (r : Fin 256) (s : State) : Res := .next (releaseStep s r)
def streamQueryStep (s : State) (r : Nat) : State :=
  lervo s r 0x307 [span 16 0, whole] fun k s =>
    let n := par k 1 16 0
    let ws := entryWords (stream s n)
    if !ownsStream (claim s k.c) n then refuse s stStreamNotOwned
    else putHost s k (par k 2 63 0) (wordsBytes ws) fun s => .done s stOk (ws.getD 0 0).toNat 0
def execStreamQuery (r : Fin 256) (s : State) : Res := .next (streamQueryStep s r)

end Sys2Proof.Machine
end

