-- ==== Sys2Proof/Machine/Sync.lean ====
section
/-!
DEFINITION. The sync and summary instructions (R104 to R107, R112, R113, R137 to R140), reserved
instructions (R121), and what the headframe does at the end of a slice and of a request (R116, R365, R371).
-/
namespace Sys2Proof.Machine
open Sys2Proof

/-! ### Semaphores -/

def fSEM : Nat × Nat := (50, 45)
def fN : Nat × Nat := (15, 0)
/-- The checks common to SEM_WAIT and SEM_SIGNAL: encoding, N at least 1, and a declared semaphore. -/
def semOp (s : State) (f : Nat) (st : IssueStream) (op : Nat) (body : State → Ins → State) : State :=
  issue s f st op fun s i =>
    if !encodingOk i [fSEM, fN] .no [] || fw i 15 0 == 0 then raise s i stBadEncoding
    else if !declares s i.f i.l.req (fw i 50 45) then raise s i stSemOwner
    else body s i
/-- The streams that are tested before `st` on one counter in one cycle (R105). -/
def earlierStreams : IssueStream → List IssueStream | .b => [] | .f => [.b] | .u => [.b, .f]
/-- A stalled wait whose count is satisfied. -/
def waitReady (s : State) (f : Nat) (st : IssueStream) : Option (Nat × Nat) :=
  let l := lane (face s f) st
  match l.stall with
  | .sem n c => if l.busy && l.live && c ≤ semGet s f n then some (n, c) else none
  | _ => none
/-- No earlier stream has a satisfied wait on counter `n`, which would take its count first (R105). -/
def firstOn (s : State) (f : Nat) (st : IssueStream) (n : Nat) : Bool :=
  (earlierStreams st).all fun e => match waitReady s f e with | some (m, _) => m != n | none => true
/-- SEM_WAIT stalls until the counter is at least n, then subtracts n (R104); a wait that an earlier stream's satisfied
wait on the counter precedes stalls as well, and is tested against the count that one leaves (R105). -/
def semWaitStep (s : State) (f : Nat) (st : IssueStream) : State :=
  semOp s f st 0x401 fun s i =>
    let n := fw i 15 0
    let c := semGet s i.f (fw i 50 45)
    if n ≤ c && firstOn s i.f i.st (fw i 50 45) then done (semPut s i.f (fw i 50 45) (c - n)) i else stalled s i (.sem (fw i 50 45) n)
def execSemWait (f : Fin 128) (st : IssueStream) (s : State) : Res := .next (semWaitStep s f st)
/-- SEM_WAIT_RELEASE: the wait proceeds, unless an earlier stream's wait on the same counter does first. -/
def semReleaseStep (s : State) (f : Nat) (st : IssueStream) : State :=
  match waitReady s f st with
  | none => s
  | some (n, c) =>
    if !(running s && firstOn s f st n) then s else
    modLane (semPut s f n (semGet s f n - c)) f st fun l => { l with pc := l.pc + 1, stall := .run }
def execSemWaitRelease (f : Fin 128) (st : IssueStream) (s : State) : Res := .next (semReleaseStep s f st)
/-- SEM_SIGNAL queues its signal; a fifth stalls its stream (R137). -/
def semSignalStep (s : State) (f : Nat) (st : IssueStream) : State :=
  semOp s f st 0x402 fun s i =>
    if 4 ≤ i.l.signals.length then stalled s i .fence
    else done (modLane s i.f i.st fun l => { l with signals := l.signals ++ [(fw i 50 45, fw i 15 0)] }) i
def execSemSignal (f : Fin 128) (st : IssueStream) (s : State) : Res := .next (semSignalStep s f st)
/-- The first pending signal of a stream is applied. Engine work takes effect at its issue, so that what
came before the signal is complete. -/
def semApplyStep (s : State) (f : Nat) (st : IssueStream) : State :=
  let l := lane (face s f) st
  match l.signals with
  | [] => s
  | (n, k) :: rest =>
    if !running s then s else
    semAdd (modLane s f st fun l => { l with signals := rest }) f n k l.req
def execSemSignalApply (f : Fin 128) (st : IssueStream) (s : State) : Res := .next (semApplyStep s f st)

/-! ### Fences and flags -/

/-- TICK_FENCE ends the slice once pending signals are applied; the next slice takes its bound from ENTRY (R138). -/
def tickFenceStep (s : State) (f : Nat) (st : IssueStream) : State :=
  issue s f st 0x403 fun s i =>
    if !encodingOk i [(11, 0)] .no [] || i.l.bounds.length ≤ fw i 11 0 then raise s i stBadEncoding
    else if !i.l.signals.isEmpty then stalled s i .fence
    else modLane s i.f i.st fun l => sliceEnd l (i.l.pc + 1) (fw i 11 0) false
def execTickFence (f : Fin 128) (st : IssueStream) (s : State) : Res := .next (tickFenceStep s f st)
def flagClrStep (s : State) (f : Nat) (st : IssueStream) : State :=
  issue s f st 0x404 fun s i =>
    if !encodingOk i [(7, 0)] .no [] then raise s i stBadEncoding
    else done (modLane s i.f i.st fun l => { l with flags := clearFlags l.flags (fw i 7 0) }) i
def execFlagClr (f : Fin 128) (st : IssueStream) (s : State) : Res := .next (flagClrStep s f st)

/-! ### POST and AWAIT (R112, R113, R140) -/

def i32 (w : W32) : Int := w.toInt
/-- The 64-bit summary of RED codes 0 to 6. -/
def summary (s : State) (i : Ins) : W64 :=
  let vl := vlOf s i
  let es := velems s i.f (fw i 50 46) 0 vl
  let lo := fun (w : W32) => w64 w.toNat
  match fw i 45 43 with
  | 0 => lo (r32 (treeSum (es.map x32)))
  | 1 => lo (r32 (maxAll (es.map x32)))
  | 2 => lo (r32 (minAll (es.map x32)))
  | 3 => w64 (((List.range vl).filter fun k => (mget s i.f (fw i 42 40)).getLsbD k).length)
  | 4 => lo (es.headD 0)
  | 5 => BitVec.ofInt 64 (es.foldl (fun a w => a + i32 w) 0)
  | _ => BitVec.ofInt 64 (es.foldl (fun a w => max a (i32 w)) (-2147483648))
/-- POST (R112, R140). DEDUCED (log 14): VS counts as named whatever RED is, and M only where RED = 3. -/
def postStep (s : State) (f : Nat) (st : IssueStream) : State :=
  issue s f st 0x501 fun s i =>
    if !encodingOk i [(50, 46), (45, 43), (42, 40), (39, 32)] .no [] || fw i 45 43 == 7 then raise s i stBadEncoding
    else withRegs s i (.v (fw i 50 46) :: (if fw i 45 43 = 3 then [.m (fw i 42 40)] else [])) fun s =>
      match (face s i.f).post with
      | some p => if p.stream = i.st then raise s i stPostPending else stalled s i .post
      | none =>
        let x := face s i.f
        done (setFace s i.f { x with post := some { stream := i.st, req := i.l.req, claim := i.l.claim, summary := summary s i, table := fw i 39 32, answer := none } }) i
def execPost (f : Fin 128) (st : IssueStream) (s : State) : Res := .next (postStep s f st)
/-- A branch-table comparison; a NaN summary compares false (R113, R381). -/
def branchHolds (sum : W64) (e : W64 × W64) : Bool :=
  let c := e.1
  let x := x32 (w32 (fld sum 31 0))
  let y := x32 (w32 (fld c 31 0))
  match fld e.2 63 61 with
  | 0 => sum == c
  | 1 => sum != c
  | 2 => sum.slt c
  | 3 => !sum.slt c
  | 4 => x.lt y
  | 5 => y.le x
  | _ => false
/-- The first of entries 1 to 15 that holds, else entry 0. -/
def branchTarget (t : List (W64 × W64)) (sum : W64) : Nat :=
  let e := ((t.drop 1).find? (branchHolds sum)).getD (t.headD (0, 0))
  fld e.2 10 0
/-- The core answers a POST: the request that posted fails when the table is not loaded (R113). The POST is over then, as is one
whose request has ended (log 16). -/
def postAnswerStep (s : State) (f : Nat) : State :=
  match (face s f).post with
  | none => s
  | some p =>
    if !running s || p.answer.isSome then s else
    match Tab.get [] (claim s p.claim).branch p.table with
    | [] => failRequest (setFace s f { face s f with post := none }) p.req stNoBranchTable
    | t => setFace s f { face s f with post := some { p with answer := some (branchTarget t p.summary) } }
def execPostAnswer (f : Fin 128) (s : State) : Res := .next (postAnswerStep s f)
def awaitStep (s : State) (f : Nat) (st : IssueStream) : State :=
  issue s f st 0x502 fun s i =>
    if !encodingOk i [] .no [] then raise s i stBadEncoding else
    match (face s i.f).post with
    | none => raise s i stAwaitNoPost
    | some p =>
      if p.stream ≠ i.st then raise s i stAwaitNoPost else
      match p.answer with
      | none => stalled s i .await
      | some t => jump (setFace s i.f { face s i.f with post := none }) i (t : Int)
def execAwait (f : Fin 128) (st : IssueStream) (s : State) : Res := .next (awaitStep s f st)

/-! ### Reserved instructions (R121) -/

/-- Opcodes that the instruction set defines. -/
def definedOp (o : Nat) : Bool :=
  [0x001, 0x002, 0x003, 0x004].contains o || (0x101 ≤ o && o ≤ 0x10A) || (0x110 ≤ o && o ≤ 0x114) || (0x118 ≤ o && o ≤ 0x122)
  || o == 0x124 || (0x130 ≤ o && o ≤ 0x136) || (0x140 ≤ o && o ≤ 0x144) || (0x150 ≤ o && o ≤ 0x153) || (0x160 ≤ o && o ≤ 0x163)
  || (0x168 ≤ o && o ≤ 0x16B) || (0x200 ≤ o && o ≤ 0x20B) || o == 0x210 || o == 0x211 || (0x218 ≤ o && o ≤ 0x21D) || o == 0x21F
  || (0x301 ≤ o && o ≤ 0x305) || (0x401 ≤ o && o ≤ 0x404) || o == 0x501 || o == 0x502
def execReservedInstruction (f : Fin 128) (st : IssueStream) (s : State) : Res :=
  .next (issueIf s f st (fun o => !definedOp o) fun s i => raise s i stBadEncoding)

/-! ### The ends of slices and requests -/

/-- The watchdog passes the bound: the slice is cut off (R116). -/
def overrunStep (s : State) (f : Nat) (st : IssueStream) : State :=
  let l := lane (face s f) st
  if running s && l.busy && l.live then failRequest s l.req stSliceOverrun else s
def execSliceOverrun (f : Fin 128) (st : IssueStream) (s : State) : Res := .next (overrunStep s f st)
/-- Counts of a slice go to the canary table at its end, of a failed one up to its failure (R205). -/
def flushCounts (s : State) (f : Nat) (st : IssueStream) : State :=
  let l := lane (face s f) st
  let s := l.counts.foldl (fun s e => countsAdd s l.claim e.1 e.2) s
  modLane s f st fun l => { l with counts := [] }
/-- Face time of a slice: to its step, or at once to the claim alone (R349), in the window of this instant (R351). -/
def faceTime (s : State) (q : Req) (ns : Nat) : State :=
  match q.batch with
  | some b => modBatch s b fun x => { x with faceNs := x.faceNs + ns }
  | none =>
    let s := rollDue s q.claim
    let k := claim s q.claim
    setClaim s q.claim { k with tally := { k.tally with faceNs := k.tally.faceNs + ns } }
/-- The record of a program rewritten at a slice end, in claim memory or host memory (R371, R512). -/
def sliceRecord (s : State) (q : Req) (n : Nat) (ws : List W64) : State :=
  if q.batch.isSome then s
  else if q.area.1 then (putRecord s q.claim q.area (32 * n) ws).1
  else putLater s q.claim (q.area.2 + 32 * n) ws []
/-- SLICE_COMPLETE: the headframe receives a slice end. STALLS and LAST are free values. -/
def sliceCompleteStep (s : State) (f : Nat) (st : IssueStream) : State :=
  let l := lane (face s f) st
  if !(running s && l.report) then s else
  let s := flushCounts s f st
  let s := modLane s f st fun l => { l with report := false }
  match findReq s l.req with
  | none => s
  | some q =>
    let (stalls, s) := freeValue s
    let (last, s) := freeValue s
    let ws := progRecord (if l.ended then q.failed else 0) l.flags.toNat l.ended f l.slices l.progTag stalls last
    let s := faceTime s q (s.time - l.start)
    let s := modReq s q.id fun q => { q with progs := q.progs.zipIdx.map fun p =>
      if p.2 = l.prog then { p.1 with ended := p.1.ended || l.ended, record := ws } else p.1 }
    sliceRecord s q l.prog ws
def execSliceComplete (f : Fin 128) (st : IssueStream) (s : State) : Res := .next (settleFoul (sliceCompleteStep s f st))

/-- A slice end of a request has not reached the headframe. -/
def reportsOf (s : State) (q : Req) : Bool :=
  (q.progs.map (·.face)).any fun f => streamsBFU.any fun st =>
    let l := lane (face s f) st; l.busy && l.req == q.id && (l.report || l.live)
/-- A record of the request waits for its page. -/
def recordWaits (s : State) (q : Req) : Bool :=
  s.waits.any fun w => w.claim == q.claim && (match w.who with
    | .record a _ _ => !q.area.1 && q.area.2 ≤ a && a < q.area.2 + 32 * q.progs.length
    | .request r => r == q.id && q.failed == 0
    | _ => false)
/-- REQUEST_END: the last program has ended, or the request has failed. The records are written once more and
the reply follows; a step goes on to the sampler, or ends its rows (R236). -/
def requestEndStep (s : State) (id : Nat) : State :=
  match findReq s id with
  | none => s
  | some q =>
    let finished := q.failed != 0 || (q.started && q.progs.all (·.ended))
    if !(running s && finished) || reportsOf s q || recordWaits s q then s else
    match q.batch with
    | none =>
      match areaAbsent s q with
      | [] => closeRequest s q
      | ps => stallAll s q.claim ps (.record q.area.2 [] [])
    | some b =>
      let s := closeRequest s q
      match findBatch s b with
      | none => s
      | some x => if q.failed = 0 then modBatch s b fun x => { x with swept := true } else failBatch s x q.failed
def execRequestEnd (req : Nat) (s : State) : Res := .next (requestEndStep s req)

end Sys2Proof.Machine
end

