-- ==== Sys2Proof/Machine/TallyCmds.lean ====
section
/-!
DEFINITION. The tally, tick and steering commands (R232, R332, R347, R351, R384).
-/
namespace Sys2Proof.Machine
open Sys2Proof

/-! ### Tally slots (R347) -/

/-- TALLY_SET: budgets and ACTIVE; a written HELD is ignored. -/
def tallySetStep (s : State) (r : Nat) : State :=
  lervo s r 0x401 [span 11 0, whole, span 1 0] fun k s =>
    let t := par k 1 11 0
    if !ownsTally (claim s k.c) t then refuse s stTenantNotOwned
    else okay (setTally s t { tally s t with genBudget := par k 2 63 32, promptBudget := par k 2 31 0, active := par k 3 0 0 == 1 })
def execTallySet (r : Fin 256) (s : State) : Res := .next (tallySetStep s r)
/-- Words 0 to 11 of a tally slot. -/
def slotWords (t : Tally) : List W64 :=
  [w64 (at' t.genBudget 32 + t.promptBudget), w64 (at' (b2n t.held) 1 + b2n t.active)] ++ (tallyWords t).map w64
    ++ [w64 t.winGen, w64 t.winPrompt]
def tallyQueryStep (s : State) (r : Nat) : State :=
  lervo s r 0x402 [span 11 0, whole] fun k s =>
    let t := par k 1 11 0
    if !ownsTally (claim s k.c) t then refuse s stTenantNotOwned
    else putHost s k (par k 2 63 0) (wordsBytes (slotWords (tally s t))) okay
def execTallyQuery (r : Fin 256) (s : State) : Res := .next (tallyQueryStep s r)
/-- TALLY_WINDOW_SET: a change of N waits for a window boundary after the command's stamp (R351). -/
def windowSetStep (s : State) (r : Nat) : State :=
  lervo s r 0x403 [span 15 0] fun k s =>
    let n := par k 1 15 0
    if n = 0 then refuse s stBadEncoding else okay (setClaim s k.c { claim s k.c with winPend := some (n, k.stamp) })
def execTallyWindowSet (r : Fin 256) (s : State) : Res := .next (windowSetStep s r)

/-! ### The tick period (R332) -/

/-- What TICK_SET is refused for, in order: 0, or a status. -/
def tickSetStatus (s : State) (c p takeAt stamp : Nat) : Nat :=
  let k := claim s c
  let bound := match k.serve, k.admission with | some v, some _ => max (decBound v) (preBound v) | _, _ => 0
  if p < 20 ∨ 10000 < p then stBadEncoding
  else if !(k.members.isEmpty || isTickMaster s k) then stNotTickMaster
  else if (s.reqs.any fun q => q.claim == c) || !(liveStreams s c).isEmpty || k.tickPend.isSome then stTickBusy
  else if takeAt < max 2 (firstBoundary k stamp + 1) then stVersionLate
  else if tickBudget p < (match k.serve with | some v => v.maxBound | none => 0) then stSliceOverTick
  else if samplerCycles p < bound then stAdmitInfeasible
  else 0
/-- A new period from boundary TAKE_AT on: ORIGIN is that boundary's claim time under the old period. -/
def takePeriod (k : Claim) (p takeAt : Nat) : Claim :=
  { k with tickPend := some (k.period, k.origin, k.originNum, takeAt), period := p, originNum := takeAt
           origin := k.origin + (takeAt - k.originNum) * k.period * 1000 }
def tickSetStep (s : State) (r : Nat) : State :=
  lervo s r 0x404 [span 13 0, span 47 0] fun k s =>
    let p := par k 1 13 0
    let at0 := par k 2 47 0
    let st := tickSetStatus s k.c p at0 k.stamp
    if st ≠ 0 then refuse s st else okay (queueTick (setClaim s k.c (takePeriod (claim s k.c) p at0)) k.c)
def execTickSet (r : Fin 256) (s : State) : Res := .next (tickSetStep s r)

/-! ### Steering (R232, R384) -/

/-- STEER_BASIS_LOAD: 128 layers of 32 directions of `width` BF16 values, copied whole within the command. -/
def basisStep (s : State) (r : Nat) : State :=
  lervo s r 0x405 [span 11 0, whole, span 31 0] fun k s =>
    let x := claim s k.c
    let o := par k 1 11 0
    let n := 8192 * par k 3 31 0
    if par k 3 31 0 % 16 ≠ 0 ∨ !objThere x o then refuse s stBadEncoding
    else if (obj x o).t2home ∨ objBytes x o < n then refuse s stBadAttribute
    else if !(liveStreams s k.c).isEmpty then refuse s stStreamBusy
    else readHost s k (par k 2 63 0) n fun bs => putClaim s k.c (objBase x o) bs okay
def execSteerBasisLoad (r : Fin 256) (s : State) : Res := .next (basisStep s r)
/-- STEER_SET: a tenant's 8 KiB of the steer table. -/
def steerSetStep (s : State) (r : Nat) : State :=
  lervo s r 0x406 [span 11 0, whole] fun k s =>
    let x := claim s k.c
    let t := par k 1 11 0
    if !ownsTally x t then refuse s stTenantNotOwned else
    match x.serve with
    | none => refuse s stNoServeConfig
    | some v => readHost s k (par k 2 63 0) 8192 fun bs => putClaim s k.c (objBase x v.steerTab + 8192 * t) bs okay
def execSteerSet (r : Fin 256) (s : State) : Res := .next (steerSetStep s r)

end Sys2Proof.Machine
end

