-- ==== Sys2Proof/Machine/TrainCmds.lean ====
section
/-!
DEFINITION. The training commands (R33, R180, R187, R208, R264, R325, R385, R386), the collective commands (R239 to
R242, R255, R258) and the numerics commands (R201, R205, R206, R210, R514).
-/
namespace Sys2Proof.Machine
open Sys2Proof

/-! ### PASS_START and PASS_ABORT (R385) -/

/-- A word that is a host address, or a claim address with bits [62:48] zero (R374). -/
def mixedGood (w : W64) : Bool := bit w 63 || fld w 62 48 == 0
def mixedArea (w : W64) : Bool × Nat := if bit w 63 then (true, fld w 62 0) else (false, fld w 47 0)
def notePass (s : State) (k : Call) : State := setRing s k.r { ring s k.r with passes := (ring s k.r).passes ++ [k.seq] }
def passReq (k : Call) (id : Nat) (l : List ProgRef) : Req :=
  let n := par k 3 63 56
  { id := id, claim := k.c, tenant := none, cmd := callCmd k, area := mixedArea (k.ws.getD 2 0), stamp := k.stamp
    progs := l.map fun p => { addr := p.addr, face := p.face, stream := .f, regs := [], started := false, ended := false, record := [] }
    started := false, failed := 0, batch := none, ovl := if n = 0 then none else some (par k 3 47 0, n) }
/-- PASS_START: the program list is read and its faces checked now; the request starts at a boundary (R335, R512). -/
def passStartStep (s : State) (r : Nat) : State :=
  lervo s r 0x501 [span 63 56 + vaBits, whole, span 63 56 + vaBits] fun k s =>
    let s := notePass s k
    let n := par k 1 63 56
    if !mixedGood (k.ws.getD 2 0) then refuse s stReservedField
    else if shiftNow (claim s k.c) ≠ .learning then refuse s stWrongShift
    else if n = 0 then refuse s stBadEncoding
    else
      let x := progList s k.c (par k 1 47 0) n
      let s := noted x (noteRead · k.c (par k 1 47 0) (16 * n)) s
      gotAns s k.c x fun l =>
      if foreignFace (claim s k.c) l then refuse s stResourceBusy else
      let (id, s) := freshId s
      .wait { s with reqs := s.reqs ++ [passReq k id l] }
def execPassStart (r : Fin 256) (s : State) : Res := .next (passStartStep s r)
/-- PASS_ABORT: the named request fails with REQUEST_ABORTED. -/
def passAbortStep (s : State) (r : Nat) : State :=
  lervo s r 0x502 [span 31 0] fun k s =>
    let q := w32 (par k 1 31 0)
    match s.reqs.find? fun x => x.cmd == some (k.r, q) with
    | some x => okay (failRequest s x.id stRequestAborted)
    | none => refuse s (if (ring s k.r).passes.contains q then stAlreadyDone else stBadEncoding)
def execPassAbort (r : Fin 256) (s : State) : Res := .next (passAbortStep s r)

/-! ### SWEEP and STEP_SET (R180, R187) -/

/-- SWEEP: the block table is read now, the rest as the sweep goes. -/
def sweepStep (s : State) (r : Nat) : State :=
  lervo s r 0x503 [vaBits, span 20 0, vaBits, vaBits, span 31 0] fun k s =>
    let x := claim s k.c
    let n := par k 2 20 0
    if shiftNow x ≠ .learning ∨ x.turn.isSome then refuse s stWrongShift
    else if x.sweep.isSome then refuse s stSweepInProgress
    else if n = 0 ∨ 1048576 < n then refuse s stBadEncoding
    else readClaimWords s k.c (par k 1 47 0) (8 * n) fun s ws =>
      let w : Sweep :=
        { descs := chunks 8 ws, hyper := par k 3 47 0, fails := par k 4 47 0, flen := par k 5 31 0, ring := k.r, seq := k.seq
          stamp := k.stamp, due := false, started := false, recs := [], done := [], updated := 0, failed := 0, sums := []
          near := [], dropped := 0 }
      .wait (setClaim s k.c { claim s k.c with sweep := some w })
def execSweep (r : Fin 256) (s : State) : Res := .next (sweepStep s r)
def stepSetStep (s : State) (r : Nat) : State :=
  lervo s r 0x504 [whole] fun k s =>
    let x := claim s k.c
    if x.sweep.isSome then refuse s stSweepInProgress else okay (setClaim s k.c { x with step := (k.ws.getD 1 0).toNat })
def execStepSet (r : Fin 256) (s : State) : Res := .next (stepSetStep s r)

/-! ### TURN (R31, R33, R264, R325, R386) -/

/-- The descriptors of a PERMUTE descriptor list. -/
def permuteList (s : State) (c va n : Nat) : Got (List (List W64)) :=
  bindGot (rdWords s c va n) fun es =>
    if es.any fun e => fld e 63 48 != 0 then .bad stReservedField
    else es.foldl (fun acc e => bindGot acc fun l => mapGot (rdWords s c (fld e 47 0) 9) fun d => l ++ [d]) (.ok [])
/-- What refuses a turn's descriptor before step 1: 0, or a status. -/
def turnDescStatus (k : Claim) (epoch n : Nat) (ws : List W64) : Nat :=
  let st := if descStatus k ws ≠ 0 then descStatus k ws else formStatus k ws
  if st ≠ 0 then st
  else if descOp ws ≠ 8 then stBadEncoding
  else if descEpoch ws ≠ epoch then stEpochStale
  else if descSetm ws ≠ n - 1 then stBadEncoding
  else 0
/-- The version root of a turn to the generation shift, checked. -/
def turnRoot (s : State) (c slot vid root n : Nat) : Got (List VEntry) :=
  let x := claim s c
  guardGot (slotStatus x slot vid n) <| bindGot (rdWords s c root (8 * n)) fun ws =>
    guardGot (if rootReserved ws then stReservedField else entriesStatus x (rootEntries ws)) (.ok (rootEntries ws))
/-- What a turn names besides its PERMUTEs: a serving configuration and a version, or nothing. -/
def turnNames (s : State) (k : Call) (learning : Bool) : Got (Option Serve × List VEntry) :=
  if learning then .ok (none, []) else
  bindGot (turnRoot s k.c (par k 4 1 0) (par k 4 31 16) (par k 5 47 0) (par k 4 41 32 + 1)) fun es =>
  mapGot (readServe s k.c (par k 3 47 0)) fun v => (some v, es)
/-- Everything that a TURN reads and checks at its consumption. -/
def readTurn (s : State) (k : Call) : Got Turn :=
  let x := claim s k.c
  let learning := par k 1 32 32 == 1
  let n := par k 2 63 56
  if learning && (List.range 3).any (fun i => k.ws.getD (3 + i) 0 != 0) then .bad stReservedField
  else if x.turn.isSome then .bad stTurnInProgress
  else if x.shift = (if learning then .learning else .generation) then .bad stWrongShift
  else if n = 0 ∨ 64 < n then .bad stBadEncoding
  else bindGot (permuteList s k.c (par k 2 47 0) n) fun ds =>
    guardGot (((ds.map (turnDescStatus x (par k 1 31 0) n)).find? (· != 0)).getD 0) <|
    mapGot (turnNames s k learning) fun p =>
      { epoch := par k 1 31 0, learning := learning, permutes := ds, serve := p.1, slot := par k 4 1 0, vid := par k 4 31 16
        root := par k 5 47 0, entries := p.2, ring := k.r, seq := k.seq, stamp := k.stamp, due := false, begun := false, failed := 0, dropped := 0 }
/-- The words that a TURN reads at its consumption, as they are read (R174, R175). -/
def noteTurn (s : State) (k : Call) : State :=
  let n := par k 2 63 56
  let s := noteRead s k.c (par k 2 47 0) (8 * n)
  let s := match rdWords s k.c (par k 2 47 0) n with
    | .ok es => es.foldl (fun s e => noteRead s k.c (fld e 47 0) 72) s
    | _ => s
  if par k 1 32 32 = 1 then s
  else noteServe (noteRead s k.c (par k 5 47 0) (64 * (par k 4 41 32 + 1))) k.c (par k 3 47 0)
def turnStep (s : State) (r : Nat) : State :=
  lervo s r 0x505 [span 32 0, span 63 56 + vaBits, vaBits, span 1 0 + span 31 16 + span 41 32, vaBits] fun k s =>
    let x := readTurn s k
    let s := noted x (noteTurn · k) s
    gotAns s k.c x fun u => .wait (setClaim s k.c { claim s k.c with turn := some u })
def execTurn (r : Fin 256) (s : State) : Res := .next (turnStep s r)

/-! ### REPLICA_ASSAY (R208, R209, R386) -/

/-- Its ranges and its peers. -/
def assayLists (s : State) (k : Call) : Got (List (Nat × Nat) × List Nat) :=
  let n := par k 1 63 54 + 1
  bindGot (rdWords s k.c (par k 1 47 0) (2 * n)) fun ws =>
  bindGot (rdBytes s k.c (par k 3 47 0) (2 * par k 3 63 52)) fun bs =>
    let ps := (chunks 2 bs).map leNat
    if ((chunks 2 ws).any fun e => fld (e.getD 0 0) 63 48 != 0) || ps.any fun p => 4096 ≤ p then .bad stReservedField
    else .ok ((chunks 2 ws).map fun e => (fld (e.getD 0 0) 47 0, (e.getD 1 0).toNat), ps)
def assayStep (s : State) (r : Nat) : State :=
  lervo s r 0x506 [span 63 54 + vaBits, span 33 0, span 63 52 + vaBits, span 31 0, vaBits] fun k s =>
    if par k 2 33 32 = 3 then refuse s stReservedField else
    let x := assayLists s k
    let s := noted x (noteAll · k.c [(par k 1 47 0, 16 * (par k 1 63 54 + 1)), (par k 3 47 0, 2 * par k 3 63 52)]) s
    gotAns s k.c x fun l =>
      let a : Assay :=
        { id := w32 (par k 2 31 0), ranges := l.1, compare := par k 2 33 32, peers := l.2, timeout := par k 4 31 0, out := par k 5 47 0
          ring := k.r, seq := k.seq, stamp := k.stamp, since := 0, running := false, digests := [], heard := [] }
      .wait (setClaim s k.c { claim s k.c with assays := (claim s k.c).assays ++ [a] })
def execReplicaAssay (r : Fin 256) (s : State) : Res := .next (assayStep s r)

/-! ### Collectives (R239 to R242, R255, R258) -/

/-- COLL_GROUP_SET: the count of collectives issued on the slot goes on. -/
def groupSetStep (s : State) (r : Nat) : State :=
  lervo s r 0x601 [span 5 0 + span 28 16, vaBits] fun k s =>
    let g := par k 1 5 0
    let n := par k 1 28 16
    if n = 0 ∨ 4096 < n then refuse s stBadGroup
    else readClaim s k.c (par k 2 47 0) (2 * n) fun s bs =>
      let x := claim s k.c
      let rs := (chunks 2 bs).map leNat
      if rs.any fun a => 4096 ≤ a then refuse s stReservedField
      else if (rs.filter (· == s.devAddr)).length ≠ 1 then refuse s stBadGroup
      else if x.colls.any fun y => y.group == g then refuse s stGroupBusy
      else
        let old := match group x g with | some y => y.issued | none => 0
        let y : Group := { ranks := rs, self := (rs.findIdx? (· == s.devAddr)).getD 0, issued := old }
        okay (setClaim s k.c { x with groups := Tab.set none x.groups g (some y) })
def execCollGroupSet (r : Fin 256) (s : State) : Res := .next (groupSetStep s r)
/-- COLL_ISSUE: the reply says whether the descriptor is accepted (R241); every later outcome goes to its completion
record (R252). -/
def collIssueStep (s : State) (r : Nat) : State :=
  lervo s r 0x602 [vaBits] fun k s =>
    readClaimWords s k.c (par k 1 47 0) 9 fun s ws =>
      let st := descStatus (claim s k.c) ws
      if st ≠ 0 then refuse s st else okay (acceptColl s k.c ws k.stamp)
def execCollIssue (r : Fin 256) (s : State) : Res := .next (collIssueStep s r)

/-! ### The canary and the ledger (R201, R205, R206, R210, R514) -/

def canarySetStep (s : State) (r : Nat) : State :=
  lervo s r 0x701 [span 63 16 + span 1 0, vaBits] fun k s =>
    if par k 1 1 0 = 3 then refuse s stReservedField
    else okay (setClaim s k.c { claim s k.c with canPend := some (k.ws.getD 1 0, par k 2 47 0) })
def execCanarySet (r : Fin 256) (s : State) : Res := .next (canarySetStep s r)
def canaryQueryStep (s : State) (r : Nat) : State :=
  lervo s r 0x702 [whole] fun k s =>
    let x := claim s k.c
    let bs := leBytes 8 x.canary.toNat ++ (List.range 256).flatMap fun n => leBytes 2 (Tab.get 0 x.still n)
    putHost s k (par k 1 63 0) bs fun s => .done s stOk x.canary.toNat 0
def execCanaryQuery (r : Fin 256) (s : State) : Res := .next (canaryQueryStep s r)
/-- CANARY_CLEAR: every counter of the table in force becomes 0. -/
def canaryClearStep (s : State) (r : Nat) : State :=
  lervo s r 0x703 [] fun k s =>
    match (claim s k.c).canTab with | some va => okay (zeroTable s k.c va) | none => okay s
def execCanaryClear (r : Fin 256) (s : State) : Res := .next (canaryClearStep s r)
/-- LEDGER_CHECK. -/
def ledgerStep (s : State) (r : Nat) : State :=
  lervo s r 0x704 [vaBits, vaBits, span 32 0 + span 63 48] fun k s =>
    let x := claim s k.c
    let l : Ledger :=
      { records := par k 1 47 0, values := par k 2 47 0, count := par k 3 31 0, field := par k 3 32 32, version := par k 3 63 48
        ring := k.r, seq := k.seq }
    .wait (ledgerTry (setClaim s k.c { x with ledgers := x.ledgers ++ [l] }) k.c k.r k.seq)
def execLedgerCheck (r : Fin 256) (s : State) : Res := .next (ledgerStep s r)

end Sys2Proof.Machine
end

