-- ==== Sys2Proof/Machine/Dispatch.lean ====
section
/-!
DEFINITION. One arm per command: its meaning, called by name.
-/
namespace Sys2Proof.Machine
open Sys2Proof

def exec (i : Instr) (s : State) : Host.Outcome State Fault Refusal :=
  match i with
  | .tload f st => Sys2Proof.Machine.execTload f st s
  | .mma f st => Sys2Proof.Machine.execMma f st s
  | .drain f st => Sys2Proof.Machine.execDrain f st s
  | .accClear f st => Sys2Proof.Machine.execAccClear f st s
  | .vAdd f st => Sys2Proof.Machine.execVAdd f st s
  | .vSub f st => Sys2Proof.Machine.execVSub f st s
  | .vMul f st => Sys2Proof.Machine.execVMul f st s
  | .vFma f st => Sys2Proof.Machine.execVFma f st s
  | .vMax f st => Sys2Proof.Machine.execVMax f st s
  | .vMin f st => Sys2Proof.Machine.execVMin f st s
  | .vNeg f st => Sys2Proof.Machine.execVNeg f st s
  | .vAbs f st => Sys2Proof.Machine.execVAbs f st s
  | .vSel f st => Sys2Proof.Machine.execVSel f st s
  | .vMov f st => Sys2Proof.Machine.execVMov f st s
  | .vCmpeq f st => Sys2Proof.Machine.execVCmpeq f st s
  | .vCmplt f st => Sys2Proof.Machine.execVCmplt f st s
  | .vCmple f st => Sys2Proof.Machine.execVCmple f st s
  | .vIcmpeq f st => Sys2Proof.Machine.execVIcmpeq f st s
  | .vIcmplt f st => Sys2Proof.Machine.execVIcmplt f st s
  | .vIadd f st => Sys2Proof.Machine.execVIadd f st s
  | .vIsub f st => Sys2Proof.Machine.execVIsub f st s
  | .vImul f st => Sys2Proof.Machine.execVImul f st s
  | .vAnd f st => Sys2Proof.Machine.execVAnd f st s
  | .vOr f st => Sys2Proof.Machine.execVOr f st s
  | .vXor f st => Sys2Proof.Machine.execVXor f st s
  | .vShl f st => Sys2Proof.Machine.execVShl f st s
  | .vShr f st => Sys2Proof.Machine.execVShr f st s
  | .vCvtI2f f st => Sys2Proof.Machine.execVCvtI2f f st s
  | .vCvtF2i f st => Sys2Proof.Machine.execVCvtF2i f st s
  | .vRound f st => Sys2Proof.Machine.execVRound f st s
  | .vIota f st => Sys2Proof.Machine.execVIota f st s
  | .vExp2 f st => Sys2Proof.Machine.execVExp2 f st s
  | .vExp f st => Sys2Proof.Machine.execVExp f st s
  | .vLog2 f st => Sys2Proof.Machine.execVLog2 f st s
  | .vLog f st => Sys2Proof.Machine.execVLog f st s
  | .vRecip f st => Sys2Proof.Machine.execVRecip f st s
  | .vRsqrt f st => Sys2Proof.Machine.execVRsqrt f st s
  | .vDiv f st => Sys2Proof.Machine.execVDiv f st s
  | .vRsum f st => Sys2Proof.Machine.execVRsum f st s
  | .vRsumsq f st => Sys2Proof.Machine.execVRsumsq f st s
  | .vRdot f st => Sys2Proof.Machine.execVRdot f st s
  | .vRmax f st => Sys2Proof.Machine.execVRmax f st s
  | .vRmin f st => Sys2Proof.Machine.execVRmin f st s
  | .vSoftmax f st => Sys2Proof.Machine.execVSoftmax f st s
  | .vLogsoftmax f st => Sys2Proof.Machine.execVLogsoftmax f st s
  | .vRmsnorm f st => Sys2Proof.Machine.execVRmsnorm f st s
  | .vLayernorm f st => Sys2Proof.Machine.execVLayernorm f st s
  | .vLd f st => Sys2Proof.Machine.execVLd f st s
  | .vSt f st => Sys2Proof.Machine.execVSt f st s
  | .mLd f st => Sys2Proof.Machine.execMLd f st s
  | .mSt f st => Sys2Proof.Machine.execMSt f st s
  | .mAnd f st => Sys2Proof.Machine.execMAnd f st s
  | .mOr f st => Sys2Proof.Machine.execMOr f st s
  | .mXor f st => Sys2Proof.Machine.execMXor f st s
  | .mNot f st => Sys2Proof.Machine.execMNot f st s
  | .sNop f st => Sys2Proof.Machine.execSNop f st s
  | .sAdd f st => Sys2Proof.Machine.execSAdd f st s
  | .sSub f st => Sys2Proof.Machine.execSSub f st s
  | .sMul f st => Sys2Proof.Machine.execSMul f st s
  | .sAnd f st => Sys2Proof.Machine.execSAnd f st s
  | .sOr f st => Sys2Proof.Machine.execSOr f st s
  | .sXor f st => Sys2Proof.Machine.execSXor f st s
  | .sShl f st => Sys2Proof.Machine.execSShl f st s
  | .sShr f st => Sys2Proof.Machine.execSShr f st s
  | .sShrl f st => Sys2Proof.Machine.execSShrl f st s
  | .sAddi f st => Sys2Proof.Machine.execSAddi f st s
  | .sLi f st => Sys2Proof.Machine.execSLi f st s
  | .sSetvl f st => Sys2Proof.Machine.execSSetvl f st s
  | .sSetvli f st => Sys2Proof.Machine.execSSetvli f st s
  | .sBr f st => Sys2Proof.Machine.execSBr f st s
  | .sBeq f st => Sys2Proof.Machine.execSBeq f st s
  | .sBne f st => Sys2Proof.Machine.execSBne f st s
  | .sBlt f st => Sys2Proof.Machine.execSBlt f st s
  | .sBge f st => Sys2Proof.Machine.execSBge f st s
  | .sLoop f st => Sys2Proof.Machine.execSLoop f st s
  | .sEnd f st => Sys2Proof.Machine.execSEnd f st s
  | .dmaT1T0 f st => Sys2Proof.Machine.execDmaT1T0 f st s
  | .dmaT0T1 f st => Sys2Proof.Machine.execDmaT0T1 f st s
  | .dmaT0T0 f st => Sys2Proof.Machine.execDmaT0T0 f st s
  | .dmaGather f st => Sys2Proof.Machine.execDmaGather f st s
  | .dmaScatter f st => Sys2Proof.Machine.execDmaScatter f st s
  | .dmaDone f slot => Sys2Proof.Machine.execDmaDone f slot s
  | .semWait f st => Sys2Proof.Machine.execSemWait f st s
  | .semWaitRelease f st => Sys2Proof.Machine.execSemWaitRelease f st s
  | .semSignal f st => Sys2Proof.Machine.execSemSignal f st s
  | .semSignalApply f st => Sys2Proof.Machine.execSemSignalApply f st s
  | .tickFence f st => Sys2Proof.Machine.execTickFence f st s
  | .flagClr f st => Sys2Proof.Machine.execFlagClr f st s
  | .post f st => Sys2Proof.Machine.execPost f st s
  | .postAnswer f => Sys2Proof.Machine.execPostAnswer f s
  | .await f st => Sys2Proof.Machine.execAwait f st s
  | .sliceOverrun f st => Sys2Proof.Machine.execSliceOverrun f st s
  | .sliceComplete f st => Sys2Proof.Machine.execSliceComplete f st s
  | .requestEnd req => Sys2Proof.Machine.execRequestEnd req s
  | .tickBoundary c => Sys2Proof.Machine.execTickBoundary c s
  | .windowBoundary c => Sys2Proof.Machine.execWindowBoundary c s
  | .tickPeriodChange c => Sys2Proof.Machine.execTickPeriodChange c s
  | .samplerRow batch poison main draft => Sys2Proof.Machine.execSamplerRow batch poison main draft s
  | .retirePoint batch => Sys2Proof.Machine.execRetirePoint batch s
  | .parkEffect stream => Sys2Proof.Machine.execParkEffect stream s
  | .turnEffect c => Sys2Proof.Machine.execTurnEffect c s
  | .turnFinish c => Sys2Proof.Machine.execTurnFinish c s
  | .sweepStart c => Sys2Proof.Machine.execSweepStart c s
  | .blockUpdate c block => Sys2Proof.Machine.execBlockUpdate c block s
  | .sweepEnd c => Sys2Proof.Machine.execSweepEnd c s
  | .replicaAssayStart c assay => Sys2Proof.Machine.execReplicaAssayStart c assay s
  | .replicaAssayDone c assay gathered => Sys2Proof.Machine.execReplicaAssayDone c assay gathered s
  | .hoistDone c page => Sys2Proof.Machine.execHoistDone c page s
  | .writebackDone c page => Sys2Proof.Machine.execWritebackDone c page s
  | .fetchDeadline stall => Sys2Proof.Machine.execFetchDeadline stall s
  | .patrolScrub tier f addr => Sys2Proof.Machine.execPatrolScrub tier f addr s
  | .objDestroyEffect c obj => Sys2Proof.Machine.execObjDestroyEffect c obj s
  | .hoistEvictEffect c page => Sys2Proof.Machine.execHoistEvictEffect c page s
  | .weightRepair c obj leaf mirror => Sys2Proof.Machine.execWeightRepair c obj leaf mirror s
  | .collStart c coll => Sys2Proof.Machine.execCollStart c coll s
  | .collRetire c coll => Sys2Proof.Machine.execCollRetire c coll s
  | .collTimeout c coll => Sys2Proof.Machine.execCollTimeout c coll s
  | .permuteFenceClear c => Sys2Proof.Machine.execPermuteFenceClear c s
  | .epochFenceTimeout c => Sys2Proof.Machine.execEpochFenceTimeout c s
  | .permuteStaged c => Sys2Proof.Machine.execPermuteStaged c s
  | .permuteComplete c => Sys2Proof.Machine.execPermuteComplete c s
  | .data sh hdr payload crc wrong => Sys2Proof.Machine.execData sh hdr payload crc wrong s
  | .idle sh hdr => Sys2Proof.Machine.execIdle sh hdr s
  | .desc sh hdr rx body => Sys2Proof.Machine.execDesc sh hdr rx body s
  | .grant sh hdr rx body => Sys2Proof.Machine.execGrant sh hdr rx body s
  | .close sh hdr rx body => Sys2Proof.Machine.execClose sh hdr rx body s
  | .xdone sh hdr rx => Sys2Proof.Machine.execXdone sh hdr rx s
  | .sig sh hdr rx body => Sys2Proof.Machine.execSig sh hdr rx body s
  | .abort sh hdr rx body => Sys2Proof.Machine.execAbort sh hdr rx body s
  | .xoff sh hdr rx => Sys2Proof.Machine.execXoff sh hdr rx s
  | .xon sh hdr rx => Sys2Proof.Machine.execXon sh hdr rx s
  | .ident sh hdr rx body => Sys2Proof.Machine.execIdent sh hdr rx body s
  | .nonce sh hdr rx n => Sys2Proof.Machine.execNonce sh hdr rx n s
  | .tag sh hdr rx t => Sys2Proof.Machine.execTag sh hdr rx t s
  | .replayTimeout sh => Sys2Proof.Machine.execReplayTimeout sh s
  | .shaftRetrain sh => Sys2Proof.Machine.execShaftRetrain sh s
  | .shaftBringupStep sh good => Sys2Proof.Machine.execShaftBringupStep sh good s
  | .laneFail sh lane => Sys2Proof.Machine.execLaneFail sh lane s
  | .lossOfSignal sh => Sys2Proof.Machine.execLossOfSignal sh s
  | .bellSlot slot => Sys2Proof.Machine.execBellSlot slot s
  | .presence rx => Sys2Proof.Machine.execPresence rx s
  | .join rx => Sys2Proof.Machine.execJoin rx s
  | .tick rx => Sys2Proof.Machine.execTick rx s
  | .barrier rx => Sys2Proof.Machine.execBarrier rx s
  | .lag rx => Sys2Proof.Machine.execLag rx s
  | .gossip rx => Sys2Proof.Machine.execGossip rx s
  | .replica rx => Sys2Proof.Machine.execReplica rx s
  | .tickFrameSend c => Sys2Proof.Machine.execTickFrameSend c s
  | .tickMasterLost c => Sys2Proof.Machine.execTickMasterLost c s
  | .cycleMasterTakeover => Sys2Proof.Machine.execCycleMasterTakeover s
  | .addrConflict => Sys2Proof.Machine.execAddrConflict s
  | .bellNoSignal => Sys2Proof.Machine.execBellNoSignal s
  | .lagNoticeSend c expect => Sys2Proof.Machine.execLagNoticeSend c expect s
  | .sympathyExpire c src => Sys2Proof.Machine.execSympathyExpire c src s
  | .weightLoadDone c slot entry peer => Sys2Proof.Machine.execWeightLoadDone c slot entry peer s
  | .versionSwitchEffect c => Sys2Proof.Machine.execVersionSwitchEffect c s
  | .versionAudit c => Sys2Proof.Machine.execVersionAudit c s
  | .versionAuditDone c => Sys2Proof.Machine.execVersionAuditDone c s
  | .coreWatchdog core pc => Sys2Proof.Machine.execCoreWatchdog core pc s
  | .fabricCrcFail bench again => Sys2Proof.Machine.execFabricCrcFail bench again s
  | .t2Fence t2c => Sys2Proof.Machine.execT2Fence t2c s
  | .sumpFlashWrite => Sys2Proof.Machine.execSumpFlashWrite s
  | .controlPeriod p => Sys2Proof.Machine.execControlPeriod p s
  | .opRaiseSettled => Sys2Proof.Machine.execOpRaiseSettled s
  | .thermalLoop meanPower => Sys2Proof.Machine.execThermalLoop meanPower s
  | .temperatureSample hottest => Sys2Proof.Machine.execTemperatureSample hottest s
  | .thermtrip sensor reading => Sys2Proof.Machine.execThermtrip sensor reading s
  | .lampCanaryFail bench => Sys2Proof.Machine.execLampCanaryFail bench s
  | .lampTrimLower bench => Sys2Proof.Machine.execLampTrimLower bench s
  | .trimSave => Sys2Proof.Machine.execTrimSave s
  | .droopDetect f => Sys2Proof.Machine.execDroopDetect f s
  | .railCurrentSample rails => Sys2Proof.Machine.execRailCurrentSample rails s
  | .interruptCoalesceTimeout src => Sys2Proof.Machine.execInterruptCoalesceTimeout src s
  | .hostReadTimeout who => Sys2Proof.Machine.execHostReadTimeout who s
  | .perstNAssert => Sys2Proof.Machine.execPerstNAssert s
  | .perstNDeassert smbAddr srns => Sys2Proof.Machine.execPerstNDeassert smbAddr srns s
  | .aditReady => Sys2Proof.Machine.execAditReady s
  | .firmwareReady inp => Sys2Proof.Machine.execFirmwareReady inp s
  | .memoryInitDone u => Sys2Proof.Machine.execMemoryInitDone u s
  | .hotReset => Sys2Proof.Machine.execHotReset s
  | .functionLevelReset fn => Sys2Proof.Machine.execFunctionLevelReset fn s
  | .powerStateEntered => Sys2Proof.Machine.execPowerStateEntered s
  | .powerExitEvent cause => Sys2Proof.Machine.execPowerExitEvent cause s
  | .s0Return => Sys2Proof.Machine.execS0Return s
  | .wakeN => Sys2Proof.Machine.execWakeN s
  | .smbusAddressMatch addr => Sys2Proof.Machine.execSmbusAddressMatch addr s
  | .s3Resume inp => Sys2Proof.Machine.execS3Resume inp s
  | .railLoss rail auxHolds => Sys2Proof.Machine.execRailLoss rail auxHolds s
  | .vddLasRemoved => Sys2Proof.Machine.execVddLasRemoved s
  | .vddLasGood => Sys2Proof.Machine.execVddLasGood s
  | .tapInstructionLoad code => Sys2Proof.Machine.execTapInstructionLoad code s
  | .tapReset => Sys2Proof.Machine.execTapReset s
  | .ideIntegrityFail stream => Sys2Proof.Machine.execIdeIntegrityFail stream s
  | .ideKm stream => Sys2Proof.Machine.execIdeKm stream s
  | .doeDiscovery index => Sys2Proof.Machine.execDoeDiscovery index s
  | .doeAbort => Sys2Proof.Machine.execDoeAbort s
  | .getVersion msg => Sys2Proof.Machine.execGetVersion msg s
  | .getCapabilities msg => Sys2Proof.Machine.execGetCapabilities msg s
  | .negotiateAlgorithms msg => Sys2Proof.Machine.execNegotiateAlgorithms msg s
  | .getDigests msg => Sys2Proof.Machine.execGetDigests msg s
  | .getCertificate msg slot offset len => Sys2Proof.Machine.execGetCertificate msg slot offset len s
  | .challenge msg => Sys2Proof.Machine.execChallenge msg s
  | .getMeasurements msg index signed => Sys2Proof.Machine.execGetMeasurements msg index signed s
  | .keyExchange msg => Sys2Proof.Machine.execKeyExchange msg s
  | .finish msg => Sys2Proof.Machine.execFinish msg s
  | .endSession msg => Sys2Proof.Machine.execEndSession msg s
  | .vendorDefinedRequest msg vendor payload => Sys2Proof.Machine.execVendorDefinedRequest msg vendor payload s
  | .setEndpointId pecOk eid => Sys2Proof.Machine.execSetEndpointId pecOk eid s
  | .getEndpointId pecOk => Sys2Proof.Machine.execGetEndpointId pecOk s
  | .getMctpVersionSupport pecOk typ => Sys2Proof.Machine.execGetMctpVersionSupport pecOk typ s
  | .getMessageTypeSupport pecOk => Sys2Proof.Machine.execGetMessageTypeSupport pecOk s
  | .getVendorMessageSupport pecOk selector => Sys2Proof.Machine.execGetVendorMessageSupport pecOk selector s
  | .telemetryGet h => Sys2Proof.Machine.execTelemetryGet h s
  | .capSbSet h cap => Sys2Proof.Machine.execCapSbSet h cap s
  | .powerReq h target => Sys2Proof.Machine.execPowerReq h target s
  | .warmReset h => Sys2Proof.Machine.execWarmReset h s
  | .sumpExtract h first count => Sys2Proof.Machine.execSumpExtract h first count s
  | .bar2Read fn offset len => Sys2Proof.Machine.execBar2Read fn offset len s
  | .bar2Write fn offset bytes ep => Sys2Proof.Machine.execBar2Write fn offset bytes ep s
  | .sqTail fn r v => Sys2Proof.Machine.execSqTail fn r v s
  | .cqHead fn r v => Sys2Proof.Machine.execCqHead fn r v s
  | .outqHead fn q v => Sys2Proof.Machine.execOutqHead fn q v s
  | .ringEnable fn r w3 => Sys2Proof.Machine.execRingEnable fn r w3 s
  | .ringDisable fn r => Sys2Proof.Machine.execRingDisable fn r s
  | .fnClaimWrite fn target v => Sys2Proof.Machine.execFnClaimWrite fn target v s
  | .windowEntryWrite fn target slot v => Sys2Proof.Machine.execWindowEntryWrite fn target slot v s
  | .sumpDroppedRead fn => Sys2Proof.Machine.execSumpDroppedRead fn s
  | .windowDropRead fn target => Sys2Proof.Machine.execWindowDropRead fn target s
  | .devTimeRead fn half => Sys2Proof.Machine.execDevTimeRead fn half s
  | .msixUnmask fn vec => Sys2Proof.Machine.execMsixUnmask fn vec s
  | .registerWrite fn offset size v => Sys2Proof.Machine.execRegisterWrite fn offset size v s
  | .muster r => Sys2Proof.Machine.execMuster r s
  | .outqSet r => Sys2Proof.Machine.execOutqSet r s
  | .ringGrant r => Sys2Proof.Machine.execRingGrant r s
  | .ringRevoke r => Sys2Proof.Machine.execRingRevoke r s
  | .claimCreate r => Sys2Proof.Machine.execClaimCreate r s
  | .claimDestroy r => Sys2Proof.Machine.execClaimDestroy r s
  | .claimReset r => Sys2Proof.Machine.execClaimReset r s
  | .claimClearDone r => Sys2Proof.Machine.execClaimClearDone r s
  | .claimQuery r => Sys2Proof.Machine.execClaimQuery r s
  | .regionRetire r => Sys2Proof.Machine.execRegionRetire r s
  | .regionRestore r => Sys2Proof.Machine.execRegionRestore r s
  | .regionList r => Sys2Proof.Machine.execRegionList r s
  | .shaftAddrSet r => Sys2Proof.Machine.execShaftAddrSet r s
  | .shaftCtl r => Sys2Proof.Machine.execShaftCtl r s
  | .shaftQuery r => Sys2Proof.Machine.execShaftQuery r s
  | .shaftShareSet r => Sys2Proof.Machine.execShaftShareSet r s
  | .shaftAuth r => Sys2Proof.Machine.execShaftAuth r s
  | .routeSet r => Sys2Proof.Machine.execRouteSet r s
  | .bellJoin r => Sys2Proof.Machine.execBellJoin r s
  | .bellLeave r => Sys2Proof.Machine.execBellLeave r s
  | .bellClaimSet r => Sys2Proof.Machine.execBellClaimSet r s
  | .bellQuery r => Sys2Proof.Machine.execBellQuery r s
  | .objCreate r => Sys2Proof.Machine.execObjCreate r s
  | .objDestroy r => Sys2Proof.Machine.execObjDestroy r s
  | .objQuery r => Sys2Proof.Machine.execObjQuery r s
  | .objSetPin r => Sys2Proof.Machine.execObjSetPin r s
  | .pageQuery r => Sys2Proof.Machine.execPageQuery r s
  | .hoistPrefetch r => Sys2Proof.Machine.execHoistPrefetch r s
  | .hoistEvict r => Sys2Proof.Machine.execHoistEvict r s
  | .hoistFramesAdd r => Sys2Proof.Machine.execHoistFramesAdd r s
  | .hoistFramesRemove r => Sys2Proof.Machine.execHoistFramesRemove r s
  | .fetchDeadlineSet r => Sys2Proof.Machine.execFetchDeadlineSet r s
  | .branchTableLoad r => Sys2Proof.Machine.execBranchTableLoad r s
  | .versionBuild r => Sys2Proof.Machine.execVersionBuild r s
  | .weightLoad r => Sys2Proof.Machine.execWeightLoad r s
  | .versionCancel r => Sys2Proof.Machine.execVersionCancel r s
  | .versionSwitch r => Sys2Proof.Machine.execVersionSwitch r s
  | .versionQuery r => Sys2Proof.Machine.execVersionQuery r s
  | .versionAuditSet r => Sys2Proof.Machine.execVersionAuditSet r s
  | .serveSet r => Sys2Proof.Machine.execServeSet r s
  | .admitSet r => Sys2Proof.Machine.execAdmitSet r s
  | .streamOpen r => Sys2Proof.Machine.execStreamOpen r s
  | .streamCancel r => Sys2Proof.Machine.execStreamCancel r s
  | .streamPark r => Sys2Proof.Machine.execStreamPark r s
  | .streamRelease r => Sys2Proof.Machine.execStreamRelease r s
  | .streamQuery r => Sys2Proof.Machine.execStreamQuery r s
  | .tallySet r => Sys2Proof.Machine.execTallySet r s
  | .tallyQuery r => Sys2Proof.Machine.execTallyQuery r s
  | .tallyWindowSet r => Sys2Proof.Machine.execTallyWindowSet r s
  | .tickSet r => Sys2Proof.Machine.execTickSet r s
  | .steerBasisLoad r => Sys2Proof.Machine.execSteerBasisLoad r s
  | .steerSet r => Sys2Proof.Machine.execSteerSet r s
  | .passStart r => Sys2Proof.Machine.execPassStart r s
  | .passAbort r => Sys2Proof.Machine.execPassAbort r s
  | .sweep r => Sys2Proof.Machine.execSweep r s
  | .stepSet r => Sys2Proof.Machine.execStepSet r s
  | .turn r => Sys2Proof.Machine.execTurn r s
  | .replicaAssay r => Sys2Proof.Machine.execReplicaAssay r s
  | .collGroupSet r => Sys2Proof.Machine.execCollGroupSet r s
  | .collIssue r => Sys2Proof.Machine.execCollIssue r s
  | .canarySet r => Sys2Proof.Machine.execCanarySet r s
  | .canaryQuery r => Sys2Proof.Machine.execCanaryQuery r s
  | .canaryClear r => Sys2Proof.Machine.execCanaryClear r s
  | .ledgerCheck r => Sys2Proof.Machine.execLedgerCheck r s
  | .capSet r => Sys2Proof.Machine.execCapSet r s
  | .capFloor r => Sys2Proof.Machine.execCapFloor r s
  | .winderPrioritySet r => Sys2Proof.Machine.execWinderPrioritySet r s
  | .opFix r => Sys2Proof.Machine.execOpFix r s
  | .opLimit r => Sys2Proof.Machine.execOpLimit r s
  | .winderQuery r => Sys2Proof.Machine.execWinderQuery r s
  | .powerStateSet r => Sys2Proof.Machine.execPowerStateSet r s
  | .marginClear r => Sys2Proof.Machine.execMarginClear r s
  | .fwStage r => Sys2Proof.Machine.execFwStage r s
  | .fwStageDone r => Sys2Proof.Machine.execFwStageDone r s
  | .fwActivate r => Sys2Proof.Machine.execFwActivate r s
  | .fwQuery r => Sys2Proof.Machine.execFwQuery r s
  | .sumpRead r => Sys2Proof.Machine.execSumpRead r s
  | .flitSlot sh => Sys2Proof.Machine.execFlitSlot sh s
  | .collision rx own => Sys2Proof.Machine.execCollision rx own s
  | .bellReceiverLock => Sys2Proof.Machine.execBellReceiverLock s
  | .peerWeightRequest sh peer ctag vid entry => Sys2Proof.Machine.execPeerWeightRequest sh peer ctag vid entry s
  | .railWithinTolerance rail late => Sys2Proof.Machine.execRailWithinTolerance rail late s
  | .vddAuxRemoved => Sys2Proof.Machine.execVddAuxRemoved s
  | .reservedOpcode r => Sys2Proof.Machine.execReservedOpcode r s
  | .reservedInstruction f st => Sys2Proof.Machine.execReservedInstruction f st s
  | .reservedVendorCommand h cmd => Sys2Proof.Machine.execReservedVendorCommand h cmd s
  | .unsupportedRequest fn => Sys2Proof.Machine.execUnsupportedRequest fn s
  | .unsupportedDataObject vendor typ => Sys2Proof.Machine.execUnsupportedDataObject vendor typ s

end Sys2Proof.Machine
end

