-- ==== Sys2Proof/Machine/Registers.lean ====
section
/-!
DEFINITION. What a read of BAR0 returns (R8 to R11, R494 to R507): every register word, by function and offset. A field of
code RO, RW or W1C reads its current value, a WO field and a reserved one read 0, and so does a region that the function
does not see. The reads that also have an effect (DEV_TIME's latch, SUMP_DROPPED, WINDOW_DROP) have rows of their own; no
row of the table is a plain read (log 55), so nothing runs these definitions: they say what the stored fields mean to the
host.
-/
namespace Sys2Proof.Machine
open Sys2Proof

/-- DEV_ID (R496): VENDOR 0x1F4B, PART 0x9612, REV 0x00, LAYOUT 0x01. -/
def devId : Nat := at' 0x1F4B 48 + at' 0x9612 32 + at' 0x00 24 + at' 0x01 16
def svnOf (o : Option FwImage) : Nat := match o with | some i => i.svn | none => 0
/-- A field that flash gives: a free value until firmware-ready (R10). -/
def flashField (s : State) (off v : Nat) : Nat := if s.boot.stage = .ready then v else (Config.flashWord off).toNat
/-- FW_ID, of the running image. -/
def fwId (s : State) : Nat := flashField s 0x8 (at' (versionOf s.boot.running) 32 + svnOf s.boot.running)
/-- GLOBAL_STATUS (R497). -/
def globalStatus (s : State) : Nat :=
  at' (claimMask s) 48 + at' (powerCode s.power) 45 + at' (b2n s.boot.t2init) 44 + at' (b2n (s.boot.t1init == 0xFFF#12)) 43 +
  at' (b2n (s.boot.stage == .ready)) 42 + at' (b2n s.fatal) 41 + at' (b2n s.pins.fault) 40 + at' s.boot.cause 36
/-- The identity region, word n. -/
def identityWord (s : State) (n : Nat) : Nat :=
  match n with
  | 0 => devId | 1 => fwId s | 2 => flashField s 0x10 s.boot.serial.toNat | 4 => globalStatus s | 5 => s.time | _ => 0
/-- The winder summary (R505): its 32 words as last updated, and GEN at +0x100. -/
def winderWord (s : State) (n : Nat) : Nat :=
  if n < 32 then (s.winder.sum.getD n 0).toNat else if n = 32 then s.winder.gen else 0
/-- The sump region (R499). -/
def sumpWord (s : State) (n : Nat) : Nat :=
  match n with
  | 0 => at' s.sump.written 32 + flashField s 0x2000 s.sump.head % 4096
  | 1 => s.sump.dropped
  | 2 => s.sump.pending.length
  | 3 => at' (b2n s.sump.svEn) 11 + s.sump.svVec
  | _ => 0
/-- *Ring configuration*, word n (R356, R500). -/
def ringWord (x : Ring) (n : Nat) : Nat :=
  match n with
  | 0 => x.w0.toNat | 1 => x.w1.toNat | 2 => x.w2.toNat | 3 => at' (b2n x.enable) 63 + x.w3.toNat | 4 => x.w4.toNat
  | 5 => at' (ringState x) 62 + at' (classCode x.cls) 60 + at' x.claim 57 + at' x.out.length 40 + at' x.err 36
  | 6 => x.lost
  | _ => 0
/-- The MSI-X table of a function, word n: message address, then data and vector control (R502). -/
def msixWord (s : State) (fn n : Nat) : Nat :=
  let e := Tab.get {} s.msix (512 * fn + n / 2)
  if vectors fn ≤ n / 2 then 0 else if n % 2 = 0 then e.addr.toNat else e.data.toNat + at' e.ctrl.toNat 32
/-- The pending bit array, word n. -/
def pendingWord (s : State) (fn n : Nat) : Nat :=
  ((List.range 64).map fun i =>
    if 64 * n + i < vectors fn ∧ (Tab.get {} s.msix (512 * fn + 64 * n + i)).pend then 2 ^ i else 0).foldl (· + ·) 0
/-- The block of a function, word n (R452, R503). -/
def fnWord (x : Fn) (n : Nat) : Nat :=
  if n = 0 then x.fcClaim + at' (b2n x.fcValid) 3 + at' (b2n x.entryErr) 4
  else if n = 1 then x.drop
  else if 64 ≤ n ∧ n < 128 then (Tab.get 0 x.window (n - 64)).toNat
  else 0
/-- The function sees the summaries of claim c. -/
def summarySeen (s : State) (fn c : Nat) : Bool := fn == 0 || ((fnOf s fn).fcValid && (fnOf s fn).fcClaim == c)
/-- *Canary summary*, word n (R506): CONTROL as last updated. -/
def canaryWord (k : Claim) (n : Nat) : Nat :=
  if n = 0 then k.canGen
  else if n = 1 then k.canCtl.toNat
  else if n = 2 then k.lastStep
  else if 4 ≤ n ∧ n < 68 then ((List.range 4).map fun i => at' (Tab.get 0 k.still (4 * (n - 4) + i)) (16 * i)).foldl (· + ·) 0
  else 0
/-- *Tally summary*, word n (R507). -/
def tallyWord (k : Claim) (n : Nat) : Nat :=
  if n = 0 then k.talGen
  else if n = 1 then k.talTick
  else if n = 2 then k.talWin
  else if 3 ≤ n ∧ n < 11 then k.talSum.getD (n - 3) 0
  else if 32 ≤ n ∧ n < 96 then ((List.range 64).map fun i => if k.talHeld.contains (64 * (n - 32) + i) then 2 ^ i else 0).foldl (· + ·) 0
  else 0
/-- Regions of *BAR0 regions*, by the function that reads and the word's byte offset. -/
def bar0Word (s : State) (fn off : Nat) : Nat :=
  if off < 0x1000 then identityWord s (off / 8)
  else if off < 0x2000 then winderWord s ((off - 0x1000) / 8)
  else if off < 0x3000 then (if fn = 0 then sumpWord s ((off - 0x2000) / 8) else 0)
  else if 0x10000 ≤ off ∧ off < 0x14000 then
    let r := (off - 0x10000) / 64
    if ringSeen s fn r then ringWord (ring s r) (off % 64 / 8) else 0
  else if 0x400000 ≤ off ∧ off < 0x402000 then msixWord s fn ((off - 0x400000) / 8)
  else if 0x410000 ≤ off ∧ off < 0x410040 then pendingWord s fn ((off - 0x410000) / 8)
  else if 0x500000 ≤ off ∧ off < 0x508400 then
    if fn = 0 then fnWord (fnOf s ((off - 0x500000) / 1024)) (off % 1024 / 8) else 0
  else if 0x600000 ≤ off ∧ off < 0x608000 then
    let c := (off - 0x600000) / 4096
    if summarySeen s fn c then canaryWord (claim s c) (off % 4096 / 8) else 0
  else if 0x680000 ≤ off ∧ off < 0x688000 then
    let c := (off - 0x680000) / 4096
    if summarySeen s fn c then tallyWord (claim s c) (off % 4096 / 8) else 0
  else 0
/-- A read of BAR0 (R495): 8 bytes, or the half that a 4-byte read names; any other size or alignment is an
Unsupported Request. None while the adit is down, as in S3 and S4 (R497), and where the request is not taken (R443, R449). -/
def bar0Read (s : State) (fn off size : Nat) : Option Cpl :=
  if !hostOn s false fn off then none
  else if !(size == 4 || size == 8) || off % size != 0 then some ⟨.unsupported, [], false⟩
  else
    let w := bar0Word s fn (off / 8 * 8) % 2 ^ 64
    some ⟨.success, [w64 (if size = 8 then w else if off % 8 = 0 then w % 2 ^ 32 else w / 2 ^ 32)], false⟩

/-! ### Configuration space (R421, R449, R451, R502) -/

/-- What the chapters give of a function's configuration space. -/
inductive ConfigField | vendor | device | revision | classCode | numVfs | msixSize | msixTable | msixPba
deriving DecidableEq, Repr
/-- Its values: the identity of R449, Table Size, and the BAR0 offsets of the MSI-X structures. -/
def configField (s : State) (fn : Nat) : ConfigField → Nat
  | .vendor => 0x1F4B
  | .device => if fn = 0 then 0x9612 else 0x9613
  | .revision => 0
  | .classCode => 0x120000
  | .numVfs => if fn = 0 then s.vfs else 0
  | .msixSize => vectors fn - 1
  | .msixTable => 0x400000
  | .msixPba => 0x410000
/-- The device has left reset in a power state in which its adit link exists. -/
def linkPowered (s : State) : Bool := !s.pins.perst && !s.pins.stopped && timeRuns s
/-- A configuration read: Configuration Request Retry Status until the adit is ready (R421), and no completion by a virtual function
that is not enabled. No row of the table is a configuration request (log 55). -/
def configRead (s : State) (fn : Nat) (f : ConfigField) : Option Cpl :=
  if !linkPowered s then none
  else if !aditUp s then some ⟨.retry, [], false⟩
  else if s.vfs < fn then none
  else some ⟨.success, [w64 (configField s fn f)], false⟩

end Sys2Proof.Machine
end

