-- ==== Sys2Proof/Safety.lean ====
section
/-!
DEFINITION. The words in which the statements speak of a safe step: that it ends in a next state, which
face instruction issues next, which Lervo packet the command processor takes next, and what both leave.
-/
namespace Sys2Proof
open Sys2Proof.Machine

/-- The step answers a next state: neither a fault nor a refusal. -/
def stepsOn (s : State) : Prop := ∃ t, step s = .next t

/-! ### A face instruction that issues (R99, R107, R117, R120, R121) -/

/-- The instruction that stream `st` of face `f` issues next is `i`, with opcode `op`: its slice is live, no
SEM_WAIT holds it, the fetch has good parity, and an extension word that bit 51 announces is there. The state's
tables are in canonical form, which every step keeps (StepKeepsCanonicalForm). -/
structure Issuing (s : State) (f : Fin 128) (st : IssueStream) (op : Nat) (i : Ins) : Prop where
  canon  : s.canonical = true
  live   : issues s f st = true
  word   : fetch s f st = some i
  opcode : i.w / 2 ^ 52 = op
  parity : i.l.badCode.contains i.l.pc = false ∧ (i.ext = true → i.l.badCode.contains (i.l.pc + 1) = false)
  whole  : i.ext = true → i.l.pc + 1 < i.l.code.length
/-- The program declares every register that the instruction names (R100), and those have good parity (R99). -/
structure Named (s : State) (i : Ins) (ns : List Name) : Prop where
  owned : ns.all (ownsName i.l) = true
  good  : badParity (face s i.f) ns = false
/-- The face is as given and the stream stands at the next instruction; nothing else of the device changes. -/
def goesOn (s : State) (i : Ins) (x : Face) : State :=
  setFace s i.f (setLane x i.st { lane x i.st with pc := i.l.pc + 1 + b2n i.ext, stall := .run })
/-- The same for a taken branch to code word `n` (R135). -/
def goesTo (s : State) (i : Ins) (x : Face) (n : Nat) : State :=
  setFace s i.f (setLane x i.st { lane x i.st with pc := n, stall := .run })
/-- The slice fails with the exception's status (R117, R118). -/
def fails (s : State) (i : Ins) (status : Nat) : State := failRequest s i.l.req status

/-! ### A Lervo packet that is taken (R359, R360, R363) -/

/-- The packet at the submission head of ring r. -/
def packet (s : State) (r : Fin 256) : List W64 := bytesWords (hostRead s (packetAt (ring s r)) 64)
/-- Its SEQ and opcode. -/
def packetSeq (s : State) (r : Fin 256) : W32 := w32 ((packet s r).getD 0 0).toNat
def packetOp (s : State) (r : Fin 256) : Nat := fld ((packet s r).getD 0 0) 63 52
/-- The command processor takes ring r's packet next, and its opcode is `op`. -/
structure Taken (s : State) (r : Fin 256) (op : Nat) : Prop where
  canon  : s.canonical = true
  runs   : cmdsRun s = true
  next   : nextRing s = some r.val
  read   : hostOk s (packetAt (ring s r)) 64 = true
  opcode : packetOp s r = op
/-- The state once the packet has left its ring and its command is outstanding. -/
def consumed (s : State) (r : Fin 256) : State :=
  let t := takePacket s r
  let x := ring t r
  setRing t r { x with last := packetSeq s r
                       out := x.out ++ [{ seq := packetSeq s r, opcode := packetOp s r, quiet := bit ((packet s r).getD 0 0) 50, time := t.time }] }
/-- What its own work is told of it. -/
def callOf (s : State) (r : Fin 256) : Call :=
  { r := r, c := (ring (takePacket s r) r).claim, seq := packetSeq s r, ws := packet s r, stamp := (takePacket s r).time }
/-- The packet passes the checks of R360 and R379: SEQ, ring number, class, reserved bits and claim; `used` are the bits of
w1, w2, … that the command names. -/
structure Served (s : State) (r : Fin 256) (op : Nat) (used : List Nat) : Prop extends Taken s r op where
  seq    : packetSeq s r = (ring (takePacket s r) r).last + 1
  passes : gate (takePacket s r) r (ring (takePacket s r) r) (packet s r) used = 0
/-- Its reply, with status, r0 and r1, on the state that its work has left. -/
def replied (s : State) (r : Fin 256) (t : State) (status r0 r1 : Nat) : State := reply t r (packetSeq s r) status r0 r1
/-- n bytes of claim c at an address may be read, and hold `bs` with no poison and no marked leaf (R176, R327, R345, R374). -/
structure Reads (t : State) (c va n : Nat) (bs : List Byte) : Prop where
  may  : access (claim t c) (.request none) va n = .ok
  hold : goodBytes t c va n = .ok bs

end Sys2Proof
end

