-- ==== Sys2Proof/Certificates/Slice0/Obligations.lean ====
section
/-!
DEFINITION. Statements for the provers. Each says what a rule of the manual gives a command, or what every step of
the device keeps; the words they use are in Safety.lean and in the model.
-/
open Sys2Proof Sys2Proof.Machine

/-- A step with a command at the front of the queue is exec of that command on the rest. -/
def Obligations.StepRunsFrontCommand : Prop :=
  ∀ (s : State) (c : Instr) (rest : List Instr), s.pending = c :: rest →
    step s = exec c { s with pending := rest }

/-! ### Scalar instructions (R130, R135) -/

/-- Two-operand scalar instructions: constructor, opcode, and the result from SA and SB (R135). -/
def scalarTable : List ((Fin 128 → IssueStream → Instr) × Nat × (W64 → W64 → W64)) :=
  [(.sAdd, 0x201, fun a b => a + b), (.sSub, 0x202, fun a b => a - b), (.sMul, 0x203, fun a b => a * b),
   (.sAnd, 0x204, fun a b => a &&& b), (.sOr, 0x205, fun a b => a ||| b), (.sXor, 0x206, fun a b => a ^^^ b),
   (.sShl, 0x207, fun a b => a <<< (b.toNat % 64)), (.sShr, 0x208, fun a b => a.sshiftRight (b.toNat % 64)),
   (.sShrl, 0x209, fun a b => a >>> (b.toNat % 64))]
/-- A two-operand scalar instruction writes SD and goes on; nothing else of the device changes.
S_NOP, S_ADDI and S_LI: the immediate is sign-extended, and S_LI takes an extension word in its place.
S_SETVL and S_SETVLI set vl to a value from 1 to 1,024, and fail with VL_RANGE otherwise (R130). -/
def Obligations.ScalarUnit : Prop :=
  (
  ∀ (s : State) (f : Fin 128) (st : IssueStream) (i : Ins), ∀ e ∈ scalarTable,
    Issuing s f st e.2.1 i → encodingOk i [(50, 47), (46, 43), (42, 39)] .no [] = true →
    Named s i [.sd (bits i.w 50 47), .s (bits i.w 46 43), .s (bits i.w 42 39)] →
    exec (e.1 f st) s = .next (goesOn s i { face s f with
      s := Tab.set 0 (face s f).s (bits i.w 50 47) (e.2.2 (sreg s f (bits i.w 46 43)) (sreg s f (bits i.w 42 39))) }))
  ∧
  (
  ∀ (s : State) (f : Fin 128) (st : IssueStream) (i : Ins),
    (Issuing s f st 0x200 i → encodingOk i [] .no [] = true → exec (.sNop f st) s = .next (goesOn s i (face s f))) ∧
    (Issuing s f st 0x20A i → encodingOk i [(50, 47), (46, 43), (31, 0)] .no [] = true →
      Named s i [.sd (bits i.w 50 47), .s (bits i.w 46 43)] →
      exec (.sAddi f st) s = .next (goesOn s i { face s f with
        s := Tab.set 0 (face s f).s (bits i.w 50 47) (sreg s f (bits i.w 46 43) + BitVec.ofInt 64 (sext (bits i.w 31 0) 32)) })) ∧
    (Issuing s f st 0x20B i → encodingOk i [(50, 47), (31, 0)] .opt [(63, 0)] = true → Named s i [.sd (bits i.w 50 47)] →
      exec (.sLi f st) s = .next (goesOn s i { face s f with
        s := Tab.set 0 (face s f).s (bits i.w 50 47) (if i.ext then w64 i.x else BitVec.ofInt 64 (sext (bits i.w 31 0) 32)) })))
  ∧
  (
  ∀ (s : State) (f : Fin 128) (st : IssueStream) (i : Ins) (n : Int),
    (Issuing s f st 0x210 i ∧ encodingOk i [(46, 43)] .no [] = true ∧ Named s i [.s (bits i.w 46 43)] ∧
      n = (sreg s f (bits i.w 46 43)).toNat →
      (1 ≤ n ∧ n ≤ 1024 → exec (.sSetvl f st) s = .next (goesOn s i (setLane (face s f) st { lane (face s f) st with vl := n.toNat }))) ∧
      (¬ (1 ≤ n ∧ n ≤ 1024) → exec (.sSetvl f st) s = .next (fails s i stVlRange))) ∧
    (Issuing s f st 0x211 i ∧ encodingOk i [(31, 0)] .no [] = true ∧ n = sext (bits i.w 31 0) 32 →
      (1 ≤ n ∧ n ≤ 1024 → exec (.sSetvli f st) s = .next (goesOn s i (setLane (face s f) st { lane (face s f) st with vl := n.toNat }))) ∧
      (¬ (1 ≤ n ∧ n ≤ 1024) → exec (.sSetvli f st) s = .next (fails s i stVlRange))))
/-- Branches on a relation of SA and SB (R135). -/
def branchTable : List ((Fin 128 → IssueStream → Instr) × Nat × (W64 → W64 → Bool)) :=
  [(.sBeq, 0x219, fun a b => a == b), (.sBne, 0x21A, fun a b => a != b), (.sBlt, 0x21B, fun a b => a.slt b),
   (.sBge, 0x21C, fun a b => !a.slt b)]
/-- The target of a taken branch: the word's index plus IMM, inside the code and at the start of an instruction. -/
def targetIs (i : Ins) (n : Nat) : Prop := (i.l.pc : Int) + sext (bits i.w 31 0) 32 = n ∧ n ∈ starts i.l.code
/-- S_LOOP's count after it, and the face with that count in SA. -/
def loopCount (s : State) (i : Ins) : W64 := sreg s i.f (bits i.w 46 43) - 1
def looped (s : State) (i : Ins) : Face := { face s i.f with s := Tab.set 0 (face s i.f).s (bits i.w 46 43) (loopCount s i) }
/-- A branch that is taken goes to its target, and one that is not taken goes on, wherever its target lies (R135).
A taken branch to a word outside the code, or to an extension word, fails with BRANCH_RANGE (R135). -/
def Obligations.Branches : Prop :=
  (
  ∀ (s : State) (f : Fin 128) (st : IssueStream) (i : Ins),
    (Issuing s f st 0x218 i → encodingOk i [(31, 0)] .no [] = true →
      ∀ n, targetIs i n → exec (.sBr f st) s = .next (goesTo s i (face s f) n)) ∧
    (∀ e ∈ branchTable, Issuing s f st e.2.1 i → encodingOk i [(46, 43), (42, 39), (31, 0)] .no [] = true →
      Named s i [.s (bits i.w 46 43), .s (bits i.w 42 39)] →
      (e.2.2 (sreg s f (bits i.w 46 43)) (sreg s f (bits i.w 42 39)) = false → exec (e.1 f st) s = .next (goesOn s i (face s f))) ∧
      (e.2.2 (sreg s f (bits i.w 46 43)) (sreg s f (bits i.w 42 39)) = true →
        ∀ n, targetIs i n → exec (e.1 f st) s = .next (goesTo s i (face s f) n))) ∧
    (Issuing s f st 0x21D i → encodingOk i [(46, 43), (31, 0)] .no [] = true → Named s i [.s (bits i.w 46 43)] →
      (loopCount s i = 0 → exec (.sLoop f st) s = .next (goesOn s i (looped s i))) ∧
      (loopCount s i ≠ 0 → ∀ n, targetIs i n → exec (.sLoop f st) s = .next (goesTo s i (looped s i) n))))
  ∧
  (
  ∀ (s : State) (f : Fin 128) (st : IssueStream) (i : Ins), (∀ n, ¬ targetIs i n) →
    (Issuing s f st 0x218 i → encodingOk i [(31, 0)] .no [] = true → exec (.sBr f st) s = .next (fails s i stBranchRange)) ∧
    (∀ e ∈ branchTable, Issuing s f st e.2.1 i → encodingOk i [(46, 43), (42, 39), (31, 0)] .no [] = true →
      Named s i [.s (bits i.w 46 43), .s (bits i.w 42 39)] →
      e.2.2 (sreg s f (bits i.w 46 43)) (sreg s f (bits i.w 42 39)) = true → exec (e.1 f st) s = .next (fails s i stBranchRange)) ∧
    (Issuing s f st 0x21D i → encodingOk i [(46, 43), (31, 0)] .no [] = true → Named s i [.s (bits i.w 46 43)] →
      loopCount s i ≠ 0 → exec (.sLoop f st) s = .next (fails (setFace s f (looped s i)) i stBranchRange)))

/-! ### Vector instructions (R98, R130 to R134) -/

/-- The second operand of an instruction with BSRC: a vector register, the immediate of the extension word, or the
low 32 bits of a scalar register. -/
def secondOk (i : Ins) : Prop := bits i.w 8 7 ≠ 3 ∧ (bits i.w 8 7 = 1 → i.ext = true)
def second (s : State) (i : Ins) (k : Nat) : W32 :=
  match bits i.w 8 7 with
  | 0 => vget (face s i.f) (bits i.w 40 36) k
  | 1 => w32 (bits i.x 63 32)
  | _ => w32 ((sreg s i.f (bits i.w 22 19)).toNat % 2 ^ 32)
def secondNames (i : Ins) : List Name :=
  match bits i.w 8 7 with | 0 => [.v (bits i.w 40 36)] | 2 => [.s (bits i.w 22 19)] | _ => []
/-- With ME set, only elements whose bit of M is set are written. -/
def maskNames (i : Ins) : List Name := if bits i.w 27 27 = 1 then [.m (bits i.w 30 28)] else []
def masked (s : State) (i : Ins) (k : Nat) : Bool := bits i.w 27 27 == 1 && !(mget s i.f (bits i.w 30 28)).getLsbD k
/-- The vector file after elements 0 to n - 1 of the row that begins at place `p`, where `on`, have become `g` of their
index. Element k of register r stands at place 1,024 r + k. -/
def wrote (v : Tab W32) (p n : Nat) (on : Nat → Bool) (g : Nat → W32) : Tab W32 :=
  (List.range n).foldl (fun t k => if on k then Tab.set 0 t (p + k) (g k) else t) v
/-- The face after elements 0 to vl - 1 of VD, but for masked ones, have become `g` of their index. -/
def vdWritten (s : State) (i : Ins) (g : Nat → W32) : Face :=
  { face s i.f with v := wrote (face s i.f).v (1024 * bits i.w 50 46) (lane (face s i.f) i.st).vl (fun k => !masked s i k) g }
/-- Two-operand element-wise instructions. -/
def binaryTable : List ((Fin 128 → IssueStream → Instr) × Nat × (W32 → W32 → W32)) :=
  let fp := fun (g : Xr → Xr → Xr) (a b : W32) => r32 (g (x32 a) (x32 b))
  [(.vAdd, 0x101, fp Xr.add), (.vSub, 0x102, fp Xr.sub), (.vMul, 0x103, fp Xr.mul), (.vMax, 0x105, fp maxX),
   (.vMin, 0x106, fp minX), (.vDiv, 0x136, fp divX),
   (.vIadd, 0x118, fun a b => a + b), (.vIsub, 0x119, fun a b => a - b), (.vImul, 0x11A, fun a b => a * b),
   (.vAnd, 0x11B, fun a b => a &&& b), (.vOr, 0x11C, fun a b => a ||| b), (.vXor, 0x11D, fun a b => a ^^^ b),
   (.vShl, 0x11E, fun a b => a <<< (b.toNat % 32)), (.vShr, 0x11F, fun a b => a.sshiftRight (b.toNat % 32))]
/-- One-operand element-wise instructions. -/
def unaryTable : List ((Fin 128 → IssueStream → Instr) × Nat × (W32 → W32)) :=
  let fp := fun (g : Xr → Xr) (a : W32) => r32 (g (x32 a))
  [(.vNeg, 0x107, fp Xr.neg), (.vAbs, 0x108, fp Xr.abs), (.vCvtI2f, 0x120, fun a => r32 (.ofInt a.toInt)),
   (.vExp2, 0x130, fp exp2X), (.vExp, 0x131, fp expX), (.vLog2, 0x132, fp log2X), (.vLog, 0x133, fp logX),
   (.vRecip, 0x134, fp recipX), (.vRsqrt, 0x135, fp rsqrtX)]
/-- A two-operand vector instruction makes each unmasked element of VD from the elements of VA and of the second
operand, and goes on; no other register, flag, or byte of memory changes.
A one-operand vector instruction makes each unmasked element of VD from the element of VA. -/
def Obligations.VectorArithmetic : Prop :=
  (
  ∀ (s : State) (f : Fin 128) (st : IssueStream) (i : Ins), ∀ e ∈ binaryTable,
    Issuing s f st e.2.1 i →
    encodingOk i [(50, 46), (45, 41), (30, 28), (27, 27), (40, 36), (22, 19), (8, 7)] .opt [(63, 32)] = true → secondOk i →
    Named s i ([.vd (bits i.w 50 46), .v (bits i.w 45 41)] ++ secondNames i ++ maskNames i) →
    exec (e.1 f st) s = .next (goesOn s i (vdWritten s i (fun k => e.2.2 (vget (face s f) (bits i.w 45 41) k) (second s i k)))))
  ∧
  (
  ∀ (s : State) (f : Fin 128) (st : IssueStream) (i : Ins), ∀ e ∈ unaryTable,
    Issuing s f st e.2.1 i → encodingOk i [(50, 46), (45, 41), (30, 28), (27, 27)] .no [] = true →
    Named s i ([.vd (bits i.w 50 46), .v (bits i.w 45 41)] ++ maskNames i) →
    exec (e.1 f st) s = .next (goesOn s i (vdWritten s i (fun k => e.2.2 (vget (face s f) (bits i.w 45 41) k)))))
/-- V_FMA rounds once; V_SEL chooses by M, and with ME set leaves what M leaves out; V_MOV copies bit for bit; V_IOTA writes the index (R131).
V_CVT_F2I rounds to INT32 and raises the saturation flag where an unmasked element saturated; V_ROUND rounds
to FP16 or BF16, to nearest even or by the draw of its tensor id, claim step and logical index, and widens again (R54, R131). -/
def Obligations.VectorMovesAndConversions : Prop :=
  (
  ∀ (s : State) (f : Fin 128) (st : IssueStream) (i : Ins),
    let va := fun k => vget (face s f) (bits i.w 45 41) k
    (Issuing s f st 0x104 i →
      encodingOk i [(50, 46), (45, 41), (35, 31), (30, 28), (27, 27), (40, 36), (22, 19), (8, 7)] .opt [(63, 32)] = true → secondOk i →
      Named s i ([.vd (bits i.w 50 46), .v (bits i.w 45 41), .v (bits i.w 35 31)] ++ secondNames i ++ maskNames i) →
      exec (.vFma f st) s = .next (goesOn s i (vdWritten s i (fun k => r32 (((x32 (va k)).mul (x32 (second s i k))).add (x32 (vget (face s f) (bits i.w 35 31) k))))))) ∧
    (Issuing s f st 0x109 i →
      encodingOk i [(50, 46), (45, 41), (30, 28), (27, 27), (40, 36), (22, 19), (8, 7)] .opt [(63, 32)] = true → secondOk i →
      Named s i ([.vd (bits i.w 50 46), .v (bits i.w 45 41), .m (bits i.w 30 28)] ++ secondNames i) →
      exec (.vSel f st) s = .next (goesOn s i (vdWritten s i (fun k => if (mget s f (bits i.w 30 28)).getLsbD k then va k else second s i k)))) ∧
    (Issuing s f st 0x10A i →
      encodingOk i [(50, 46), (30, 28), (27, 27), (40, 36), (22, 19), (8, 7)] .opt [(63, 32)] = true → secondOk i →
      Named s i ([.vd (bits i.w 50 46)] ++ secondNames i ++ maskNames i) →
      exec (.vMov f st) s = .next (goesOn s i (vdWritten s i (second s i)))) ∧
    (Issuing s f st 0x124 i → encodingOk i [(50, 46), (30, 28), (27, 27)] .no [] = true →
      Named s i ([.vd (bits i.w 50 46)] ++ maskNames i) →
      exec (.vIota f st) s = .next (goesOn s i (vdWritten s i w32))))
  ∧
  (
  ∀ (s : State) (f : Fin 128) (st : IssueStream) (i : Ins),
    let va := fun k => vget (face s f) (bits i.w 45 41) k
    (Issuing s f st 0x121 i → encodingOk i [(50, 46), (45, 41), (30, 28), (27, 27)] .no [] = true →
      Named s i ([.vd (bits i.w 50 46), .v (bits i.w 45 41)] ++ maskNames i) →
      exec (.vCvtF2i f st) s = .next (goesOn s i (setLane (vdWritten s i (fun k => (f2i (va k)).1)) st { lane (face s f) st with
          flags := flagIf (lane (face s f) st).flags flSat ((List.range (lane (face s f) st).vl).any fun k => !masked s i k && (f2i (va k)).2) }))) ∧
    (∀ kind, roundKind (bits i.w 15 12) = some kind →
      let sr := bits i.w 18 17 == 1 || bits i.w 16 16 == 1
      Issuing s f st 0x122 i → bits i.w 18 17 < 2 → bits i.w 15 12 < 8 → (sr = true → i.ext = true) →
      encodingOk i [(50, 46), (45, 41), (30, 28), (27, 27), (22, 19), (18, 17), (16, 16), (15, 12)] .opt [(63, 32)] = true →
      Named s i ([.vd (bits i.w 50 46), .v (bits i.w 45 41)] ++ maskNames i ++ (if sr then [.s (bits i.w 22 19)] else [])) →
      exec (.vRound f st) s = .next (goesOn s i (vdWritten s i (fun k => w32 (encodeFp fpk32 (convertFp kind
        (if sr then some (srDraw (claim s i.l.claim).seed (bits i.x 63 32) (claim s i.l.claim).step
          (((sreg s f (bits i.w 22 19)).toNat + k) % 2 ^ 64)) else none) (x32 (va k)))))))))
/-- Comparisons into a mask register. -/
def compareTable : List ((Fin 128 → IssueStream → Instr) × Nat × (W32 → W32 → Bool)) :=
  [(.vCmpeq, 0x110, fun a b => (x32 a).eqv (x32 b)), (.vCmplt, 0x111, fun a b => (x32 a).lt (x32 b)),
   (.vCmple, 0x112, fun a b => (x32 a).le (x32 b)), (.vIcmpeq, 0x113, fun a b => a == b), (.vIcmplt, 0x114, fun a b => a.slt b)]
/-- The face after the first `n` bits of mask register `r` have become `g` of their index. -/
def maskWritten (s : State) (i : Ins) (r n : Nat) (g : Nat → Bool) (x : Face) : Prop :=
  ∃ w : BitVec 1024, (∀ k, k < 1024 → w.getLsbD k = if k < n then g k else (mget s i.f r).getLsbD k) ∧
    x = { face s i.f with m := Tab.set 0 (face s i.f).m r w }
/-- A comparison sets each unmasked bit of MD below vl, and leaves masked bits and bits from vl on as they are (R131).
Mask operations on the first vl bits; M_NOT takes one operand. -/
def Obligations.VectorCompareAndMasks : Prop :=
  (
  ∀ (s : State) (f : Fin 128) (st : IssueStream) (i : Ins), ∀ e ∈ compareTable,
    Issuing s f st e.2.1 i →
    encodingOk i [(45, 41), (30, 28), (27, 27), (11, 9), (40, 36), (22, 19), (8, 7)] .opt [(63, 32)] = true → secondOk i →
    Named s i ([.v (bits i.w 45 41), .md (bits i.w 11 9)] ++ secondNames i ++ maskNames i) →
    ∃ x, exec (e.1 f st) s = .next (goesOn s i x) ∧
      maskWritten s i (bits i.w 11 9) (lane (face s f) st).vl
        (fun k => if masked s i k then (mget s f (bits i.w 11 9)).getLsbD k else e.2.2 (vget (face s f) (bits i.w 45 41) k) (second s i k)) x)
  ∧
  (
  ∀ (s : State) (f : Fin 128) (st : IssueStream) (i : Ins), bits i.w 45 41 < 8 →
    let a := fun k => (mget s f (bits i.w 45 41)).getLsbD k
    let b := fun k => (mget s f (bits i.w 40 36)).getLsbD k
    (∀ e ∈ ([(.mAnd, 0x168, fun p q => p && q), (.mOr, 0x169, fun p q => p || q), (.mXor, 0x16A, fun p q => xor p q)] :
        List ((Fin 128 → IssueStream → Instr) × Nat × (Bool → Bool → Bool))),
      Issuing s f st e.2.1 i → encodingOk i [(45, 41), (11, 9), (40, 36)] .no [] = true → bits i.w 40 36 < 8 →
      Named s i [.m (bits i.w 45 41), .md (bits i.w 11 9), .m (bits i.w 40 36)] →
      ∃ x, exec (e.1 f st) s = .next (goesOn s i x) ∧
        maskWritten s i (bits i.w 11 9) (lane (face s f) st).vl (fun k => e.2.2 (a k) (b k)) x) ∧
    (Issuing s f st 0x16B i → encodingOk i [(45, 41), (11, 9)] .no [] = true → Named s i [.m (bits i.w 45 41), .md (bits i.w 11 9)] →
      ∃ x, exec (.mNot f st) s = .next (goesOn s i x) ∧
        maskWritten s i (bits i.w 11 9) (lane (face s f) st).vl (fun k => !a k) x))
/-- Reductions of elements 0 to vl - 1 of VA. -/
def reduceTable : List ((Fin 128 → IssueStream → Instr) × Nat × (List Xr → Xr)) :=
  [(.vRsum, 0x140, treeSum), (.vRsumsq, 0x141, fun v => treeSum (v.map fun x => mulX x x)), (.vRmax, 0x143, maxAll), (.vRmin, 0x144, minAll)]
/-- Elements 0 to n - 1 of a vector register, as values. -/
def elements (s : State) (f : Fin 128) (r n : Nat) : List Xr := (List.range n).map fun k => x32 (vget (face s f) r k)
/-- A reduction writes element 0 of VD alone (R132), unless ME leaves that element out (R130); the mask has no part in what
is reduced, and sums follow the reference order (R72, R87).
V_SOFTMAX and V_LOGSOFTMAX over the row from element s[S1]: every element of the row is written, bit s[S2] of MD
tells an empty row, and FLAGS too (R88 to R90, R133).
V_RMSNORM and V_LAYERNORM over the row from element s[S1]: unmasked elements of the row are written (R90, R133). -/
def Obligations.VectorReductionsAndRows : Prop :=
  (
  ∀ (s : State) (f : Fin 128) (st : IssueStream) (i : Ins),
    let vl := (lane (face s f) st).vl
    let first := fun (r : Xr) =>
      { face s f with v := wrote (face s f).v (1024 * bits i.w 50 46) 1 (fun k => !masked s i k) (fun _ => r32 r) }
    (∀ e ∈ reduceTable, Issuing s f st e.2.1 i → encodingOk i [(50, 46), (45, 41), (30, 28), (27, 27)] .no [] = true →
      Named s i ([.vd (bits i.w 50 46), .v (bits i.w 45 41)] ++ maskNames i) →
      exec (e.1 f st) s = .next (goesOn s i (first (e.2.2 (elements s f (bits i.w 45 41) vl))))) ∧
    (Issuing s f st 0x142 i → encodingOk i [(50, 46), (45, 41), (30, 28), (27, 27), (40, 36), (22, 19), (8, 7)] .opt [(63, 32)] = true → secondOk i →
      Named s i ([.vd (bits i.w 50 46), .v (bits i.w 45 41)] ++ secondNames i ++ maskNames i) →
      exec (.vRdot f st) s = .next (goesOn s i (first (treeSum ((List.range vl).map fun k =>
        mulX (x32 (vget (face s f) (bits i.w 45 41) k)) (x32 (second s i k))))))))
  ∧
  (
  ∀ (s : State) (f : Fin 128) (st : IssueStream) (i : Ins),
    ∀ e ∈ ([(.vSoftmax, 0x150, softMax), (.vLogsoftmax, 0x151, logSoftMax)] :
      List ((Fin 128 → IssueStream → Instr) × Nat × (List Xr → List Bool → List Xr × Bool))),
    let o := (sreg s f (bits i.w 26 23)).toNat
    let n := (sreg s f (bits i.w 22 19)).toNat
    let vl := (lane (face s f) st).vl
    let row := (List.range vl).map fun k => x32 (vget (face s f) (bits i.w 45 41) (o + k))
    let mask := if bits i.w 27 27 = 1 then (List.range vl).map fun k => (mget s f (bits i.w 30 28)).getLsbD (o + k) else []
    Issuing s f st e.2.1 i → encodingOk i [(50, 46), (45, 41), (30, 28), (27, 27), (26, 23), (22, 19), (11, 9)] .no [] = true →
    Named s i ([.vd (bits i.w 50 46), .v (bits i.w 45 41), .s (bits i.w 26 23), .s (bits i.w 22 19), .md (bits i.w 11 9)] ++ maskNames i) →
    o + vl ≤ 1024 → n ≤ 1023 →
    ∃ w : BitVec 1024, (∀ k, k < 1024 → w.getLsbD k = if k = n then (e.2.2 row mask).2 else (mget s f (bits i.w 11 9)).getLsbD k) ∧
      exec (e.1 f st) s = .next (goesOn s i (setLane { face s f with
          v := wrote (face s f).v (1024 * bits i.w 50 46 + o) (e.2.2 row mask).1.length (fun _ => true)
            (fun k => r32 ((e.2.2 row mask).1.getD k .zero))
          m := Tab.set 0 (face s f).m (bits i.w 11 9) w }
        st { lane (face s f) st with flags := flagIf (lane (face s f) st).flags flEmpty (e.2.2 row mask).2 })))
  ∧
  (
  ∀ (s : State) (f : Fin 128) (st : IssueStream) (i : Ins),
    let o := (sreg s f (bits i.w 26 23)).toNat
    let vl := (lane (face s f) st).vl
    let row := fun r => (List.range vl).map fun k => x32 (vget (face s f) r (o + k))
    let invn := x32 (w32 (bits i.x 63 32))
    let eps := x32 (w32 (bits i.x 31 0))
    let after := fun (out : List Xr) => { face s f with
      v := wrote (face s f).v (1024 * bits i.w 50 46 + o) out.length (fun k => !masked s i (o + k)) (fun k => r32 (out.getD k .zero)) }
    o + vl ≤ 1024 →
    (Issuing s f st 0x152 i → encodingOk i [(50, 46), (45, 41), (40, 36), (30, 28), (27, 27), (26, 23)] .need [(63, 0)] = true →
      Named s i ([.vd (bits i.w 50 46), .v (bits i.w 45 41), .v (bits i.w 40 36), .s (bits i.w 26 23)] ++ maskNames i) →
      exec (.vRmsnorm f st) s = .next (goesOn s i (after (rmsNorm (row (bits i.w 45 41)) (row (bits i.w 40 36)) invn eps)))) ∧
    (Issuing s f st 0x153 i → encodingOk i [(50, 46), (45, 41), (40, 36), (30, 28), (27, 27), (26, 23), (35, 31)] .need [(63, 0)] = true →
      Named s i ([.vd (bits i.w 50 46), .v (bits i.w 45 41), .v (bits i.w 40 36), .s (bits i.w 26 23), .v (bits i.w 35 31)] ++ maskNames i) →
      exec (.vLayernorm f st) s = .next (goesOn s i (after (layerNorm (row (bits i.w 45 41)) (row (bits i.w 40 36)) (row (bits i.w 35 31)) invn eps)))))
/-- What a byte of T0 reads as: none where its word is poisoned or uncorrectable (R109). -/
def t0Reads (s : State) (f a : Nat) : Option Byte :=
  let w := readWord s (.t0 f) (a / 8)
  if w.poison then none else (leBytes 8 w.data.toNat)[a % 8]?
/-- V_LD and M_LD read T0 from s[S1], which corrects what it reads (R174), and write VD or MD (R134). -/
def Obligations.VectorLoads : Prop :=
  ∀ (s : State) (f : Fin 128) (st : IssueStream) (i : Ins),
    let a := (sreg s f (bits i.w 26 23)).toNat
    let vl := (lane (face s f) st).vl
    (∀ fm, fmtOf (bits i.w 15 12) = some fm →
      let spans := (rowSpans fm (bits i.w 11 9) vl).map fun p => (a + p.1, p.2)
      let t := t0Note s f spans
      Issuing s f st 0x160 i → encodingOk i [(50, 46), (30, 28), (27, 27), (26, 23), (15, 12), (11, 9)] .no [] = true →
      Named s i ([.vd (bits i.w 50 46), .s (bits i.w 26 23)] ++ maskNames i) →
      (∀ p ∈ spans, p.1 + p.2 ≤ 8388608) → a % fmtAlign fm = 0 → t0Poison s f spans = false →
      let vals := rowVals fm (t0Bytes s f) a (bits i.w 11 9) vl
      exec (.vLd f st) s = .next (goesOn t i { face t f with
        v := wrote (face t f).v (1024 * bits i.w 50 46) vals.length (fun k => !masked t i k) (fun k => loadElem fm (vals.getD k .zero)) })) ∧
    (let n := (vl + 7) / 8
     let t := t0Note s f [(a, n)]
     Issuing s f st 0x162 i → encodingOk i [(26, 23), (11, 9)] .no [] = true → Named s i [.md (bits i.w 11 9), .s (bits i.w 26 23)] →
     a + n ≤ 8388608 → t0Poison s f [(a, n)] = false →
     ∃ x, exec (.mLd f st) s = .next (goesOn t i x) ∧
       maskWritten t i (bits i.w 11 9) vl (fun k => (leNat (t0Bytes s f a n)).testBit k) x)

/-! ### Stores (R134), matrix (R126 to R128, R513) and DMA instructions (R136) -/

/-- Bytes that V_ST places, by address: INT32 elements bit for bit, others converted to the format (R134). -/
def storeBytesOf (s : State) (f : Fin 128) (i : Ins) (fm : Fmt) (a : Nat) : List (Nat × Byte) × Bool × ConvCount :=
  let vl := (lane (face s f) i.st).vl
  let els := velems s f (bits i.w 45 41) 0 vl
  let sr := bits i.w 18 17 == 1 || bits i.w 16 16 == 1
  let row := if fm = .int32 then
      ((els.zipIdx.filter fun p => !masked s i p.2).flatMap fun p => placed (4 * p.2) (leBytes 4 p.1.toNat), false,
        intCount ((els.zipIdx.filter fun p => !masked s i p.2).map Prod.fst))
    else convRow fm (bits i.w 11 9) (els.map x32) (fun k => !masked s i k)
      (fun n => drawFor (claim s i.l.claim) sr (bits i.x 63 32) ((sreg s f (bits i.w 22 19)).toNat + n))
  (row.1.map fun p => (a + p.1, p.2), row.2)
/-- When V_ST completes: a float, block or INT32 format, addresses in T0 and aligned, whole blocks. -/
structure StoreOk (s : State) (f : Fin 128) (st : IssueStream) (i : Ins) (fm : Fmt) : Prop where
  next   : Issuing s f st 0x161 i
  coded  : encodingOk i [(45, 41), (30, 28), (27, 27), (26, 23), (22, 19), (18, 17), (16, 16), (15, 12), (11, 9)] .opt [(63, 32)] = true
  rnd    : bits i.w 18 17 < 2
  ext    : bits i.w 18 17 = 1 ∨ bits i.w 16 16 = 1 → i.ext = true
  fmt    : fmtOf (bits i.w 15 12) = some fm
  plain  : fm.isInt = false
  named  : Named s i ([.v (bits i.w 45 41), .s (bits i.w 26 23)] ++ (if bits i.w 18 17 == 1 || bits i.w 16 16 == 1 || fm.isBlock then [.s (bits i.w 22 19)] else []) ++ maskNames i)
  blocks : fm.isBlock = true → (sreg s f (bits i.w 22 19)).toNat % 16 = 0
  inside : ∀ p ∈ rowSpans fm (bits i.w 11 9) (lane (face s f) st).vl, (sreg s f (bits i.w 26 23)).toNat + p.1 + p.2 ≤ 8388608
  align  : (sreg s f (bits i.w 26 23)).toNat % fmtAlign fm = 0
/-- V_ST writes the unmasked elements at s[S1], raises NONFIN for a non-finite block, and counts conversions under
its tensor id where an extension word gives one; M_ST writes the first vl bits of MD, and the bits of its last byte
above them are free (the model's reading, log 15).
The frame of V_ST: memory changes only at the bytes it stores; T1, T2, host memory and T0 of other faces are as
before, and so is every byte of T0 outside the stored ones. -/
def Obligations.VectorStores : Prop :=
  (
  ∀ (s : State) (f : Fin 128) (st : IssueStream) (i : Ins),
    let a := (sreg s f (bits i.w 26 23)).toNat
    (∀ fm, StoreOk s f st i fm →
      let out := storeBytesOf s f i fm a
      let t := t0Store s f i.l.req out.1
      let t := if i.ext then addCounts t i (bits i.x 63 32) out.2.2 else t
      exec (.vSt f st) s = .next (done (setFlag t i flNonfin out.2.1) i)) ∧
    (let vl := (lane (face s f) st).vl
     Issuing s f st 0x163 i → encodingOk i [(26, 23), (11, 9)] .no [] = true → Named s i [.m (bits i.w 11 9), .s (bits i.w 26 23)] →
     a + (vl + 7) / 8 ≤ 8388608 →
     let (x, u) := freeValue s
     let n := (vl + 7) / 8
     let m := (mget s f (bits i.w 11 9)).toNat % 2 ^ vl + 2 ^ vl * (x.toNat % 2 ^ (8 * n - vl))
     exec (.mSt f st) s = .next (done (t0Store u f i.l.req (placed a (leBytes n m))) i)))
  ∧
  (
  ∀ (s t : State) (f : Fin 128) (st : IssueStream) (i : Ins) (fm : Fmt), StoreOk s f st i fm → exec (.vSt f st) s = .next t →
    t.t1 = s.t1 ∧ t.t2 = s.t2 ∧ t.host = s.host ∧
    (∀ g b : Nat, ¬ (g = f.val ∧ b ∈ (storeBytesOf s f i fm (sreg s f (bits i.w 26 23)).toNat).1.map Prod.fst) → t0Reads t g b = t0Reads s g b))
/-- MMA adds its groups to the accumulator in order, from the buffers it names, and writes nothing else (R127).
TLOAD of a float or block format fills the buffer with the tile at s[S] + 8 IMM, corrected as it is read (R126).
TLOAD of an integer format also reads one valid scale entry for each 64-element span from claim memory (R60, R126). -/
def Obligations.MatrixEngine : Prop :=
  (
  ∀ (s : State) (f : Fin 128) (st : IssueStream) (i : Ins),
    let a : OpBuf := Tab.get {} (face s f).buf (bits i.w 47 47)
    let b : OpBuf := Tab.get {} (face s f).buf (2 + bits i.w 46 46)
    let x : Acc := Tab.get {} (face s f).acc (bits i.w 50 48)
    let im := bits i.w 45 45 == 1
    let koff := bits i.w 44 39
    let n := bits i.w 38 33 + 1
    Issuing s f st 0x002 i → encodingOk i [(50, 33), (23, 0)] .no [] = true →
    Named s i [.a (bits i.w 50 48), .b (bits i.w 47 47), .b (2 + bits i.w 46 46)] →
    a.full = true → b.full = true → a.fmt = b.fmt → (im = true → a.fmt.isInt = true) → koff + n ≤ a.fmt.capacity →
    (x.full = true → x.fmt = a.fmt ∧ x.im = im ∧ x.next = bits i.w 23 0) → x.count + n ≤ 4096 →
    let y := (List.range n).foldl (fun y g => accGroup a b im y (koff + g)) x
    let z : Acc := { y with full := true, fmt := a.fmt, im := im, next := bits i.w 23 0 + n, count := x.count + n }
    exec (.mma f st) s = .next (goesOn s i { face s f with acc := Tab.set {} (face s f).acc (bits i.w 50 48) z }))
  ∧
  (
  ∀ (s : State) (f : Fin 128) (st : IssueStream) (i : Ins) (fm : Fmt),
    let a := (sreg s f (bits i.w 43 40)).toNat + 8 * bits i.w 15 0
    let stride := (sreg s f (bits i.w 39 36)).toNat
    let kn := 32 * (bits i.w 31 26 + 1)
    let rows := bits i.w 21 16 + 1
    let spans := tileSpans i fm a stride kn rows
    let t := t0Note s f spans
    Issuing s f st 0x001 i → encodingOk i [(50, 23), (21, 0)] .no [] = true → fmtOf (bits i.w 48 45) = some fm →
    tileFmt fm = true → fm.isInt = false → bits i.w 35 32 = 0 → (fm.isBlock = true ∨ bits i.w 25 23 = 0) →
    Named s i [.b (bits i.w 50 49), .s (bits i.w 43 40), .s (bits i.w 39 36)] →
    bits i.w 31 26 + 1 ≤ fm.capacity → (fm.isBlock = true → bits i.w 44 44 = 0) →
    (∀ p ∈ spans, p.1 + p.2 ≤ 8388608) → a % fmtAlign fm = 0 → stride % 8 = 0 → t0Poison s f spans = false →
    exec (.tload f st) s = .next (done (setBuf t f (bits i.w 50 49)
      { fmt := fm, full := true, rows := tileRows s i fm a stride kn rows, scales := [] }) i))
  ∧
  (
  ∀ (s : State) (f : Fin 128) (st : IssueStream) (i : Ins) (fm : Fmt) (l : List Xr),
    let a := (sreg s f (bits i.w 43 40)).toNat + 8 * bits i.w 15 0
    let stride := (sreg s f (bits i.w 39 36)).toNat
    let kn := 32 * (bits i.w 31 26 + 1)
    let rows := bits i.w 21 16 + 1
    let sc := (sreg s f (bits i.w 35 32)).toNat
    let n := (kn + 63) / 64
    let r := sliceWords (noteVa s i.l.claim sc (8 * n)) i.l.claim sc (vaWords s i.l.claim sc n)
    let u := r.1
    let spans := tileSpans i fm a stride kn rows
    Issuing s f st 0x001 i → encodingOk i [(50, 23), (21, 0)] .no [] = true → fmtOf (bits i.w 48 45) = some fm →
    fm.isInt = true → tileFmt fm = true → bits i.w 25 23 = 0 →
    Named s i [.b (bits i.w 50 49), .s (bits i.w 43 40), .s (bits i.w 39 36), .s (bits i.w 35 32)] →
    bits i.w 31 26 + 1 ≤ fm.capacity → (∀ p ∈ spans, p.1 + p.2 ≤ 8388608) → a % fmtAlign fm = 0 → stride % 8 = 0 → sc % 8 = 0 →
    touchesMarked (claim s i.l.claim) [(sc, 8 * n)] = false → access (claim s i.l.claim) (whoOf s i) sc (8 * n) = .ok →
    r.2.any (·.poison) = false → r.2.all (fun w => scaleValid w.data) = true → l = r.2.map (fun w => .fin 1 (scaleExp w.data)) →
    t0Poison u f spans = false →
    exec (.tload f st) s = .next (done (setBuf (t0Note u f spans) f (bits i.w 50 49)
      { fmt := fm, full := true, rows := tileRows u i fm a stride kn rows, scales := l }) i))
/-- When DRAIN is coded and its names are in order: its format, the extension word that stochastic rounding needs, and
the registers it names (R128). -/
structure DrainOk (s : State) (f : Fin 128) (st : IssueStream) (i : Ins) (fm : Fmt) : Prop where
  next  : Issuing s f st 0x003 i
  coded : encodingOk i [(50, 17), (15, 0)] .opt [(63, 32), (13, 8), (5, 0)] = true
  rnd   : bits i.w 42 41 < 2
  ext   : bits i.w 42 41 = 1 ∨ bits i.w 40 40 = 1 → i.ext = true
  fmt   : fmtOf (bits i.w 46 43) = some fm
  sc    : fm.isInt = true ∨ bits i.w 23 20 = 0
  named : Named s i (drainNames i fm)
/-- ACC_CLEAR empties the accumulator and writes nothing (R513); DRAIN with DV = 1 places element (r, c), FP32 or
saturated INT32, at place s + r * stride + c of the vector file, counts what it wrote under its tensor id where an
extension word gives one, raises SAT and LVAR, and empties the accumulator (R42, R128, R205).
DRAIN to T0, to a float, block or INT32 format, converts each row, stores it at s + r * stride, raises SAT, NONFIN and
LVAR, counts conversions under its tensor id, and empties the accumulator (R42, R96, R128, R129).
DRAIN to INT8 or INT4 reads its scale entry, converts each row by the entry's power of two, sets the tile's bit of the
overflow bitmap where a conversion saturated or met a NaN, merges its notes into the entry in the learning shift, raises
INTOVF, and empties the accumulator (R60 to R62, R128). Where the bitmap lies is the model's choice (log 59). -/
def Obligations.AccumulatorDrains : Prop :=
  (
  ∀ (s : State) (f : Fin 128) (st : IssueStream) (i : Ins),
    let x : Acc := Tab.get {} (face s f).acc (bits i.w 50 48)
    (Issuing s f st 0x004 i → encodingOk i [(50, 48)] .no [] = true → Named s i [.a (bits i.w 50 48)] →
      exec (.accClear f st) s = .next (goesOn s i { face s f with acc := Tab.set {} (face s f).acc (bits i.w 50 48) {} })) ∧
    (let base := (sreg s f (bits i.w 39 36)).toNat + bits i.w 15 0
     let stride := (sreg s f (bits i.w 35 32)).toNat
     let nr := if i.ext then bits i.x 13 8 + 1 else 64
     let nc := if i.ext then bits i.x 5 0 + 1 else 64
     let vals := if x.im then (intVals x).map Prod.fst else (accVals x).map r32
     let sat := x.im && (List.range nr).any fun r => (List.range nc).any fun c => ((intVals x).getD (64 * r + c) (0, false)).2
     let out := (List.range nr).flatMap fun r => (vals.drop (64 * r)).take nc
     let t := setFace s f { face s f with
       v := (List.range nr).foldl (fun t r => (List.range nc).foldl (fun t c =>
         Tab.set 0 t (base + r * stride + c) (vals.getD (64 * r + c) 0)) t) (face s f).v }
     let t := if i.ext then addCounts t i (bits i.x 63 32) (if x.im then intCount out else fpCounts out) else t
     DrainOk s f st i (if x.im then .int32 else .fp32) → bits i.w 47 47 = 1 →
     (∀ r < nr, ∀ c < nc, base + r * stride + c < 32768 ∧ i.l.vown.getLsbD ((base + r * stride + c) / 1024) = true) →
     exec (.drain f st) s = .next (done (setAcc (drainFlags t i x sat false false) f (bits i.w 50 48) {}) i)))
  ∧
  (
  ∀ (s : State) (f : Fin 128) (st : IssueStream) (i : Ins) (fm : Fmt),
    let x : Acc := Tab.get {} (face s f).acc (bits i.w 50 48)
    let a := (sreg s f (bits i.w 39 36)).toNat + 8 * bits i.w 15 0
    let stride := (sreg s f (bits i.w 35 32)).toNat
    let sl := (sreg s f (bits i.w 31 28)).toNat
    let slr := (sreg s f (bits i.w 27 24)).toNat
    let sr := bits i.w 42 41 == 1 || bits i.w 40 40 == 1
    let rows := (List.range (drNr i)).map fun r =>
      if fm = .int32 then
        { bytes := (List.range (drNc i)).flatMap fun c => placed (4 * c) (leBytes 4 ((intVals x).getD (64 * r + c) (0, false)).1.toNat)
          nonfin := false, ints := [], count := intCount ((((intVals x).drop (64 * r)).take (drNc i)).map Prod.fst) }
      else floatRow fm (bits i.w 19 17) (drainRow (accVals x) r (drNc i))
        (fun n => drawFor (claim s i.l.claim) sr (bits i.x 63 32) (sl + r * slr + n))
    let sat := fm == .int32 && (List.range (drNr i)).any fun r => (List.range (drNc i)).any fun c => ((intVals x).getD (64 * r + c) (0, false)).2
    let t := t0Store s f i.l.req (drainBytes a stride rows)
    let t := if i.ext then addCounts t i (bits i.x 63 32) (rows.foldl (fun c r => c.add r.count) {}) else t
    DrainOk s f st i fm → fm.isInt = false → bits i.w 47 47 = 0 → x.im = (fm == .int32) →
    (fm.isBlock = true → sl % 16 = 0 ∧ slr % 16 = 0) →
    (∀ r < drNr i, ∀ p ∈ rowSpans fm (bits i.w 19 17) (drNc i), a + r * stride + p.1 + p.2 ≤ 8388608) →
    a % fmtAlign fm = 0 → stride % fmtAlign fm = 0 →
    exec (.drain f st) s = .next (done (setAcc (drainFlags t i x sat (rows.any (·.nonfin)) false) f (bits i.w 50 48) {}) i))
  ∧
  (
  ∀ (s : State) (f : Fin 128) (st : IssueStream) (i : Ins) (fm : Fmt),
    let x : Acc := Tab.get {} (face s f).acc (bits i.w 50 48)
    let a := (sreg s f (bits i.w 39 36)).toNat + 8 * bits i.w 15 0
    let stride := (sreg s f (bits i.w 35 32)).toNat
    let sl := (sreg s f (bits i.w 31 28)).toNat
    let slr := (sreg s f (bits i.w 27 24)).toNat
    let sc := (sreg s f (bits i.w 23 20)).toNat
    let sr := bits i.w 42 41 == 1 || bits i.w 40 40 == 1
    let c := i.l.claim
    let r := sliceWords (noteVa s c sc 8) c sc [vaWord s c (sc / 8)]
    let e := r.2.headD ⟨0, false⟩
    let rows := (List.range (drNr i)).map fun r => intRow fm (scaleExp e.data) (drainRow (accVals x) r (drNc i))
      (fun n => drawFor (claim s c) sr (bits i.x 63 32) (sl + r * slr + n))
    let marked := rows.any fun r => r.ints.any fun c => c.ovf || c.nonfin
    let tile := tileOf c sc
    let u := if marked then setBitAt r.1 c tile.1 tile.2 else r.1
    let t := drainScale (t0Store u f i.l.req (drainBytes a stride rows)) i fm sc e.data rows
    let t := if i.ext then addCounts t i (bits i.x 63 32) (rows.foldl (fun c r => c.add r.count) {}) else t
    DrainOk s f st i fm → fm.isInt = true → bits i.w 47 47 = 0 → x.im = false →
    (∀ r < drNr i, ∀ p ∈ rowSpans fm (bits i.w 19 17) (drNc i), a + r * stride + p.1 + p.2 ≤ 8388608) →
    a % fmtAlign fm = 0 → stride % fmtAlign fm = 0 → sc % 8 = 0 →
    touchesMarked (claim s c) [(sc, 8)] = false → access (claim s c) (whoOf s i) sc 8 = .ok → e.poison = false → scaleValid e.data = true →
    (marked = true → touchesMarked (claim r.1 c) [(tile.1, 1)] = false ∧ access (claim r.1 c) (whoOf r.1 i) tile.1 1 = .ok) →
    exec (.drain f st) s = .next (done (setAcc (drainFlags t i x false false (rows.any fun r => r.ints.any (·.ovf))) f (bits i.w 50 48) {}) i))
/-- The descriptor of a DMA instruction without a row list. -/
def descriptorOf (s : State) (f : Fin 128) (i : Ins) (kind : DmaKind) : Dma :=
  { busy := true, kind := kind, src := (sreg s f (bits i.w 50 47)).toNat, dst := (sreg s f (bits i.w 46 43)).toNat
    len := (sreg s f (bits i.w 42 39)).toNat, count := 1, face := bits i.w 38 32, signal := bits i.w 31 31 == 1
    sem := bits i.w 30 25, remote := bits i.w 24 24 == 1, req := i.l.req, claim := i.l.claim
    tenant := (findReq s i.l.req).bind (·.tenant) }
/-- A DMA instruction with aligned addresses in range takes the lowest free slot; one whose pages are all in T1 needs
no hoist, and with no slot free its stream waits (R110, R136).
DMA_GATHER and DMA_SCATTER read their row list as they issue, and take a slot likewise (R136).
DMA_DONE moves the bytes with their poison, frees the slot, and signals (R104, R110, R176); that it signals
only while its request still exists is the model's choice (log 17). -/
def Obligations.DmaTransfers : Prop :=
  (
  ∀ (s : State) (f : Fin 128) (st : IssueStream) (i : Ins),
    ∀ e ∈ ([(.dmaT1T0, 0x301, .t1t0), (.dmaT0T1, 0x302, .t0t1), (.dmaT0T0, 0x303, .t0t0)] :
      List ((Fin 128 → IssueStream → Instr) × Nat × DmaKind)),
    let d := descriptorOf s f i e.2.2
    Issuing s f st e.2.1 i → encodingOk i [(50, 24)] .no [] = true →
    (e.2.2 = .t0t0 ∨ (bits i.w 38 32 = 0 ∧ bits i.w 24 24 = 0)) →
    Named s i [.s (bits i.w 50 47), .s (bits i.w 46 43), .s (bits i.w 42 39)] →
    (∀ p ∈ dmaT0 d, p.1 + p.2 ≤ 8388608) → d.src % 8 = 0 → d.dst % 8 = 0 → d.len % 8 = 0 → 8 ≤ d.len → d.len ≤ 8388608 →
    (d.signal = true → declares s (if d.remote then d.face else f) i.l.req d.sem = true) →
    (e.2.2 = .t0t0 → faceClaim s d.face = some i.l.claim) →
    (∀ n, freeSlot s f = some n → dmaAccess s d = .ok →
      exec (e.1 f st) s = .next (goesOn s i { face s f with dma := Tab.set {} (face s f).dma n d })) ∧
    (freeSlot s f = none → exec (e.1 f st) s = .next (stalled s i .dmaSlot)))
  ∧
  (
  ∀ (s : State) (f : Fin 128) (st : IssueStream) (i : Ins) (n : Nat),
    ∀ e ∈ ([(.dmaGather, 0x304, .gather), (.dmaScatter, 0x305, .scatter)] : List ((Fin 128 → IssueStream → Instr) × Nat × DmaKind)),
    let d0 := descriptorOf s f i e.2.2
    let la := (sreg s f (bits i.x 3 0)).toNat
    let d : Dma := { d0 with count := bits i.x 31 16, index := rowList (t0Note s f [(la, 4 * bits i.x 31 16)]) f la (bits i.x 31 16) }
    let t := t0Note s f [(la, 4 * d.count)]
    Issuing s f st e.2.1 i → encodingOk i [(50, 24)] .need [(31, 16), (3, 0)] = true → bits i.w 38 32 = 0 → bits i.w 24 24 = 0 →
    1 ≤ d.count → Named s i [.s (bits i.w 50 47), .s (bits i.w 46 43), .s (bits i.w 42 39), .s (bits i.x 3 0)] →
    (∀ p ∈ dmaT0 d ++ [(la, 4 * d.count)], p.1 + p.2 ≤ 8388608) →
    d.src % 8 = 0 → d.dst % 8 = 0 → d.len % 8 = 0 → 8 ≤ d.len → d.len ≤ 8388608 → la % 8 = 0 →
    (d.signal = true → declares s f i.l.req d.sem = true) → t0Poison s f [(la, 4 * d.count)] = false →
    freeSlot t f = some n → dmaAccess t d = .ok → exec (e.1 f st) s = .next (done (setDma t f n d) i))
  ∧
  (
  ∀ (s : State) (f : Fin 128) (slot : Fin 16),
    let d : Dma := Tab.get {} (face s f).dma slot
    running s = true → d.busy = true → s.waits.any (fun w => w.who == .dma f slot) = false → dmaAccess s d = .ok →
    touchesMarked (claim s d.claim) (dmaReads d) = false → badLeaves s d.claim (dmaReads d) = [] →
    let t := setDma (dmaMove s f d) f slot {}
    exec (.dmaDone f slot) s = .next
      (if d.signal && (findReq s d.req).isSome then semAdd t (if d.remote then d.face else f) d.sem 1 d.req else t))

/-! ### Semaphores, flags, summaries, and the ends of slices and requests (R104 to R118, R137 to R140, R365, R371) -/

/-- SEM_WAIT subtracts when the count is there and no earlier stream's satisfied wait goes first, and stalls otherwise; SEM_SIGNAL queues a signal, or stalls behind four;
a stalled wait is released when the count comes, unless an earlier stream's wait on the counter goes first; a queued
signal adds to the counter, or fails the request with SEM_OVERFLOW above 65,535.
FLAG_CLR clears the flags whose bits are 1; POST keeps the summary that RED names, while no other is outstanding;
POST_ANSWER chooses the target from the claim's branch table; AWAIT takes the answer and jumps, or waits for it. -/
def Obligations.SemaphoresFlagsAndPosts : Prop :=
  (
  ∀ (s : State) (f : Fin 128) (st : IssueStream) (i : Ins),
    let q := bits i.w 50 45
    let n := bits i.w 15 0
    let l := lane (face s f) st
    (Issuing s f st 0x401 i → encodingOk i [(50, 45), (15, 0)] .no [] = true → n ≠ 0 → declares s f i.l.req q = true →
      (n ≤ semGet s f q → (∀ e ∈ earlierStreams st, ∀ c', waitReady s f e ≠ some (q, c')) →
        exec (.semWait f st) s = .next (goesOn s i { face s f with sem := Tab.set 0 (face s f).sem q (semGet s f q - n) })) ∧
      (semGet s f q < n ∨ (∃ e ∈ earlierStreams st, ∃ c', waitReady s f e = some (q, c')) →
        exec (.semWait f st) s = .next (setFace s f (setLane (face s f) st { l with stall := .sem q n })))) ∧
    (Issuing s f st 0x402 i → encodingOk i [(50, 45), (15, 0)] .no [] = true → n ≠ 0 → declares s f i.l.req q = true →
      exec (.semSignal f st) s = .next (if l.signals.length < 4
        then goesOn s i (setLane (face s f) st { l with signals := l.signals ++ [(q, n)] })
        else setFace s f (setLane (face s f) st { l with stall := .fence }))) ∧
    (∀ m c, s.canonical = true → running s = true → l.busy = true → l.live = true → l.stall = .sem m c → c ≤ semGet s f m →
      (∀ e ∈ earlierStreams st, ∀ c', waitReady s f e ≠ some (m, c')) →
      exec (.semWaitRelease f st) s = .next (modLane (semPut s f m (semGet s f m - c)) f st fun l => { l with pc := l.pc + 1, stall := .run })) ∧
    (∀ m k rest, running s = true → l.signals = (m, k) :: rest →
      let t := modLane s f st fun l => { l with signals := rest }
      exec (.semSignalApply f st) s = .next (if semGet t f m + k ≤ 65535 then semPut t f m (semGet t f m + k) else failRequest t l.req stSemOverflow)))
  ∧
  (
  ∀ (s : State) (f : Fin 128) (st : IssueStream) (i : Ins),
    (Issuing s f st 0x404 i → encodingOk i [(7, 0)] .no [] = true →
      exec (.flagClr f st) s = .next (goesOn s i (setLane (face s f) st { lane (face s f) st with
        flags := (lane (face s f) st).flags &&& ~~~(BitVec.ofNat 8 (bits i.w 7 0 % 32)) }))) ∧
    (Issuing s f st 0x501 i → encodingOk i [(50, 46), (45, 43), (42, 40), (39, 32)] .no [] = true → bits i.w 45 43 ≠ 7 →
      Named s i (.v (bits i.w 50 46) :: (if bits i.w 45 43 = 3 then [.m (bits i.w 42 40)] else [])) → (face s f).post = none →
      exec (.post f st) s = .next (goesOn s i { face s f with
        post := some { stream := st, req := i.l.req, claim := i.l.claim, summary := summary s i, table := bits i.w 39 32, answer := none } })) ∧
    (∀ p e es, running s = true → (face s f).post = some p → p.answer = none →
      Tab.get [] (claim s p.claim).branch p.table = e :: es →
      exec (.postAnswer f) s = .next (setFace s f { face s f with post := some { p with answer := some (branchTarget (e :: es) p.summary) } })) ∧
    (∀ p, Issuing s f st 0x502 i → encodingOk i [] .no [] = true → (face s f).post = some p → p.stream = st →
      (∀ n, p.answer = some n → n ∈ starts i.l.code → exec (.await f st) s = .next (goesTo s i { face s f with post := none } n)) ∧
      (p.answer = none → exec (.await f st) s = .next (stalled s i .await))))
/-- The branch-table entry that answers a POST is the first of entries 1 to 15 whose comparison holds, else entry 0 (R113). -/
def Obligations.BranchTableChoice : Prop :=
  ∀ (t : List (W64 × W64)) (sum : W64) (e0 : W64 × W64) (es : List (W64 × W64)), t = e0 :: es →
    ((∀ e ∈ es, branchHolds sum e = false) → branchTarget t sum = fld e0.2 10 0) ∧
    (∀ pre e post, es = pre ++ e :: post → (∀ x ∈ pre, branchHolds sum x = false) → branchHolds sum e = true → branchTarget t sum = fld e.2 10 0)
/-- S_END and TICK_FENCE end the slice once no signal is pending, S_END the program too (R107, R135, R138).
The watchdog fails the request of a live slice with SLICE_OVERRUN; the headframe takes a slice end with a record
whose cycle counts are free values; a request that has ended leaves with its records and its reply.
The failure of a request is reported once: it keeps the first status, its programs count as ended, and it stands in
the list of requests until it is closed (R118).
A reserved instruction fails its slice with BAD_ENCODING (R121). -/
def Obligations.SliceEnds : Prop :=
  (
  ∀ (s : State) (f : Fin 128) (st : IssueStream) (i : Ins), (lane (face s f) st).signals = [] →
    (Issuing s f st 0x21F i → encodingOk i [] .no [] = true →
      exec (.sEnd f st) s = .next (setFace s f (setLane (face s f) st { lane (face s f) st with
        live := false, ended := true, report := true, slices := (lane (face s f) st).slices + 1, stall := .run, pc := i.l.pc + 1 }))) ∧
    (Issuing s f st 0x403 i → encodingOk i [(11, 0)] .no [] = true → bits i.w 11 0 < i.l.bounds.length →
      exec (.tickFence f st) s = .next (setFace s f (setLane (face s f) st { lane (face s f) st with
        live := false, ended := false, report := true, slices := (lane (face s f) st).slices + 1, stall := .run, pc := i.l.pc + 1,
        entry := bits i.w 11 0 }))))
  ∧
  (
  ∀ (s : State) (f : Fin 128) (st : IssueStream),
    let l := lane (face s f) st
    (running s = true → l.busy = true → l.live = true → exec (.sliceOverrun f st) s = .next (failRequest s l.req stSliceOverrun)) ∧
    (∀ q, running s = true → l.report = true →
      let t := modLane (flushCounts s f st) f st fun l => { l with report := false }
      let a := freeValue t
      let b := freeValue a.2
      let rec4 := progRecord (if l.ended then q.failed else 0) l.flags.toNat l.ended f l.slices l.progTag a.1 b.1
      findReq t l.req = some q →
      exec (.sliceComplete f st) s = .next (settleFoul (sliceRecord (modReq (faceTime b.2 q (b.2.time - l.start)) q.id fun q =>
        { q with progs := q.progs.zipIdx.map fun p => if p.2 = l.prog then { p.1 with ended := p.1.ended || l.ended, record := rec4 } else p.1 }) q l.prog rec4))) ∧
    (∀ id q, findReq s id = some q → running s = true → (q.failed ≠ 0 ∨ (q.started = true ∧ q.progs.all (·.ended) = true)) →
      reportsOf s q = false → recordWaits s q = false → q.batch = none → areaAbsent s q = [] →
      exec (.requestEnd id) s = .next (closeRequest s q)))
  ∧
  (
  ∀ (s : State) (id status : Nat) (q : Req), findReq s id = some q →
    (q.failed ≠ 0 → failRequest s id status = s) ∧
    (q.failed = 0 → ∃ p, findReq (failRequest s id status) id = some p ∧ p.failed = status ∧ p.id = id ∧ p.claim = q.claim ∧
      p.progs.length = q.progs.length ∧ p.progs.all (·.ended) = true))
  ∧
  (
  ∀ (s : State) (f : Fin 128) (st : IssueStream) (i : Ins) (op : Nat), definedOp op = false → Issuing s f st op i →
    exec (.reservedInstruction f st) s = .next (fails s i stBadEncoding))

/-! ### Ticks, steps of the generation shift, turns and sweeps (R31, R187 to R193, R217, R227, R332, R334, R351) -/

/-- TICK_BOUNDARY of a claim whose ticks run comes at the device time of its next boundary n and takes the steps of R334
in their order: an old period is dropped, the window rolls, T1 and energy accrue, cancels and parks end streams, tubs and
version slots are freed, tenants are held and released and their held ticks counted, a due version switch is made, streams are
admitted, batches formed, promises checked, sweeps and turns become due, late steps fail, slices issue unless the claim is
quiet, every 1,024 ticks the digest goes out, and the summary is taken; claims with a blocked access then end.
Where a claim's ticks do not run, TICK_BOUNDARY does nothing but end the claims of blocked accesses, and
WINDOW_BOUNDARY, TICK_PERIOD_CHANGE and VERSION_SWITCH_EFFECT do nothing. -/
def Obligations.TickBoundary : Prop :=
  (
  ∀ (s : State) (c : Fin 8), ticksRun s (claim s c) = true →
    let n := nextTick (claim s c)
    let t := boundaryTime (claim s c) n
    let window := (claim s c).rolled || isWindow (claim s c) n
    let s1 := periodStep (advanceTo s t) c
    let s2 := if window && !(claim s c).rolled then rollWindow s1 c n else s1
    let s3 := accrue (setClaim s2 c { claim s2 c with tick := n, ticking := true, rolled := false }) c n
    let s4 := freeVersions (releaseTubs (endCancelled s3 c) c) c n
    let s5 := switchVersion (heldAccrue (holdStreams s4 c n window) c) c n
    let s6 := formBatches (admitStreams s5 c n) c n
    let s7 := lateSteps (markDue (checkPromises s6 c n) c t) c n
    let s8 := if quiet s7 (claim s7 c) then s7 else issueDue s7 c t
    let s9 := if n % 1024 = 0 then gossipRound s8 c n else s8
    exec (.tickBoundary c) s = .next (settleFoul (tallySummary s9 c n)))
  ∧
  (
  ∀ (s : State) (c : Fin 8), ticksRun s (claim s c) = false →
    exec (.tickBoundary c) s = .next (settleFoul s) ∧ exec (.windowBoundary c) s = .next s ∧
    exec (.tickPeriodChange c) s = .next s ∧ exec (.versionSwitchEffect c) s = .next s)
/-- WINDOW_BOUNDARY rolls the window that the next boundary begins, TICK_PERIOD_CHANGE drops the old period at TAKE_AT,
and VERSION_SWITCH_EFFECT makes a due switch, each at the boundary's device time (R321, R332, R351).
SAMPLER_ROW, from tick b + T - 1 of a step whose slices have ended, samples the first row that still needs it from the
logits of its positions, and a poisoned logit or count fails the step with POISON_READ; RETIRE_POINT, no boundary being due,
commits every row of a step, charges its faces and ends it; PARK_EFFECT parks, at the next tick boundary, a stream that has no
step in flight (R217, R226, R227, R230, R334, R337). -/
def Obligations.BoundaryAndStepEvents : Prop :=
  (
  ∀ (s : State) (c : Fin 8),
    let k := claim s c
    let n := nextTick k
    let t := advanceTo s (boundaryTime k n)
    ticksRun s k = true →
    (isWindow k n = true → k.rolled = false → exec (.windowBoundary c) s = .next (rollWindow t c n)) ∧
    (∀ p o m, k.tickPend = some (p, o, m, n) → exec (.tickPeriodChange c) s = .next (setClaim t c { k with tickPend := none })) ∧
    (∀ i at' r q, k.switch = some (i, at', r, q) → switchDue s c n = true →
      let k1 := match currentSlot k with
        | some j => setVer k j { ver k j with state := .draining, drained := n }
        | none => k
      let k2 := setVer k1 i { ver k1 i with state := .current, switchAt := 0 }
      exec (.versionSwitchEffect c) s = .next (reply (setClaim t c { k2 with switch := none }) r q stOk n 0)))
  ∧
  (
  ∀ (s : State), running s = true →
    (∀ (id : Nat) (poison : Bool) (main draft : List (List W32)) (b : Batch) (r : Row) (v : Serve), findBatch s id = some b → b.swept = true →
      b.rows.find? (fun r => !rowOver s b r) = some r → (claim s b.claim).serve = some v → sampleTick s b = true →
      main.length = r.depth + 1 → draft.length = r.depth → (∀ z ∈ main ++ draft, z.length = v.vocab) →
      let reads := countSpans s b v r (main ++ draft)
      let u := readSpans s b.claim reads
      let a := freeValue u
      exec (.samplerRow id poison main draft) s = .next (settleFoul (if poison || spansPoison u b.claim reads then failBatch u b stPoisonRead
        else modBatch a.2 id fun b =>
          { b with rows := b.rows.map fun q => if q.stream = r.stream then sampled a.2 b v r main draft a.1 else q }))) ∧
    (∀ (id : Nat) (b : Batch) (v : Serve), findBatch s id = some b → (claim s b.claim).serve = some v → b.swept = true →
      b.rows.all (rowOver s b) = true → (claim s b.claim).turn.any (·.due) = false → (afterStamp s).time < boundaryTime (claim s b.claim) (nextTick (claim s b.claim)) →
      retireAbsent s b = [] →
      let commit := fun (s : State) => faceCharge (b.rows.foldl (fun s r => retireRow s b v r) s) b
      let u := readSpans (afterStamp s) b.claim (commitReads s b v)
      let veins := bucketsRead u (commit u) b v
      let u2 := readSpans u b.claim veins
      let t := commit u2
      spansPoison u b.claim (commitReads u b v) = false → spansPoison u2 b.claim veins = false →
      exec (.retirePoint id) s = .next (settleFoul { t with batches := t.batches.filter fun x => x.id != id })) ∧
    (∀ (n : Fin 131072), (stream s n).park.isSome = true → isLive (stream s n) = true → (stream s n).batch = none →
      let k := claim s (stream s n).claim
      exec (.parkEffect n) s = .next (settleFoul (parkNow (advanceTo s (boundaryTime k (nextTick k))) n))))
/-- SWEEP_START of a due sweep takes the pending canary settings and reads the hyperparameters; BLOCK_UPDATE of a good
block whose pages are in T1 updates it, and of a bad one records its status; SWEEP_END, every block done, ends the sweep (R186 to R193).
The end of a sweep advances the step number by exactly one, modulo 2^64, ends the sweep, and names the step it
applied (R180, R193, R506). -/
def Obligations.Sweeps : Prop :=
  (
  ∀ (s : State) (c : Fin 8) (w : Sweep), running s = true → (claim s c).sweep = some w →
    (w.due = true → w.started = false →
      exec (.sweepStart c) s = .next (readHyper (setSweep (canaryBegin s c) c fun w => { w with started := true }) c)) ∧
    (∀ i : Nat, i < w.descs.length → w.started = true → allRead w = true → w.done.contains i = false →
      (∀ j < i, w.done.contains j = false → homeOf s c w j ≠ homeOf s c w i) →
      (∀ q, homeOf s c w i = some q → blkStatus s c w i = 0 → blkAbsent s c (blkOf w i) (blkRule w i) = [] →
        (∀ p ∈ blkSpans (claim s c).extended (blkOf w i) (blkRule w i), access (claim s c) (.request none) p.1 p.2 ≠ .bad stOwnerFault) →
        exec (.blockUpdate c i) s = .next (updateBlock s c i (blkOf w i) ((hyperRec w (blkOf w i).group).elim [] (·.words)))) ∧
      (blkStatus s c w i ≠ 0 → exec (.blockUpdate c i) s = .next (endBlock s c i (blkStatus s c w i) 0))) ∧
    (w.started = true → allRead w = true → w.descs.length ≤ w.done.length → entryWaits s c w = false → scaleAbsent c (claim s c) w = [] →
      exec (.sweepEnd c) s = .next (settleFoul (sweepFinish s c w))))
  ∧
  (
  ∀ (s : State) (c : Fin 8) (w : Sweep), s.canonical = true → (claim s c).sweep = some w →
    (claim (sweepFinish s c w) c).step = ((claim s c).step + 1) % 2 ^ 64 ∧ (claim (sweepFinish s c w) c).sweep = none ∧
    (claim (sweepFinish s c w) c).lastStep = (claim s c).step)
/-- REPLICA_ASSAY_START, once no earlier sweep is in progress and the ranges are resident, digests them; under COMPARE = 1
the prefixes go out on the bell and the ones that have come are compared, under COMPARE = 2 the GATHER gives the digests to the
peers. REPLICA_ASSAY_DONE writes the digests, at the timeout where a peer has not answered, judges each peer, and replies with
the mismatches and the absent peers (R208, R209). That the timeout runs from the start is the model's choice (log 39). -/
def Obligations.ReplicaAssays : Prop :=
  ∀ (s : State) (c : Fin 8) (id : W32) (a : Assay), running s = true → assayOf s c id = some a →
    (∀ ds, a.running = false → a.digests = [] → assayFree (claim s c) a = true →
      let a1 := { a with running := true, since := s.time }
      let t := noteAll (setAssay s c a1) c a.ranges
      rangeDigests t c a1 = .ok ds →
      let a2 := { a1 with digests := ds, given := if a.compare = 2 then a.peers.filter (pathOpen t c) else [] }
      let t := setAssay t c a2
      exec (.replicaAssayStart c id) s = .next (if a.compare ≠ 1 then t else
        (a.heard.filter (heardWrong a2)).foldl (fun s h => mismatchEvent s c id h.2.1 h.1 false)
          (ds.zipIdx.foldl (fun s d => queueBell s c 6 prReplica [at' id.toNat 32 + d.2, (digestPrefix d.1).toNat]) t))) ∧
    (∀ gathered, a.running = true → a.digests ≠ [] → access (claim s c) (.request none) a.out (32 * a.ranges.length) = .ok →
      let peers := if a.compare = 0 then [] else a.peers
      let gathered' := gathered.filter fun g => pathOpen s c g.1
      let silent := peers.any fun p => (List.range a.ranges.length).any fun i => peerDiffers a gathered' p i == none
      let t := if silent then advanceTo s (a.since + 1000000 * a.timeout) else s
      let r := peers.foldl (judgePeer a c gathered') (vaStore t c a.out (a.digests.flatMap hashBytes), 0, 0)
      exec (.replicaAssayDone c id gathered) s = .next (reply (setClaim r.1 c { claim r.1 c with
        assays := (claim r.1 c).assays.filter fun b => !(b.ring == a.ring && b.seq == a.seq) }) a.ring a.seq stOk r.2.1 r.2.2))

/-! ### Hoists, objects, scrub and weight repair (R150, R158 to R165, R177, R327) -/

/-- HOIST_DONE lands the 32 chunks of its page and finishes it, or keeps it while one of its leaves is under repair;
WRITEBACK_DONE stores the 32 chunks to T2, frees the frame, or ends the page of a dying object, answers the eviction, and begins
the hoist that was asked for meanwhile; FETCH_DEADLINE fails one access at the end of its claim's deadline; HOIST_EVICT_EFFECT
writes a DIRTY page back, or drops another and replies, once no access uses it (R150, R158 to R165).
OBJ_DESTROY_EFFECT takes the pages of a dying object that no access holds, and lets the others go with their hoists. -/
def Obligations.HoistsAndObjects : Prop :=
  (
  ∀ (s : State) (c : Fin 8) (p : Nat),
    (∀ h, running s = true → theHoist s c p false = some h → h.landed = false →
      let e := pte (claim s c) p
      hoistOwns (claim s c) e = true →
      let heads := (List.range 32).map (headBad s e)
      let r := (List.range 32).foldl (fun (acc : State × Nat) n =>
        let x := landChunk acc.1 h e n (heads.getD n false)
        (x.1, if acc.2 = 0 then x.2 else acc.2)) ((List.range 32).foldl (fun s n => noteRun s .t2 (chunkT2 e n) 8) s, 0)
      exec (.hoistDone c p) s = .next (settleFoul (if pageRepairs (claim r.1 c) e.obj p then
          { r.1 with hoists := r.1.hoists.map fun x => if x.claim = c.val ∧ x.page = p then { x with landed := true, status := r.2 } else x }
        else finishHoist r.1 h r.2))) ∧
    (∀ h, running s = true → theHoist s c p true = some h → hoistOwns (claim s c) (pte (claim s c) p) = true →
      let t := (List.range 32).foldl (fun s n => storeChunk s c p n) s
      let t := { t with hoists := t.hoists.filter fun x => !(x.claim == c.val && x.page == p) }
      let o := (pte (claim t c) p).obj
      let t := replyTo (if h.doomed then objGone (releasePage (unmapPage t c p) c p 0 0) c o else toT2 t c p) h.cmd stOk 0 0
      let u := startHoist t c p h.bench h.quarter h.near h.init
      exec (.writebackDone c p) s = .next (settleFoul (if h.again && !h.doomed then (if h.release then releaseNear u c p else u) else t))) ∧
    (∀ h back, running s = true → theHoist s c p back = some h → h.landed = false → hoistOwns (claim s c) (pte (claim s c) p) = false →
      exec (if back then .writebackDone c p else .hoistDone c p) s = .next (settleFoul (ownerFault
        { s with hoists := s.hoists.filter fun x => !(x.claim == h.claim && x.page == h.page) } h.claim 4 (h.engine.getD 0)))) ∧
    (∀ id w, timeRuns s = true → s.waits.find? (fun w => w.id == id) = some w →
      let t := advanceTo s (w.since + 1000 * (claim s w.claim).deadline + 1)
      exec (.fetchDeadline id) s = .next (failWait { t with waits := t.waits.filter fun x => x.id != id } w stFetchDeadline)) ∧
    (∀ e, running s = true → s.evicts.find? (fun e => e.1 == c.val && e.2.1 == p) = some e → pageInUse s c p = false →
      let t := { s with evicts := s.evicts.erase e }
      exec (.hoistEvictEffect c p) s = .next (if (pte (claim s c) p).state = .dirty then startBack t c p (some (e.2.2.1, e.2.2.2))
        else reply (dropPage t c p none) e.2.2.1 e.2.2.2 stOk 0 0)))
  ∧
  (
  ∀ (s : State) (c : Fin 8) (o : Fin 4096), (obj (claim s c) o).dying.isSome = true →
    let t := (objPages (claim s c) o).foldl (fun s p =>
      let doom := { s with hoists := s.hoists.map fun h => if h.claim = c.val ∧ h.page = p then { h with doomed := true } else h }
      match (pte (claim s c) p).state with
      | .hoisting => doom
      | .writeback => doom
      | _ => if pageInUse s c p then s else unmapPage s c p) s
    exec (.objDestroyEffect c o) s = .next (objGone t c o))
/-- PATROL_SCRUB reads a line of a tier, neither retired, fenced nor gated: its words are put right; a T1 or T2 frame with an
error is noted for the pass, the line counts as read, and a full pass forgets the frames in which it found no error.
WEIGHT_REPAIR mends a leaf with good words or marks it, and takes it off the repair list; the last of its page lets the hoist
that waits for it finish, or the accesses to a resident page go on (R177, R178, R327). -/
def Obligations.ScrubAndRepair : Prop :=
  ∀ (s : State), running s = true →
    (∀ (tier : Tier) (f : Fin 128) (addr : Nat),
      let n := scrubWords tier
      let i := addr / 8
      let l := scrubLoc tier f
      addr % (8 * n) = 0 → i + n ≤ tierWords tier → isRetired s tier (i / pageWords) = false → isFenced s l i = false →
      (tier = .t0 → faceGated s f = false) →
      let t := noteRun s l i n
      let key := (tierNo tier, i / pageWords)
      let found := (List.range n).any fun k => (decode80 (memWord s l (i + k))).2 != .clean
      let errs := if found && !t.sump.passErr.contains key then key :: t.sump.passErr else t.sump.passErr
      let place := 3 * (i / pageWords) + tierNo tier
      let u := { t with sump := { t.sump with
        passErr := errs, passed := Tab.set 0 t.sump.passed place (Tab.get 0 t.sump.passed place ||| 2 ^ (i % pageWords / n)) } }
      exec (.patrolScrub tier f addr) s = .next (settleFoul (if tier = .t0 then t else if passFull u tier then endPass u (tierNo tier) else u))) ∧
    (∀ (c : Fin 8) (o : Fin 4096) (leaf : Nat) (m : PeerAnswer), (claim s c).repairs.contains (o.val, leaf) = true →
      let p := (obj (claim s c) o).base + leaf / 32
      let e := pte (claim s c) p
      (hasFrame e = true → ownsT1 (claim s c) (e.t1f / 512) = true) →
      ((obj (claim s c) o).t2home = true → ownsT2 (claim s c) (e.t2f / 512) = true) →
      let t := mirrorWait s c o leaf p m
      let t := if (obj (claim s c) o).t2home then noteChunk t (claim s c) e (leaf % 32) else t
      let t := match goodLeaf s c o leaf p m with
        | some ws => mendLeaf t c o leaf p ws
        | none => markLeaf t c o leaf
      let u := setClaim t c { claim t c with
        repairs := (claim t c).repairs.erase (o.val, leaf), repairAt := (claim t c).repairAt.filter fun r => !(r.1 == o.val && r.2.1 == leaf) }
      exec (.weightRepair c o leaf m) s = .next (settleFoul (if pageRepairs (claim u c) o p then u
        else match u.hoists.find? fun h => h.claim == c.val && h.page == p && h.landed with
          | some h => finishHoist u h h.status
          | none => if resident (pte (claim u c) p) then releasePage u c p 0 0 else u)))

/-! ### Collectives and PERMUTE sets (R238 to R264) -/

/-- COLL_START of a collective that nothing holds sends its signature to every peer and takes those that have come; one that
an ABORT has reached, or of another epoch than its claim's, fails. COLL_RETIRE of one that has sent and received everything lands
its results and ends it. COLL_TIMEOUT fails one that has heard nothing from an awaited rank for TIMEOUT (R240, R252, R253,
R257).
The fence of a PERMUTE set lets its data go once every rank has reached it; after the second barrier staged data is
copied in; the set ends, and the epoch changes, once the third is held. A fence that does not clear within TIMEOUT fails the set;
a rank silent before the second barrier fails it with COLL_TIMEOUT, and one silent after it counts as gone (R256, R262, R263). -/
def Obligations.CollectivesAndPermutes : Prop :=
  (
  ∀ (s : State) (c : Fin 8) (id : Nat) (x : Coll), findColl s c id = some x →
    (running s = true → inService (claim s c) = true → x.started = false → startWaits s c x = .ok false →
      let k := claim s c
      let early := k.aborts.find? (fun a => a.group == x.group && a.issue == x.issue)
      (∀ fs, early = none → (x.op ≠ .permute → x.epoch = k.epoch) →
        (x.op = .permute → ∀ a ∈ groupRanks k x, (memberBell k a).isSome = true) →
        let u := noteTables s c x
        sigOf u c x = .ok fs →
        let own := fun (b : SigBody) => b.group == x.group && b.issue == x.issue
        let t := (peerRanks (claim u c) x).foldl (fun t r =>
          sendCtrl t c (rankAddr (claim u c) x r) 0 (.sig { sender := t.devAddr, group := x.group, issue := x.issue, fields := fs }))
          (setColl u c { x with started := true, sig := fs, progress := u.time, waitAt := u.time })
        let t := setClaim t c { claim t c with sigBox := (claim t c).sigBox.filter fun b => !own b }
        exec (.collStart c id) s = .next (goOn (((claim u c).sigBox.filter own).foldl (fun t b => takeSig t c id b) t) c id)) ∧
      (∀ a, early = some a → exec (.collStart c id) s = .next (failColl s c id (abortStatus a) false)) ∧
      (early = none → x.op ≠ .permute → x.epoch ≠ k.epoch →
        exec (.collStart c id) s = .next (failColl s c id (if x.epoch < k.epoch then stEpochStale else stEpochAhead) true))) ∧
    (∀ r, running s = true → x.op ≠ .permute → x.phase ≠ 0 → collQuiet s c x = .ok true → land s c x = .ok r →
      exec (.collRetire c id) s = .next (settleFoul (pumpDescs (endColl r.1 c r.2 stOk)))) ∧
    (timeRuns s = true → x.started = true → (∀ p, (claim s c).pset = some p → id ∉ p.members) → awaited s c x ≠ [] →
      exec (.collTimeout c id) s = .next
        (pumpDescs (failColl (advanceTo s (silentSince x (awaited s c x) + cTimeout x)) c id stCollTimeout true))))
  ∧
  (
  ∀ (s : State) (c : Fin 8) (p : Sys2Proof.Machine.PSet), (claim s c).pset = some p →
    (∀ t, running s = true → p.phase = 0 → barReached s c p 0 = true → barHeld (claim s c) p 0 = true →
      let u := (setMembers s c p).foldl (fun s x => noteReads (noteTables s c x) c x 1) (waitSet s c)
      permuteGo u c (setMembers u c p) = .ok t →
      let os := (setMembers t c p).flatMap fun x => match touchObjs t c x with | .ok l => l | _ => []
      exec (.permuteFenceClear c) s = .next (settleFoul (pumpDescs (setClaim t c { claim t c with
        pset := (claim t c).pset.map fun p => { p with phase := 1, objs := os } })))) ∧
    (timeRuns s = true → p.phase = 0 →
      exec (.epochFenceTimeout c) s = .next (failColl (advanceTo s (p.since + p.timeout)) c (p.members.headD 0) stEpochFenceTimeout true)) ∧
    (∀ t, running s = true → p.phase = 1 → barReached s c p 1 = true → barHeld (claim s c) p 1 = true →
      let u := waitSet s c
      (setMembers u c p).foldl (fun acc x => bindGot acc fun s => copyIn s c x) (.ok u) = .ok t →
      exec (.permuteStaged c) s = .next (settleFoul (setClaim t c { claim t c with
        pset := (claim t c).pset.map fun p => { p with phase := 2, passed := t.time } }))) ∧
    (running s = true → p.phase = 2 → barHeld (claim s c) p 2 = true →
      let u := waitSet s c
      let t := setClaim u c { claim u c with pset := none, epoch := p.epoch }
      exec (.permuteComplete c) s = .next (settleFoul ((setMembers t c p).foldl (fun s x => endColl s c { x with lost := !p.gone.isEmpty } stOk) t))) ∧
    (∀ id x, timeRuns s = true → findColl s c id = some x → x.started = true → id ∈ p.members →
      (p.phase = 1 → setPast s c p = false → silentRanks s c x ≠ [] →
        exec (.collTimeout c id) s = .next (pumpDescs (failColl (advanceTo s (silentSince x (silentRanks s c x) + p.timeout)) c id stCollTimeout true))) ∧
      (p.phase = 2 →
        let silent := (otherRanks (claim s c) p).filter fun r => !tokenOf (claim s c) p 2 r
        exec (.collTimeout c id) s = .next (setClaim (advanceTo s (p.passed + p.timeout)) c { claim s c with
          pset := some { p with gone := (p.gone ++ silent).eraseDups } }))))

/-! ### Versions (R318, R326, R328) -/

/-- TURN_EFFECT of a due turn drops the requests and streams of the ending shift, for the learning shift its versions, and
issues the PERMUTE set; that a turn whose version slot or id has been taken since is turned away here is the model's choice (log 45). TURN_FINISH ends the turn once its set
and its collectives have ended, with the shift and epoch it names, or in no shift where the set failed (R31, R34, R264, R314).
WEIGHT_LOAD_DONE of a load whose words carry no poison and whose bytes have the entry's digest writes them, or only the
marked leaves of a reload, or nothing where they stand already, and makes the entry loaded or the object unmarked; VERSION_AUDIT
starts one audit of the next entry when the tick is a multiple of the interval; VERSION_AUDIT_DONE compares the digest and counts
a mismatch in the slots that list the entry; PEER_WEIGHT_REQUEST gives a peer the words of a loaded entry whose bytes are in T1
(R318, R326, R328). That a tick number starts one audit and no more is the model's choice (log 39). -/
def Obligations.TurnsAndVersionEvents : Prop :=
  (
  ∀ (s : State) (c : Fin 8) (u : Turn), running s = true → (claim s c).turn = some u →
    (u.due = true → u.begun = false → turnSlot (claim s c) u = 0 →
      let t := dropStreams (dropRequests s c) c
      let t := if u.learning then dropVersions t c else t
      exec (.turnEffect c) s = .next (issueTurn (setClaim t c { claim t c with turn := some { u with begun := true } }) c u)) ∧
    (u.due = true → u.begun = false → turnSlot (claim s c) u ≠ 0 →
      exec (.turnEffect c) s = .next (reply (setClaim s c { claim s c with turn := none }) u.ring u.seq (turnSlot (claim s c) u) 0 0)) ∧
    (u.begun = true → (claim s c).pset = none → (∀ x ∈ (claim s c).colls, x.op = .permute → x.epoch ≠ u.epoch) →
      (u.failed = 0 →
        let t := if u.learning then dropPrograms s c else applyServe s c u
        exec (.turnFinish c) s = .next (reply (setClaim t c { claim t c with turn := none, shift := if u.learning then .learning else .generation })
          u.ring u.seq u.dropped u.epoch 0)) ∧
      (u.failed ≠ 0 →
        exec (.turnFinish c) s = .next (reply (setClaim s c { claim s c with turn := none, shift := .none }) u.ring u.seq u.failed 0 0))))
  ∧
  (
  ∀ (s : State) (c : Fin 8), running s = true →
    (∀ (slot : Fin 4) (entry : Fin 1024) (peer : PeerAnswer) (l : Load) (src : Option (List PWord)),
      let e := l.ent
      let va := objBase (claim s c) e.obj
      let ws := src.getD (vaWords s c va (ceilDiv e.bytes 8))
      theLoad s c slot entry = some l →
      access (claim s c) (.request none) va e.bytes = .ok → loadWords s c l e.bytes peer = .ok src →
      ws.any (·.poison) = false → treeDigest (shardBytes ws e.bytes) = e.digest →
      exec (.weightLoadDone c slot entry peer) s = .next (loadGood (match src with
        | some ws => if l.reload then putMarked s c e.obj e.bytes ws else putShard s c va e.bytes ws
        | none => noteVa s c va e.bytes) c l e)) ∧
    (∀ e, (auditList (claim s c))[(claim s c).auditPos % (auditList (claim s c)).length]? = some e →
      inService (claim s c) = true → (claim s c).auditInt ≠ 0 →
      (claim s c).ticking = true → (claim s c).tick % (claim s c).auditInt = 0 → (claim s c).auditAt ≠ (claim s c).tick + 1 →
      (claim s c).audit = none →
      let pos := ((claim s c).auditPos + 1) % (auditList (claim s c)).length
      exec (.versionAudit c) s = .next (setClaim s c { claim s c with audit := some e, auditPos := pos, auditAt := (claim s c).tick + 1 })) ∧
    (∀ slot n e p, (claim s c).audit = some (slot, n, e) → auditName (claim s c) slot n e = some p →
      mendPages (claim s c) [(objBase (claim s c) e.obj, e.bytes)] = [] →
      let t := setClaim s c { claim s c with audit := none }
      let ps := (List.range (ceilDiv e.bytes 2097152)).map ((obj (claim s c) e.obj).base + ·)
      let ws := (ps.flatMap (auditPage t c)).take (ceilDiv e.bytes 8)
      let d := treeDigest (shardBytes ws e.bytes)
      let u := ps.foldl (fun s p => notePage s c p) t
      exec (.versionAuditDone c) s = .next (if ws.any (·.poison) || d != e.digest then auditFail u c p.1 p.2 e d else u)) ∧
    (∀ (n : Fin 52) (peer : Nat) (tag vid : W16) (entry i : Nat) (e : VEntry), shaftUp (shaft s n) = true → tagClaim s tag = some c →
      tagShare s n tag ≠ 0 → carries s n c = true → slotOf (claim s c) vid.toNat = some i → verEntry (claim s c) i entry = some e →
      e.loaded = true → access (claim s c) (.request none) (objBase (claim s c) e.obj) e.bytes = .ok →
      mendPages (claim s c) [(objBase (claim s c) e.obj, e.bytes)] = [] →
      exec (.peerWeightRequest n peer tag vid entry) s = .next { noteVa s c (objBase (claim s c) e.obj) e.bytes with
        served := some (n, peer, .words (vaWords s c (objBase (claim s c) e.obj) (ceilDiv e.bytes 8))) }))

/-! ### Shafts (R267 to R286) -/

/-- A flit that the shaft accepts: its link runs, every codeword it lies in decodes, and its SEQ is the next in order; `t`
is the state once its codeword, ACK and SEQ are taken (R267, R268, R270, R271). That its CRC is good, a statement says where
it needs it. -/
structure FlitIn (s : State) (n : Fin 52) (hdr : W64) (wrong : List Nat) (hop : Bool) (t : State) : Prop where
  runs  : linksRun s = true
  alive : s.fatal = false
  up    : (shaftUp (shaft s n) || (hop && (shaft s n).locked)) = true
  fec   : (fecTake (shaft s n) wrong).2 = true
  order : fld hdr 19 10 = ((shaft (takeAck (setShaft s n (fecTake (shaft s n) wrong).1) n hdr) n).good + 1) % 1024
  after : t = setShaft (takeAck (setShaft s n (fecTake (shaft s n) wrong).1) n hdr) n
    { shaft (takeAck (setShaft s n (fecTake (shaft s n) wrong).1) n hdr) n with good := fld hdr 19 10, gap := false }
/-- An end-to-end flit of claim c with a share on the shaft, for this device, over a shaft that carries the claim (R276, R280,
R284). -/
structure ForClaim (t : State) (n : Fin 52) (hdr : W64) (c : Nat) : Prop where
  share  : tagShare t n (hdrTag hdr) ≠ 0
  here   : hdrDst hdr = t.devAddr
  claimed : tagClaim t (hdrTag hdr) = some c
  opened : carries t n c = true
/-- The end-to-end flits of CTRL for given bodies: the row, the body that it carries, and what follows once it is taken. -/
def ctrlFlits (n : Fin 52) (hdr : W64) (rx : FlitRx) (d : DescBody) (g : GrantBody) (k : CloseBody) (u : SigBody) (a : AbortBody) :
    List (Instr × FlitBody × (State → State)) :=
  [(.desc n hdr rx d, .desc d, id), (.grant n hdr rx g, .grant g, id), (.close n hdr rx k, .close k, settleFoul), (.xdone n hdr rx, .xdone, id),
   (.sig n hdr rx u, .sig u, id), (.abort n hdr rx a, .abort a, id)]
/-- The hop-scoped flits but IDENT. -/
def hopFlits (n : Fin 52) (hdr : W64) (rx : FlitRx) (v g : BitVec 128) : List Instr :=
  [.xoff n hdr rx, .xon n hdr rx, .nonce n hdr rx v, .tag n hdr rx g]
/-- End-to-end flits with a good CRC reach the collective or transfer of their claim; a DESC waits where faces and engines do
not run.
A flit of any kind for another device goes on over the member of its bond that XFER chooses, or is counted where its entry is
not VALID; one of a tag without a share is counted and dropped, and a DESC of such a tag is refused with NO_CREDIT (R276, R284). -/
def Obligations.FlitsDelivered : Prop :=
  (
  ∀ (s t : State) (n : Fin 52) (hdr : W64) (wrong : List Nat) (c : Nat), FlitIn s n hdr wrong false t → ForClaim t n hdr c →
    let rx : FlitRx := ⟨true, wrong⟩
    (∀ payload crc, payload.length = 244 → flitCrc hdr payload = crc →
      exec (.data n hdr payload crc wrong) s = .next (settleFoul (deliverData t n (hdrXfer hdr) c payload))) ∧
    (∀ b, exec (.desc n hdr rx b) s = .next (if running t then deliverDesc t n hdr b else { t with descs := t.descs ++ [(n.val, hdr, b)] })) ∧
    (∀ b, exec (.grant n hdr rx b) s = .next (deliverGrant t c (hdrXfer hdr) b)) ∧
    (∀ b, exec (.close n hdr rx b) s = .next (settleFoul (deliverClose t (hdrXfer hdr) c b))) ∧
    exec (.xdone n hdr rx) s = .next (deliverXdone t c (hdrXfer hdr)) ∧
    (∀ b, exec (.sig n hdr rx b) s = .next (deliverSig t c b)) ∧
    (∀ b, exec (.abort n hdr rx b) s = .next (deliverAbort t c b)))
  ∧
  (
  ∀ (s t : State) (n : Fin 52) (hdr : W64) (wrong : List Nat), FlitIn s n hdr wrong false t → linksCarry t = true →
    ∀ d g k u a payload crc, payload.length = 244 → flitCrc hdr payload = crc →
    let ms := routeShafts t (hdrDst hdr)
    let on := fun (m : Nat) (b : FlitBody) => holdFlit (modShaft t m fun h => { h with
      queue := h.queue ++ [(hdrTag hdr, ⟨mkHdr (fld hdr 63 61) (hdrDst hdr) (hdrTag hdr).toNat (hdrXfer hdr), b⟩, some n.val)] }) n (hdrTag hdr)
    ∀ e ∈ ctrlFlits n hdr ⟨true, wrong⟩ d g k u a ++ [(.data n hdr payload crc wrong, .data payload, settleFoul)],
      (tagShare t n (hdrTag hdr) ≠ 0 → hdrDst hdr ≠ t.devAddr →
        (∀ m, ms[hdrXfer hdr % ms.length]? = some m → exec e.1 s = .next (e.2.2 (on m e.2.1))) ∧
        (ms = [] → exec e.1 s = .next (e.2.2 (bumpShaft t n ctNoRoute)))) ∧
      (tagShare t n (hdrTag hdr) = 0 →
        let v := bumpShaft t n ctForeign
        exec e.1 s = .next (e.2.2 (match e.2.1 with | .desc b => refuseDesc v n hdr b | _ => v))))
/-- Hop-scoped flits: XOFF stops a claim's flits and XON lets them go. IDENT brings the shaft UP or HALF; of another peer than
before, it first closes the channels, drops the flits and clears the routes; of the device's own address, it takes the shaft
DOWN. A NONCE is answered by a TAG, the own nonce going first where the peer may not have it. A good TAG opens the claim's
channel, and a bad one closes it and is counted (R276, R277, R279, R280). That IDENT of another peer drops the waiting flits, that the
own nonce goes again before the TAG, and that SHAFT_AUTH is answered OK after a bad tag, is the model's choice (log 37). -/
def Obligations.HopFlits : Prop :=
  ∀ (s t : State) (n : Fin 52) (hdr : W64) (wrong : List Nat), FlitIn s n hdr wrong true t →
    let rx : FlitRx := ⟨true, wrong⟩
    let tag := (hdrTag hdr).toNat
    exec (.xoff n hdr rx) s = .next (setShaft t n { shaft t n with
      stopped := if (shaft t n).stopped.contains (hdrTag hdr) then (shaft t n).stopped else (shaft t n).stopped ++ [hdrTag hdr] }) ∧
    exec (.xon n hdr rx) s = .next (setShaft t n { shaft t n with stopped := (shaft t n).stopped.filter fun g => g != hdrTag hdr }) ∧
    (∀ b, b.addr ≠ t.devAddr →
      let x := shaft t n
      let other := x.peer != 0xFFF && (x.peer != b.addr || x.peerS != b.shaft)
      let u := if other then dropFlits (closeChannels t n stShaftDown) n else t
      let u := modShaft u n fun x => { x with
        peer := b.addr, peerS := b.shaft, halfSel := if x.toHalf then b.half else x.halfSel
        state := if x.toHalf then .half else .up, locked := false, retrains := false, resend := x.replay }
      let u := if other then shaftEvent (clearRoutes u n) n 3 else u
      exec (.ident n hdr rx b) s = .next (startAuths (if shaftUp x then u else shaftEvent u n 2) n)) ∧
    (∀ b, b.addr = t.devAddr → exec (.ident n hdr rx b) s = .next (shaftLeaves (closeChannels t n stShaftDown) n .down 6)) ∧
    (∀ c v, hopClaim t n hdr = some c →
      let a : Auth := Tab.get {} (shaft t n).auths c
      let u := match a.mine with
        | none => startAuth t n c a.cmd
        | some m => if a.peer = some v then t else queueHop t n tag (.nonce m)
      let d : Auth := Tab.get {} (shaft u n).auths c
      let w := setAuth u n c { d with peer := some v }
      exec (.nonce n hdr rx v) s = .next (queueHop w n tag (.tag (authTag w n c (d.mine.getD 0) v true)))) ∧
    (∀ c m p g, hopClaim t n hdr = some c → (Tab.get {} (shaft t n).auths c : Auth).mine = some m →
      (Tab.get {} (shaft t n).auths c : Auth).peer = some p →
      let a : Auth := Tab.get {} (shaft t n).auths c
      let one := BitVec.ofNat 8 (2 ^ c)
      (authTag t n c m p false = g →
        let u := setShaft t n { shaft t n with auth := (shaft t n).auth ||| one }
        exec (.tag n hdr rx g) s = .next (replyTo (setAuth u n c { a with ok := true, cmd := none }) a.cmd stOk 0 0)) ∧
      (authTag t n c m p false ≠ g →
        let u := setAuth (setShaft t n { shaft t n with auth := (shaft t n).auth &&& ~~~one }) n c { a with ok := false, cmd := none }
        exec (.tag n hdr rx g) s = .next (replyTo (shaftEvent (bumpShaft u n ctAuthFail) n 5) a.cmd stOk 0 0)))
/-- A flit of any kind that lies in an uncorrectable codeword, or whose CRC fails, asks for a replay, and nothing of it is
delivered; the first is counted by its codeword, the second as a CRC error (R270, R281).
A good flit of any sequenced kind that comes out of order is not delivered: within the last 512 it is a repeat, else a replay
is asked for (R270); a shaft in lock takes an IDENT whatever its SEQ, which is the model's reading (log 37).
A codeword in which at most 15 of the 544 symbols are wrong is corrected, and each corrected symbol counts against the
lane it travelled on; one with more is counted as uncorrectable (R267, R281). -/
def Obligations.FlitErrors : Prop :=
  (
  ∀ (s : State) (n : Fin 52) (hdr : W64) (rx : FlitRx), linksRun s = true → s.fatal = false →
    let good := (fecTake (shaft s n) rx.wrong).2
    let t := setShaft s n (fecTake (shaft s n) rx.wrong).1
    let y := modShaft (if good then bumpShaft t n ctCrc else t) n fun x => { x with nak := true, gap := true }
    (shaftUp (shaft s n) = true →
      (∀ payload crc, (good = false ∨ payload.length ≠ 244 ∨ flitCrc hdr payload ≠ crc) →
        exec (.data n hdr payload crc rx.wrong) s = .next (settleFoul y)) ∧
      (good = false ∨ rx.crcOk = false → ∀ d g k u a, ∀ e ∈ ctrlFlits n hdr rx d g k u a, exec e.1 s = .next (e.2.2 y))) ∧
    ((shaftUp (shaft s n) || (shaft s n).locked) = true → (good = false ∨ rx.crcOk = false) →
      ∀ v g b, ∀ i ∈ hopFlits n hdr rx v g ++ [.ident n hdr rx b, .idle n ⟨hdr, rx⟩], exec i s = .next y))
  ∧
  (
  ∀ (s : State) (n : Fin 52) (hdr : W64) (wrong : List Nat), linksRun s = true → s.fatal = false →
    (fecTake (shaft s n) wrong).2 = true →
    let t := takeAck (setShaft s n (fecTake (shaft s n) wrong).1) n hdr
    fld hdr 19 10 ≠ ((shaft t n).good + 1) % 1024 →
    let y := if ((shaft t n).good + 1024 - fld hdr 19 10) % 1024 < 512 ∨ (shaft t n).gap = true then t
      else setShaft t n { shaft t n with nak := true, gap := true }
    (shaftUp (shaft s n) = true →
      (∀ payload crc, payload.length = 244 → flitCrc hdr payload = crc →
        exec (.data n hdr payload crc wrong) s = .next (settleFoul y)) ∧
      (∀ d g k u a, ∀ e ∈ ctrlFlits n hdr ⟨true, wrong⟩ d g k u a, exec e.1 s = .next (e.2.2 y)) ∧
      ((shaft s n).locked = false → ∀ b, exec (.ident n hdr ⟨true, wrong⟩ b) s = .next y)) ∧
    ((shaftUp (shaft s n) || (shaft s n).locked) = true → ∀ v g, ∀ i ∈ hopFlits n hdr ⟨true, wrong⟩ v g, exec i s = .next y))
  ∧
  (
  ∀ (x : Shaft) (wrong : List Nat), cwEnds x = true →
    let y := (fecTake x wrong).1
    ((wrongSymbols 544 wrong).length ≤ 15 →
      y.count = (wrongSymbols 544 wrong).foldl (fun t j => bumpTab t (symbolLane x j) 1) x.count ∧ y.cwBad = false) ∧
    (15 < (wrongSymbols 544 wrong).length → y.count = bumpTab x.count ctUncorr 1 ∧ y.cwBad = true ∧ (fecTake x wrong).2 = false))
/-- A flit slot of a shaft: new shares take effect at the frame boundary; the slot sends what may take it: a hop-scoped flit, the
next flit to be resent, a queued flit of its owner, else IDLE; a link bubble sends IDLE whichever owner the slot belongs to, and the
flit sent goes onto the lanes in coded form (R267, R271, R274, R275, R397).
Events of a shaft: a good IDLE flit gives its ACK; unacknowledged flits are sent again; a retrain ends at the width the
shaft had; bring-up goes OFF, laser, tune, train, and DOWN to train, and a training that half of the lanes or all have passed
sends IDENT; the first failed lane of an UP shaft retrains it to the other half, a failed lane in use takes a HALF shaft DOWN,
and the last of all eight takes down one that has not trained yet;
loss of signal takes it DOWN with every lane failed (R270, R271, R277 to R279, R286). -/
def Obligations.ShaftEvents : Prop :=
  (
  ∀ (s : State) (n : Fin 52), linksRun s = true → (shaftUp (shaft s n) || (shaft s n).locked) = true →
    let k := (shaft s n).slot
    let t := match (shaft s n).pend with | some p => if k = 0 then takeShares s n p.1 p.2 else s | none => s
    let y := { shaft t n with slot := (k + 1) % 64, bubble := bubbleAt t n % 100 }
    let pick := if linksCarry t ∧ bubbleAt t n < 100 then pickOf t n y k else .idle
    let out := fun u => modShaft u n fun x => match x.sent with | some f => putWire x f | none => x
    (pick = .idle → exec (.flitSlot n) s = .next (out (setShaft t n { y with
      sent := some ⟨outHdr y (mkHdr typIdle 0 0 0) 0, .idle⟩, nak := false }))) ∧
    (∀ e rest, pick = .again → y.resend = e :: rest → exec (.flitSlot n) s = .next (out (noteKept
      (setShaft t n { y with sent := some ⟨outHdr y (keptFlit y e).hdr e.1, (keptFlit y e).body⟩, resend := rest, nak := false }) n e))) ∧
    (∀ g, pick = .hop g → exec (.flitSlot n) s = .next (out (setShaft t n { sendNew y g with ctrl := y.ctrl.erase g }))) ∧
    (∀ q, pick = .own q →
      let u := setShaft t n { sendNew y q.2.1 with queue := y.queue.erase q }
      exec (.flitSlot n) s = .next (out (match q.2.2 with | some m => letFlit u m q.1 | none => u))))
  ∧
  (
  ∀ (s : State) (n : Fin 52), linksRun s = true →
    let x := shaft s n
    (∀ hdr wrong, s.fatal = false → (shaftUp x || x.locked) = true → (fecTake x wrong).2 = true →
      exec (.idle n ⟨hdr, ⟨true, wrong⟩⟩) s = .next (takeAck (setShaft s n (fecTake x wrong).1) n hdr)) ∧
    (shaftUp x = true → s.fatal = false → exec (.replayTimeout n) s = .next (resendAll s n)) ∧
    (x.state = .train → x.retrains = true → x.peer ≠ 0xFFF → x.locked = true → exec (.shaftRetrain n) s =
      .next (shaftEvent (setShaft s n { x with state := if x.toHalf then .half else .up, locked := false, retrains := false, resend := x.replay }) n 2)) ∧
    (∀ good, x.enabled = true → s.fatal = false → lasersOn s = true →
      (x.state = .off → exec (.shaftBringupStep n good) s = .next (setShaft s n { x with state := .laser })) ∧
      (x.state = .laser → exec (.shaftBringupStep n good) s = .next (setShaft s n { x with state := .tune })) ∧
      (x.state = .tune → exec (.shaftBringupStep n good) s = .next (setShaft s n { x with state := .train })) ∧
      (x.state = .down → exec (.shaftBringupStep n good) s = .next (setShaft s n { x with state := .train })) ∧
      (∀ half sel, x.state = .train → x.retrains = false → good ≠ 0 → trained good = some (half, sel) →
        exec (.shaftBringupStep n good) s = .next (queueHop (setShaft s n { x with
          laneFail := x.laneFail ||| ~~~good, locked := true, toHalf := half, halfSel := if half then sel else x.halfSel
          rxBit := 0, cwBad := false, txLen := 0, txBits := 0 }) n 0 (.ident { addr := s.devAddr, shaft := n, half := sel })))) ∧
    (∀ lane : Fin 8,
      let t := setShaft s n { x with laneFail := x.laneFail ||| BitVec.ofNat 8 (2 ^ lane.val) }
      (x.state = .up → exec (.laneFail n lane) s =
        .next (shaftEvent (modShaft (retrain t n true) n fun y => { y with halfSel := decide (lane.val < 4) }) n 1)) ∧
      (x.state = .half → x.halfSel = decide (4 ≤ lane.val) → exec (.laneFail n lane) s = .next (shaftLeaves t n .down 1)) ∧
      (x.state = .laser ∨ x.state = .tune → exec (.laneFail n lane) s =
        .next (if x.laneFail ||| BitVec.ofNat 8 (2 ^ lane.val) = 0xFF then shaftLeaves t n .down 1 else t))) ∧
    (shaftUp x = true → exec (.lossOfSignal n) s =
      .next (shaftLeaves (modShaft (closeChannels s n stShaftDown) n fun y => { y with laneFail := 0xFF }) n .down 4)))

/-! ### The bell (R289 to R313) -/

/-- A good frame of a type, not the echo of the one that the device sent, heard while the bell is on; `t` is the state once its slot is noted (R291,
R295). -/
structure FrameIn (s : State) (typ : Nat) (rx : BellRx) (t : State) : Prop where
  runs  : bellRuns s = true
  on    : s.bell.state ≠ .off
  good  : rxGood rx = true
  type  : ftyp rx.words = typ
  other : isEcho (noteBusy s rx.slot).bell rx = false
  after : t = noteBusy s rx.slot
/-- Its claim's frame, with a fresh counter and a good tag (R296). -/
structure FrameAuth (t : State) (rx : BellRx) (c : Nat) : Prop where
  claimed : tagClaim t (ftag rx.words) = some c
  fresh   : Tab.get 0 (claim t c).fseen (fsrc rx.words) < fcount rx.words
  tagged  : (rx.words.getD 6 0).toNat = bellMac (claim t c).key (ftag rx.words) (fsrc rx.words) (fcount rx.words) rx.words
/-- A burst decodes where at most 7 of its 66 symbols are wrong (R291). PRESENCE and JOIN of no claim, or of one held here,
note their sender and the cycle master; the frames of a claim that are fresh and carry its tag do so too and take effect.
The intact echo of the device's own JOIN gives a sample of the loop delay; eight samples give LOOP, a spread of more than 1 ns asks
for eight more, and the fourth ends the join with BELL_LOOP_UNSTABLE (R295, R296, R299, R300).
A claim's frame whose counter is not above the last accepted one, or whose tag is wrong, and a frame of a claim that the
device does not hold, are counted and have no other effect (R295, R296). -/
def Obligations.BellFrames : Prop :=
  (
  ∀ (s t : State) (rx : BellRx),
    (bellFec rx = true ↔ (wrongSymbols 66 rx.wrong).length ≤ 7) ∧
    (ftag rx.words = 0 ∨ (∃ c, tagClaim t (ftag rx.words) = some c) →
      (FrameIn s 0 rx t → exec (.presence rx) s = .next (noteFrame t rx)) ∧
      (FrameIn s 1 rx t → ¬(s.bell.state = .measure ∧ rx.words = s.bell.sent ∧ s.bell.samples.length < 8) →
        exec (.join rx) s = .next (noteFrame t rx))) ∧
    (bellRuns s = true → s.bell.state = .measure → s.bell.samples.length < 8 → rxGood rx = true → ftyp rx.words = 1 → rx.words = s.bell.sent →
      let d := s.time - fbody rx.words 1
      let l := s.bell.samples ++ [d]
      let spread := l.foldl max 0 - l.foldl min d
      (l.length < 8 → exec (.join rx) s = .next { s with bell := { s.bell with samples := l } }) ∧
      (l.length = 8 → spread ≤ 1 → exec (.join rx) s =
        .next { s with bell := { s.bell with samples := l, loop := 64 * l.foldl (· + ·) 0 / 8, cycles := 0 } }) ∧
      (l.length = 8 → 1 < spread → s.bell.spreads + 1 ≠ 4 → exec (.join rx) s =
        .next { s with bell := { s.bell with samples := [], spreads := s.bell.spreads + 1 } }) ∧
      (l.length = 8 → 1 < spread → s.bell.spreads + 1 = 4 → exec (.join rx) s = .next (joinFails s stBellLoopUnstable))) ∧
    (∀ c, FrameAuth t rx c →
      let u := setClaim (noteFrame t rx) c { claim t c with fseen := Tab.set 0 (claim t c).fseen (fsrc rx.words) (fcount rx.words) }
      let src := fsrc rx.words
      (FrameIn s 2 rx t → exec (.tick rx) s = .next (takeTick u c src rx.words)) ∧
      (FrameIn s 3 rx t → exec (.barrier rx) s = .next (takeBarrier u c src rx.words)) ∧
      (FrameIn s 4 rx t → exec (.lag rx) s = .next (takeLag u c src rx.words)) ∧
      (FrameIn s 5 rx t → exec (.gossip rx) s = .next (takeGossip u c src rx.words)) ∧
      (FrameIn s 6 rx t → exec (.replica rx) s = .next (takeReplica u c src rx.words))))
  ∧
  (
  ∀ (s t : State) (rx : BellRx),
    ∀ e ∈ ([(2, .tick), (3, .barrier), (4, .lag), (5, .gossip), (6, .replica)] : List (Nat × (BellRx → Instr))), FrameIn s e.1 rx t →
    (∀ c, tagClaim t (ftag rx.words) = some c →
      (fcount rx.words ≤ Tab.get 0 (claim t c).fseen (fsrc rx.words) ∨
        (rx.words.getD 6 0).toNat ≠ bellMac (claim t c).key (ftag rx.words) (fsrc rx.words) (fcount rx.words) rx.words) →
      exec (e.2 rx) s = .next (bumpBell t bcAuth)) ∧
    (tagClaim t (ftag rx.words) = none → ftag rx.words ≠ 0 → exec (e.2 rx) s = .next (bumpBell t bcStranger)))
/-- Events of the bell port: receiver lock; an empty star; a slot of a joined device, where it is the next of the cycle: its
own slot, a contention slot, and the end of the cycle; a collision of its own contention frame, which backs off in its place
or is dropped after 16; an address conflict; and the takeover of the cycle master's part after 8 empty cycles (R290, R292,
R294, R298 to R300).
Frames that the device sends of itself: the tick master's TICK frame 32 cycles after the last, the first notice of a lag
episode, its repeat and its end; and the loss of the tick master and the end of a sympathy limit, each at its device time (R303,
R306 to R308). -/
def Obligations.BellEvents : Prop :=
  (
  ∀ (s : State), bellRuns s = true →
    (s.bell.state = .lock → s.bell.cycles = 0 → exec .bellReceiverLock s = .next { s with bell := { s.bell with cycles := 1 } }) ∧
    (s.bell.state = .lock → s.bell.cycles = 0 → exec .bellNoSignal s = .next { s with bell := { s.bell with
      state := .measure, isMaster := true, master := s.bell.addr, samples := [], spreads := 0 } }) ∧
    (∀ slot : Fin 80, s.bell.state = .joined → (s.bell.next = none ∨ s.bell.next = some slot.val) →
      let t := { s with bell := { s.bell with next := some ((slot.val + 1) % 80) } }
      let u := if slot.val = s.bell.addr then ownSlot t else if 64 ≤ slot.val then contentionSlot t else t
      exec (.bellSlot slot) s = .next (if slot.val = 79 then cycleEnd u else u)) ∧
    (∀ rx q, s.bell.state ≠ .off → rxGood rx = false → 64 ≤ rx.slot →
      let t := badBurst (noteBusy s rx.slot) rx.slot (bellFec rx)
      t.bell.flying = some q →
      (q.hits + 1 ≠ 16 → exec (.collision rx true) s = .next (modBell t fun b =>
        { b with flying := none, queue := putFrame q { q with hits := q.hits + 1, skip := 0 } b.queue })) ∧
      (q.hits + 1 = 16 → exec (.collision rx true) s = .next (bumpBell (modBell t fun b =>
        { b with queue := b.queue.erase q, flying := none }) bcBurst))) ∧
    (s.bell.state = .joined → 4 ≤ s.bell.bad → exec .addrConflict s =
      .next (postEvent (bumpBell { s with bell := { s.bell with bad := 0 } } bcConflict) none 0x0101 [1, bellWord s.bell])) ∧
    (s.bell.state = .joined → s.bell.isMaster = false → 8 ≤ s.bell.quiet →
      let others := s.bell.seen.filter fun e => e.1 != s.bell.master
      let m := (others.map Prod.fst ++ [s.bell.addr]).foldl min 63
      exec .cycleMasterTakeover s = .next { s with bell := { s.bell with
        seen := others, master := m, isMaster := m == s.bell.addr, heard := false, quiet := 0 } }))
  ∧
  (
  ∀ (s : State) (c : Fin 8),
    let k := claim s c
    (inService k = true → k.members ≠ [] → isTickMaster s k = true → bellRuns s = true → 32 ≤ k.tickCyc →
      (s.bell.state = .joined → (∀ q ∈ s.bell.queue, q.claim = c.val → ftyp q.words = 2 → s.bell.flying = some q) →
        exec (.tickFrameSend c) s = .next (queueBell (setClaim s c { k with tickCyc := 0 }) c 2 prTick [])) ∧
      (s.bell.state ≠ .joined → exec (.tickFrameSend c) s = .next (setClaim s c { k with tickCyc := 32 }))) ∧
    (inService k = true → isTickMaster s k = false → k.tickLost = false → timeRuns s = true →
      let t := advanceTo s (k.tickAt + cyclesNs 2048)
      exec (.tickMasterLost c) s = .next (postEvent (setClaim t c { k with tickLost := true }) (some c) 0x0009 [k.tick])) ∧
    (∀ (expect : W32), inService k = true → 2 ≤ k.members.length → s.bell.state = .joined → bellRuns s = true → timeRuns s = true →
      let e := if expect.toNat = 0 then 0xFFFFFFFF else expect.toNat
      (k.lag = none → lagReasons s.winder ≠ [] →
        let start := ((lagReasons s.winder).map fun n => (reason s.winder n).start).foldl min (2 ^ 64)
        let t := advanceTo s (start + cyclesNs 32)
        let u := setClaim t c { claim t c with lag := some { start := start, last := t.time } }
        exec (.lagNoticeSend c expect) s = .next (queueBell u c 4 prLag (lagBody t c start e))) ∧
      (∀ l, k.lag = some l → lagReasons s.winder ≠ [] →
        let t := advanceTo s (l.last + cyclesNs 1024)
        let u := setClaim t c { claim t c with lag := some { l with last := t.time } }
        exec (.lagNoticeSend c expect) s = .next (queueBell u c 4 prLag (lagBody t c l.start e))) ∧
      (∀ l, k.lag = some l → lagReasons s.winder = [] →
        exec (.lagNoticeSend c expect) s = .next (queueBell (setClaim s c { k with lag := none }) c 4 prLag (lagBody s c l.start 0)))) ∧
    (∀ (src : Fin 64) x, timeRuns s = true → s.winder.symp.find? (fun x => x.claim == c.val && x.src == src.val) = some x →
      let due := match x.ends with | some t => min t (x.heard + cyclesNs 2048) | none => x.heard + cyclesNs 2048
      exec (.sympathyExpire c src) s = .next { advanceTo s due with winder := { s.winder with symp := s.winder.symp.erase x } }))

/-! ### The winder (R389 to R411) -/

/-- A control period arbitrates from the predictions and ends the bubbles of droop and current; a raised supply settles
into its operating point; the trim of a bench whose canaries have stayed clean for 1 s falls by 2.5 mV to no less than -20 mV, and
the trims are saved in S0 (R390 to R407).
Droop on a face, a rail above its current, and a failed canary each act at once. Droop bubbles of 1 to 8 cycles stay within what
the cap duty leaves of 25% of the last 1 µs, and where they would pass it the operating point goes one step down; current bubbles
fall on the benches that the rail feeds, and at that limit the point goes one step down. How many cycles and which duty is a free
value (log 36). A trim below 40 mV rises by 5 mV,
and a bench at 40 mV is capped one point below, with a sump record; bubbles fall on its faces (R392, R399, R400). -/
def Obligations.WinderRules : Prop :=
  (
  ∀ (s : State), winderRuns s = true →
    (∀ p : Prediction,
      let t := unmetStep s p.measured
      let w := t.winder
      let recent := (p.measured :: w.recent).take 500
      let w := { w with recent := recent, pin := recent.foldl (· + ·) 0 / (1000 * recent.length), floor := floorOf w p }
      let set := arbitrate w p true
      let only := onlySympathy w p
      let w := applySet (stepReasons w t.time (reasonsNow w set (setOf (arbitrate w p false) 2))) set
      let w := { w with droop := false, current := false, currentB := [], sympOnly := only }
      exec (.controlPeriod p) s = .next { t with
        winder := { w with sum := winderWords w, gen := w.gen + 2 }
        faces := t.faces.foldl (fun f e => Tab.set {} f e.1 { e.2 with droop := false }) t.faces }) ∧
    (∀ n, s.winder.raise = some n → exec .opRaiseSettled s = .next { s with winder := { s.winder with op := n, raise := none } }) ∧
    (∀ b : Fin 4,
      let t := advanceTo s (Tab.get 0 s.winder.cleanAt b + 1000000000)
      exec (.lampTrimLower b) s = .next { t with winder := { t.winder with
        trim := Tab.set 0 s.winder.trim b (max (-40) (trimOf s.winder b - 5)), cleanAt := Tab.set 0 s.winder.cleanAt b t.time } }) ∧
    (s.power = .s0 → exec .trimSave s = .next (saveTrims s)))
  ∧
  (
  ∀ (s : State), winderRuns s = true →
    (∀ f : Fin 128, s.power = .s0 →
      let v := freeValue s
      let recent := (face s f).bubbles.filter fun b => decide (s.time < b.1 + 1000)
      let left := (25 - s.winder.dutyC) * (700 + 50 * s.winder.op) / 100 - (recent.map Prod.snd).foldl (· + ·) 0
      let n := v.1.toNat % 8 + 1
      let t := setFace v.2 f { face s f with droop := true, bubbles := recent ++ [(s.time, min n left)] }
      let w := { t.winder with droop := true }
      exec (.droopDetect f) s = .next { t with winder := if left < n then lowerPoint w else w }) ∧
    (∀ rails, rails.any feedsBench = true →
      let v := freeValue s
      let n := v.1.toNat % 25 + 1
      let left := 25 - s.winder.dutyC
      let on := (rails.flatMap railBenches).foldl (fun t b => Tab.set 0 t b (min n left)) s.winder.currentB
      let w := { s.winder with current := true, currentB := on }
      exec (.railCurrentSample rails) s = .next { v.2 with winder := if left ≤ n then lowerPoint w else w }) ∧
    (∀ b : Fin 4, s.power ≠ .s2 →
      let t := (List.range 32).foldl (fun s i => setFace s (32 * b + i) { face s (32 * b + i) with droop := true }) s
      let w := { t.winder with cleanAt := Tab.set 0 t.winder.cleanAt b t.time }
      (trimOf w b < 80 → exec (.lampCanaryFail b) s = .next { t with winder := { w with trim := Tab.set 0 w.trim b (min 80 (trimOf w b + 10)) } }) ∧
      (80 ≤ trimOf w b →
        let n := match Tab.get none w.margin b with | some m => min m (w.op - 1) | none => w.op - 1
        exec (.lampCanaryFail b) s = .next (postSump { t with winder := { w with margin := Tab.set none w.margin b (some n) } }
          { cls := 0, unit := 0x0C, kind := 11, d4 := b + at' n 8 }))))
/-- The thermal loop lowers CAP_THERM from 90 °C on, to 50 W less than the mean or, where that is lower, than itself (the model's
reading of 'less 50 W', log 68), and raises it by 25 W up to 3,600 W at 88 °C or below; a sample from
95 °C on begins recovery, which ends once samples at 88 °C or below have lasted 10 ms; THERMTRIP from 105 °C on stops the device and asserts THERMTRIP_N (R408 to R411).
After THERMTRIP from 105 °C on, the pin is asserted and nothing but the always-on domain runs (R411). -/
def Obligations.ThermalLimits : Prop :=
  (
  ∀ (s : State),
    (winderRuns s = true → ∀ mean : Nat,
      (360 ≤ s.winder.hottest → exec (.thermalLoop mean) s = .next { s with winder := { s.winder with capTherm := min s.winder.capTherm mean - 50 } }) ∧
      (s.winder.hottest ≤ 352 → exec (.thermalLoop mean) s = .next { s with winder := { s.winder with capTherm := min 3600 (s.winder.capTherm + 25) } }) ∧
      (352 < s.winder.hottest → s.winder.hottest < 360 → exec (.thermalLoop mean) s = .next s)) ∧
    (winderRuns s = true → ∀ t : Int,
      (t < 380 → s.winder.recovery = false → exec (.temperatureSample t) s = .next { s with winder := { s.winder with hottest := t } }) ∧
      (380 ≤ t → s.winder.recovery = false → exec (.temperatureSample t) s = .next (beginRecovery { s with winder := { s.winder with hottest := t } })) ∧
      (352 < t → s.winder.recovery = true → exec (.temperatureSample t) s = .next { s with winder := { s.winder with hottest := t, cool := none } }) ∧
      (t ≤ 352 → s.winder.recovery = true → s.winder.cool = none →
        exec (.temperatureSample t) s = .next { s with winder := { s.winder with hottest := t, cool := some s.time } }) ∧
      (∀ t0, t ≤ 352 → s.winder.recovery = true → s.winder.cool = some t0 →
        exec (.temperatureSample t) s = .next { s with winder := if t0 + 10000000 ≤ s.time
          then { s.winder with hottest := t, recovery := false, cool := none, mmaEvery := 1 } else { s.winder with hottest := t } })) ∧
    (∀ (sensor : Fin 224) (t : Int), 420 ≤ t → s.pins.trip = false → s.pins.good.contains .vddAux = true →
      let u := stopDomains (deviceFatal s { cls := 3, unit := 0x0D, kind := 13, d4 := sensor, d5 := (BitVec.ofInt 64 t).toNat })
      exec (.thermtrip sensor t) s = .next { u with pins := { u.pins with trip := true } }))
  ∧
  (
  ∀ (s t : State) (sensor : Fin 224) (x : Int), 420 ≤ x → s.pins.trip = false → s.pins.good.contains .vddAux = true →
    exec (.thermtrip sensor x) s = .next t → t.pins.trip = true ∧ t.pins.stopped = true ∧ t.fatal = true ∧ running t = false)

/-! ### Errors, resets, boot, power states, rails and test pins (R411 to R434, R463 to R493) -/

/-- An expired core watchdog is device-fatal; the sixteenth failure of one fabric flit is, and an earlier one is a resend
with a corrected record, also after a device-fatal error; a T2 controller that has met 16 words with errors on one device's lanes within
1 ms is fenced and ends its claims, with a status that is free among the failures of R388 (log 53);
the sump's buffer goes to flash (R464 to R471).
A device-fatal error asserts FAULT_N and stops faces and engines (R471). -/
def Obligations.ErrorClasses : Prop :=
  (
  ∀ (s : State),
    (∀ (core : Fin 4) (pc : W64), headframeRuns s = true →
      exec (.coreWatchdog core pc) s = .next (deviceFatal s { cls := 3, unit := 0x0A, inst := core, kind := 7, d4 := pc.toNat })) ∧
    (∀ (b : Fin 4) (again : Bool), headframeRuns s = true →
      let n := (if again then Tab.get 0 s.fabric b else 0) + 1
      let t := { s with fabric := Tab.set 0 s.fabric b n }
      (n < 16 → exec (.fabricCrcFail b again) s = .next (postSump t { cls := 0, unit := 0x06, inst := b, kind := 5 })) ∧
      (16 ≤ n → exec (.fabricCrcFail b again) s = .next (deviceFatal t { cls := 3, unit := 0x06, inst := b, kind := 5 }))) ∧
    (∀ n : Fin 8, headframeRuns s = true → fenceDue s n = true → s.fenced.contains n.val = false →
      let v := freeValue s
      let t := { v.2 with fenced := insSorted n v.2.fenced }
      exec (.t2Fence n) s = .next ((claimsOnT2 t n).foldl (fun s c =>
        claimFatal s c (failCodes.getD (v.1.toNat % failCodes.length) stOwnerFault) { cls := 2, unit := 0x05, inst := n, kind := 14 }) t)) ∧
    (s.pins.good.contains .vddAux = true → s.pins.perst = false → exec .sumpFlashWrite s = .next { s with sump := writeSump s.sump }))
  ∧
  (
  ∀ (s t : State) (core : Fin 4) (pc : W64), headframeRuns s = true → s.fatal = false → exec (.coreWatchdog core pc) s = .next t →
    t.fatal = true ∧ t.pins.fault = true ∧ running t = false)
/-- Resets: PERST_N in any state; a function's registers, or every function's, of those that are enabled; a hot reset, which also ends
IDE; each sets CAP_THERM to 3,600 W; and the steps of boot: straps, the adit link, firmware-ready, and the initialisation of memory (R421 to R426). -/
def Obligations.ResetsAndBoot : Prop :=
  ∀ (s : State),
    exec .perstNAssert s = .next (fundamental s) ∧
    (aditUp s = true → ∀ fn : Fin 33, fn.val ≠ 0 → fn.val ≤ s.vfs → exec (.functionLevelReset fn) s = .next (coolCap (resetFn s fn))) ∧
    (∀ fn : Fin 33, s.vfs < fn.val → exec (.functionLevelReset fn) s = .next s) ∧
    (aditUp s = true → exec (.functionLevelReset 0) s = .next (coolCap ((List.range 33).foldl resetFn s))) ∧
    (aditUp s = true → let t := coolCap ((List.range 33).foldl resetFn s)
      exec .hotReset s = .next { t with side := { t.side with ide0 := .insecure, ide1 := .insecure } }) ∧
    (∀ smb srns, s.pins.perst = true → s.pins.good.contains .vddAux = true →
      exec (.perstNDeassert smb srns) s = .next { s with
        pins := { s.pins with perst := false, tap := if tapFree s.pins.tap then s.pins.tap else tapBypass }
        boot := { s.boot with smbAddr := smb, srns := srns, stage := if s.pins.stopped then .held else .straps } }) ∧
    (s.pins.perst = false → s.pins.stopped = false → s.power = .s0 →
      (s.boot.stage = .straps → exec .aditReady s = .next { s with boot := { s.boot with stage := .adit } }) ∧
      (∀ inp, s.boot.stage = .adit → exec (.firmwareReady inp) s = .next (bootEnd s inp))) ∧
    (∀ u, firmwareRuns s = true → exec (.memoryInitDone u) s = .next (createWaiting (match u with | .stack n => initStack s n | .t2All => initT2 s)))
/-- After a fundamental reset no claim, stream, request or message is left, power is S0, the boot is held and PERST_N is
asserted; the counters, the selector's copies and the retired frames stay (R179, R424, R431, R432). -/
def Obligations.FundamentalReset : Prop :=
  ∀ (s t : State), exec .perstNAssert s = .next t →
    t.claims = [] ∧ t.streams = [] ∧ t.reqs = [] ∧ t.faces = [] ∧ t.power = .s0 ∧ t.fatal = false ∧ t.pins.perst = true ∧
    t.boot.stage = .held ∧ t.boot.ctr0 = s.boot.ctr0 ∧ t.boot.ctr1 = s.boot.ctr1 ∧ t.boot.ctrRest = s.boot.ctrRest ∧
    t.boot.sel0 = s.boot.sel0 ∧ t.boot.sel1 = s.boot.sel1 ∧ t.retired = s.retired ∧ t.pending = s.pending
/-- The ends of an entry to S1, S2, S3 or S4, each trim saved before S4; the return from S1 and S2; the wake from S3 (R392, R412 to
R420). Which SMBus match meets the hand-over window of R418, and is lost, is a free value (log 47).
In S2 the contents of T0 are lost: every word of every face reads as a free value of that loss (R412). -/
def Obligations.PowerStates : Prop :=
  (
  ∀ (s : State),
    (∀ e, running s = true → s.entry = some e →
      let t := { s with entry := none }
      (e.target = .s1 → exec .powerStateEntered s = .next (heldWakes (replyTo { t with power := .s1 } e.cmd stOk 0 0))) ∧
      (e.target = .s2 → exec .powerStateEntered s =
        .next (heldWakes (replyTo { loseT0 t with power := .s2, bell := sleepBell t.bell } e.cmd stOk 0 0))) ∧
      (e.target = .s3 → exec .powerStateEntered s = .next (sealDown (replyTo (abortRings (endClaims t) e.cmd) e.cmd stOk 0 0) e.retained e.wake)) ∧
      (e.target = .s4 → let u := fundamental (saveTrims (replyTo (abortRings (endClaims t) e.cmd) e.cmd stOk 0 0))
        exec .powerStateEntered s = .next { u with power := .s4, pins := { u.pins with perst := false } })) ∧
    (s.fatal = false → s.pins.perst = false → s.pins.stopped = false → inS1S2 s = true →
      (∀ c, s.exit = none → wakes s c = true → exec (.powerExitEvent c) s = .next { s with exit := some c }) ∧
      (∀ c, s.exit = some c → exec .s0Return s = .next (
        s.side.held.foldl serveSide (let u := pumpDescs { s with power := .s0, exit := none, bell := rejoinBell s.bell }
          { u with side := { u.side with held := [] } })))) ∧
    (s.pins.perst = false → s.pins.stopped = false →
      exec .wakeN s = .next (wakeUp s) ∧
      (∀ a : BitVec 7, a.toNat = 0x60 + s.boot.smbAddr.toNat → s.power ≠ .s4 →
        let h := inHandOver s
        exec (.smbusAddressMatch a) s = .next (if h.1 then { h.2 with side := { h.2.side with nack := true } }
          else wakeUp { h.2 with side := { h.2.side with nack := s.power == .s3 } })) ∧
      (∀ inp, s.power = .s3 → s.boot.waking = true →
        exec (.s3Resume inp) s = .next (bootEnd { s with power := .s0, time := 0, elapsed := 0, sump := { s.sump with since := 0 }, boot := { s.boot with stage := .adit, waking := false } } inp))))
  ∧
  (
  ∀ (s : State) (f : Fin 128) (i : Nat), s.canonical = true →
    memWord (loseT0 s) (.t0 f) i = Config.lostWord (s.freeCtr + f) i)
/-- Rails and the TAP: a rail comes, and a bench whose rail came late stays off; the loss of a bench rail or VIN_M stops a
running device with FAULT_N; with VDD_LAS bring-up starts, and without it every shaft is OFF, with its event; VDD_IO and VDD_ANA go too; without VDD_AUX the always-on domain
is reset. An instruction is loaded into the TAP, and SAMPLE/PRELOAD leaves the boundary register free (log 8; R485 to R492).
With PERST_N deasserted no instruction that moves pins can be loaded into the TAP: BYPASS takes its place (R445, R490, R492).
The identification register holds 0x0961_278B; the code selects the register between TDI and TDO, IDCODE that one, the
boundary instructions the 96 cells, and every other code one bit; a thermal trip drives THERMTRIP_N and FAULT_N low whatever the
boundary cells hold, and EXTEST otherwise drives them from its cells (R490, R491, R493). Which cells those are is the model's
choice (log 8). -/
def Obligations.RailsAndTap : Prop :=
  (
  ∀ (s : State),
    (∀ r late, s.pins.good.contains r = false → exec (.railWithinTolerance r late) s = .next { s with pins := { s.pins with
      good := addRail s.pins.good r
      tap := if r = .vddAux then tapIdcode else s.pins.tap
      tapReset := r == .vddAux || s.pins.tapReset
      offB := match benchOf r with | some b => if late then insSorted b s.pins.offB else s.pins.offB | none => s.pins.offB } }) ∧
    (∀ r aux, ioRail r = true → s.pins.good.contains r = true → exec (.railLoss r aux) s = .next (dropRail s r)) ∧
    (∀ r aux, feedsBench r = true → s.pins.good.contains r = true → s.pins.perst = false → s.pins.stopped = false → s.power ≠ .s4 →
      let t := modPins (stopDomains (dropRail s r)) fun p => { p with fault := true }
      exec (.railLoss r aux) s = .next (if aux then { t with sump := flushSump t.sump } else loseSump t)) ∧
    (s.pins.good.contains .vddLas = true → exec .vddLasRemoved s = .next ((List.range 52).foldl shaftDark (dropRail s .vddLas))) ∧
    (let t := modPins s fun p => { p with good := addRail p.good .vddLas }
     linksRun t = true → t.fatal = false → lasersOn t = true →
     exec .vddLasGood s = .next ((List.range 52).foldl (fun s n =>
       if (shaft s n).enabled && (shaft s n).state == .off then setShaft s n { shaft s n with state := .laser } else s) t)) ∧
    (s.pins.good.contains .vddAux = true → exec .vddAuxRemoved s =
      .next (modPins (fundamental (loseSump (dropRail s .vddAux))) fun p => { p with trip := false, stopped := false, tap := tapIdcode, tapReset := true })) ∧
    exec .tapReset s = .next { s with pins := { s.pins with tap := tapIdcode, tapReset := true } } ∧
    (∀ code, tapWorks s = true →
      let u := if tapLoaded s.pins.perst code = 0x02 then sampleBound s else s
      exec (.tapInstructionLoad code) s = .next { u with pins := { u.pins with
        tap := tapLoaded s.pins.perst code, tapReset := false
        tapUsed := u.pins.tapUsed || (tapLoaded s.pins.perst code != tapBypass && tapLoaded s.pins.perst code != tapIdcode) } }))
  ∧
  (
  ∀ (s t : State) (code : Byte), s.pins.perst = false → tapWorks s = true → exec (.tapInstructionLoad code) s = .next t → tapFree t.pins.tap = true)
  ∧
  (
  ∀ (s : State),
    idRegister = 0x0961278B ∧
    (s.pins.tap = 0x01 → tapRegister s = (32, 0x0961278B)) ∧
    ((s.pins.tap = 0x02 ∨ s.pins.tap = 0x03 ∨ s.pins.tap = 0x06 ∨ s.pins.tap = 0x07) → tapRegister s = (96, s.pins.bound.toNat)) ∧
    (∀ c : Byte, s.pins.tap = tapLoaded s.pins.perst c → ¬ (1 ≤ c.toNat ∧ c.toNat ≤ 7) → tapRegister s = (1, 0)) ∧
    (s.pins.trip = true → tripLand s = some false ∧ faultLand s = some false) ∧
    (s.pins.trip = false → tapWorks s = true → s.pins.tap = 0x03 →
      tripLand s = some (s.pins.bound.getLsbD (Config.tripCell % 96)) ∧ faultLand s = some (s.pins.bound.getLsbD (Config.faultCell % 96))))

/-! ### The host's registers and windows (R356, R357, R361, R367, R447 to R454, R494 to R508) -/

/-- The physical function writes a function's claim, which makes every window entry invalid, and a window entry, which
must name a granule that the claim owns, whatever its VALID is.
An access through the T1 window: mapped words are read, with EP where one is poisoned, or written, poisoned where EP is
set; an unmapped one is counted and not done; one against the tag ends the function's claim with OWNER_FAULT. -/
def Obligations.HostWindows : Prop :=
  (
  ∀ (s : State) (g : Fin 33) (v : W64), aditUp s = true →
    let x := fnOf s g
    let n := v.toNat
    (tlpTaken s false 0 (fnOff g 0) = true → exec (.fnClaimWrite 0 g v) s = .next (setFn s g { x with
      fcClaim := bits n 2 0, fcValid := n.testBit 3, entryErr := x.entryErr && !n.testBit 4
      window := x.window.foldl (fun t e => Tab.set 0 t e.1 (keep e.2.toNat (span 9 0))) x.window })) ∧
    (∀ slot : Fin 64, tlpTaken s false 0 (fnOff g (64 + slot)) = true →
      let owned := x.fcValid = true ∧ bits n 9 0 ≤ 767 ∧ ownsT1 (claim s x.fcClaim) (bits n 9 0) = true
      (owned →
        exec (.windowEntryWrite 0 g slot v) s = .next (setFn s g { x with window := Tab.set 0 x.window slot (keep n (span 63 63 + span 9 0)) })) ∧
      (¬ owned → exec (.windowEntryWrite 0 g slot v) s = .next (setFn s g { x with entryErr := true }))) ∧
    (∀ fn : Fin 33, fn.val ≠ 0 → exec (.fnClaimWrite fn g v) s = .next s ∧ ∀ slot : Fin 64, exec (.windowEntryWrite fn g slot v) s = .next s) ∧
    (tlpTaken s false 0 (fnOff g 1) = true →
      exec (.windowDropRead 0 g) s = .next { setFn s g { x with drop := 0 } with cpl := some ⟨.success, [w64 x.drop], false⟩ }) ∧
    (∀ fn : Fin 33, fn.val ≠ 0 → tlpTaken s false fn (fnOff g 1) = true → exec (.windowDropRead fn g) s = .next { s with cpl := some ⟨.success, [0], false⟩ }))
  ∧
  (
  ∀ (s : State) (fn : Fin 33) (off n : Nat), aditUp s = true → s.power = .s0 → tlpTaken s true fn off = true →
    (∀ is, barCheck s fn off n = .words is →
      let ws := is.map (readWord s .t1)
      exec (.bar2Read fn off n) s = .next { is.foldl (fun s i => noteWord s .t1 i) s with
        cpl := some ⟨.success, bytesWords (((wordsBytes (ws.map (·.data))).drop (off % 8)).take n), ws.any (·.poison)⟩ }) ∧
    (barCheck s fn off n = .unmapped →
      let t := setFn s fn { fnOf s fn with drop := sat64 ((fnOf s fn).drop + 1) }
      exec (.bar2Read fn off n) s = .next { t with cpl := some ⟨.unsupported, [], false⟩ } ∧
      ∀ bs ep, bs.length = n → exec (.bar2Write fn off bs ep) s = .next t) ∧
    (∀ a, barCheck s fn off n = .foreign a → (fnOf s fn).fcValid = true →
      let t := claimFatal (setFn s fn { fnOf s fn with drop := sat64 ((fnOf s fn).drop + 1) }) (fnOf s fn).fcClaim stOwnerFault
        { cls := 2, unit := 0x09, kind := 8, tier := 1, addr := a }
      exec (.bar2Read fn off n) s = .next { t with cpl := some ⟨.abort, [], false⟩ } ∧
      ∀ bs ep, bs.length = n → exec (.bar2Write fn off bs ep) s = .next t) ∧
    (∀ is bs, bs.length = n → barCheck s fn off n = .words is →
      let t := dirtyFrames s (fnOf s fn).fcClaim is
      exec (.bar2Write fn off bs true) s = .next (is.foldl (fun s i => putWord s .t1 i ⟨0, true⟩) t) ∧
      exec (.bar2Write fn off bs false) s = .next ((gatherBytes (bs.zipIdx.map fun p => (off + p.2, p.1))).foldl
        (fun s e => mergeWord s .t1 (is.getD (e.1 - off / 8) 0) e.2.1 e.2.2) t)))
/-- A ring that its function enables starts at index 0 with the SEQ before SEQ_START, and with ERR 0 when every field is
in range; disabling it ends ERR and TAIL; a doorbell in range moves TAIL or HEAD, and one out of range sets ERR 3; a HEAD beyond the
last reply frees every entry that holds one, as the entries it names (R508). A request that is not taken is dropped.
A vector that is unmasked sends what is pending; a coalescing time that ends signals the ring or the queue. -/
def Obligations.HostRings : Prop :=
  (
  ∀ (s : State) (fn : Fin 33) (r : Fin 256), aditUp s = true → (ring s r).bound = true → (ring s r).fn = fn →
    let x := ring s r
    (∀ w3 : W64, tlpTaken s false fn (ringOff r 3) = true → x.enable = false → x.out = [] →
      let y : Ring := { x with w3 := keep w3.toNat (span 60 22) }
      exec (.ringEnable fn r w3) s = .next (setRing s r { y with
        enable := true, sqHead := 0, cqTail := 0, cqHead := 0, last := w32 (fld x.w4 63 32) - 1, passes := []
        err := if fld y.w3 60 56 < 4 ∨ 16 < fld y.w3 60 56 ∨ fld y.w3 55 51 < 4 ∨ 16 < fld y.w3 55 51 then 1
               else if vectors x.fn ≤ fld y.w3 50 40 then 2 else if 2 ^ fld y.w3 60 56 ≤ x.sqTail then 3 else 0 })) ∧
    (tlpTaken s false fn (ringOff r 3) = true →
      exec (.ringDisable fn r) s = .next (setRing s r { x with enable := false, err := 0, sqTail := 0 })) ∧
    (tlpTaken s false fn (ringOff r 3) = false → exec (.ringDisable fn r) s = .next s ∧ ∀ w3, exec (.ringEnable fn r w3) s = .next s) ∧
    (s.fatal = false → ∀ v : W64,
      let n := v.toNat % 65536
      (tlpTaken s false fn (bellOff r 0) = true →
        (x.enable = false → exec (.sqTail fn r v) s = .next (setRing s r { x with sqTail := n })) ∧
        (x.enable = true → x.err = 0 →
          exec (.sqTail fn r v) s = .next (setRing s r (if 2 ^ fld x.w3 60 56 ≤ n then { x with err := 3 } else { x with sqTail := n })))) ∧
      (tlpTaken s false fn (bellOff r 1) = true → x.enable = true → x.err = 0 →
        exec (.cqHead fn r v) s = .next (setRing s r (if 2 ^ fld x.w3 55 51 ≤ n then { x with err := 3 }
          else if (n + cqSize x - x.cqHead % cqSize x) % cqSize x ≤ cqUsed x then { x with cqHead := n } else { x with cqHead := x.cqTail })))) ∧
    (∀ (q : Fin 41) (v : W64), tlpTaken s false fn (outqOff q) = true → s.fatal = false → (outq s q).conf = true → (outq s q).fn = fn → v.toNat % 65536 < 2 ^ (outq s q).log2 →
      exec (.outqHead fn q v) s = .next (setOutq s q { outq s q with head := v.toNat % 65536 })))
  ∧
  (
  ∀ (s : State), aditUp s = true →
    (∀ (fn : Fin 33) (vec : Fin 512), vec.val < vectors fn → tlpTaken s false fn (vecOff vec) = true →
      let e : Msix := Tab.get {} s.msix (512 * fn + vec)
      let t := { s with msix := Tab.set {} s.msix (512 * fn + vec) { e with ctrl := e.ctrl &&& ~~~(1 : W32), pend := false } }
      exec (.msixUnmask fn vec) s = .next (if e.pend then interrupt t fn vec else t)) ∧
    (∀ r : Fin 256, s.fatal = false → (ring s r).unsig ≠ 0 → (ring s r).bound = true →
      let t := advanceTo s ((ring s r).unsigAt + 1000 * fld (ring s r).w3 31 22)
      exec (.interruptCoalesceTimeout (.ring r)) s =
        .next (interrupt (setRing t r { ring s r with unsig := 0 }) (ring s r).fn (fld (ring s r).w3 50 40))) ∧
    (∀ q : Fin 41, s.fatal = false → (outq s q).unsig ≠ 0 → (outq s q).conf = true →
      let t := advanceTo s ((outq s q).unsigAt + 1000 * (outq s q).coalUs)
      exec (.interruptCoalesceTimeout (.queue q)) s =
        .next (interrupt (setOutq t q { outq s q with unsig := 0 }) (outq s q).fn (outq s q).vector)))
/-- The registers whose reading has an effect: the low half of DEV_TIME latches the high half, and SUMP_DROPPED is
cleared; a request that the device does not support completes so; writes of a wrong size or place are dropped; the sump's
vector and a disabled ring's words take what is written; host reads that fail set ERR 4 or the queue's error.
What a read of BAR0 gives: 4 or 8 aligned bytes of the word, and Unsupported Request for any other size or place; DEV_ID
holds VENDOR 0x1F4B, PART 0x9612, REV 0 and LAYOUT 1; a word of the identity region without a field, and the sump, a ring and a
function's block that the function does not see, read 0; a ring's word 0 reads as written, its word 5 as its status (R8 to R11,
R494 to R500). Without an adit link, in a function that is not enabled, and in a failed IDE stream there is no completion (R443,
R449, R497); a configuration read completes with Retry Status until the adit is ready (R421). No row of the table reads so (log 55). -/
def Obligations.HostRegisters : Prop :=
  (
  ∀ (s : State) (fn : Fin 33), aditUp s = true →
    let x := fnOf s fn
    let t := s.time % 2 ^ 64
    (tlpTaken s false fn 0x28 = true →
      exec (.devTimeRead fn .whole) s = .next { s with cpl := some ⟨.success, [w64 t], false⟩ } ∧
      exec (.devTimeRead fn .low) s = .next { setFn s fn { x with latch := some (t / 2 ^ 32) } with cpl := some ⟨.success, [w64 (t % 2 ^ 32)], false⟩ } ∧
      exec (.devTimeRead fn .high) s =
        .next { setFn s fn { x with latch := none } with cpl := some ⟨.success, [w64 (x.latch.getD (t / 2 ^ 32))], false⟩ }) ∧
    (tlpTaken s false 0 0x2008 = true →
      exec (.sumpDroppedRead 0) s = .next { s with sump := { s.sump with dropped := 0 }, cpl := some ⟨.success, [w64 s.sump.dropped], false⟩ }) ∧
    (fn.val ≤ s.vfs → exec (.unsupportedRequest fn) s = .next { s with cpl := some ⟨.unsupported, [], false⟩ }) ∧
    (∀ (off size : Nat) (v : W64), size ≠ 4 → size ≠ 8 → exec (.registerWrite fn off size v) s = .next s) ∧
    (∀ v : W64, tlpTaken s false 0 0x2018 = true → exec (.registerWrite 0 0x2018 8 v) s = .next { s with sump := { s.sump with svEn := v.toNat.testBit 11, svVec := bits v.toNat 10 0 } }) ∧
    (∀ (r : Fin 256) (v : W64), tlpTaken s false fn (0x10000 + 64 * r.val) = true → (ring s r).bound = true → (ring s r).fn = fn → (ring s r).enable = false →
      exec (.registerWrite fn (0x10000 + 64 * r.val) 8 v) s = .next (setRing s r { ring s r with w0 := keep v.toNat (span 63 12) })) ∧
    (s.fatal = false →
      (∀ r : Fin 256, ringState (ring s r) = 2 →
        exec (.hostReadTimeout (.ring r)) s = .next (logHost (setRing s r { ring s r with err := 4 }) (ringHolder s r) none 0)) ∧
      (∀ q : Fin 41, (outq s q).conf = true →
        exec (.hostReadTimeout (.queue q)) s = .next (logHost (setOutq s q { outq s q with err := true }) (queueHolder q) none 0))))
  ∧
  (
  ∀ (s : State) (fn : Fin 33) (off size : Nat),
    (hostOn s false fn off = false → bar0Read s fn off size = none) ∧
    (∀ f, s.pins.perst = false → s.pins.stopped = false → timeRuns s = true → s.boot.stage = .straps →
      configRead s fn f = some ⟨.retry, [], false⟩) ∧
    (aditUp s = true → fn.val ≤ s.vfs →
      configRead s fn .vendor = some ⟨.success, [0x1F4B], false⟩ ∧
      configRead s fn .device = some ⟨.success, [if fn = 0 then 0x9612 else 0x9613], false⟩ ∧
      configRead s fn .classCode = some ⟨.success, [0x120000], false⟩) ∧
    (hostOn s false fn off = true → (size = 4 ∨ size = 8) → off % size = 0 →
      let w := bar0Word s fn (off / 8 * 8) % 2 ^ 64
      bar0Read s fn off size = some ⟨.success, [w64 (if size = 8 then w else if off % 8 = 0 then w % 2 ^ 32 else w / 2 ^ 32)], false⟩) ∧
    (hostOn s false fn off = true → (size ≠ 4 ∧ size ≠ 8) ∨ off % size ≠ 0 → bar0Read s fn off size = some ⟨.unsupported, [], false⟩) ∧
    bar0Word s fn 0 = 0x1F4B961200010000 ∧
    (0x30 ≤ off → off < 0x1000 → bar0Word s fn off = 0) ∧
    (fn ≠ 0 → 0x2000 ≤ off → off < 0x3000 → bar0Word s fn off = 0) ∧
    (fn ≠ 0 → 0x500000 ≤ off → off < 0x508400 → bar0Word s fn off = 0) ∧
    (∀ r : Fin 256,
      (ringSeen s fn r = false → ∀ n < 8, bar0Word s fn (0x10000 + 64 * r.val + 8 * n) = 0) ∧
      (ringSeen s fn r = true →
        bar0Word s fn (0x10000 + 64 * r.val) = (ring s r).w0.toNat ∧
        bar0Word s fn (0x10000 + 64 * r.val + 40) = at' (ringState (ring s r)) 62 + at' (classCode (ring s r).cls) 60 +
          at' (ring s r).claim 57 + at' (ring s r).out.length 40 + at' (ring s r).err 36)))

/-! ### The security of the connection (R435 to R445, R455) -/

/-- The DOE mailbox's objects, the keys of an IDE stream, acknowledged in the session, and a TLP whose integrity fails. The bytes of
the objects and of the acknowledgement are the model's choice (log 31).
SPDM: the connection's order, the answers and their effect on its state, the secured answers of a session, and an error for a
request of another version or out of order, which leaves the transcript alone; a request that is too long is discarded; the ML-DSA-65
signature is over the message that the last signed answer kept, which any other request clears (R436 to R439, R455). The bytes of the
answers, the error codes and GET_VERSION's end of the session are the model's choice (log 31). -/
def Obligations.SecureConnection : Prop :=
  (
  ∀ (s : State),
    (doeRuns s = true →
      (∀ i : Byte, exec (.doeDiscovery i) s = .next (putDoe s (some (doeObject 0 (if i.toNat ≤ 2
        then leBytes 2 1 ++ [byte i.toNat, byte (if i.toNat = 2 then 0 else i.toNat + 1)] else [byte 0xFF, byte 0xFF, byte 0, byte 0]))))) ∧
      exec .doeAbort s = .next (putDoe s none) ∧
      (∀ (v : W16) (t : Byte), ¬ (v.toNat = 1 ∧ t.toNat ≤ 2) → exec (.unsupportedDataObject v t) s = .next (putDoe s none)) ∧
      (s.side.session = true →
        let ack := fun n => vendorBody [byte s.side.ver] 1 [0, 6, 0, 0, byte n, 0, 0, 0]
        exec (.ideKm 0) s = .next (answerSealed { s with side := { s.side with kept := none, measMsgs := [], ide0 := .secure } } true (ack 0)) ∧
        exec (.ideKm 1) s = .next (answerSealed { s with side := { s.side with kept := none, measMsgs := [], ide1 := .secure } } true (ack 1))) ∧
      (s.side.session = false → ∀ n, exec (.ideKm n) s = .next s)) ∧
    (aditUp s = true →
      (s.side.ide0 = .secure → exec (.ideIntegrityFail 0) s =
        .next (postSump { s with side := { s.side with ide0 := .failed } } { cls := 1, unit := 0x09, kind := 9, d4 := 0 })) ∧
      (s.side.ide1 = .secure → exec (.ideIntegrityFail 1) s =
        .next (postSump { s with side := { s.side with ide1 := .failed } } { cls := 1, unit := 0x09, kind := 9, d4 := 1 }))))
  ∧
  (
  (∀ (s : State) (msg : List Byte), doeRuns s = true → 16376 < msg.length →
    let t := { s with side := { s.side with doe := none } }
    exec (.getVersion msg) s = .next t ∧ exec (.challenge msg) s = .next t ∧ exec (.vendorDefinedRequest msg 0x1F4B 1) s = .next t) ∧
  ∀ (s : State) (msg : List Byte), doeRuns s = true → msg.length ≤ 16376 →
    let u := { s with side := { s.side with kept := none, measMsgs := [] } }
    let v := (msg.headD 0).toNat
    let now := v = s.side.ver
    let err := fun (t : State) code => answer t (spdmHead msg 0x7F code 0)
    (v = 0x10 → exec (.getVersion msg) s = .next (answer { u with side := { u.side with
      stage := 1, transcript := msg ++ versionBody, certMsgs := [], exchange := false, session := false, keys := none } } versionBody)) ∧
    (v ≠ 0x10 → exec (.getVersion msg) s = .next (err u 0x41)) ∧
    (v = 0x12 ∨ v = 0x13 →
      (s.side.stage = 1 → exec (.getCapabilities msg) s = .next (answer { u with side := { u.side with
        stage := 2, ver := v, transcript := s.side.transcript ++ msg ++ capsBody msg } } (capsBody msg))) ∧
      (s.side.stage ≠ 1 → exec (.getCapabilities msg) s = .next (err u 0x04))) ∧
    (now → s.side.stage = 2 → exec (.negotiateAlgorithms msg) s = .next (
      if (dsc msg 8 4).testBit 9 ∧ (dsc msg 12 4).testBit 3 then answer { u with side := { u.side with
        stage := 3, transcript := s.side.transcript ++ msg ++ algsBody msg } } (algsBody msg)
      else err u 0x01)) ∧
    (∀ i ∈ ([.negotiateAlgorithms msg, .getDigests msg, .getCertificate msg 0 0 0, .challenge msg, .keyExchange msg, .finish msg,
        .endSession msg] : List Instr),
      (¬ now → exec i s = .next (err u 0x41)) ∧
      (now → s.side.stage ≠ 2 → s.side.stage ≠ 3 → s.side.exchange = false → s.side.session = false → exec i s = .next (err u 0x04))) ∧
    (now → s.side.stage = 3 →
      (let body := spdmHead msg 0x01 0 3 ++ sha3Bytes (certChain s 0) ++ sha3Bytes (certChain s 1)
       exec (.getDigests msg) s = .next (answer { u with side := { u.side with certMsgs := s.side.certMsgs ++ msg ++ body } } body)) ∧
      (∀ slot off len, slot ≤ 1 → off < (certChain s slot).length →
        let part := ((certChain s slot).drop off).take (min len 16368)
        let body := spdmHead msg 0x02 slot 0 ++ leBytes 2 part.length ++ leBytes 2 ((certChain s slot).length - off - part.length) ++ part
        exec (.getCertificate msg slot off len) s =
          .next (answer { u with side := { u.side with certMsgs := s.side.certMsgs ++ msg ++ body } } body)) ∧
      (dsc msg 2 1 = 0 → measureSummaryOk (dsc msg 3 1) = true →
        let n := nonce32 u
        let body := spdmHead msg 0x03 0 1 ++ sha3Bytes (certChain s 0) ++ n.1 ++ measureSummary s (dsc msg 3 1) ++ [0, 0] ++ echoed msg 36
        let m := signedM v "responder-challenge_auth signing" (s.side.transcript ++ s.side.certMsgs ++ msg ++ body)
        exec (.challenge msg) s = .next (answer { n.2 with side := { n.2.side with kept := some m, certMsgs := [] } } (body ++ identitySign s m))) ∧
      (∀ i : Byte, (1 ≤ i.toNat ∧ i.toNat ≤ 5) →
        let n := nonce32 u
        let b := measureBlock s i.toNat
        let body := fun off => spdmHead msg 0x60 0 0 ++ [byte 1] ++ leBytes 3 b.length ++ b ++ n.1 ++ [0, 0] ++ echoed msg off
        let m := signedM v "responder-measurements signing" (s.side.transcript ++ s.side.measMsgs ++ msg ++ body 37)
        exec (.getMeasurements msg i true) s =
          .next (answer { n.2 with side := { n.2.side with kept := some m } } (body 37 ++ identitySign s m)) ∧
        exec (.getMeasurements msg i false) s =
          .next (answer { n.2 with side := { n.2.side with measMsgs := s.side.measMsgs ++ msg ++ body 4 } } (body 4))) ∧
      (s.side.session = false → ∀ z,
        let e := ecdhePrivate u
        ecdheShared e.1.1 ((msg.drop 40).take 96) = some z → dsc msg 3 1 = 0 → measureSummaryOk (dsc msg 2 1) = true →
        let n := nonce32 e.2
        let body := spdmHead msg 0x64 0 0 ++ leBytes 2 e.1.2 ++ [0, 0] ++ n.1 ++ ecdhePublic e.1.1 ++ measureSummary s (dsc msg 2 1) ++ [0, 0]
        let th := s.side.transcript ++ sha3Bytes (certChain s 0) ++ msg ++ body
        let m := signedM v "responder-key_exchange_rsp signing" th
        let th := th ++ identitySign s m
        let k : Session := { sid := dsc msg 4 2 + 65536 * e.1.2, ver := v, secret := hmac (List.replicate 32 0) z, th := th, thKex := [] }
        let proof := hmac (finishedKey k "rsp") (sha3Bytes th)
        exec (.keyExchange msg) s = .next (answer { n.2 with side := { n.2.side with
          kept := some m, exchange := true, keys := some { k with thKex := th ++ proof } } } (body ++ identitySign s m ++ proof))) ∧
      (s.side.session = true → exec (.keyExchange msg) s = .next (err u 0x04))) ∧
    (now → s.side.exchange = true → ∀ k, s.side.keys = some k → finishGood k msg = true →
      let resp := spdmHead msg 0x65 0 0
      let t := answerSealed u false resp
      exec (.finish msg) s = .next { t with side := { t.side with
        exchange := false, session := true, keys := some { k with thFin := k.thKex ++ msg ++ resp, count := 0 } } }) ∧
    (now → s.side.session = true →
      let t := answerSealed u true (spdmHead msg 0x6C 0 0)
      exec (.endSession msg) s = .next { t with side := { t.side with session := false, keys := none } }) ∧
    (now → dsc msg 4 2 = 3 →
      (∀ m, s.side.kept = some m →
        let n := nonce32 s
        exec (.vendorDefinedRequest msg 0x1F4B 1) s = .next (answer n.2 (spdmHead msg 0x7E 0 0 ++ leBytes 2 3 ++ [byte 2] ++ leBytes 2 0x1F4B ++
          (let sig := mldsa65Sign (keyXi (s.boot.seed.getD 0)) m n.1
           leBytes 2 sig.length ++ sig)))) ∧
      (s.side.kept = none → exec (.vendorDefinedRequest msg 0x1F4B 1) s = .next (err s 0x04)) ∧
      (∀ vendor payload, vendor ≠ 0x1F4B ∨ payload ≠ 1 → exec (.vendorDefinedRequest msg vendor payload) s = .next (err u 0x07))))

/-! ### The sideband (R456 to R460) -/

/-- MCTP control requests are answered in S0, and an endpoint ID that may be an endpoint's is taken; in S1 and S2 a request waits
for the return to S0, which it brings about; a packet whose PEC fails is only NACKed (R413, R456 to R458). The bytes and completion
codes of the answers, and the request's number in them, a free value, are the model's choice (log 30).
The board controller's vendor requests in S0: telemetry, the power cap, a power state, a warm reset, sump records, and
BAD_ENCODING for a reserved command; the cap and the reset wait for a power entry to end (R459, R460). -/
def Obligations.SidebandRequests : Prop :=
  (
  ∀ (s : State), portRuns s = true → s.fatal = false →
    let u := { s with side := { s.side with nack := false } }
    let say := fun (t : State) (cmd cc : Nat) (data : List Byte) =>
      let v := freeValue t
      sendSide v.2 ([byte 0, byte (fld v.1 4 0), byte cmd, byte cc] ++ data)
    (s.power = .s0 →
      (∀ e : Byte, e ≠ 0 → e ≠ 0xFF → exec (.setEndpointId true e) s = .next (say { u with side := { u.side with eid := e } } 1 0 [byte 0, e, byte 0])) ∧
      (∀ e : Byte, (e = 0 ∨ e = 0xFF) → exec (.setEndpointId true e) s = .next (say u 1 2 [])) ∧
      exec (.getEndpointId true) s = .next (say u 2 0 [s.side.eid, byte 0, byte 0]) ∧
      exec (.getMctpVersionSupport true 0) s = .next (say u 4 0 (byte 1 :: leBytes 4 Config.mctpVersion.toNat)) ∧
      exec (.getMessageTypeSupport true) s = .next (say u 5 0 [byte 1, byte 0x7E]) ∧
      exec (.getVendorMessageSupport true 0) s = .next (say u 6 0 ([byte 0xFF, byte 0, byte 0x1F, byte 0x4B] ++ leBytes 2 Config.vendorSet.toNat))) ∧
    (s.power = .s1 ∨ s.power = .s2 → ∀ q : Instr × MctpReq,
      q ∈ ([(.getEndpointId true, .getEid), (.getMessageTypeSupport true, .types)] : List (Instr × MctpReq)) ++
        (List.range 256).map (fun e => (.setEndpointId true (byte e), .setEid (byte e))) →
      exec q.1 s = .next { u with exit := some (s.exit.getD .mctp), side := { u.side with held := s.side.held ++ [q.2] } }) ∧
    (s.power = .s0 ∨ s.power = .s1 ∨ s.power = .s2 → ∀ e, exec (.setEndpointId false e) s = .next { s with side := { s.side with nack := true } }))
  ∧
  (
  ∀ (s : State) (h : VendorHdr), portRuns s = true → s.power = .s0 → s.boot.stage = .ready → s.fatal = false → h.pecOk = true → h.reserved = 0 →
    let u := { s with side := { s.side with nack := false } }
    let now := stamped u
    exec (.telemetryGet h) s = .next (vendorReply u h 1 stOk (wordsBytes (telemetry u))) ∧
    (∀ (first : W16) (n : Byte), 1 ≤ n.toNat → n.toNat ≤ 15 → first.toNat < 4096 →
      let rs := (sumpRecords s.sump first.toNat n.toNat).filter fun ws => !ws.isEmpty
      exec (.sumpExtract h first n) s = .next (vendorReply u h 5 stOk (byte rs.length :: (rs.map wordsBytes).flatten))) ∧
    (∀ cmd : Byte, ¬ (1 ≤ cmd.toNat ∧ cmd.toNat ≤ 5) →
      exec (.reservedVendorCommand h cmd) s = .next (vendorReply u h cmd.toNat stBadEncoding [])) ∧
    (s.entry = none →
      (∀ cap : W16, 1 ≤ cap.toNat → cap.toNat ≤ 3600 →
        exec (.capSbSet h cap) s = .next (vendorReply { now with winder := { now.winder with capSb := cap.toNat } } h 2
          (if cap.toNat < s.winder.floor then stCapBelowFloor else stOk) (leBytes 2 s.winder.floor))) ∧
      (∀ cap : W16, (cap = 0 ∨ 3600 < cap.toNat) → exec (.capSbSet h cap) s = .next (vendorReply now h 2 stBadEncoding [])) ∧
      exec (.warmReset h) s = .next (warmReset (vendorReply now h 4 stOk []))) ∧
    (s.entry ≠ none → let wait := fun q => { u with side := { u.side with held := s.side.held ++ [q] } }
      exec (.warmReset h) s = .next (wait (.warmReset h)) ∧ ∀ cap : W16, exec (.capSbSet h cap) s = .next (wait (.capSb h cap))) ∧
    (∀ target : Byte, (target.toNat = 2 ∨ target.toNat = 4) → exec (.powerReq h target) s = .next
      (if powerBusy now then vendorReply now h 3 stPowerBusy [] else vendorReply (beginEntry now target.toNat none []) h 3 stOk [])))

/-! ### Lervo commands (R354 to R391, R509 to R512): `t` is the state once the packet is consumed, `k` its call -/

/-- The checks that every command passes: a wrong SEQ is answered BAD_SEQ and changes no more, a failed check of R360 is
answered with its status, and only then does the command's own work count; a ring that is not served next is left alone,
and an unlisted opcode is RESERVED_FIELD. -/
def Obligations.CommandChecks : Prop :=
  ∀ (s : State) (r : Fin 256) (op : Nat) (used : List Nat) (body : Call → State → Ans),
    (cmdsRun s = false ∨ nextRing s ≠ some r.val → lervo s r op used body = s) ∧
    (Taken s r op →
      let u := takePacket s r
      (packetSeq s r ≠ (ring u r).last + 1 → lervo s r op used body =
        sendReply u r { seq := packetSeq s r, opcode := op, quiet := bit ((packet s r).getD 0 0) 50, time := u.time } stBadSeq 0 0) ∧
      (packetSeq s r = (ring u r).last + 1 → gate u r (ring u r) (packet s r) used ≠ 0 →
        lervo s r op used body = replied s r (consumed s r) (gate u r (ring u r) (packet s r) used) 0 0)) ∧
    (Served s r op used → ∀ t,
      (∀ st a b, body (callOf s r) (consumed s r) = .done t st a b → lervo s r op used body = replied s r t st a b) ∧
      (body (callOf s r) (consumed s r) = .wait t → lervo s r op used body = putShadow t r)) ∧
    (Served s r op (List.replicate 7 whole) → lervoOps.contains op = false →
      exec (.reservedOpcode r) s = .next (replied s r (consumed s r) stReservedField 0 0))
/-- A claim is made from its descriptor with a new salt, at once where its granules are initialised; destroying or
resetting it ends its work, and the clearing of its memory ends the command; CLAIM_QUERY hides seed and key. -/
def Obligations.ClaimCommands : Prop :=
  ∀ (s : State) (r : Fin 256),
    let t := consumed s r
    let k := callOf s r
    (Served s r 0x010 [whole] → hostOk t (par k 1 63 0) 768 = true →
      let d := hostRead t (par k 1 63 0) 768
      let v := draw t
      let x := newClaim d v.1 v.2.time
      createStatus t d = 0 → exec (.claimCreate r) s = .next (
        if granulesReady v.2 x then replied s r (startClaim v.2 (dsc d 0 1) d v.1 v.2.time) stOk (saltHash v.1) 0
        else putShadow (setClaim v.2 (dsc d 0 1) { afterClaim (claim v.2 (dsc d 0 1)) x with creating := some (r.val, k.seq), shift := .none }) r)) ∧
    (let c := par k 1 2 0
     let x := claim t c
     x.live = true → x.creating = none → x.clearing = none →
     let u := closeClaim t c
     (Served s r 0x011 [span 2 0] →
       let rs := u.rings.foldl (fun m e =>
         if e.2.cls ≠ .management ∧ e.2.claim = c ∧ e.2.bound then Tab.set {} m e.1 { e.2 with orphan := true } else m) u.rings
       exec (.claimDestroy r) s = .next (putShadow (setClaim { u with rings := rs } c { claim u c with clearing := some (r.val, k.seq, false), desc := keyless (claim u c).desc }) r)) ∧
     (Served s r 0x012 [span 2 0] →
       let v := ((List.range 5).map fun n => queueId (n + 1) c).foldl (fun s q =>
         if (outq s q).conf then setOutq s q { outq s q with tail := 0, head := 0, drops := 0, unsig := 0 } else s) u
       exec (.claimReset r) s = .next (putShadow (coolCap (setClaim v c { claim v c with clearing := some (r.val, k.seq, true) })) r))) ∧
    (Served s r 0x013 [span 2 0, whole] →
      let x := claim t (par k 1 2 0)
      let bs := x.desc.take 8 ++ List.replicate 24 0 ++ x.desc.drop 32
      x.live = true → x.creating = none → hostOk t (par k 2 63 0) bs.length = true →
      exec (.claimQuery r) s = .next (replied s r (hostWrite t (par k 2 63 0) bs) stOk 0 0)) ∧
    (∀ (c : Fin 8) (m : Nat) (q : W32) (again : Bool), running s = true → s.boot.stage = .ready →
      (claim s c).clearing = some (m, q, again) → m % 256 = r.val →
      (∀ (d : Fin 8) (e : Nat × W32 × Bool), d.val < c.val → (claim s d).clearing = some e → e.1 % 256 ≠ r.val) →
      let u := wipeSlots (wipeMemory s c) c
      exec (.claimClearDone r) s = .next (if again then reply (startClaim (draw u).2 c (claim s c).desc (draw u).1 (draw u).2.time) m q stOk 0 0
        else reply (setClaim (dropShares u c) c (afterClaim (claim u c) {})) m q stOk 0 0))
/-- MUSTER writes its 16,384 bytes; OUTQ_SET configures a queue for its ring's function; RING_GRANT binds a ring and
RING_REVOKE frees one.
REGION_RETIRE keeps an unused frame out of use, and replies OK and changes nothing for a frame already listed, which R179 does not
say (the model's choice, log 35); REGION_RESTORE undoes it, and REGION_LIST writes the list. -/
def Obligations.RingAndRegionCommands : Prop :=
  (
  ∀ (s : State) (r : Fin 256),
    let t := consumed s r
    let k := callOf s r
    let x := ring t r
    (Served s r 0x001 [whole] →
      let a := par k 1 63 0
      let bs := musterBytes t k.seq (if x.cls = .management then none else some k.c)
      a % 4096 = 0 → hostOk t a bs.length = true → exec (.muster r) s = .next (replied s r (hostWrite t a bs) stOk 0 0)) ∧
    (Served s r 0x002 [span 39 0, whole, whole] → (x.cls = .management ∨ (par k 1 2 0 ≠ 0 ∧ par k 1 38 36 = k.c)) →
      par k 1 2 0 ≤ 5 → par k 1 6 3 ≤ 12 → par k 2 63 0 % 4096 = 0 → par k 3 63 0 % 64 = 0 → par k 1 17 7 < vectors x.fn →
      let q : OutQ := { conf := true, fn := x.fn, base := w64 (par k 2 63 0), log2 := par k 1 6 3 + 4, shadow := w64 (par k 3 63 0)
                        vector := par k 1 17 7, coalN := par k 1 25 18, coalUs := par k 1 35 26 }
      exec (.outqSet r) s = .next (replied s r
        (setOutq t (queueId (par k 1 2 0) (par k 1 38 36)) (if par k 1 39 39 = 1 then q else {})) stOk 0 0)) ∧
    (Served s r 0x003 [span 18 0] →
      let n := par k 1 7 0
      let cls := classOf (par k 1 9 8)
      let fn := par k 1 15 10
      n ≠ 0 → fn ≤ 32 → (cls = .management → fn = 0) → (ring t n).bound = false →
      (cls ≠ .management → claimThere (claim t (par k 1 18 16)) = true) →
      let y : Ring := { bound := true, cls := cls, fn := fn, claim := if cls = .management then 0 else par k 1 18 16 }
      exec (.ringGrant r) s = .next (replied s r (setRing t n y) stOk 0 0)) ∧
    (Served s r 0x004 [span 7 0] →
      let n := par k 1 7 0
      n ≠ 0 → (ring t n).bound = true → ringState (ring t n) = 1 → (ring t n).out = [] →
      exec (.ringRevoke r) s = .next (replied s r (setRing t n {}) stOk 0 0)))
  ∧
  (
  ∀ (s : State) (r : Fin 256),
    let t := consumed s r
    let k := callOf s r
    let e := (par k 1 0 0 == 1, par k 2 19 0)
    let used := if e.1 then t2Used t e.2 else t1Used t e.2
    (Served s r 0x020 [span 0 0, span 19 0] → e.2 < frameLimit e.1 → used = false →
      (t.retired.contains e = true → exec (.regionRetire r) s = .next (replied s r t stOk 0 0)) ∧
      (t.retired.contains e = false → t.retired.length < 4096 →
        exec (.regionRetire r) s = .next (replied s r { t with retired := t.retired ++ [e] } stOk 0 0)) ∧
      (t.retired.contains e = false → 4096 ≤ t.retired.length → exec (.regionRetire r) s = .next (replied s r t stRetireFull 0 0))) ∧
    (Served s r 0x020 [span 0 0, span 19 0] → e.2 < frameLimit e.1 → used = true →
      exec (.regionRetire r) s = .next (replied s r t stFrameInUse 0 0)) ∧
    (Served s r 0x021 [span 0 0, span 19 0] → t.retired.contains e = true →
      exec (.regionRestore r) s = .next (replied s r { t with retired := t.retired.erase e } stOk 0 0)) ∧
    (Served s r 0x022 [whole] →
      let bs := t.retired.flatMap fun e => leBytes 4 (at' (b2n e.1) 31 + e.2)
      let bs := bs ++ List.replicate (16384 - bs.length) 0
      hostOk t (par k 1 63 0) bs.length = true →
      exec (.regionList r) s = .next (replied s r (hostWrite t (par k 1 63 0) bs) stOk t.retired.length 0)))
/-- The device's address, the enables of shafts, counts, shares, a new authentication and a route.
Joining and leaving the bell, a claim's members, and the bell's counts. -/
def Obligations.LinkCommands : Prop :=
  (
  ∀ (s : State) (r : Fin 256),
    let t := consumed s r
    let k := callOf s r
    let n := par k 1 5 0
    (Served s r 0x030 [span 11 0] → (∀ i, i < 52 → (shaft t i).state = .off ∨ (shaft t i).state = .down) →
      exec (.shaftAddrSet r) s = .next (replied s r { t with devAddr := par k 1 11 0 } stOk 0 0)) ∧
    (Served s r 0x031 [span 51 0] → exec (.shaftCtl r) s = .next (replied s r ((List.range 52).foldl (fun s n =>
      if par k 1 n n = 1 then setShaft s n { shaft s n with enabled := true }
      else let u := shaftOff s n
        setShaft u n { shaft u n with enabled := false }) t) stOk 0 0)) ∧
    (Served s r 0x032 [span 5 0, whole] → n ≤ 51 →
      let bs := wordsBytes ((List.range 16).map fun i => w64 (Tab.get 0 (shaft t n).count i))
      hostOk t (par k 2 63 0) bs.length = true →
      exec (.shaftQuery r) s = .next (replied s r (hostWrite t (par k 2 63 0) bs) stOk (shaftWord (shaft t n)) 0)) ∧
    (let bits := span 63 48 + span 39 32 + span 31 16 + span 7 0
     Served s r 0x033 [span 5 0, whole, bits, bits, bits, bits] → n ≤ 51 →
      let l := (List.range 8).map fun c => par k 2 (8 * c + 7) (8 * c)
      let pairs : List (W16 × Nat) := (List.range 4).flatMap fun i =>
        [(BitVec.ofNat 16 (par k (3 + i) 63 48), par k (3 + i) 39 32), (BitVec.ofNat 16 (par k (3 + i) 31 16), par k (3 + i) 7 0)]
      let rel := pairs.filter fun p => p.2 != 0
      let old := nextShares (shaft t n)
      (l.zipIdx.map fun p => max p.1 (shareHeld t n p.2)).foldl (· + ·) 0 + (rel.map Prod.snd).foldl (· + ·) 0 ≤ 64 →
      (rel.any fun p => p.1 == 0) = false → (l.zipIdx.any fun p => p.1 != 0 && !(claim t p.2).live) = false →
      (∀ c, c < 8 → l.getD c 0 = 0 → Tab.get 0 old.1 c ≠ 0 → ownerBusy t n (claim t c).ctag = false) →
      (∀ p, p ∈ old.2 → (∀ q, q ∈ rel → q.1 ≠ p.1) → ownerBusy t n p.1 = false) →
      exec (.shaftShareSet r) s = .next (replied s r (setShares t n (l.zipIdx.foldl (fun m p => Tab.set 0 m p.2 p.1) []) rel) stOk 0 0)) ∧
    (let c := par k 1 10 8
     Served s r 0x034 [span 5 0 + span 10 8] → n ≤ 51 → inService (claim t c) = true → Tab.get 0 (shaft t n).share c ≠ 0 → shaftUp (shaft t n) = true →
      exec (.shaftAuth r) s = .next (if (shaft t n).auth.getLsbD c then replied s r t stOk 0 0
        else putShadow (startAuth t n c (some (r.val, k.seq))) r)) ∧
    (let ns := (List.range 52).filter fun i => par k 2 i i = 1
     Served s r 0x035 [span 11 0, span 63 63 + span 51 0] →
      (par k 2 63 63 = 1 → ns ≠ []) → (∀ i, i ∈ ns → shaftUp (shaft t i) = true) →
      ((ns.map fun i => (shaft t i).peer).eraseDups).length ≤ 1 → par k 1 11 0 ≠ t.devAddr →
      exec (.routeSet r) s = .next (replied s r { t with routes := Tab.set 0 t.routes (par k 1 11 0) (k.ws.getD 2 0) } stOk 0 0)))
  ∧
  (
  ∀ (s : State) (r : Fin 256),
    let t := consumed s r
    let k := callOf s r
    (Served s r 0x040 [span 5 0] →
      (t.bell.state = .off → exec (.bellJoin r) s = .next (putShadow { t with bell := { t.bell with
        state := .lock, addr := par k 1 5 0, cycles := 0, samples := [], spreads := 0, bad := 0, busy := false, isMaster := false
        next := none, heard := false, quiet := 0, leaving := false, cmd := some (r.val, k.seq) } } r)) ∧
      (t.bell.state ≠ .off → exec (.bellJoin r) s = .next (replied s r t stBellBusy 0 0))) ∧
    (Served s r 0x041 [] → exec (.bellLeave r) s = .next (replied s r
      (if t.bell.state = .off then t else if t.bell.state = .lock ∧ t.bell.cycles = 0 then leaveBell t
        else { t with bell := { t.bell with leaving := true } }) stOk 0 0)) ∧
    (let c := par k 1 2 0
     let n := par k 1 30 24
     let x := claim t c
     Served s r 0x042 [span 2 0 + span 13 8 + span 16 16 + span 30 24, whole] → inService x = true → 1 ≤ n → n ≤ 64 → x.pset = none →
      hostOk t (par k 2 63 0) (4 * n) = true →
      let es := (chunks 4 (hostRead t (par k 2 63 0) (4 * n))).map leNat
      let ms := es.map fun e => (bits e 5 0, bits e 27 16)
      (es.any fun e => bits e 31 28 != 0 || bits e 15 6 != 0) = false → (ms.any fun m => m.2 == t.devAddr) = true →
      let y := { x with members := ms, master := par k 1 13 8, sympathy := par k 1 16 16 == 1, fseen := [], tickAt := t.time, tickCyc := 32
                        tickSeen := false, tickLost := false }
      exec (.bellClaimSet r) s = .next (replied s r (setClaim t c (if isTickMaster t y then { y with offset := 0, slew := 0 } else y)) stOk 0 0)) ∧
    (Served s r 0x043 [whole] →
      let bs := wordsBytes ((List.range 9).map fun i => w64 (Tab.get 0 t.bell.count i))
      hostOk t (par k 1 63 0) bs.length = true →
      exec (.bellQuery r) s = .next (replied s r (hostWrite t (par k 1 63 0) bs) stOk (bellWord t.bell) 0)))
/-- Objects: creation maps every page to its frame; destruction waits for its effect; PIN, the descriptor's words and a
page's entry.
Hoists by command: a prefetch counts resident pages and waits for the others; an eviction waits for a page of T1; the
free-frame set, the fetch deadline and a branch table. -/
def Obligations.ObjectAndHoistCommands : Prop :=
  (
  ∀ (s : State) (r : Fin 256),
    let t := consumed s r
    let k := callOf s r
    let x := claim t k.c
    (let o := objOf (k.ws.getD 1 0) (k.ws.getD 2 0)
     let n := par k 3 11 0
     Served s r 0x101 [span 63 13, span 63 52 + span 7 4 + span 2 2, span 11 0, whole] → objStatus x n o = 0 →
      hostOk t (par k 4 63 0) (4 * o.pages) = true →
      let fs := words32 (hostRead t (par k 4 63 0) (4 * o.pages))
      exec (.objCreate r) s = .next (if frameStatus t k.c o fs = 0
        then replied s r (setClaim t k.c { setObj x n o with pages := Tab.setRun {} x.pages o.base (fs.map (newPte n o)) }) stOk 0 0
        else replied s r t (frameStatus t k.c o fs) 0 0)) ∧
    (let n := par k 1 11 0
     Served s r 0x102 [span 11 0] → (obj x n).live = true → (obj x n).dying = none →
      (objHeld x n = true → exec (.objDestroy r) s = .next (replied s r t stObjBusy 0 0)) ∧
      (objHeld x n = false →
        let u := setClaim t k.c (setObj x n { obj x n with dying := some (r.val, k.seq) })
        exec (.objDestroy r) s = .next (putShadow { u with
          hoists := u.hoists.map fun h => if h.claim = k.c ∧ (objPages x n).contains h.page then { h with doomed := true } else h } r))) ∧
    (Served s r 0x103 [span 11 0] → exec (.objQuery r) s = .next (replied s r t stOk (objWord0 (obj x (par k 1 11 0))) (objWord1 (obj x (par k 1 11 0))))) ∧
    (let n := par k 1 11 0
     Served s r 0x104 [span 12 0] → (obj x n).live = true → (obj x n).dying = none →
      exec (.objSetPin r) s = .next (replied s r (setClaim t k.c (setObj x n { obj x n with pin := par k 1 12 12 == 1 })) stOk 0 0)) ∧
    (let e := pte x (par k 1 47 21)
     Served s r 0x105 [vaBits] → exec (.pageQuery r) s = .next (replied s r t stOk (pteWord0 e) (at' e.raw.toNat 32))))
  ∧
  (
  ∀ (s : State) (r : Fin 256),
    let t := consumed s r
    let k := callOf s r
    let x := claim t k.c
    (Served s r 0x106 [vaBits, span 23 0] →
      let ps := (List.range (par k 2 23 0)).map (par k 1 47 21 + ·)
      let left := ps.filter fun p => !resident (pte x p)
      let here := ps.length - left.length
      (ps.any fun p => (pte x p).state == .unmapped) = false →
      exec (.hoistPrefetch r) s = .next (if left.isEmpty then replied s r t stOk here 0
        else putShadow (stallAll { t with fetches := t.fetches ++ [(r.val, k.seq, k.c, left, here, 0)] } k.c left (.prefetch r k.seq)) r)) ∧
    (let p := par k 1 47 21
     let e := pte x p
     Served s r 0x107 [vaBits] →
      (e.state = .unmapped → exec (.hoistEvict r) s = .next (replied s r t stAddrUnmapped 0 0)) ∧
      (e.state = .t1 → exec (.hoistEvict r) s = .next (replied s r t stWrongTier 0 0)) ∧
      (e.state = .t2 → exec (.hoistEvict r) s = .next (replied s r t stOk 0 0)) ∧
      (e.state = .clean ∨ e.state = .dirty → exec (.hoistEvict r) s = .next (
        if (obj x e.obj).pin then replied s r t stPagePinned 0 0 else putShadow { t with evicts := t.evicts ++ [(k.c, p, r.val, k.seq)] } r))) ∧
    (let n := 4 * par k 2 18 0
     let fs := words32 (hostRead t (par k 1 63 0) n)
     hostOk t (par k 1 63 0) n = true →
      (Served s r 0x108 [whole, span 18 0] → exec (.hoistFramesAdd r) s =
        .next (replied s r (assignHoists (addFrames t k.c fs).1) stOk (addFrames t k.c fs).2 0)) ∧
      (Served s r 0x109 [whole, span 18 0] →
        let rest := x.free.filter fun f => !fs.contains f
        exec (.hoistFramesRemove r) s = .next (replied s r (setClaim t k.c { x with free := rest }) stOk (x.free.length - rest.length) 0))) ∧
    (Served s r 0x10A [span 16 0] → 100 ≤ par k 1 16 0 → par k 1 16 0 ≤ 100000 →
      exec (.fetchDeadlineSet r) s = .next (replied s r (setClaim t k.c { x with deadline := par k 1 16 0 }) stOk 0 0)) ∧
    (∀ bs, Served s r 0x10B [span 7 0, vaBits] → Reads t k.c (par k 2 47 0) 256 bs →
      let u := noteVa t k.c (par k 2 47 0) 256
      let ws := bytesWords bs
      let es := (List.range 16).map fun i => (ws.getD (2 * i) 0, ws.getD (2 * i + 1) 0)
      (es.zipIdx.any fun e => branchBad e.2 e.1.2) = false →
      exec (.branchTableLoad r) s = .next (replied s r (setClaim u k.c { claim u k.c with branch := Tab.set [] (claim u k.c).branch (par k 1 7 0) es }) stOk 0 0)))
/-- Versions: a slot is built from its root, loads wait for their words, a slot is cancelled, a switch waits for its tick,
and the audit interval is set. -/
def Obligations.VersionCommands : Prop :=
  ∀ (s : State) (r : Fin 256),
    let t := consumed s r
    let k := callOf s r
    let x := claim t k.c
    let slot := par k 1 1 0
    (∀ bs, Served s r 0x201 [span 1 0 + span 31 16 + span 42 32, vaBits, span 12 0] → slotStatus x slot (par k 1 31 16) (par k 1 42 32) = 0 →
      Reads t k.c (par k 2 47 0) (8 * (8 * par k 1 42 32)) bs →
      let u := noteVa t k.c (par k 2 47 0) (8 * (8 * par k 1 42 32))
      let y := claim u k.c
      let es := rootEntries (bytesWords bs)
      let v : Ver := { state := .building, vid := par k 1 31 16, root := par k 2 47 0
                       mirror := if par k 3 12 12 = 1 then some (par k 3 11 0) else none
                       entries := es.map fun e => { e with loaded := sharedLoaded y e } }
      rootReserved (bytesWords bs) = false → entriesStatus y es = 0 →
      exec (.versionBuild r) s = .next (replied s r (settleSlots (setClaim u k.c (setVer y slot v)) k.c) stOk 0 0)) ∧
    (∀ e, Served s r 0x202 [span 1 0 + span 19 8, whole] → par k 1 19 18 ≠ 3 → par k 2 63 0 &&& sourceBits (par k 1 19 18) = par k 2 63 0 →
      (ver x slot).state ≠ .empty → verEntry x slot (par k 1 17 8) = some e → loadBusy x (ver x slot) e = false →
      let l : Load := { slot := slot, entry := par k 1 17 8, source := par k 1 19 18, arg := par k 2 63 0, ring := r, seq := k.seq
                        reload := (ver x slot).state != .building, ent := e, since := t.time }
      exec (.weightLoad r) s = .next (putShadow (setClaim t k.c { x with loads := x.loads ++ [l] }) r)) ∧
    (Served s r 0x203 [span 1 0] → ((ver x slot).state = .building ∨ (ver x slot).state = .ready) →
      (x.loads.any fun l => l.slot == slot) = false → switchTo x slot = false →
      exec (.versionCancel r) s = .next (replied s r (setClaim t k.c (setVer x slot {})) stOk 0 0)) ∧
    (let at0 := par k 2 47 0
     let n := firstBoundary x k.stamp
     Served s r 0x204 [span 1 0, span 47 0] → shiftNow x = .generation → (ver x slot).state = .ready → x.switch = none → (at0 = 0 ∨ n ≤ at0) →
      exec (.versionSwitch r) s = .next (putShadow (setClaim t k.c
        { setVer x slot { ver x slot with switchAt := if at0 = 0 then n else at0 } with switch := some (slot, at0, r.val, k.seq) }) r)) ∧
    (Served s r 0x205 [span 1 0, whole] →
      let ws := verWords t k.c slot
      hostOk t (par k 2 63 0) 24 = true →
      exec (.versionQuery r) s = .next (replied s r (hostWrite t (par k 2 63 0) (wordsBytes ws)) stOk (ws.getD 0 0).toNat 0)) ∧
    (Served s r 0x206 [span 31 0] → exec (.versionAuditSet r) s = .next (replied s r (setClaim t k.c { x with auditInt := par k 1 31 0 }) stOk 0 0))
/-- Serving: the configuration is set while no stream is live, and admission within the sampler's bounds.
Streams: an open is checked as R213 orders and copies its prompt; a cancel masks the stream's row; a park waits, a
release frees the slot, a query writes its twelve words. -/
def Obligations.ServingAndStreamCommands : Prop :=
  (
  ∀ (s : State) (r : Fin 256),
    let t := consumed s r
    let k := callOf s r
    let x := claim t k.c
    shiftNow x = .generation → liveStreams t k.c = [] →
    (∀ v, Served s r 0x301 [vaBits] → readServe t k.c (par k 1 47 0) = .ok v →
      let u := noteServe t k.c (par k 1 47 0)
      exec (.serveSet r) s =
        .next (replied s r (clearTubs (setClaim u k.c { claim u k.c with serve := some v, admission := none, freeing := [] }) k.c v) stOk 0 0)) ∧
    (∀ v, Served s r 0x302 [span 31 0] → x.serve = some v →
      let a : Admit := { td := par k 1 7 0, lanesD := par k 1 15 8, tp := par k 1 23 16, lanesP := par k 1 31 24 }
      admitRange a = true → max (decBound v) (preBound v) ≤ samplerCycles (periodAt x x.tick) →
      exec (.admitSet r) s = .next (replied s r (setClaim t k.c { x with admission := some a }) stOk (decBound v) (preBound v))))
  ∧
  (
  ∀ (s : State) (r : Fin 256),
    let t := consumed s r
    let k := callOf s r
    let n := par k 1 16 0
    let y := stream t n
    (∀ v a bs ps, Served s r 0x303 [span 16 0, vaBits, vaBits] → shiftNow (claim t k.c) = .generation → (claim t k.c).turn = none →
      (claim t k.c).serve = some v → (claim t k.c).admission = some a → Reads t k.c (par k 2 47 0) 96 bs →
      let u := noteVa t k.c (par k 2 47 0) 96
      let e := imageStream (bytesWords bs)
      entryReserved (bytesWords bs) = false → ownsStream (claim t k.c) n = true → (stream u n).state = .free →
      Reads u k.c (par k 3 47 0) (4 * e.prompt) ps →
      let w := noteVa u k.c (par k 3 47 0) (4 * e.prompt)
      openStatus w k.c v a e (words32 ps) = 0 →
      exec (.streamOpen r) s = .next (settleFoul (replied s r (openStream w k.c n e (words32 ps)) stOk w.time 0))) ∧
    (ownsStream (claim t k.c) n = true →
      (Served s r 0x304 [span 16 0] →
        (isLive y = true → exec (.streamCancel r) s = .next (replied s r (maskStream { setStream t n { y with state := .cancelling } with
          waits := t.waits.filter fun w => w.who != .opening n && w.who != .park n } n) stOk (streamCode y.state) 0)) ∧
        (isLive y = false → exec (.streamCancel r) s = .next (replied s r t stAlreadyDone (streamCode y.state) 0))) ∧
      (Served s r 0x305 [span 16 0, whole] → isLive y = true → y.park = none →
        exec (.streamPark r) s = .next (putShadow (setStream t n { y with park := some (r.val, k.seq, par k 2 63 0) }) r)) ∧
      (Served s r 0x306 [span 16 0] → y.state ≠ .free → isLive y = false → y.state ≠ .cancelling →
        exec (.streamRelease r) s = .next (replied s r (setStream t n {}) stOk 0 0)) ∧
      (Served s r 0x307 [span 16 0, whole] →
        let ws := entryWords y
        hostOk t (par k 2 63 0) 96 = true →
        exec (.streamQuery r) s = .next (replied s r (hostWrite t (par k 2 63 0) (wordsBytes ws)) stOk (ws.getD 0 0).toNat 0))))
/-- Tallies, the window, the tick period and the steering tables. -/
def Obligations.TallyCommands : Prop :=
  ∀ (s : State) (r : Fin 256),
    let t := consumed s r
    let k := callOf s r
    let x := claim t k.c
    let n := par k 1 11 0
    (Served s r 0x401 [span 11 0, whole, span 1 0] → ownsTally x n = true → exec (.tallySet r) s = .next (replied s r
      (setTally t n { tally t n with genBudget := par k 2 63 32, promptBudget := par k 2 31 0, active := par k 3 0 0 == 1 }) stOk 0 0)) ∧
    (Served s r 0x402 [span 11 0, whole] → ownsTally x n = true →
      let bs := wordsBytes (slotWords (tally t n))
      hostOk t (par k 2 63 0) bs.length = true → exec (.tallyQuery r) s = .next (replied s r (hostWrite t (par k 2 63 0) bs) stOk 0 0)) ∧
    (Served s r 0x403 [span 15 0] → par k 1 15 0 ≠ 0 →
      exec (.tallyWindowSet r) s = .next (replied s r (setClaim t k.c { x with winPend := some (par k 1 15 0, k.stamp) }) stOk 0 0)) ∧
    (let p := par k 1 13 0
     let m := par k 2 47 0
     Served s r 0x404 [span 13 0, span 47 0] → tickSetStatus t k.c p m k.stamp = 0 →
      exec (.tickSet r) s = .next (replied s r (queueTick (setClaim t k.c { x with
        tickPend := some (x.period, x.origin, x.originNum, m), period := p, originNum := m
        origin := x.origin + (m - x.originNum) * x.period * 1000 }) k.c) stOk 0 0)) ∧
    (let m := 8192 * par k 3 31 0
     Served s r 0x405 [span 11 0, whole, span 31 0] → par k 3 31 0 % 16 = 0 → objThere x n = true → (obj x n).t2home = false →
      m ≤ objBytes x n → liveStreams t k.c = [] → hostOk t (par k 2 63 0) m = true → access x (.request none) (objBase x n) m = .ok →
      exec (.steerBasisLoad r) s = .next (replied s r (vaStore t k.c (objBase x n) (hostRead t (par k 2 63 0) m)) stOk 0 0)) ∧
    (∀ v, Served s r 0x406 [span 11 0, whole] → ownsTally x n = true → x.serve = some v → hostOk t (par k 2 63 0) 8192 = true →
      access x (.request none) (objBase x v.steerTab + 8192 * n) 8192 = .ok →
      exec (.steerSet r) s = .next (replied s r (vaStore t k.c (objBase x v.steerTab + 8192 * n) (hostRead t (par k 2 63 0) 8192)) stOk 0 0))
/-- Training: a pass waits for its request's end and may be aborted; a sweep, a turn and a replica assay wait for theirs;
STEP_SET gives the step.
Collective groups and collectives, the canary and the ledger check. -/
def Obligations.TrainingCommands : Prop :=
  (
  ∀ (s : State) (r : Fin 256),
    let t := consumed s r
    let k := callOf s r
    let x := claim t k.c
    (∀ l, let u := setRing t r { ring t r with passes := (ring t r).passes ++ [k.seq] }
      Served s r 0x501 [span 63 56 + vaBits, whole, span 63 56 + vaBits] → mixedGood (k.ws.getD 2 0) = true → shiftNow x = .learning →
      par k 1 63 56 ≠ 0 → progList u k.c (par k 1 47 0) (par k 1 63 56) = .ok l →
      (∀ p, p ∈ l → x.units.getLsbD (p.face / 8) = true) →
      let f := freshId (noteRead u k.c (par k 1 47 0) (16 * par k 1 63 56))
      exec (.passStart r) s = .next (putShadow { f.2 with reqs := f.2.reqs ++ [passReq k f.1 l] } r)) ∧
    (∀ q, Served s r 0x502 [span 31 0] → t.reqs.find? (fun q => q.cmd == some (r.val, w32 (par k 1 31 0))) = some q →
      exec (.passAbort r) s = .next (replied s r (failRequest t q.id stRequestAborted) stOk 0 0)) ∧
    (∀ bs, let n := par k 2 20 0
      Served s r 0x503 [vaBits, span 20 0, vaBits, vaBits, span 31 0] → shiftNow x = .learning → x.turn = none → x.sweep = none → 1 ≤ n → n ≤ 1048576 →
      Reads t k.c (par k 1 47 0) (8 * (8 * n)) bs →
      let u := noteVa t k.c (par k 1 47 0) (8 * (8 * n))
      let w : Sweep :=
        { descs := chunks 8 (bytesWords bs), hyper := par k 3 47 0, fails := par k 4 47 0, flen := par k 5 31 0, ring := r, seq := k.seq
          stamp := k.stamp, due := false, started := false, recs := [], done := [], updated := 0, failed := 0, sums := []
          near := [], dropped := 0 }
      exec (.sweep r) s = .next (putShadow (setClaim u k.c { claim u k.c with sweep := some w }) r)) ∧
    (Served s r 0x504 [whole] → x.sweep = none →
      exec (.stepSet r) s = .next (replied s r (setClaim t k.c { x with step := (k.ws.getD 1 0).toNat }) stOk 0 0)) ∧
    (∀ u, Served s r 0x505 [span 32 0, span 63 56 + vaBits, vaBits, span 1 0 + span 31 16 + span 41 32, vaBits] → readTurn t k = .ok u →
      let v := noteTurn t k
      exec (.turn r) s = .next (putShadow (setClaim v k.c { claim v k.c with turn := some u }) r)) ∧
    (∀ l, Served s r 0x506 [span 63 54 + vaBits, span 33 0, span 63 52 + vaBits, span 31 0, vaBits] → par k 2 33 32 ≠ 3 → assayLists t k = .ok l →
      let a : Assay :=
        { id := w32 (par k 2 31 0), ranges := l.1, compare := par k 2 33 32, peers := l.2, timeout := par k 4 31 0, out := par k 5 47 0
          ring := r, seq := k.seq, stamp := k.stamp, since := 0, running := false, digests := [], heard := [] }
      let u := noteAll t k.c [(par k 1 47 0, 16 * (par k 1 63 54 + 1)), (par k 3 47 0, 2 * par k 3 63 52)]
      exec (.replicaAssay r) s = .next (putShadow (setClaim u k.c { claim u k.c with assays := (claim u k.c).assays ++ [a] }) r)))
  ∧
  (
  ∀ (s : State) (r : Fin 256),
    let t := consumed s r
    let k := callOf s r
    let x := claim t k.c
    (∀ bs, let n := par k 1 28 16
      let g := par k 1 5 0
      Served s r 0x601 [span 5 0 + span 28 16, vaBits] → 1 ≤ n → n ≤ 4096 → Reads t k.c (par k 2 47 0) (2 * n) bs →
      let u := noteVa t k.c (par k 2 47 0) (2 * n)
      let y := claim u k.c
      let rs := (chunks 2 bs).map leNat
      (rs.any fun a => 4096 ≤ a) = false → (rs.filter (· == u.devAddr)).length = 1 → (y.colls.any fun c => c.group == g) = false →
      let old := match group y g with | some o => o.issued | none => 0
      let z : Group := { ranks := rs, self := (rs.findIdx? (· == u.devAddr)).getD 0, issued := old }
      exec (.collGroupSet r) s = .next (replied s r (setClaim u k.c { y with groups := Tab.set none y.groups g (some z) }) stOk 0 0)) ∧
    (∀ bs, Served s r 0x602 [vaBits] → Reads t k.c (par k 1 47 0) 72 bs →
      let u := noteVa t k.c (par k 1 47 0) 72
      let ws := bytesWords bs
      descStatus (claim u k.c) ws = 0 →
      exec (.collIssue r) s = .next (replied s r (acceptColl u k.c ws k.stamp) stOk 0 0)) ∧
    (Served s r 0x701 [span 63 16 + span 1 0, vaBits] → par k 1 1 0 ≠ 3 →
      exec (.canarySet r) s = .next (replied s r (setClaim t k.c { x with canPend := some (k.ws.getD 1 0, par k 2 47 0) }) stOk 0 0)) ∧
    (Served s r 0x702 [whole] →
      let bs := leBytes 8 x.canary.toNat ++ (List.range 256).flatMap fun n => leBytes 2 (Tab.get 0 x.still n)
      hostOk t (par k 1 63 0) bs.length = true →
      exec (.canaryQuery r) s = .next (replied s r (hostWrite t (par k 1 63 0) bs) stOk x.canary.toNat 0)) ∧
    (Served s r 0x703 [] → exec (.canaryClear r) s =
      .next (replied s r (match x.canTab with | some va => zeroTable t k.c va | none => t) stOk 0 0)) ∧
    (Served s r 0x704 [vaBits, vaBits, span 32 0 + span 63 48] →
      let l : Ledger := { records := par k 1 47 0, values := par k 2 47 0, count := par k 3 31 0, field := par k 3 32 32, version := par k 3 63 48
                          ring := r, seq := k.seq }
      exec (.ledgerCheck r) s = .next (putShadow (ledgerTry (setClaim t k.c { x with ledgers := x.ledgers ++ [l] }) k.c r k.seq) r)))
/-- The winder's settings, entry to a power state, firmware and the sump. -/
def Obligations.DeviceCommands : Prop :=
  ∀ (s : State) (r : Fin 256),
    let t := consumed s r
    let k := callOf s r
    let w := t.winder
    let n := par k 1 4 0
    (let cap := par k 1 12 0
     Served s r 0x801 [span 12 0] → 1 ≤ cap → cap ≤ 3600 → exec (.capSet r) s =
      .next (replied s r { t with winder := { w with capHost := cap } } (if cap < w.floor then stCapBelowFloor else stOk) w.floor 0)) ∧
    (Served s r 0x802 [] → exec (.capFloor r) s = .next (replied s r t stOk w.floor 0)) ∧
    (let l := [par k 1 5 4, par k 1 3 2, par k 1 1 0]
     Served s r 0x803 [span 5 0] → l.contains 3 = false → l.eraseDups.length = 3 →
      exec (.winderPrioritySet r) s = .next (replied s r { t with winder := { w with order := l } } stOk 0 0)) ∧
    (Served s r 0x804 [span 4 0 + span 8 8] → n ≤ 11 →
      exec (.opFix r) s = .next (replied s r { t with winder := { w with fix := if par k 1 8 8 = 1 then some n else none } } stOk 0 0)) ∧
    (Served s r 0x805 [span 4 0] → n ≤ 18 → exec (.opLimit r) s = .next (replied s r { t with winder := { w with limit := n } } stOk 0 0)) ∧
    (Served s r 0x806 [whole] → hostOk t (par k 1 63 0) 256 = true →
      exec (.winderQuery r) s = .next (replied s r (hostWrite t (par k 1 63 0) (wordsBytes (winderWords w))) stOk 0 0)) ∧
    (let bs := (List.range 4).filter (par k 1 3 0).testBit
     let capped := bs.filter fun b => (Tab.get none w.margin b).isSome
     Served s r 0x808 [span 3 0] → par k 1 3 0 ≠ 0 → 
      let v := bs.foldl (fun (w : Winder) b => { w with margin := Tab.set none w.margin b none, trim := Tab.set 0 w.trim b 0 }) w
      exec (.marginClear r) s = .next (replied s r { t with winder := v }
      stOk ((capped.map (2 ^ ·)).foldl (· + ·) 0) 0)) ∧
    (Served s r 0x807 [span 2 0, whole] →
      (∀ m, par k 1 2 0 = m → (m = 1 ∨ m = 2 ∨ m = 4) → exec (.powerStateSet r) s = .next (if powerBusy t then replied s r t stPowerBusy 0 0
        else putShadow { t with entry := some { target := powerOf m, cmd := some (r.val, k.seq), retained := hostRead t (par k 2 63 0) 0, wake := false } } r)) ∧
      (par k 1 2 0 = 3 → hostOk t (par k 2 63 0) 128 = true → someSet ((hostRead t (par k 2 63 0) 128).drop 97) = false → powerBusy t = false →
        let e : Entry := { target := .s3, cmd := some (r.val, k.seq), retained := hostRead t (par k 2 63 0) 128, wake := false }
        exec (.powerStateSet r) s = .next (putShadow { t with entry := some e } r))) ∧
    (Served s r 0x901 [whole, span 31 0] →
      let b := if t.boot.staging.isEmpty then setInactive t.boot none else t.boot
      exec (.fwStage r) s = .next (putShadow { t with boot := { b with staging := b.staging ++ [(r.val, k.seq, par k 1 63 0, par k 2 31 0)] } } r)) ∧
    (∀ q a len rest, firmwareRuns s = true → s.boot.staging = (r.val, q, a, len) :: rest → hostOk s a len = true →
      let st := verifyImage (hostRead s a len) 1 s.boot.ctr0
      let b := setInactive { s.boot with staging := rest } (if rest.isEmpty && st == 0 then some (fwOf (hostRead s a len)) else none)
      exec (.fwStageDone r) s = .next (reply { s with boot := b } r q st 0 0)) ∧
    (Served s r 0x902 [] → (staged t.boot).isSome = true →
      let u := replied s r { t with boot := { flipSel t.boot with warm := true } } stOk 0 0
      exec (.fwActivate r) s = .next (warmReset u)) ∧
    (Served s r 0x903 [] → exec (.fwQuery r) s = .next (replied s r t stOk (versionOf t.boot.running) (versionOf (staged t.boot)))) ∧
    (let m := par k 2 24 12
     let rs := sumpRecords t.sump (par k 2 11 0) m
     Served s r 0xA01 [whole, span 24 0] → 1 ≤ m → m ≤ 4096 → hostOk t (par k 1 63 0) (rs.map recordBytes).flatten.length = true →
      exec (.sumpRead r) s = .next (replied s r (hostWrite t (par k 1 63 0) (rs.map recordBytes).flatten) stOk
        (rs.filter fun ws => !ws.isEmpty).length t.sump.head))

/-! ### Of the whole device -/

/-- Every command leaves every table of the device in canonical form: whichever command waits at the front, and whatever
state of canonical form it meets, equal contents stay equal data. -/
def Obligations.StepKeepsCanonicalForm : Prop :=
  ∀ (s t : State), s.canonical = true → step s = .next t → t.canonical = true
/-- A step takes the command at the front of the queue and no other; on an empty queue device time reaches the next
multiple of 40 ns, in S0 to S2 while PERST_N is deasserted, and nothing else happens (the model's choice, log 11); no step ends in a fault or a refusal. -/
def Obligations.StepTakesOneCommand : Prop :=
  ∀ (s : State), stepsOn s ∧ (∀ t, step s = .next t → t.pending = s.pending.drop 1) ∧ (s.pending = [] → step s = .next (if (s.power = .s0 ∨ s.power = .s1 ∨ s.power = .s2) ∧ s.pins.perst = false
      then { s with time := (s.time / 40 * 40 + 40) % 2 ^ 64, elapsed := 0 } else s))
/-- Reset: every table is in canonical form and lists nothing, but for the ring table, which lists ring 0, the management ring of the
physical function, and no other ring is bound; no command waits, the device is in S0 with the boot held, and no error stands. -/
def Obligations.ResetState : Prop :=
  let s := State.reset
  s.canonical = true ∧ s.pending = [] ∧ s.power = .s0 ∧ s.boot.stage = .held ∧ s.fatal = false ∧
  (s.claims = [] ∧ s.streams = [] ∧ s.tallies = [] ∧ s.reqs = [] ∧ s.batches = [] ∧ s.faces = []) ∧
  (s.t1 = [] ∧ s.t2 = [] ∧ s.host = [] ∧ s.hostBad = [] ∧ s.hoists = [] ∧ s.waits = [] ∧ s.fetches = [] ∧ s.evicts = [] ∧
    s.retired = [] ∧ s.fenced = [] ∧ s.foul = [] ∧ s.t2Errs = []) ∧
  (s.outqs = [] ∧ s.fns = [] ∧ s.msix = [] ∧ s.shafts = [] ∧ s.routes = [] ∧ s.rxctx = [] ∧ s.descs = [] ∧ s.fabric = []) ∧
  (s.bell.seen = [] ∧ s.bell.count = [] ∧ s.bell.queue = [] ∧ s.winder.reasons = [] ∧ s.winder.symp = [] ∧
    s.sump.recs = [] ∧ s.sump.pending = [] ∧ s.sump.waiting = [] ∧ s.side.held = []) ∧
  s.rings.map Prod.fst = [0] ∧ (ring s 0).bound = true ∧ (ring s 0).cls = .management ∧ (ring s 0).fn = 0 ∧
  (∀ r, r ≠ 0 → (ring s r).bound = false)
/-- The memory code: a stored word reads as what was stored, and any one or any two flipped bits are corrected. -/
def Obligations.MemoryCodeCorrects : Prop :=
  ∀ (d : W64) (p : Bool),
    let w := storeP ⟨d, p⟩
    decode80 w = (w, .clean) ∧ readP w = (if p then ⟨0, true⟩ else ⟨d, false⟩) ∧
    (∀ i : Fin 80, decode80 (flip w i) = (w, .fixed 1)) ∧
    (∀ i j : Fin 80, i < j → decode80 (flip (flip w i) j) = (w, .fixed 2))
/-- A word written reads back, with data 0 where it is poisoned, and every other word of every tier reads as before; a
fenced T2 controller's words stay poisoned; bytes written to host memory read back, and no others change. -/
def Obligations.MemoryReads : Prop :=
  ∀ (s : State), s.canonical = true →
    (∀ (l : Loc) (i : Nat) (w : PWord), isFenced s l i = false →
      readWord (putWord s l i w) l i = (if w.poison then ⟨0, true⟩ else w)) ∧
    (∀ (l m : Loc) (i j : Nat) (w : PWord), (l ≠ m ∨ i ≠ j) → readWord (putWord s l i w) m j = readWord s m j) ∧
    (∀ (l : Loc) (i : Nat), isFenced s l i = true → readWord s l i = ⟨0, true⟩) ∧
    (∀ (a : Nat) (bs : List Byte), hostRead (hostWrite s a bs) a bs.length = bs) ∧
    (∀ (a b : Nat) (bs : List Byte), (b < a ∨ a + bs.length ≤ b) → hostRead (hostWrite s a bs) b 1 = hostRead s b 1)
/-- R30: a new claim starts in the generation shift, with layout epoch 0 and no program set. -/
def Obligations.NewClaimStarts : Prop :=
  ∀ (s : State) (d : List Byte) (salt : BitVec 128) (now : Nat), s.canonical = true →
    let x := claim (startClaim s (dsc d 0 1) d salt now) (dsc d 0 1)
    x.live = true ∧ x.shift = .generation ∧ x.epoch = 0 ∧ x.serve = none ∧ x.admission = none
/-- R33: a turn during a turn of the claim is refused with TURN_IN_PROGRESS, and a stream is opened neither in the learning
shift nor during a turn. -/
def Obligations.TurnRefusals : Prop :=
  ∀ (s : State) (r : Fin 256),
    let t := consumed s r
    let k := callOf s r
    let x := claim t k.c
    (Served s r 0x505 [span 32 0, span 63 56 + vaBits, vaBits, span 1 0 + span 31 16 + span 41 32, vaBits] → x.turn ≠ none →
      (par k 1 32 32 = 1 → ∀ i, 3 ≤ i → i ≤ 5 → k.ws.getD i 0 = 0) →
      exec (.turn r) s = .next (replied s r t stTurnInProgress 0 0)) ∧
    (Served s r 0x303 [span 16 0, vaBits, vaBits] → (x.shift = .learning ∨ x.turn ≠ none) →
      exec (.streamOpen r) s = .next (settleFoul (replied s r t stWrongShift 0 0)))
/-- R347: TALLY_SET writes words 0 and 1 of a slot of the claim and no other, TALLY_QUERY writes all twelve words to the
host, and a slot outside the claim's blocks is TENANT_NOT_OWNED. -/
def Obligations.TallySlots : Prop :=
  ∀ (s : State) (r : Fin 256),
    let t := consumed s r
    let k := callOf s r
    let n := par k 1 11 0
    (Served s r 0x401 [span 11 0, whole, span 1 0] →
      (ownsTally (claim t k.c) n = true → ∃ y : Tally, exec (.tallySet r) s = .next (replied s r (setTally t n y) stOk 0 0) ∧
        (slotWords y).take 1 = [k.ws.getD 2 0] ∧ (slotWords y).getD 1 0 = w64 (2 * b2n (tally t n).held + par k 3 0 0) ∧
        (slotWords y).drop 2 = (slotWords (tally t n)).drop 2) ∧
      (ownsTally (claim t k.c) n = false → exec (.tallySet r) s = .next (replied s r t stTenantNotOwned 0 0))) ∧
    (Served s r 0x402 [span 11 0, whole] →
      (ownsTally (claim t k.c) n = true → hostOk t (par k 2 63 0) 96 = true →
        exec (.tallyQuery r) s = .next (replied s r (hostWrite t (par k 2 63 0) (wordsBytes (slotWords (tally t n)))) stOk 0 0)) ∧
      (ownsTally (claim t k.c) n = false → exec (.tallyQuery r) s = .next (replied s r t stTenantNotOwned 0 0)))
/-- R364: a packet with FENCE set is consumed only when no earlier packet of its ring is without its reply, whatever
stands on other rings. -/
def Obligations.FenceOrdersItsRing : Prop :=
  ∀ (s : State) (r : Nat), nextRing s = some r → hostOk s (packetAt (ring s r)) 64 = true → bit (hostWord s (packetAt (ring s r))) 51 = true →
    (ring s r).out = [] ∧ ∀ rs, ringReady { s with rings := rs } (ring s r) = true
end

