-- ==== Sys2Proof/Laws/Tab.lean ====
section
/-!
SUPPORT. Sparse storage: what a number reads as after a write, and that every write keeps the canonical form.
-/
namespace Sys2Proof.Machine
open Sys2Proof

variable {α : Type} [DecidableEq α]

theorem Tab.okFrom_mono {d : α} {lo hi : Nat} {t : Tab α} (h : Tab.okFrom d hi t = true) (hl : lo ≤ hi) :
    Tab.okFrom d lo t = true := by
  cases t with
  | nil => rfl
  | cons p t =>
    obtain ⟨k, v⟩ := p
    simp only [Tab.okFrom, Bool.and_eq_true, decide_eq_true_eq] at h ⊢
    exact ⟨⟨by omega, h.1.2⟩, h.2⟩

/-- A number below the first listed one reads as the default. -/
theorem Tab.get_of_okFrom {d : α} {lo k : Nat} {t : Tab α} (h : Tab.okFrom d lo t = true) (hk : k < lo) : Tab.get d t k = d := by
  induction t generalizing lo with
  | nil => rfl
  | cons p t ih =>
    obtain ⟨i, v⟩ := p
    simp only [Tab.okFrom, Bool.and_eq_true, decide_eq_true_eq] at h
    have hne : i ≠ k := by omega
    simp only [Tab.get, hne, ite_false]
    exact ih h.2 (by omega)

/-- A number reads as what was last written to it, and every other number as before. -/
theorem Tab.get_set {d : α} {lo : Nat} {t : Tab α} (h : Tab.okFrom d lo t = true) (k j : Nat) (v : α) :
    Tab.get d (Tab.set d t k v) j = if j = k then v else Tab.get d t j := by
  induction t generalizing lo with
  | nil =>
    by_cases hv : v = d <;> by_cases hj : j = k <;> simp [Tab.set, Tab.get, hv, hj]
    intro h'; exact absurd h'.symm hj
  | cons p t ih =>
    obtain ⟨i, w⟩ := p
    simp only [Tab.okFrom, Bool.and_eq_true, decide_eq_true_eq] at h
    simp only [Tab.set]
    split
    · by_cases hi : i = j
      · subst hi
        have : ¬ i = k := by omega
        simp [Tab.get, this]
      · simp only [Tab.get, hi, ite_false, ih h.2]
    · split
      · rename_i hik
        split
        · rename_i hv
          by_cases hj : j = k
          · subst hj; subst hik; simp [hv, Tab.get_of_okFrom h.2 (Nat.lt_succ_self _)]
          · have : ¬ i = j := by omega
            simp [Tab.get, hj, this]
        · by_cases hj : j = k
          · simp [Tab.get, hj]
          · have h1 : ¬ k = j := by omega
            have h2 : ¬ i = j := by omega
            simp [Tab.get, hj, h1, h2]
      · split
        · rename_i hv
          by_cases hj : j = k
          · subst hj
            have hij : ¬ i = j := by omega
            have hd : Tab.get d t j = d := Tab.get_of_okFrom h.2 (by omega)
            simp [Tab.get, hv, hij, hd]
          · simp [hj]
        · by_cases hj : j = k
          · simp [Tab.get, hj]
          · have h1 : ¬ k = j := by omega
            simp [Tab.get, hj, h1]

theorem Tab.okFrom_set {d : α} {lo : Nat} {t : Tab α} (h : Tab.okFrom d lo t = true) (k : Nat) (hk : lo ≤ k) (v : α) :
    Tab.okFrom d lo (Tab.set d t k v) = true := by
  induction t generalizing lo with
  | nil => by_cases hv : v = d <;> simp [Tab.set, Tab.okFrom, hv, hk]
  | cons p t ih =>
    obtain ⟨i, w⟩ := p
    have h0 := h
    simp only [Tab.okFrom, Bool.and_eq_true, decide_eq_true_eq] at h
    simp only [Tab.set]
    split
    · simp only [Tab.okFrom, Bool.and_eq_true, decide_eq_true_eq]
      exact ⟨⟨h.1.1, h.1.2⟩, ih h.2 (by omega)⟩
    · split
      · rename_i hik
        split
        · exact Tab.okFrom_mono h.2 (by omega)
        · rename_i hv
          simp only [Tab.okFrom, Bool.and_eq_true, decide_eq_true_eq]
          exact ⟨⟨hk, hv⟩, by rw [← hik]; exact h.2⟩
      · split
        · exact h0
        · rename_i hv
          simp only [Tab.okFrom, Bool.and_eq_true, decide_eq_true_eq]
          exact ⟨⟨hk, hv⟩, ⟨by omega, h.1.2⟩, h.2⟩

theorem Tab.okFrom_filter {d : α} {lo : Nat} {t : Tab α} (h : Tab.okFrom d lo t = true) (p : Nat × α → Bool) :
    Tab.okFrom d lo (t.filter p) = true := by
  induction t generalizing lo with
  | nil => rfl
  | cons e t ih =>
    obtain ⟨i, w⟩ := e
    simp only [Tab.okFrom, Bool.and_eq_true, decide_eq_true_eq] at h
    simp only [List.filter]
    split
    · simp only [Tab.okFrom, Bool.and_eq_true, decide_eq_true_eq]
      exact ⟨⟨h.1.1, h.1.2⟩, ih h.2⟩
    · exact Tab.okFrom_mono (ih h.2) (by omega)

/-! ### The canonical form -/

@[simp] theorem Tab.wf_nil (d : α) : Tab.wf d [] = true := rfl
/-- A write keeps the canonical form. -/
theorem Tab.wf_set {d : α} {t : Tab α} (h : Tab.wf d t = true) (k : Nat) (v : α) : Tab.wf d (Tab.set d t k v) = true :=
  Tab.okFrom_set h k (Nat.zero_le k) v
theorem Tab.wf_filter {d : α} {t : Tab α} (h : Tab.wf d t = true) (p : Nat × α → Bool) : Tab.wf d (t.filter p) = true :=
  Tab.okFrom_filter h p
theorem Tab.wf_setRun {d : α} {t : Tab α} (h : Tab.wf d t = true) (k : Nat) (vs : List α) : Tab.wf d (Tab.setRun d t k vs) = true := by
  induction vs generalizing t k with
  | nil => exact h
  | cons v vs ih => exact ih (Tab.wf_set h k v) (k + 1)
/-- Storage in canonical form reads what was last written, and every other number as before. -/
theorem Tab.get_set_wf {d : α} {t : Tab α} (h : Tab.wf d t = true) (k j : Nat) (v : α) :
    Tab.get d (Tab.set d t k v) j = if j = k then v else Tab.get d t j := Tab.get_set h k j v
theorem Tab.get_setRun {d : α} {t : Tab α} (h : Tab.wf d t = true) (k j : Nat) (vs : List α) :
    Tab.get d (Tab.setRun d t k vs) j = if k ≤ j ∧ j < k + vs.length then vs.getD (j - k) d else Tab.get d t j := by
  induction vs generalizing t k with
  | nil =>
    have hn : ¬ (k ≤ j ∧ j < k + ([] : List α).length) := by simp only [List.length_nil]; omega
    rw [if_neg hn]; rfl
  | cons v vs ih =>
    rw [Tab.setRun, ih (Tab.wf_set h k v), Tab.get_set_wf h]
    simp only [List.length_cons]
    by_cases hj : j = k
    · subst hj
      rw [if_neg (by omega), if_pos rfl, if_pos (by omega)]
      simp
    · rw [if_neg hj]
      by_cases h2 : k + 1 ≤ j ∧ j < k + 1 + vs.length
      · have h4 : j - k = (j - (k + 1)) + 1 := by omega
        rw [if_pos h2, if_pos (by omega), h4, List.getD_cons_succ]
      · rw [if_neg h2, if_neg (by omega)]
/-- Two canonical tables that read alike are the same table. -/
theorem Tab.ext_wf {d : α} {t u : Tab α} (ht : Tab.wf d t = true) (hu : Tab.wf d u = true) (h : ∀ k, Tab.get d t k = Tab.get d u k) : t = u := by
  suffices ∀ (lo : Nat) (t u : Tab α), Tab.okFrom d lo t = true → Tab.okFrom d lo u = true → (∀ k, lo ≤ k → Tab.get d t k = Tab.get d u k) → t = u from
    this 0 t u ht hu fun k _ => h k
  intro lo t
  induction t generalizing lo with
  | nil =>
    intro u _ hu h
    cases u with
    | nil => rfl
    | cons p u =>
      obtain ⟨i, w⟩ := p
      simp only [Tab.okFrom, Bool.and_eq_true, decide_eq_true_eq] at hu
      have := h i hu.1.1
      simp [Tab.get] at this
      exact absurd this.symm hu.1.2
  | cons p t ih =>
    obtain ⟨i, v⟩ := p
    intro u ht hu h
    cases u with
    | nil =>
      simp only [Tab.okFrom, Bool.and_eq_true, decide_eq_true_eq] at ht
      have := h i ht.1.1
      simp [Tab.get] at this
      exact absurd this ht.1.2
    | cons q u =>
      obtain ⟨j, w⟩ := q
      simp only [Tab.okFrom, Bool.and_eq_true, decide_eq_true_eq] at ht hu
      have hij : i = j := by
        rcases Nat.lt_trichotomy i j with hlt | heq | hgt
        · have := h i ht.1.1
          have hne : ¬ j = i := by omega
          rw [Tab.get, if_pos rfl, Tab.get, if_neg hne, Tab.get_of_okFrom hu.2 (by omega)] at this
          exact absurd this ht.1.2
        · exact heq
        · have := h j hu.1.1
          have hne : ¬ i = j := by omega
          rw [Tab.get, if_neg hne, Tab.get_of_okFrom ht.2 (by omega), Tab.get, if_pos rfl] at this
          exact absurd this.symm hu.1.2
      subst hij
      have hv : v = w := by have := h i ht.1.1; simpa [Tab.get] using this
      subst hv
      have : t = u := ih (i + 1) u ht.2 hu.2 fun k hk => by
        have := h k (by omega)
        have hne : ¬ i = k := by omega
        simpa [Tab.get, hne] using this
      rw [this]

/-- A second write to one number replaces the first. -/
theorem Tab.set_set {d : α} {t : Tab α} (h : Tab.wf d t = true) (k : Nat) (v w : α) :
    Tab.set d (Tab.set d t k v) k w = Tab.set d t k w := by
  refine Tab.ext_wf (Tab.wf_set (Tab.wf_set h k v) k w) (Tab.wf_set h k w) fun j => ?_
  rw [Tab.get_set_wf (Tab.wf_set h k v), Tab.get_set_wf h, Tab.get_set_wf h]
  split <;> rfl

end Sys2Proof.Machine
end

