-- ==== Sys2Proof/Laws/Bytes.lean ====
section
/-!
SUPPORT. Lengths of byte strings, and bytes that spell a number.
-/
namespace Sys2Proof.Machine
open Sys2Proof

@[simp] theorem leBytes_length (n x : Nat) : (leBytes n x).length = n := by
  induction n generalizing x with
  | zero => rfl
  | succ n ih => simp [leBytes, ih]
@[simp] theorem wordsBytes_length (ws : List W64) : (wordsBytes ws).length = 8 * ws.length := by
  induction ws with
  | nil => rfl
  | cons w ws ih => simp only [wordsBytes, List.flatMap_cons, List.length_append, leBytes_length, List.length_cons] at *; omega
@[simp] theorem hostRead_length (s : State) (a n : Nat) : (hostRead s a n).length = n := by simp [hostRead]
/-- The bytes of a number spell it again, modulo their width. -/
theorem leNat_leBytes (n x : Nat) : leNat (leBytes n x) = x % 2 ^ (8 * n) := by
  induction n generalizing x with
  | zero => simp [leBytes, leNat, Nat.mod_one]
  | succ n ih =>
    have h8 : 2 ^ (8 * (n + 1)) = 256 * 2 ^ (8 * n) := by rw [Nat.mul_add, Nat.pow_add, Nat.mul_comm]
    have hb : (byte x).toNat = x % 256 := by simp [byte]
    rw [leBytes, leNat, ih, hb, h8, Nat.mod_mul]
/-- A number of n bytes stays below 2^(8n). -/
theorem leNat_lt (bs : List Byte) : leNat bs < 2 ^ (8 * bs.length) := by
  induction bs with
  | nil => simp [leNat]
  | cons b bs ih =>
    have h8 : 2 ^ (8 * (bs.length + 1)) = 256 * 2 ^ (8 * bs.length) := by rw [Nat.mul_add, Nat.pow_add, Nat.mul_comm]
    have hb : b.toNat < 256 := b.isLt
    rw [leNat, List.length_cons, h8]
    omega
/-- Host memory reads what was last written to it, and every other byte as before. -/
theorem host_get_hostWrite {s : State} (h : Tab.wf 0 s.host = true) (a b : Nat) (bs : List Byte) :
    Tab.get 0 (hostWrite s a bs).host b = if a ≤ b ∧ b < a + bs.length then bs.getD (b - a) 0 else Tab.get 0 s.host b :=
  Tab.get_setRun h a b bs

end Sys2Proof.Machine
end

