-- ==== Sys2Proof/Laws/Kept.lean ====
section
/-!
SUPPORT. What no operation of the device does: none takes a command from the queue or adds one, and none leaves a
table out of canonical form. `Kept s t` says so of a state `t` made from `s`; the lemmas here give it for an update of
fields, and one lemma for each shared operation, in the files beside this one, for what the operation makes.
-/
namespace Sys2Proof.Machine
open Sys2Proof

/-- State `t`, made from `s`, has the same commands waiting, and its tables are canonical where those of `s` are. -/
structure Kept (s t : State) : Prop where
  queue : t.pending = s.pending
  canon : s.canonical = true → t.canonical = true

theorem Kept.refl (s : State) : Kept s s := ⟨rfl, id⟩
theorem Kept.trans {s t u : State} (h : Kept s t) (k : Kept t u) : Kept s u := ⟨k.queue.trans h.queue, k.canon ∘ h.canon⟩

/-! ### The tables of a canonical state -/

/-- The table of faces: canonical, and each face's T0 canonical. -/
def facesWf (t : Tab Face) : Bool := Tab.wf {} t && t.all fun e => Tab.wf 0 e.2.t0

theorem canonical_iff (s : State) : s.canonical = true ↔
    Tab.wf 0 s.t1 = true ∧ Tab.wf 0 s.t2 = true ∧ Tab.wf 0 s.host = true ∧ facesWf s.faces = true ∧ Tab.wf {} s.claims = true ∧
    Tab.wf {} s.streams = true ∧ Tab.wf {} s.tallies = true ∧ Tab.wf {} s.rings = true ∧ Tab.wf {} s.outqs = true ∧
    Tab.wf {} s.fns = true ∧ Tab.wf {} s.msix = true ∧ Tab.wf {} s.shafts = true ∧ Tab.wf 0 s.routes = true ∧
    Tab.wf none s.rxctx = true ∧ Tab.wf 0 s.fabric = true := by
  simp only [State.canonical, Memory.wf, facesWf, Bool.and_eq_true]
  constructor
  · rintro ⟨⟨⟨⟨⟨⟨⟨⟨⟨⟨⟨⟨⟨⟨⟨a1, a2⟩, a3⟩, a4⟩, b⟩, c⟩, d⟩, e⟩, f⟩, g⟩, h⟩, i⟩, j⟩, k⟩, l⟩, m⟩
    exact ⟨a1, a2, a3, ⟨b, a4⟩, c, d, e, f, g, h, i, j, k, l, m⟩
  · rintro ⟨a1, a2, a3, ⟨b, a4⟩, c, d, e, f, g, h, i, j, k, l, m⟩
    exact ⟨⟨⟨⟨⟨⟨⟨⟨⟨⟨⟨⟨⟨⟨⟨a1, a2⟩, a3⟩, a4⟩, b⟩, c⟩, d⟩, e⟩, f⟩, g⟩, h⟩, i⟩, j⟩, k⟩, l⟩, m⟩

section
variable {s t : State} (h : Kept s t)
include h
theorem t1_wf : s.canonical = true → Tab.wf 0 t.t1 = true := fun hs => ((canonical_iff t).1 (h.canon hs)).1
theorem t2_wf : s.canonical = true → Tab.wf 0 t.t2 = true := fun hs => ((canonical_iff t).1 (h.canon hs)).2.1
theorem host_wf : s.canonical = true → Tab.wf 0 t.host = true := fun hs => ((canonical_iff t).1 (h.canon hs)).2.2.1
theorem faces_wf : s.canonical = true → facesWf t.faces = true := fun hs => ((canonical_iff t).1 (h.canon hs)).2.2.2.1
theorem claims_wf : s.canonical = true → Tab.wf {} t.claims = true := fun hs => ((canonical_iff t).1 (h.canon hs)).2.2.2.2.1
theorem streams_wf : s.canonical = true → Tab.wf {} t.streams = true := fun hs => ((canonical_iff t).1 (h.canon hs)).2.2.2.2.2.1
theorem tallies_wf : s.canonical = true → Tab.wf {} t.tallies = true := fun hs => ((canonical_iff t).1 (h.canon hs)).2.2.2.2.2.2.1
theorem rings_wf : s.canonical = true → Tab.wf {} t.rings = true := fun hs => ((canonical_iff t).1 (h.canon hs)).2.2.2.2.2.2.2.1
theorem outqs_wf : s.canonical = true → Tab.wf {} t.outqs = true := fun hs => ((canonical_iff t).1 (h.canon hs)).2.2.2.2.2.2.2.2.1
theorem fns_wf : s.canonical = true → Tab.wf {} t.fns = true := fun hs => ((canonical_iff t).1 (h.canon hs)).2.2.2.2.2.2.2.2.2.1
theorem msix_wf : s.canonical = true → Tab.wf {} t.msix = true := fun hs => ((canonical_iff t).1 (h.canon hs)).2.2.2.2.2.2.2.2.2.2.1
theorem shafts_wf : s.canonical = true → Tab.wf {} t.shafts = true := fun hs => ((canonical_iff t).1 (h.canon hs)).2.2.2.2.2.2.2.2.2.2.2.1
theorem routes_wf : s.canonical = true → Tab.wf 0 t.routes = true := fun hs => ((canonical_iff t).1 (h.canon hs)).2.2.2.2.2.2.2.2.2.2.2.2.1
theorem rxctx_wf : s.canonical = true → Tab.wf none t.rxctx = true := fun hs => ((canonical_iff t).1 (h.canon hs)).2.2.2.2.2.2.2.2.2.2.2.2.2.1
theorem fabric_wf : s.canonical = true → Tab.wf 0 t.fabric = true := fun hs => ((canonical_iff t).1 (h.canon hs)).2.2.2.2.2.2.2.2.2.2.2.2.2.2
end

/-! ### Tables made from tables, under a premise `p` -/

variable {α β : Type} [DecidableEq α] {d : α} {p : Prop}

theorem wf_new : p → Tab.wf d [] = true := fun _ => rfl
theorem wf_put {t : Tab α} {k : Nat} {v : α} (h : p → Tab.wf d t = true) : p → Tab.wf d (Tab.set d t k v) = true :=
  fun hp => Tab.wf_set (h hp) k v
theorem wf_run {t : Tab α} {k : Nat} {vs : List α} (h : p → Tab.wf d t = true) : p → Tab.wf d (Tab.setRun d t k vs) = true :=
  fun hp => Tab.wf_setRun (h hp) k vs
theorem wf_keep {t : Tab α} {q : Nat × α → Bool} (h : p → Tab.wf d t = true) : p → Tab.wf d (t.filter q) = true :=
  fun hp => Tab.wf_filter (h hp) q
theorem wf_fold {l : List β} {g : Tab α → β → Tab α} {t : Tab α} (hg : ∀ t e, (p → Tab.wf d t = true) → p → Tab.wf d (g t e) = true)
    (h : p → Tab.wf d t = true) : p → Tab.wf d (l.foldl g t) = true := by
  induction l generalizing t with
  | nil => exact h
  | cons e l ih => exact ih (hg t e h)

theorem facesWf_put {t : Tab Face} {f : Nat} {x : Face} (h : p → facesWf t = true) (hx : p → Tab.wf 0 x.t0 = true) :
    p → facesWf (Tab.set {} t f x) = true := by
  intro hp
  have h1 := h hp
  have h2 := hx hp
  simp only [facesWf, Bool.and_eq_true] at h1 ⊢
  refine ⟨Tab.wf_set h1.1 f x, ?_⟩
  have key : ∀ (u : Tab Face), (u.all fun e => Tab.wf 0 e.2.t0) = true → ((Tab.set {} u f x).all fun e => Tab.wf 0 e.2.t0) = true := by
    intro u
    induction u with
    | nil => 
      intro _
      simp only [Tab.set]
      split
      · rfl
      · simpa using h2
    | cons e u ih =>
      obtain ⟨i, y⟩ := e
      intro hu
      simp only [List.all_cons, Bool.and_eq_true] at hu
      simp only [Tab.set]
      split
      · simp only [List.all_cons, Bool.and_eq_true]; exact ⟨hu.1, ih hu.2⟩
      · split
        · split
          · exact hu.2
          · simp only [List.all_cons, Bool.and_eq_true]; exact ⟨h2, hu.2⟩
        · split
          · simp only [List.all_cons, Bool.and_eq_true]; exact hu
          · simp only [List.all_cons, Bool.and_eq_true]; exact ⟨h2, hu.1, hu.2⟩
  exact key t h1.2
theorem facesWf_fold {l : List β} {g : Tab Face → β → Tab Face} {t : Tab Face}
    (hg : ∀ t e, e ∈ l → (p → facesWf t = true) → p → facesWf (g t e) = true)
    (h : p → facesWf t = true) : p → facesWf (l.foldl g t) = true := by
  induction l generalizing t with
  | nil => exact h
  | cons e l ih => exact ih (fun t x hx => hg t x (List.mem_cons_of_mem e hx)) (hg t e List.mem_cons_self h)
theorem facesWf_new : p → facesWf [] = true := fun _ => rfl
/-- The T0 of a face of a canonical state is canonical. -/
theorem t0_wf {s t : State} {f : Nat} (h : Kept s t) : s.canonical = true → Tab.wf 0 (face t f).t0 = true := by
  intro hs
  have h1 := faces_wf h hs
  simp only [facesWf, Bool.and_eq_true] at h1
  have key : ∀ (u : Tab Face), (u.all fun e => Tab.wf 0 e.2.t0) = true → Tab.wf 0 (Tab.get {} u f).t0 = true := by
    intro u
    induction u with
    | nil => intro _; rfl
    | cons e u ih =>
      obtain ⟨i, y⟩ := e
      intro hu
      simp only [List.all_cons, Bool.and_eq_true] at hu
      simp only [Tab.get]
      split
      · exact hu.1
      · exact ih hu.2
  exact key t.faces h1.2
theorem t0_wf_entry {s t : State} {e : Nat × Face} (h : Kept s t) (he : e ∈ t.faces) : s.canonical = true → Tab.wf 0 e.2.t0 = true := by
  intro hs
  have h1 := faces_wf h hs
  simp only [facesWf, Bool.and_eq_true, List.all_eq_true] at h1
  exact h1.2 e he
theorem t0_of_lane (x : Face) (st : IssueStream) (l : Lane) : (setLane x st l).t0 = x.t0 := by cases st <;> rfl
theorem t0_lane {x : Face} {st : IssueStream} {l : Lane} (h : p → Tab.wf 0 x.t0 = true) : p → Tab.wf 0 (setLane x st l).t0 = true := by
  rw [t0_of_lane]; exact h

theorem t0_fold {x : Face} {l : List β} {g : Face → β → Face} (hg : ∀ x e, (p → Tab.wf 0 x.t0 = true) → p → Tab.wf 0 (g x e).t0 = true)
    (h : p → Tab.wf 0 x.t0 = true) : p → Tab.wf 0 (l.foldl g x).t0 = true := by
  induction l generalizing x with
  | nil => exact h
  | cons e l ih => exact ih (hg x e h)

/-! ### An update of fields -/

/-- A state whose fields are given one by one, with the queue of `t`: its tables must be canonical. -/
theorem mk_kept {s t : State} {time : Nat} {elapsed : Nat} {stamp : Option Nat} {freeCtr : Nat} {rand : Gen} {nextId :
    Nat} {t1 : Tab W80} {t2 : Tab W80} {host : List Host.Cell} {hostBad : List (Nat × Nat)} {vfs : Nat} {aer : Bool}
    {faces : Tab Face} {claims : Tab Claim} {streams : Tab Stream} {tallies : Tab Tally} {reqs : List Req} {batches :
    List Batch} {hoists : List Hoist} {waits : List Wait} {fetches : List (Nat × W32 × Nat × List Nat × Nat × Nat)}
    {evicts : List (Nat × Nat × Nat × W32)} {retired : List (Bool × Nat)} {fenced : List Nat} {rings : Tab Ring}
    {turnRing : Nat} {outqs : Tab OutQ} {fns : Tab Fn} {msix : Tab Msix} {cpl : Option Cpl} {shafts : Tab Shaft}
    {devAddr : Nat} {routes : Tab W64} {rxctx : Tab (Option RxCtx)} {descs : List (Nat × W64 × DescBody)} {served :
    Option (Nat × Nat × PeerAnswer)} {bell : Bell} {winder : Winder} {power : Power} {foul : List (Nat × Nat)} {t2Errs :
    List (Nat × Nat × Nat)} {entry : Option Entry} {exit : Option WakeCause} {boot : Boots} {pins : Pins} {side :
    Sideband} {sump : Sump} {fatal : Bool} {fabric : Tab Nat} (h : Kept s t) (w_t1 : Kept s t → s.canonical = true →
    Tab.wf 0 t1 = true) (w_t2 : Kept s t → s.canonical = true → Tab.wf 0 t2 = true) (w_host : Kept s t → s.canonical =
    true → Tab.wf 0 host = true) (w_faces : Kept s t → s.canonical = true → facesWf faces = true) (w_claims : Kept s t →
    s.canonical = true → Tab.wf {} claims = true) (w_streams : Kept s t → s.canonical = true → Tab.wf {} streams = true)
    (w_tallies : Kept s t → s.canonical = true → Tab.wf {} tallies = true) (w_rings : Kept s t → s.canonical = true →
    Tab.wf {} rings = true) (w_outqs : Kept s t → s.canonical = true → Tab.wf {} outqs = true) (w_fns : Kept s t →
    s.canonical = true → Tab.wf {} fns = true) (w_msix : Kept s t → s.canonical = true → Tab.wf {} msix = true)
    (w_shafts : Kept s t → s.canonical = true → Tab.wf {} shafts = true) (w_routes : Kept s t → s.canonical = true →
    Tab.wf 0 routes = true) (w_rxctx : Kept s t → s.canonical = true → Tab.wf none rxctx = true) (w_fabric : Kept s t →
    s.canonical = true → Tab.wf 0 fabric = true) : Kept s (State.mk t.pending time elapsed stamp freeCtr rand nextId t1
    t2 host hostBad vfs aer faces claims streams tallies reqs batches hoists waits fetches evicts retired fenced rings
    turnRing outqs fns msix cpl shafts devAddr routes rxctx descs served bell winder power foul t2Errs entry exit boot
    pins side sump fatal fabric) := by
  refine ⟨h.queue, fun hs => (canonical_iff _).2 ?_⟩
  exact ⟨w_t1 h hs, w_t2 h hs, w_host h hs, w_faces h hs, w_claims h hs, w_streams h hs, w_tallies h hs, w_rings h hs, w_outqs h hs, w_fns h hs, w_msix h hs, w_shafts h hs, w_routes h hs, w_rxctx h hs, w_fabric h hs⟩

/-- An update of fields other than tables. -/
theorem same_kept {s t u : State} (h : Kept s t) (e0 : u.pending = t.pending) (e1 : u.t1 = t.t1) (e2 : u.t2 = t.t2) (e3 : u.host = t.host)
    (e4 : u.faces = t.faces) (e5 : u.claims = t.claims) (e6 : u.streams = t.streams) (e7 : u.tallies = t.tallies) (e8 : u.rings = t.rings)
    (e9 : u.outqs = t.outqs) (ea : u.fns = t.fns) (eb : u.msix = t.msix) (ec : u.shafts = t.shafts) (ed : u.routes = t.routes)
    (ee : u.rxctx = t.rxctx) (ef : u.fabric = t.fabric) : Kept s u := by
  refine ⟨e0.trans h.queue, fun hs => (canonical_iff u).2 ?_⟩
  rw [e1, e2, e3, e4, e5, e6, e7, e8, e9, ea, eb, ec, ed, ee, ef]
  exact (canonical_iff t).1 (h.canon hs)

/-! ### Folds, choices, and values taken out of a pair -/

theorem fold_kept {s t : State} {l : List β} {g : State → β → State} (hg : ∀ t e, Kept s t → Kept s (g t e)) (h : Kept s t) :
    Kept s (l.foldl g t) := by
  induction l generalizing t with
  | nil => exact h
  | cons e l ih => exact ih (hg t e h)
theorem fold_kept1 {γ : Type} {s : State} {a : State × γ} {l : List β} {g : State × γ → β → State × γ}
    (hg : ∀ a e, Kept s a.1 → Kept s (g a e).1) (h : Kept s a.1) : Kept s (l.foldl g a).1 := by
  induction l generalizing a with
  | nil => exact h
  | cons e l ih => exact ih (hg a e h)
theorem fold_kept2 {γ : Type} {s : State} {a : γ × State} {l : List β} {g : γ × State → β → γ × State}
    (hg : ∀ a e, Kept s a.2 → Kept s (g a e).2) (h : Kept s a.2) : Kept s (l.foldl g a).2 := by
  induction l generalizing a with
  | nil => exact h
  | cons e l ih => exact ih (hg a e h)
/-- A let-bound state: what holds of any state made from `s` holds of this one. -/
theorem let_kept {s v : State} {b : State → State} (hv : Kept s v) (hb : ∀ t, Kept s t → Kept s (b t)) : Kept s (b v) := hb v hv
theorem fst_kept {γ : Type} {s t : State} {a : State × γ} {c : γ} (e : a = (t, c)) (h : Kept s a.1) : Kept s t := by rw [e] at h; exact h
theorem snd_kept {γ : Type} {s t : State} {a : γ × State} {c : γ} (e : a = (c, t)) (h : Kept s a.2) : Kept s t := by rw [e] at h; exact h
/-- A state in an outcome that may be bad or absent. -/
def GotKept (s : State) (x : Got State) : Prop := ∀ t, x = .ok t → Kept s t
theorem got_kept {s t : State} {x : Got State} (e : x = .ok t) (h : GotKept s x) : Kept s t := h t e
theorem got_ok {s t : State} (h : Kept s t) : GotKept s (.ok t) := by rintro _ ⟨⟩; exact h
theorem got_bad {s : State} {n : Nat} : GotKept s (.bad n) := by rintro _ ⟨⟩
theorem got_absent {s : State} {l : List Nat} : GotKept s (.absent l) := by rintro _ ⟨⟩
theorem got_bind {s : State} {γ : Type} {x : Got γ} {f : γ → Got State} (h : ∀ a, GotKept s (f a)) : GotKept s (bindGot x f) := by
  cases x with
  | ok a => exact h a
  | bad n => exact got_bad
  | absent l => exact got_absent
theorem got_bind_state {s : State} {x : Got State} {f : State → Got State} (hx : GotKept s x) (h : ∀ t, Kept s t → GotKept s (f t)) :
    GotKept s (bindGot x f) := by
  cases x with
  | ok a => exact h a (hx a rfl)
  | bad n => exact got_bad
  | absent l => exact got_absent
theorem got_map {s : State} {γ : Type} {x : Got γ} {f : γ → State} (h : ∀ a, Kept s (f a)) : GotKept s (mapGot x f) :=
  got_bind fun a => got_ok (h a)
theorem got_map_state {s : State} {x : Got State} {f : State → State} (hx : GotKept s x) (h : ∀ t, Kept s t → Kept s (f t)) :
    GotKept s (mapGot x f) := got_bind_state hx fun t ht => got_ok (h t ht)
theorem got_fold {s : State} {a : Got State} {l : List β} {g : Got State → β → Got State} (hg : ∀ a e, GotKept s a → GotKept s (g a e))
    (h : GotKept s a) : GotKept s (l.foldl g a) := by
  induction l generalizing a with
  | nil => exact h
  | cons e l ih => exact ih (hg a e h)
/-- A state with something beside it, in an outcome that may be bad or absent. -/
def GotKept1 (s : State) {γ : Type} (x : Got (State × γ)) : Prop := ∀ a, x = .ok a → Kept s a.1
theorem got_kept1 {s : State} {γ : Type} {a : State × γ} {x : Got (State × γ)} (e : x = .ok a) (h : GotKept1 s x) : Kept s a.1 := h a e
theorem got_ok1 {s : State} {γ : Type} {a : State × γ} (h : Kept s a.1) : GotKept1 s (.ok a) := by rintro _ ⟨⟩; exact h
theorem got_bad1 {s : State} {γ : Type} {n : Nat} : GotKept1 s (.bad n : Got (State × γ)) := by rintro _ ⟨⟩
theorem got_absent1 {s : State} {γ : Type} {l : List Nat} : GotKept1 s (.absent l : Got (State × γ)) := by rintro _ ⟨⟩
theorem got_bind1 {s : State} {γ δ : Type} {x : Got δ} {f : δ → Got (State × γ)} (h : ∀ a, GotKept1 s (f a)) : GotKept1 s (bindGot x f) := by
  cases x with
  | ok a => exact h a
  | bad n => exact got_bad1
  | absent l => exact got_absent1
theorem got_map1 {s : State} {γ δ : Type} {x : Got δ} {f : δ → State × γ} (h : ∀ a, Kept s (f a).1) : GotKept1 s (mapGot x f) :=
  got_bind1 fun a => got_ok1 (h a)
theorem got_map11 {s : State} {γ δ : Type} {x : Got (State × δ)} {f : State × δ → State × γ} (hx : GotKept1 s x)
    (h : ∀ a, Kept s a.1 → Kept s (f a).1) : GotKept1 s (mapGot x f) := by
  cases x with
  | ok a => exact got_ok1 (h a (hx a rfl))
  | bad n => exact got_bad1
  | absent l => exact got_absent1

end Sys2Proof.Machine
end

