-- ==== Sys2Proof/Laws/State.lean ====
section
/-!
SUPPORT. What one update leaves of every field: the update of one entry of a table, of host memory, of a word of memory,
of device time, and of one page, object or slot of a claim.
-/
namespace Sys2Proof.Machine
open Sys2Proof

/-! ### One face -/

section
variable (s : State) (f : Nat) (x : Face)
@[simp] theorem setFace_pending : (setFace s f x).pending = s.pending := rfl
@[simp] theorem setFace_time : (setFace s f x).time = s.time := rfl
@[simp] theorem setFace_elapsed : (setFace s f x).elapsed = s.elapsed := rfl
@[simp] theorem setFace_stamp : (setFace s f x).stamp = s.stamp := rfl
@[simp] theorem setFace_freeCtr : (setFace s f x).freeCtr = s.freeCtr := rfl
@[simp] theorem setFace_rand : (setFace s f x).rand = s.rand := rfl
@[simp] theorem setFace_nextId : (setFace s f x).nextId = s.nextId := rfl
@[simp] theorem setFace_t1 : (setFace s f x).t1 = s.t1 := rfl
@[simp] theorem setFace_t2 : (setFace s f x).t2 = s.t2 := rfl
@[simp] theorem setFace_host : (setFace s f x).host = s.host := rfl
@[simp] theorem setFace_hostBad : (setFace s f x).hostBad = s.hostBad := rfl
@[simp] theorem setFace_vfs : (setFace s f x).vfs = s.vfs := rfl
@[simp] theorem setFace_aer : (setFace s f x).aer = s.aer := rfl
@[simp] theorem setFace_claims : (setFace s f x).claims = s.claims := rfl
@[simp] theorem setFace_streams : (setFace s f x).streams = s.streams := rfl
@[simp] theorem setFace_tallies : (setFace s f x).tallies = s.tallies := rfl
@[simp] theorem setFace_reqs : (setFace s f x).reqs = s.reqs := rfl
@[simp] theorem setFace_batches : (setFace s f x).batches = s.batches := rfl
@[simp] theorem setFace_hoists : (setFace s f x).hoists = s.hoists := rfl
@[simp] theorem setFace_waits : (setFace s f x).waits = s.waits := rfl
@[simp] theorem setFace_fetches : (setFace s f x).fetches = s.fetches := rfl
@[simp] theorem setFace_evicts : (setFace s f x).evicts = s.evicts := rfl
@[simp] theorem setFace_retired : (setFace s f x).retired = s.retired := rfl
@[simp] theorem setFace_fenced : (setFace s f x).fenced = s.fenced := rfl
@[simp] theorem setFace_rings : (setFace s f x).rings = s.rings := rfl
@[simp] theorem setFace_turnRing : (setFace s f x).turnRing = s.turnRing := rfl
@[simp] theorem setFace_outqs : (setFace s f x).outqs = s.outqs := rfl
@[simp] theorem setFace_fns : (setFace s f x).fns = s.fns := rfl
@[simp] theorem setFace_msix : (setFace s f x).msix = s.msix := rfl
@[simp] theorem setFace_cpl : (setFace s f x).cpl = s.cpl := rfl
@[simp] theorem setFace_shafts : (setFace s f x).shafts = s.shafts := rfl
@[simp] theorem setFace_devAddr : (setFace s f x).devAddr = s.devAddr := rfl
@[simp] theorem setFace_routes : (setFace s f x).routes = s.routes := rfl
@[simp] theorem setFace_rxctx : (setFace s f x).rxctx = s.rxctx := rfl
@[simp] theorem setFace_descs : (setFace s f x).descs = s.descs := rfl
@[simp] theorem setFace_served : (setFace s f x).served = s.served := rfl
@[simp] theorem setFace_bell : (setFace s f x).bell = s.bell := rfl
@[simp] theorem setFace_winder : (setFace s f x).winder = s.winder := rfl
@[simp] theorem setFace_power : (setFace s f x).power = s.power := rfl
@[simp] theorem setFace_foul : (setFace s f x).foul = s.foul := rfl
@[simp] theorem setFace_t2Errs : (setFace s f x).t2Errs = s.t2Errs := rfl
@[simp] theorem setFace_entry : (setFace s f x).entry = s.entry := rfl
@[simp] theorem setFace_exit : (setFace s f x).exit = s.exit := rfl
@[simp] theorem setFace_boot : (setFace s f x).boot = s.boot := rfl
@[simp] theorem setFace_pins : (setFace s f x).pins = s.pins := rfl
@[simp] theorem setFace_side : (setFace s f x).side = s.side := rfl
@[simp] theorem setFace_sump : (setFace s f x).sump = s.sump := rfl
@[simp] theorem setFace_fatal : (setFace s f x).fatal = s.fatal := rfl
@[simp] theorem setFace_fabric : (setFace s f x).fabric = s.fabric := rfl
@[simp] theorem claim_setFace (k : Nat) : claim (setFace s f x) k = claim s k := rfl
@[simp] theorem stream_setFace (k : Nat) : stream (setFace s f x) k = stream s k := rfl
@[simp] theorem tally_setFace (k : Nat) : tally (setFace s f x) k = tally s k := rfl
@[simp] theorem ring_setFace (k : Nat) : ring (setFace s f x) k = ring s k := rfl
@[simp] theorem outq_setFace (k : Nat) : outq (setFace s f x) k = outq s k := rfl
@[simp] theorem fnOf_setFace (k : Nat) : fnOf (setFace s f x) k = fnOf s k := rfl
@[simp] theorem shaft_setFace (k : Nat) : shaft (setFace s f x) k = shaft s k := rfl
end

/-! ### One claim -/

section
variable (s : State) (c : Nat) (x : Claim)
@[simp] theorem setClaim_pending : (setClaim s c x).pending = s.pending := rfl
@[simp] theorem setClaim_time : (setClaim s c x).time = s.time := rfl
@[simp] theorem setClaim_elapsed : (setClaim s c x).elapsed = s.elapsed := rfl
@[simp] theorem setClaim_stamp : (setClaim s c x).stamp = s.stamp := rfl
@[simp] theorem setClaim_freeCtr : (setClaim s c x).freeCtr = s.freeCtr := rfl
@[simp] theorem setClaim_rand : (setClaim s c x).rand = s.rand := rfl
@[simp] theorem setClaim_nextId : (setClaim s c x).nextId = s.nextId := rfl
@[simp] theorem setClaim_t1 : (setClaim s c x).t1 = s.t1 := rfl
@[simp] theorem setClaim_t2 : (setClaim s c x).t2 = s.t2 := rfl
@[simp] theorem setClaim_host : (setClaim s c x).host = s.host := rfl
@[simp] theorem setClaim_hostBad : (setClaim s c x).hostBad = s.hostBad := rfl
@[simp] theorem setClaim_vfs : (setClaim s c x).vfs = s.vfs := rfl
@[simp] theorem setClaim_aer : (setClaim s c x).aer = s.aer := rfl
@[simp] theorem setClaim_faces : (setClaim s c x).faces = s.faces := rfl
@[simp] theorem setClaim_streams : (setClaim s c x).streams = s.streams := rfl
@[simp] theorem setClaim_tallies : (setClaim s c x).tallies = s.tallies := rfl
@[simp] theorem setClaim_reqs : (setClaim s c x).reqs = s.reqs := rfl
@[simp] theorem setClaim_batches : (setClaim s c x).batches = s.batches := rfl
@[simp] theorem setClaim_hoists : (setClaim s c x).hoists = s.hoists := rfl
@[simp] theorem setClaim_waits : (setClaim s c x).waits = s.waits := rfl
@[simp] theorem setClaim_fetches : (setClaim s c x).fetches = s.fetches := rfl
@[simp] theorem setClaim_evicts : (setClaim s c x).evicts = s.evicts := rfl
@[simp] theorem setClaim_retired : (setClaim s c x).retired = s.retired := rfl
@[simp] theorem setClaim_fenced : (setClaim s c x).fenced = s.fenced := rfl
@[simp] theorem setClaim_rings : (setClaim s c x).rings = s.rings := rfl
@[simp] theorem setClaim_turnRing : (setClaim s c x).turnRing = s.turnRing := rfl
@[simp] theorem setClaim_outqs : (setClaim s c x).outqs = s.outqs := rfl
@[simp] theorem setClaim_fns : (setClaim s c x).fns = s.fns := rfl
@[simp] theorem setClaim_msix : (setClaim s c x).msix = s.msix := rfl
@[simp] theorem setClaim_cpl : (setClaim s c x).cpl = s.cpl := rfl
@[simp] theorem setClaim_shafts : (setClaim s c x).shafts = s.shafts := rfl
@[simp] theorem setClaim_devAddr : (setClaim s c x).devAddr = s.devAddr := rfl
@[simp] theorem setClaim_routes : (setClaim s c x).routes = s.routes := rfl
@[simp] theorem setClaim_rxctx : (setClaim s c x).rxctx = s.rxctx := rfl
@[simp] theorem setClaim_descs : (setClaim s c x).descs = s.descs := rfl
@[simp] theorem setClaim_served : (setClaim s c x).served = s.served := rfl
@[simp] theorem setClaim_bell : (setClaim s c x).bell = s.bell := rfl
@[simp] theorem setClaim_winder : (setClaim s c x).winder = s.winder := rfl
@[simp] theorem setClaim_power : (setClaim s c x).power = s.power := rfl
@[simp] theorem setClaim_foul : (setClaim s c x).foul = s.foul := rfl
@[simp] theorem setClaim_t2Errs : (setClaim s c x).t2Errs = s.t2Errs := rfl
@[simp] theorem setClaim_entry : (setClaim s c x).entry = s.entry := rfl
@[simp] theorem setClaim_exit : (setClaim s c x).exit = s.exit := rfl
@[simp] theorem setClaim_boot : (setClaim s c x).boot = s.boot := rfl
@[simp] theorem setClaim_pins : (setClaim s c x).pins = s.pins := rfl
@[simp] theorem setClaim_side : (setClaim s c x).side = s.side := rfl
@[simp] theorem setClaim_sump : (setClaim s c x).sump = s.sump := rfl
@[simp] theorem setClaim_fatal : (setClaim s c x).fatal = s.fatal := rfl
@[simp] theorem setClaim_fabric : (setClaim s c x).fabric = s.fabric := rfl
@[simp] theorem face_setClaim (k : Nat) : face (setClaim s c x) k = face s k := rfl
@[simp] theorem stream_setClaim (k : Nat) : stream (setClaim s c x) k = stream s k := rfl
@[simp] theorem tally_setClaim (k : Nat) : tally (setClaim s c x) k = tally s k := rfl
@[simp] theorem ring_setClaim (k : Nat) : ring (setClaim s c x) k = ring s k := rfl
@[simp] theorem outq_setClaim (k : Nat) : outq (setClaim s c x) k = outq s k := rfl
@[simp] theorem fnOf_setClaim (k : Nat) : fnOf (setClaim s c x) k = fnOf s k := rfl
@[simp] theorem shaft_setClaim (k : Nat) : shaft (setClaim s c x) k = shaft s k := rfl
end

/-! ### One stream -/

section
variable (s : State) (n : Nat) (x : Stream)
@[simp] theorem setStream_pending : (setStream s n x).pending = s.pending := rfl
@[simp] theorem setStream_time : (setStream s n x).time = s.time := rfl
@[simp] theorem setStream_elapsed : (setStream s n x).elapsed = s.elapsed := rfl
@[simp] theorem setStream_stamp : (setStream s n x).stamp = s.stamp := rfl
@[simp] theorem setStream_freeCtr : (setStream s n x).freeCtr = s.freeCtr := rfl
@[simp] theorem setStream_rand : (setStream s n x).rand = s.rand := rfl
@[simp] theorem setStream_nextId : (setStream s n x).nextId = s.nextId := rfl
@[simp] theorem setStream_t1 : (setStream s n x).t1 = s.t1 := rfl
@[simp] theorem setStream_t2 : (setStream s n x).t2 = s.t2 := rfl
@[simp] theorem setStream_host : (setStream s n x).host = s.host := rfl
@[simp] theorem setStream_hostBad : (setStream s n x).hostBad = s.hostBad := rfl
@[simp] theorem setStream_vfs : (setStream s n x).vfs = s.vfs := rfl
@[simp] theorem setStream_aer : (setStream s n x).aer = s.aer := rfl
@[simp] theorem setStream_faces : (setStream s n x).faces = s.faces := rfl
@[simp] theorem setStream_claims : (setStream s n x).claims = s.claims := rfl
@[simp] theorem setStream_tallies : (setStream s n x).tallies = s.tallies := rfl
@[simp] theorem setStream_reqs : (setStream s n x).reqs = s.reqs := rfl
@[simp] theorem setStream_batches : (setStream s n x).batches = s.batches := rfl
@[simp] theorem setStream_hoists : (setStream s n x).hoists = s.hoists := rfl
@[simp] theorem setStream_waits : (setStream s n x).waits = s.waits := rfl
@[simp] theorem setStream_fetches : (setStream s n x).fetches = s.fetches := rfl
@[simp] theorem setStream_evicts : (setStream s n x).evicts = s.evicts := rfl
@[simp] theorem setStream_retired : (setStream s n x).retired = s.retired := rfl
@[simp] theorem setStream_fenced : (setStream s n x).fenced = s.fenced := rfl
@[simp] theorem setStream_rings : (setStream s n x).rings = s.rings := rfl
@[simp] theorem setStream_turnRing : (setStream s n x).turnRing = s.turnRing := rfl
@[simp] theorem setStream_outqs : (setStream s n x).outqs = s.outqs := rfl
@[simp] theorem setStream_fns : (setStream s n x).fns = s.fns := rfl
@[simp] theorem setStream_msix : (setStream s n x).msix = s.msix := rfl
@[simp] theorem setStream_cpl : (setStream s n x).cpl = s.cpl := rfl
@[simp] theorem setStream_shafts : (setStream s n x).shafts = s.shafts := rfl
@[simp] theorem setStream_devAddr : (setStream s n x).devAddr = s.devAddr := rfl
@[simp] theorem setStream_routes : (setStream s n x).routes = s.routes := rfl
@[simp] theorem setStream_rxctx : (setStream s n x).rxctx = s.rxctx := rfl
@[simp] theorem setStream_descs : (setStream s n x).descs = s.descs := rfl
@[simp] theorem setStream_served : (setStream s n x).served = s.served := rfl
@[simp] theorem setStream_bell : (setStream s n x).bell = s.bell := rfl
@[simp] theorem setStream_winder : (setStream s n x).winder = s.winder := rfl
@[simp] theorem setStream_power : (setStream s n x).power = s.power := rfl
@[simp] theorem setStream_foul : (setStream s n x).foul = s.foul := rfl
@[simp] theorem setStream_t2Errs : (setStream s n x).t2Errs = s.t2Errs := rfl
@[simp] theorem setStream_entry : (setStream s n x).entry = s.entry := rfl
@[simp] theorem setStream_exit : (setStream s n x).exit = s.exit := rfl
@[simp] theorem setStream_boot : (setStream s n x).boot = s.boot := rfl
@[simp] theorem setStream_pins : (setStream s n x).pins = s.pins := rfl
@[simp] theorem setStream_side : (setStream s n x).side = s.side := rfl
@[simp] theorem setStream_sump : (setStream s n x).sump = s.sump := rfl
@[simp] theorem setStream_fatal : (setStream s n x).fatal = s.fatal := rfl
@[simp] theorem setStream_fabric : (setStream s n x).fabric = s.fabric := rfl
@[simp] theorem face_setStream (k : Nat) : face (setStream s n x) k = face s k := rfl
@[simp] theorem claim_setStream (k : Nat) : claim (setStream s n x) k = claim s k := rfl
@[simp] theorem tally_setStream (k : Nat) : tally (setStream s n x) k = tally s k := rfl
@[simp] theorem ring_setStream (k : Nat) : ring (setStream s n x) k = ring s k := rfl
@[simp] theorem outq_setStream (k : Nat) : outq (setStream s n x) k = outq s k := rfl
@[simp] theorem fnOf_setStream (k : Nat) : fnOf (setStream s n x) k = fnOf s k := rfl
@[simp] theorem shaft_setStream (k : Nat) : shaft (setStream s n x) k = shaft s k := rfl
end

/-! ### One tally slot -/

section
variable (s : State) (n : Nat) (x : Tally)
@[simp] theorem setTally_pending : (setTally s n x).pending = s.pending := rfl
@[simp] theorem setTally_time : (setTally s n x).time = s.time := rfl
@[simp] theorem setTally_elapsed : (setTally s n x).elapsed = s.elapsed := rfl
@[simp] theorem setTally_stamp : (setTally s n x).stamp = s.stamp := rfl
@[simp] theorem setTally_freeCtr : (setTally s n x).freeCtr = s.freeCtr := rfl
@[simp] theorem setTally_rand : (setTally s n x).rand = s.rand := rfl
@[simp] theorem setTally_nextId : (setTally s n x).nextId = s.nextId := rfl
@[simp] theorem setTally_t1 : (setTally s n x).t1 = s.t1 := rfl
@[simp] theorem setTally_t2 : (setTally s n x).t2 = s.t2 := rfl
@[simp] theorem setTally_host : (setTally s n x).host = s.host := rfl
@[simp] theorem setTally_hostBad : (setTally s n x).hostBad = s.hostBad := rfl
@[simp] theorem setTally_vfs : (setTally s n x).vfs = s.vfs := rfl
@[simp] theorem setTally_aer : (setTally s n x).aer = s.aer := rfl
@[simp] theorem setTally_faces : (setTally s n x).faces = s.faces := rfl
@[simp] theorem setTally_claims : (setTally s n x).claims = s.claims := rfl
@[simp] theorem setTally_streams : (setTally s n x).streams = s.streams := rfl
@[simp] theorem setTally_reqs : (setTally s n x).reqs = s.reqs := rfl
@[simp] theorem setTally_batches : (setTally s n x).batches = s.batches := rfl
@[simp] theorem setTally_hoists : (setTally s n x).hoists = s.hoists := rfl
@[simp] theorem setTally_waits : (setTally s n x).waits = s.waits := rfl
@[simp] theorem setTally_fetches : (setTally s n x).fetches = s.fetches := rfl
@[simp] theorem setTally_evicts : (setTally s n x).evicts = s.evicts := rfl
@[simp] theorem setTally_retired : (setTally s n x).retired = s.retired := rfl
@[simp] theorem setTally_fenced : (setTally s n x).fenced = s.fenced := rfl
@[simp] theorem setTally_rings : (setTally s n x).rings = s.rings := rfl
@[simp] theorem setTally_turnRing : (setTally s n x).turnRing = s.turnRing := rfl
@[simp] theorem setTally_outqs : (setTally s n x).outqs = s.outqs := rfl
@[simp] theorem setTally_fns : (setTally s n x).fns = s.fns := rfl
@[simp] theorem setTally_msix : (setTally s n x).msix = s.msix := rfl
@[simp] theorem setTally_cpl : (setTally s n x).cpl = s.cpl := rfl
@[simp] theorem setTally_shafts : (setTally s n x).shafts = s.shafts := rfl
@[simp] theorem setTally_devAddr : (setTally s n x).devAddr = s.devAddr := rfl
@[simp] theorem setTally_routes : (setTally s n x).routes = s.routes := rfl
@[simp] theorem setTally_rxctx : (setTally s n x).rxctx = s.rxctx := rfl
@[simp] theorem setTally_descs : (setTally s n x).descs = s.descs := rfl
@[simp] theorem setTally_served : (setTally s n x).served = s.served := rfl
@[simp] theorem setTally_bell : (setTally s n x).bell = s.bell := rfl
@[simp] theorem setTally_winder : (setTally s n x).winder = s.winder := rfl
@[simp] theorem setTally_power : (setTally s n x).power = s.power := rfl
@[simp] theorem setTally_foul : (setTally s n x).foul = s.foul := rfl
@[simp] theorem setTally_t2Errs : (setTally s n x).t2Errs = s.t2Errs := rfl
@[simp] theorem setTally_entry : (setTally s n x).entry = s.entry := rfl
@[simp] theorem setTally_exit : (setTally s n x).exit = s.exit := rfl
@[simp] theorem setTally_boot : (setTally s n x).boot = s.boot := rfl
@[simp] theorem setTally_pins : (setTally s n x).pins = s.pins := rfl
@[simp] theorem setTally_side : (setTally s n x).side = s.side := rfl
@[simp] theorem setTally_sump : (setTally s n x).sump = s.sump := rfl
@[simp] theorem setTally_fatal : (setTally s n x).fatal = s.fatal := rfl
@[simp] theorem setTally_fabric : (setTally s n x).fabric = s.fabric := rfl
@[simp] theorem face_setTally (k : Nat) : face (setTally s n x) k = face s k := rfl
@[simp] theorem claim_setTally (k : Nat) : claim (setTally s n x) k = claim s k := rfl
@[simp] theorem stream_setTally (k : Nat) : stream (setTally s n x) k = stream s k := rfl
@[simp] theorem ring_setTally (k : Nat) : ring (setTally s n x) k = ring s k := rfl
@[simp] theorem outq_setTally (k : Nat) : outq (setTally s n x) k = outq s k := rfl
@[simp] theorem fnOf_setTally (k : Nat) : fnOf (setTally s n x) k = fnOf s k := rfl
@[simp] theorem shaft_setTally (k : Nat) : shaft (setTally s n x) k = shaft s k := rfl
end

/-! ### One ring -/

section
variable (s : State) (r : Nat) (x : Ring)
@[simp] theorem setRing_pending : (setRing s r x).pending = s.pending := rfl
@[simp] theorem setRing_time : (setRing s r x).time = s.time := rfl
@[simp] theorem setRing_elapsed : (setRing s r x).elapsed = s.elapsed := rfl
@[simp] theorem setRing_stamp : (setRing s r x).stamp = s.stamp := rfl
@[simp] theorem setRing_freeCtr : (setRing s r x).freeCtr = s.freeCtr := rfl
@[simp] theorem setRing_rand : (setRing s r x).rand = s.rand := rfl
@[simp] theorem setRing_nextId : (setRing s r x).nextId = s.nextId := rfl
@[simp] theorem setRing_t1 : (setRing s r x).t1 = s.t1 := rfl
@[simp] theorem setRing_t2 : (setRing s r x).t2 = s.t2 := rfl
@[simp] theorem setRing_host : (setRing s r x).host = s.host := rfl
@[simp] theorem setRing_hostBad : (setRing s r x).hostBad = s.hostBad := rfl
@[simp] theorem setRing_vfs : (setRing s r x).vfs = s.vfs := rfl
@[simp] theorem setRing_aer : (setRing s r x).aer = s.aer := rfl
@[simp] theorem setRing_faces : (setRing s r x).faces = s.faces := rfl
@[simp] theorem setRing_claims : (setRing s r x).claims = s.claims := rfl
@[simp] theorem setRing_streams : (setRing s r x).streams = s.streams := rfl
@[simp] theorem setRing_tallies : (setRing s r x).tallies = s.tallies := rfl
@[simp] theorem setRing_reqs : (setRing s r x).reqs = s.reqs := rfl
@[simp] theorem setRing_batches : (setRing s r x).batches = s.batches := rfl
@[simp] theorem setRing_hoists : (setRing s r x).hoists = s.hoists := rfl
@[simp] theorem setRing_waits : (setRing s r x).waits = s.waits := rfl
@[simp] theorem setRing_fetches : (setRing s r x).fetches = s.fetches := rfl
@[simp] theorem setRing_evicts : (setRing s r x).evicts = s.evicts := rfl
@[simp] theorem setRing_retired : (setRing s r x).retired = s.retired := rfl
@[simp] theorem setRing_fenced : (setRing s r x).fenced = s.fenced := rfl
@[simp] theorem setRing_turnRing : (setRing s r x).turnRing = s.turnRing := rfl
@[simp] theorem setRing_outqs : (setRing s r x).outqs = s.outqs := rfl
@[simp] theorem setRing_fns : (setRing s r x).fns = s.fns := rfl
@[simp] theorem setRing_msix : (setRing s r x).msix = s.msix := rfl
@[simp] theorem setRing_cpl : (setRing s r x).cpl = s.cpl := rfl
@[simp] theorem setRing_shafts : (setRing s r x).shafts = s.shafts := rfl
@[simp] theorem setRing_devAddr : (setRing s r x).devAddr = s.devAddr := rfl
@[simp] theorem setRing_routes : (setRing s r x).routes = s.routes := rfl
@[simp] theorem setRing_rxctx : (setRing s r x).rxctx = s.rxctx := rfl
@[simp] theorem setRing_descs : (setRing s r x).descs = s.descs := rfl
@[simp] theorem setRing_served : (setRing s r x).served = s.served := rfl
@[simp] theorem setRing_bell : (setRing s r x).bell = s.bell := rfl
@[simp] theorem setRing_winder : (setRing s r x).winder = s.winder := rfl
@[simp] theorem setRing_power : (setRing s r x).power = s.power := rfl
@[simp] theorem setRing_foul : (setRing s r x).foul = s.foul := rfl
@[simp] theorem setRing_t2Errs : (setRing s r x).t2Errs = s.t2Errs := rfl
@[simp] theorem setRing_entry : (setRing s r x).entry = s.entry := rfl
@[simp] theorem setRing_exit : (setRing s r x).exit = s.exit := rfl
@[simp] theorem setRing_boot : (setRing s r x).boot = s.boot := rfl
@[simp] theorem setRing_pins : (setRing s r x).pins = s.pins := rfl
@[simp] theorem setRing_side : (setRing s r x).side = s.side := rfl
@[simp] theorem setRing_sump : (setRing s r x).sump = s.sump := rfl
@[simp] theorem setRing_fatal : (setRing s r x).fatal = s.fatal := rfl
@[simp] theorem setRing_fabric : (setRing s r x).fabric = s.fabric := rfl
@[simp] theorem face_setRing (k : Nat) : face (setRing s r x) k = face s k := rfl
@[simp] theorem claim_setRing (k : Nat) : claim (setRing s r x) k = claim s k := rfl
@[simp] theorem stream_setRing (k : Nat) : stream (setRing s r x) k = stream s k := rfl
@[simp] theorem tally_setRing (k : Nat) : tally (setRing s r x) k = tally s k := rfl
@[simp] theorem outq_setRing (k : Nat) : outq (setRing s r x) k = outq s k := rfl
@[simp] theorem fnOf_setRing (k : Nat) : fnOf (setRing s r x) k = fnOf s k := rfl
@[simp] theorem shaft_setRing (k : Nat) : shaft (setRing s r x) k = shaft s k := rfl
end

/-! ### One output queue -/

section
variable (s : State) (q : Nat) (x : OutQ)
@[simp] theorem setOutq_pending : (setOutq s q x).pending = s.pending := rfl
@[simp] theorem setOutq_time : (setOutq s q x).time = s.time := rfl
@[simp] theorem setOutq_elapsed : (setOutq s q x).elapsed = s.elapsed := rfl
@[simp] theorem setOutq_stamp : (setOutq s q x).stamp = s.stamp := rfl
@[simp] theorem setOutq_freeCtr : (setOutq s q x).freeCtr = s.freeCtr := rfl
@[simp] theorem setOutq_rand : (setOutq s q x).rand = s.rand := rfl
@[simp] theorem setOutq_nextId : (setOutq s q x).nextId = s.nextId := rfl
@[simp] theorem setOutq_t1 : (setOutq s q x).t1 = s.t1 := rfl
@[simp] theorem setOutq_t2 : (setOutq s q x).t2 = s.t2 := rfl
@[simp] theorem setOutq_host : (setOutq s q x).host = s.host := rfl
@[simp] theorem setOutq_hostBad : (setOutq s q x).hostBad = s.hostBad := rfl
@[simp] theorem setOutq_vfs : (setOutq s q x).vfs = s.vfs := rfl
@[simp] theorem setOutq_aer : (setOutq s q x).aer = s.aer := rfl
@[simp] theorem setOutq_faces : (setOutq s q x).faces = s.faces := rfl
@[simp] theorem setOutq_claims : (setOutq s q x).claims = s.claims := rfl
@[simp] theorem setOutq_streams : (setOutq s q x).streams = s.streams := rfl
@[simp] theorem setOutq_tallies : (setOutq s q x).tallies = s.tallies := rfl
@[simp] theorem setOutq_reqs : (setOutq s q x).reqs = s.reqs := rfl
@[simp] theorem setOutq_batches : (setOutq s q x).batches = s.batches := rfl
@[simp] theorem setOutq_hoists : (setOutq s q x).hoists = s.hoists := rfl
@[simp] theorem setOutq_waits : (setOutq s q x).waits = s.waits := rfl
@[simp] theorem setOutq_fetches : (setOutq s q x).fetches = s.fetches := rfl
@[simp] theorem setOutq_evicts : (setOutq s q x).evicts = s.evicts := rfl
@[simp] theorem setOutq_retired : (setOutq s q x).retired = s.retired := rfl
@[simp] theorem setOutq_fenced : (setOutq s q x).fenced = s.fenced := rfl
@[simp] theorem setOutq_rings : (setOutq s q x).rings = s.rings := rfl
@[simp] theorem setOutq_turnRing : (setOutq s q x).turnRing = s.turnRing := rfl
@[simp] theorem setOutq_fns : (setOutq s q x).fns = s.fns := rfl
@[simp] theorem setOutq_msix : (setOutq s q x).msix = s.msix := rfl
@[simp] theorem setOutq_cpl : (setOutq s q x).cpl = s.cpl := rfl
@[simp] theorem setOutq_shafts : (setOutq s q x).shafts = s.shafts := rfl
@[simp] theorem setOutq_devAddr : (setOutq s q x).devAddr = s.devAddr := rfl
@[simp] theorem setOutq_routes : (setOutq s q x).routes = s.routes := rfl
@[simp] theorem setOutq_rxctx : (setOutq s q x).rxctx = s.rxctx := rfl
@[simp] theorem setOutq_descs : (setOutq s q x).descs = s.descs := rfl
@[simp] theorem setOutq_served : (setOutq s q x).served = s.served := rfl
@[simp] theorem setOutq_bell : (setOutq s q x).bell = s.bell := rfl
@[simp] theorem setOutq_winder : (setOutq s q x).winder = s.winder := rfl
@[simp] theorem setOutq_power : (setOutq s q x).power = s.power := rfl
@[simp] theorem setOutq_foul : (setOutq s q x).foul = s.foul := rfl
@[simp] theorem setOutq_t2Errs : (setOutq s q x).t2Errs = s.t2Errs := rfl
@[simp] theorem setOutq_entry : (setOutq s q x).entry = s.entry := rfl
@[simp] theorem setOutq_exit : (setOutq s q x).exit = s.exit := rfl
@[simp] theorem setOutq_boot : (setOutq s q x).boot = s.boot := rfl
@[simp] theorem setOutq_pins : (setOutq s q x).pins = s.pins := rfl
@[simp] theorem setOutq_side : (setOutq s q x).side = s.side := rfl
@[simp] theorem setOutq_sump : (setOutq s q x).sump = s.sump := rfl
@[simp] theorem setOutq_fatal : (setOutq s q x).fatal = s.fatal := rfl
@[simp] theorem setOutq_fabric : (setOutq s q x).fabric = s.fabric := rfl
@[simp] theorem face_setOutq (k : Nat) : face (setOutq s q x) k = face s k := rfl
@[simp] theorem claim_setOutq (k : Nat) : claim (setOutq s q x) k = claim s k := rfl
@[simp] theorem stream_setOutq (k : Nat) : stream (setOutq s q x) k = stream s k := rfl
@[simp] theorem tally_setOutq (k : Nat) : tally (setOutq s q x) k = tally s k := rfl
@[simp] theorem ring_setOutq (k : Nat) : ring (setOutq s q x) k = ring s k := rfl
@[simp] theorem fnOf_setOutq (k : Nat) : fnOf (setOutq s q x) k = fnOf s k := rfl
@[simp] theorem shaft_setOutq (k : Nat) : shaft (setOutq s q x) k = shaft s k := rfl
end

/-! ### One function -/

section
variable (s : State) (n : Nat) (x : Fn)
@[simp] theorem setFn_pending : (setFn s n x).pending = s.pending := rfl
@[simp] theorem setFn_time : (setFn s n x).time = s.time := rfl
@[simp] theorem setFn_elapsed : (setFn s n x).elapsed = s.elapsed := rfl
@[simp] theorem setFn_stamp : (setFn s n x).stamp = s.stamp := rfl
@[simp] theorem setFn_freeCtr : (setFn s n x).freeCtr = s.freeCtr := rfl
@[simp] theorem setFn_rand : (setFn s n x).rand = s.rand := rfl
@[simp] theorem setFn_nextId : (setFn s n x).nextId = s.nextId := rfl
@[simp] theorem setFn_t1 : (setFn s n x).t1 = s.t1 := rfl
@[simp] theorem setFn_t2 : (setFn s n x).t2 = s.t2 := rfl
@[simp] theorem setFn_host : (setFn s n x).host = s.host := rfl
@[simp] theorem setFn_hostBad : (setFn s n x).hostBad = s.hostBad := rfl
@[simp] theorem setFn_vfs : (setFn s n x).vfs = s.vfs := rfl
@[simp] theorem setFn_aer : (setFn s n x).aer = s.aer := rfl
@[simp] theorem setFn_faces : (setFn s n x).faces = s.faces := rfl
@[simp] theorem setFn_claims : (setFn s n x).claims = s.claims := rfl
@[simp] theorem setFn_streams : (setFn s n x).streams = s.streams := rfl
@[simp] theorem setFn_tallies : (setFn s n x).tallies = s.tallies := rfl
@[simp] theorem setFn_reqs : (setFn s n x).reqs = s.reqs := rfl
@[simp] theorem setFn_batches : (setFn s n x).batches = s.batches := rfl
@[simp] theorem setFn_hoists : (setFn s n x).hoists = s.hoists := rfl
@[simp] theorem setFn_waits : (setFn s n x).waits = s.waits := rfl
@[simp] theorem setFn_fetches : (setFn s n x).fetches = s.fetches := rfl
@[simp] theorem setFn_evicts : (setFn s n x).evicts = s.evicts := rfl
@[simp] theorem setFn_retired : (setFn s n x).retired = s.retired := rfl
@[simp] theorem setFn_fenced : (setFn s n x).fenced = s.fenced := rfl
@[simp] theorem setFn_rings : (setFn s n x).rings = s.rings := rfl
@[simp] theorem setFn_turnRing : (setFn s n x).turnRing = s.turnRing := rfl
@[simp] theorem setFn_outqs : (setFn s n x).outqs = s.outqs := rfl
@[simp] theorem setFn_msix : (setFn s n x).msix = s.msix := rfl
@[simp] theorem setFn_cpl : (setFn s n x).cpl = s.cpl := rfl
@[simp] theorem setFn_shafts : (setFn s n x).shafts = s.shafts := rfl
@[simp] theorem setFn_devAddr : (setFn s n x).devAddr = s.devAddr := rfl
@[simp] theorem setFn_routes : (setFn s n x).routes = s.routes := rfl
@[simp] theorem setFn_rxctx : (setFn s n x).rxctx = s.rxctx := rfl
@[simp] theorem setFn_descs : (setFn s n x).descs = s.descs := rfl
@[simp] theorem setFn_served : (setFn s n x).served = s.served := rfl
@[simp] theorem setFn_bell : (setFn s n x).bell = s.bell := rfl
@[simp] theorem setFn_winder : (setFn s n x).winder = s.winder := rfl
@[simp] theorem setFn_power : (setFn s n x).power = s.power := rfl
@[simp] theorem setFn_foul : (setFn s n x).foul = s.foul := rfl
@[simp] theorem setFn_t2Errs : (setFn s n x).t2Errs = s.t2Errs := rfl
@[simp] theorem setFn_entry : (setFn s n x).entry = s.entry := rfl
@[simp] theorem setFn_exit : (setFn s n x).exit = s.exit := rfl
@[simp] theorem setFn_boot : (setFn s n x).boot = s.boot := rfl
@[simp] theorem setFn_pins : (setFn s n x).pins = s.pins := rfl
@[simp] theorem setFn_side : (setFn s n x).side = s.side := rfl
@[simp] theorem setFn_sump : (setFn s n x).sump = s.sump := rfl
@[simp] theorem setFn_fatal : (setFn s n x).fatal = s.fatal := rfl
@[simp] theorem setFn_fabric : (setFn s n x).fabric = s.fabric := rfl
@[simp] theorem face_setFn (k : Nat) : face (setFn s n x) k = face s k := rfl
@[simp] theorem claim_setFn (k : Nat) : claim (setFn s n x) k = claim s k := rfl
@[simp] theorem stream_setFn (k : Nat) : stream (setFn s n x) k = stream s k := rfl
@[simp] theorem tally_setFn (k : Nat) : tally (setFn s n x) k = tally s k := rfl
@[simp] theorem ring_setFn (k : Nat) : ring (setFn s n x) k = ring s k := rfl
@[simp] theorem outq_setFn (k : Nat) : outq (setFn s n x) k = outq s k := rfl
@[simp] theorem shaft_setFn (k : Nat) : shaft (setFn s n x) k = shaft s k := rfl
end

/-! ### One shaft -/

section
variable (s : State) (n : Nat) (x : Shaft)
@[simp] theorem setShaft_pending : (setShaft s n x).pending = s.pending := rfl
@[simp] theorem setShaft_time : (setShaft s n x).time = s.time := rfl
@[simp] theorem setShaft_elapsed : (setShaft s n x).elapsed = s.elapsed := rfl
@[simp] theorem setShaft_stamp : (setShaft s n x).stamp = s.stamp := rfl
@[simp] theorem setShaft_freeCtr : (setShaft s n x).freeCtr = s.freeCtr := rfl
@[simp] theorem setShaft_rand : (setShaft s n x).rand = s.rand := rfl
@[simp] theorem setShaft_nextId : (setShaft s n x).nextId = s.nextId := rfl
@[simp] theorem setShaft_t1 : (setShaft s n x).t1 = s.t1 := rfl
@[simp] theorem setShaft_t2 : (setShaft s n x).t2 = s.t2 := rfl
@[simp] theorem setShaft_host : (setShaft s n x).host = s.host := rfl
@[simp] theorem setShaft_hostBad : (setShaft s n x).hostBad = s.hostBad := rfl
@[simp] theorem setShaft_vfs : (setShaft s n x).vfs = s.vfs := rfl
@[simp] theorem setShaft_aer : (setShaft s n x).aer = s.aer := rfl
@[simp] theorem setShaft_faces : (setShaft s n x).faces = s.faces := rfl
@[simp] theorem setShaft_claims : (setShaft s n x).claims = s.claims := rfl
@[simp] theorem setShaft_streams : (setShaft s n x).streams = s.streams := rfl
@[simp] theorem setShaft_tallies : (setShaft s n x).tallies = s.tallies := rfl
@[simp] theorem setShaft_reqs : (setShaft s n x).reqs = s.reqs := rfl
@[simp] theorem setShaft_batches : (setShaft s n x).batches = s.batches := rfl
@[simp] theorem setShaft_hoists : (setShaft s n x).hoists = s.hoists := rfl
@[simp] theorem setShaft_waits : (setShaft s n x).waits = s.waits := rfl
@[simp] theorem setShaft_fetches : (setShaft s n x).fetches = s.fetches := rfl
@[simp] theorem setShaft_evicts : (setShaft s n x).evicts = s.evicts := rfl
@[simp] theorem setShaft_retired : (setShaft s n x).retired = s.retired := rfl
@[simp] theorem setShaft_fenced : (setShaft s n x).fenced = s.fenced := rfl
@[simp] theorem setShaft_rings : (setShaft s n x).rings = s.rings := rfl
@[simp] theorem setShaft_turnRing : (setShaft s n x).turnRing = s.turnRing := rfl
@[simp] theorem setShaft_outqs : (setShaft s n x).outqs = s.outqs := rfl
@[simp] theorem setShaft_fns : (setShaft s n x).fns = s.fns := rfl
@[simp] theorem setShaft_msix : (setShaft s n x).msix = s.msix := rfl
@[simp] theorem setShaft_cpl : (setShaft s n x).cpl = s.cpl := rfl
@[simp] theorem setShaft_devAddr : (setShaft s n x).devAddr = s.devAddr := rfl
@[simp] theorem setShaft_routes : (setShaft s n x).routes = s.routes := rfl
@[simp] theorem setShaft_rxctx : (setShaft s n x).rxctx = s.rxctx := rfl
@[simp] theorem setShaft_descs : (setShaft s n x).descs = s.descs := rfl
@[simp] theorem setShaft_served : (setShaft s n x).served = s.served := rfl
@[simp] theorem setShaft_bell : (setShaft s n x).bell = s.bell := rfl
@[simp] theorem setShaft_winder : (setShaft s n x).winder = s.winder := rfl
@[simp] theorem setShaft_power : (setShaft s n x).power = s.power := rfl
@[simp] theorem setShaft_foul : (setShaft s n x).foul = s.foul := rfl
@[simp] theorem setShaft_t2Errs : (setShaft s n x).t2Errs = s.t2Errs := rfl
@[simp] theorem setShaft_entry : (setShaft s n x).entry = s.entry := rfl
@[simp] theorem setShaft_exit : (setShaft s n x).exit = s.exit := rfl
@[simp] theorem setShaft_boot : (setShaft s n x).boot = s.boot := rfl
@[simp] theorem setShaft_pins : (setShaft s n x).pins = s.pins := rfl
@[simp] theorem setShaft_side : (setShaft s n x).side = s.side := rfl
@[simp] theorem setShaft_sump : (setShaft s n x).sump = s.sump := rfl
@[simp] theorem setShaft_fatal : (setShaft s n x).fatal = s.fatal := rfl
@[simp] theorem setShaft_fabric : (setShaft s n x).fabric = s.fabric := rfl
@[simp] theorem face_setShaft (k : Nat) : face (setShaft s n x) k = face s k := rfl
@[simp] theorem claim_setShaft (k : Nat) : claim (setShaft s n x) k = claim s k := rfl
@[simp] theorem stream_setShaft (k : Nat) : stream (setShaft s n x) k = stream s k := rfl
@[simp] theorem tally_setShaft (k : Nat) : tally (setShaft s n x) k = tally s k := rfl
@[simp] theorem ring_setShaft (k : Nat) : ring (setShaft s n x) k = ring s k := rfl
@[simp] theorem outq_setShaft (k : Nat) : outq (setShaft s n x) k = outq s k := rfl
@[simp] theorem fnOf_setShaft (k : Nat) : fnOf (setShaft s n x) k = fnOf s k := rfl
end

/-! ### Bytes of host memory -/

section
variable (s : State) (a : Nat) (bs : List Byte)
@[simp] theorem hostWrite_pending : (hostWrite s a bs).pending = s.pending := rfl
@[simp] theorem hostWrite_time : (hostWrite s a bs).time = s.time := rfl
@[simp] theorem hostWrite_elapsed : (hostWrite s a bs).elapsed = s.elapsed := rfl
@[simp] theorem hostWrite_stamp : (hostWrite s a bs).stamp = s.stamp := rfl
@[simp] theorem hostWrite_freeCtr : (hostWrite s a bs).freeCtr = s.freeCtr := rfl
@[simp] theorem hostWrite_rand : (hostWrite s a bs).rand = s.rand := rfl
@[simp] theorem hostWrite_nextId : (hostWrite s a bs).nextId = s.nextId := rfl
@[simp] theorem hostWrite_t1 : (hostWrite s a bs).t1 = s.t1 := rfl
@[simp] theorem hostWrite_t2 : (hostWrite s a bs).t2 = s.t2 := rfl
@[simp] theorem hostWrite_hostBad : (hostWrite s a bs).hostBad = s.hostBad := rfl
@[simp] theorem hostWrite_vfs : (hostWrite s a bs).vfs = s.vfs := rfl
@[simp] theorem hostWrite_aer : (hostWrite s a bs).aer = s.aer := rfl
@[simp] theorem hostWrite_faces : (hostWrite s a bs).faces = s.faces := rfl
@[simp] theorem hostWrite_claims : (hostWrite s a bs).claims = s.claims := rfl
@[simp] theorem hostWrite_streams : (hostWrite s a bs).streams = s.streams := rfl
@[simp] theorem hostWrite_tallies : (hostWrite s a bs).tallies = s.tallies := rfl
@[simp] theorem hostWrite_reqs : (hostWrite s a bs).reqs = s.reqs := rfl
@[simp] theorem hostWrite_batches : (hostWrite s a bs).batches = s.batches := rfl
@[simp] theorem hostWrite_hoists : (hostWrite s a bs).hoists = s.hoists := rfl
@[simp] theorem hostWrite_waits : (hostWrite s a bs).waits = s.waits := rfl
@[simp] theorem hostWrite_fetches : (hostWrite s a bs).fetches = s.fetches := rfl
@[simp] theorem hostWrite_evicts : (hostWrite s a bs).evicts = s.evicts := rfl
@[simp] theorem hostWrite_retired : (hostWrite s a bs).retired = s.retired := rfl
@[simp] theorem hostWrite_fenced : (hostWrite s a bs).fenced = s.fenced := rfl
@[simp] theorem hostWrite_rings : (hostWrite s a bs).rings = s.rings := rfl
@[simp] theorem hostWrite_turnRing : (hostWrite s a bs).turnRing = s.turnRing := rfl
@[simp] theorem hostWrite_outqs : (hostWrite s a bs).outqs = s.outqs := rfl
@[simp] theorem hostWrite_fns : (hostWrite s a bs).fns = s.fns := rfl
@[simp] theorem hostWrite_msix : (hostWrite s a bs).msix = s.msix := rfl
@[simp] theorem hostWrite_cpl : (hostWrite s a bs).cpl = s.cpl := rfl
@[simp] theorem hostWrite_shafts : (hostWrite s a bs).shafts = s.shafts := rfl
@[simp] theorem hostWrite_devAddr : (hostWrite s a bs).devAddr = s.devAddr := rfl
@[simp] theorem hostWrite_routes : (hostWrite s a bs).routes = s.routes := rfl
@[simp] theorem hostWrite_rxctx : (hostWrite s a bs).rxctx = s.rxctx := rfl
@[simp] theorem hostWrite_descs : (hostWrite s a bs).descs = s.descs := rfl
@[simp] theorem hostWrite_served : (hostWrite s a bs).served = s.served := rfl
@[simp] theorem hostWrite_bell : (hostWrite s a bs).bell = s.bell := rfl
@[simp] theorem hostWrite_winder : (hostWrite s a bs).winder = s.winder := rfl
@[simp] theorem hostWrite_power : (hostWrite s a bs).power = s.power := rfl
@[simp] theorem hostWrite_foul : (hostWrite s a bs).foul = s.foul := rfl
@[simp] theorem hostWrite_t2Errs : (hostWrite s a bs).t2Errs = s.t2Errs := rfl
@[simp] theorem hostWrite_entry : (hostWrite s a bs).entry = s.entry := rfl
@[simp] theorem hostWrite_exit : (hostWrite s a bs).exit = s.exit := rfl
@[simp] theorem hostWrite_boot : (hostWrite s a bs).boot = s.boot := rfl
@[simp] theorem hostWrite_pins : (hostWrite s a bs).pins = s.pins := rfl
@[simp] theorem hostWrite_side : (hostWrite s a bs).side = s.side := rfl
@[simp] theorem hostWrite_sump : (hostWrite s a bs).sump = s.sump := rfl
@[simp] theorem hostWrite_fatal : (hostWrite s a bs).fatal = s.fatal := rfl
@[simp] theorem hostWrite_fabric : (hostWrite s a bs).fabric = s.fabric := rfl
@[simp] theorem face_hostWrite (k : Nat) : face (hostWrite s a bs) k = face s k := rfl
@[simp] theorem claim_hostWrite (k : Nat) : claim (hostWrite s a bs) k = claim s k := rfl
@[simp] theorem stream_hostWrite (k : Nat) : stream (hostWrite s a bs) k = stream s k := rfl
@[simp] theorem tally_hostWrite (k : Nat) : tally (hostWrite s a bs) k = tally s k := rfl
@[simp] theorem ring_hostWrite (k : Nat) : ring (hostWrite s a bs) k = ring s k := rfl
@[simp] theorem outq_hostWrite (k : Nat) : outq (hostWrite s a bs) k = outq s k := rfl
@[simp] theorem fnOf_hostWrite (k : Nat) : fnOf (hostWrite s a bs) k = fnOf s k := rfl
@[simp] theorem shaft_hostWrite (k : Nat) : shaft (hostWrite s a bs) k = shaft s k := rfl
end

/-! ### Device time -/

@[simp] theorem advanceTo_pending (s : State) (t : Nat) : (advanceTo s t).pending = s.pending := by unfold advanceTo; split <;> rfl
@[simp] theorem advanceTo_time (s : State) (t : Nat) : (advanceTo s t).time = max s.time t := by
  unfold advanceTo; split <;> (try simp only) <;> omega
@[simp] theorem advanceTo_stamp (s : State) (t : Nat) : (advanceTo s t).stamp = s.stamp := by unfold advanceTo; split <;> rfl
@[simp] theorem advanceTo_freeCtr (s : State) (t : Nat) : (advanceTo s t).freeCtr = s.freeCtr := by unfold advanceTo; split <;> rfl
@[simp] theorem advanceTo_rand (s : State) (t : Nat) : (advanceTo s t).rand = s.rand := by unfold advanceTo; split <;> rfl
@[simp] theorem advanceTo_nextId (s : State) (t : Nat) : (advanceTo s t).nextId = s.nextId := by unfold advanceTo; split <;> rfl
@[simp] theorem advanceTo_t1 (s : State) (t : Nat) : (advanceTo s t).t1 = s.t1 := by unfold advanceTo; split <;> rfl
@[simp] theorem advanceTo_t2 (s : State) (t : Nat) : (advanceTo s t).t2 = s.t2 := by unfold advanceTo; split <;> rfl
@[simp] theorem advanceTo_host (s : State) (t : Nat) : (advanceTo s t).host = s.host := by unfold advanceTo; split <;> rfl
@[simp] theorem advanceTo_hostBad (s : State) (t : Nat) : (advanceTo s t).hostBad = s.hostBad := by unfold advanceTo; split <;> rfl
@[simp] theorem advanceTo_vfs (s : State) (t : Nat) : (advanceTo s t).vfs = s.vfs := by unfold advanceTo; split <;> rfl
@[simp] theorem advanceTo_aer (s : State) (t : Nat) : (advanceTo s t).aer = s.aer := by unfold advanceTo; split <;> rfl
@[simp] theorem advanceTo_faces (s : State) (t : Nat) : (advanceTo s t).faces = s.faces := by unfold advanceTo; split <;> rfl
@[simp] theorem advanceTo_claims (s : State) (t : Nat) : (advanceTo s t).claims = s.claims := by unfold advanceTo; split <;> rfl
@[simp] theorem advanceTo_streams (s : State) (t : Nat) : (advanceTo s t).streams = s.streams := by unfold advanceTo; split <;> rfl
@[simp] theorem advanceTo_tallies (s : State) (t : Nat) : (advanceTo s t).tallies = s.tallies := by unfold advanceTo; split <;> rfl
@[simp] theorem advanceTo_reqs (s : State) (t : Nat) : (advanceTo s t).reqs = s.reqs := by unfold advanceTo; split <;> rfl
@[simp] theorem advanceTo_batches (s : State) (t : Nat) : (advanceTo s t).batches = s.batches := by unfold advanceTo; split <;> rfl
@[simp] theorem advanceTo_hoists (s : State) (t : Nat) : (advanceTo s t).hoists = s.hoists := by unfold advanceTo; split <;> rfl
@[simp] theorem advanceTo_waits (s : State) (t : Nat) : (advanceTo s t).waits = s.waits := by unfold advanceTo; split <;> rfl
@[simp] theorem advanceTo_fetches (s : State) (t : Nat) : (advanceTo s t).fetches = s.fetches := by unfold advanceTo; split <;> rfl
@[simp] theorem advanceTo_evicts (s : State) (t : Nat) : (advanceTo s t).evicts = s.evicts := by unfold advanceTo; split <;> rfl
@[simp] theorem advanceTo_retired (s : State) (t : Nat) : (advanceTo s t).retired = s.retired := by unfold advanceTo; split <;> rfl
@[simp] theorem advanceTo_fenced (s : State) (t : Nat) : (advanceTo s t).fenced = s.fenced := by unfold advanceTo; split <;> rfl
@[simp] theorem advanceTo_rings (s : State) (t : Nat) : (advanceTo s t).rings = s.rings := by unfold advanceTo; split <;> rfl
@[simp] theorem advanceTo_turnRing (s : State) (t : Nat) : (advanceTo s t).turnRing = s.turnRing := by unfold advanceTo; split <;> rfl
@[simp] theorem advanceTo_outqs (s : State) (t : Nat) : (advanceTo s t).outqs = s.outqs := by unfold advanceTo; split <;> rfl
@[simp] theorem advanceTo_fns (s : State) (t : Nat) : (advanceTo s t).fns = s.fns := by unfold advanceTo; split <;> rfl
@[simp] theorem advanceTo_msix (s : State) (t : Nat) : (advanceTo s t).msix = s.msix := by unfold advanceTo; split <;> rfl
@[simp] theorem advanceTo_cpl (s : State) (t : Nat) : (advanceTo s t).cpl = s.cpl := by unfold advanceTo; split <;> rfl
@[simp] theorem advanceTo_shafts (s : State) (t : Nat) : (advanceTo s t).shafts = s.shafts := by unfold advanceTo; split <;> rfl
@[simp] theorem advanceTo_devAddr (s : State) (t : Nat) : (advanceTo s t).devAddr = s.devAddr := by unfold advanceTo; split <;> rfl
@[simp] theorem advanceTo_routes (s : State) (t : Nat) : (advanceTo s t).routes = s.routes := by unfold advanceTo; split <;> rfl
@[simp] theorem advanceTo_rxctx (s : State) (t : Nat) : (advanceTo s t).rxctx = s.rxctx := by unfold advanceTo; split <;> rfl
@[simp] theorem advanceTo_descs (s : State) (t : Nat) : (advanceTo s t).descs = s.descs := by unfold advanceTo; split <;> rfl
@[simp] theorem advanceTo_served (s : State) (t : Nat) : (advanceTo s t).served = s.served := by unfold advanceTo; split <;> rfl
@[simp] theorem advanceTo_bell (s : State) (t : Nat) : (advanceTo s t).bell = s.bell := by unfold advanceTo; split <;> rfl
@[simp] theorem advanceTo_winder (s : State) (t : Nat) : (advanceTo s t).winder = s.winder := by unfold advanceTo; split <;> rfl
@[simp] theorem advanceTo_power (s : State) (t : Nat) : (advanceTo s t).power = s.power := by unfold advanceTo; split <;> rfl
@[simp] theorem advanceTo_foul (s : State) (t : Nat) : (advanceTo s t).foul = s.foul := by unfold advanceTo; split <;> rfl
@[simp] theorem advanceTo_t2Errs (s : State) (t : Nat) : (advanceTo s t).t2Errs = s.t2Errs := by unfold advanceTo; split <;> rfl
@[simp] theorem advanceTo_entry (s : State) (t : Nat) : (advanceTo s t).entry = s.entry := by unfold advanceTo; split <;> rfl
@[simp] theorem advanceTo_exit (s : State) (t : Nat) : (advanceTo s t).exit = s.exit := by unfold advanceTo; split <;> rfl
@[simp] theorem advanceTo_boot (s : State) (t : Nat) : (advanceTo s t).boot = s.boot := by unfold advanceTo; split <;> rfl
@[simp] theorem advanceTo_pins (s : State) (t : Nat) : (advanceTo s t).pins = s.pins := by unfold advanceTo; split <;> rfl
@[simp] theorem advanceTo_side (s : State) (t : Nat) : (advanceTo s t).side = s.side := by unfold advanceTo; split <;> rfl
@[simp] theorem advanceTo_sump (s : State) (t : Nat) : (advanceTo s t).sump = s.sump := by unfold advanceTo; split <;> rfl
@[simp] theorem advanceTo_fatal (s : State) (t : Nat) : (advanceTo s t).fatal = s.fatal := by unfold advanceTo; split <;> rfl
@[simp] theorem advanceTo_fabric (s : State) (t : Nat) : (advanceTo s t).fabric = s.fabric := by unfold advanceTo; split <;> rfl

/-! ### One page, object and slot of a claim -/

section
variable (k : Claim) (p : Nat) (x : Pte)
@[simp] theorem setPte_live : (setPte k p x).live = k.live := rfl
@[simp] theorem setPte_dead : (setPte k p x).dead = k.dead := rfl
@[simp] theorem setPte_clearing : (setPte k p x).clearing = k.clearing := rfl
@[simp] theorem setPte_creating : (setPte k p x).creating = k.creating := rfl
@[simp] theorem setPte_desc : (setPte k p x).desc = k.desc := rfl
@[simp] theorem setPte_extended : (setPte k p x).extended = k.extended := rfl
@[simp] theorem setPte_ctag : (setPte k p x).ctag = k.ctag := rfl
@[simp] theorem setPte_seed : (setPte k p x).seed = k.seed := rfl
@[simp] theorem setPte_key : (setPte k p x).key = k.key := rfl
@[simp] theorem setPte_salt : (setPte k p x).salt = k.salt := rfl
@[simp] theorem setPte_units : (setPte k p x).units = k.units := rfl
@[simp] theorem setPte_t1g : (setPte k p x).t1g = k.t1g := rfl
@[simp] theorem setPte_t2g : (setPte k p x).t2g = k.t2g := rfl
@[simp] theorem setPte_sblk : (setPte k p x).sblk = k.sblk := rfl
@[simp] theorem setPte_tblk : (setPte k p x).tblk = k.tblk := rfl
@[simp] theorem setPte_sys : (setPte k p x).sys = k.sys := rfl
@[simp] theorem setPte_shift : (setPte k p x).shift = k.shift := rfl
@[simp] theorem setPte_epoch : (setPte k p x).epoch = k.epoch := rfl
@[simp] theorem setPte_step : (setPte k p x).step = k.step := rfl
@[simp] theorem setPte_objs : (setPte k p x).objs = k.objs := rfl
@[simp] theorem setPte_free : (setPte k p x).free = k.free := rfl
@[simp] theorem setPte_deadline : (setPte k p x).deadline = k.deadline := rfl
@[simp] theorem setPte_branch : (setPte k p x).branch = k.branch := rfl
@[simp] theorem setPte_vers : (setPte k p x).vers = k.vers := rfl
@[simp] theorem setPte_loads : (setPte k p x).loads = k.loads := rfl
@[simp] theorem setPte_switch : (setPte k p x).switch = k.switch := rfl
@[simp] theorem setPte_marked : (setPte k p x).marked = k.marked := rfl
@[simp] theorem setPte_markAll : (setPte k p x).markAll = k.markAll := rfl
@[simp] theorem setPte_repairs : (setPte k p x).repairs = k.repairs := rfl
@[simp] theorem setPte_repairAt : (setPte k p x).repairAt = k.repairAt := rfl
@[simp] theorem setPte_auditInt : (setPte k p x).auditInt = k.auditInt := rfl
@[simp] theorem setPte_auditPos : (setPte k p x).auditPos = k.auditPos := rfl
@[simp] theorem setPte_auditAt : (setPte k p x).auditAt = k.auditAt := rfl
@[simp] theorem setPte_audit : (setPte k p x).audit = k.audit := rfl
@[simp] theorem setPte_serve : (setPte k p x).serve = k.serve := rfl
@[simp] theorem setPte_admission : (setPte k p x).admission = k.admission := rfl
@[simp] theorem setPte_freeing : (setPte k p x).freeing = k.freeing := rfl
@[simp] theorem setPte_veinFull : (setPte k p x).veinFull = k.veinFull := rfl
@[simp] theorem setPte_turn : (setPte k p x).turn = k.turn := rfl
@[simp] theorem setPte_sweep : (setPte k p x).sweep = k.sweep := rfl
@[simp] theorem setPte_canary : (setPte k p x).canary = k.canary := rfl
@[simp] theorem setPte_canTab : (setPte k p x).canTab = k.canTab := rfl
@[simp] theorem setPte_canPend : (setPte k p x).canPend = k.canPend := rfl
@[simp] theorem setPte_still : (setPte k p x).still = k.still := rfl
@[simp] theorem setPte_alarm : (setPte k p x).alarm = k.alarm := rfl
@[simp] theorem setPte_lastStep : (setPte k p x).lastStep = k.lastStep := rfl
@[simp] theorem setPte_canGen : (setPte k p x).canGen = k.canGen := rfl
@[simp] theorem setPte_canCtl : (setPte k p x).canCtl = k.canCtl := rfl
@[simp] theorem setPte_scales : (setPte k p x).scales = k.scales := rfl
@[simp] theorem setPte_ledgers : (setPte k p x).ledgers = k.ledgers := rfl
@[simp] theorem setPte_assays : (setPte k p x).assays = k.assays := rfl
@[simp] theorem setPte_groups : (setPte k p x).groups = k.groups := rfl
@[simp] theorem setPte_colls : (setPte k p x).colls = k.colls := rfl
@[simp] theorem setPte_sigBox : (setPte k p x).sigBox = k.sigBox := rfl
@[simp] theorem setPte_aborts : (setPte k p x).aborts = k.aborts := rfl
@[simp] theorem setPte_pset : (setPte k p x).pset = k.pset := rfl
@[simp] theorem setPte_period : (setPte k p x).period = k.period := rfl
@[simp] theorem setPte_origin : (setPte k p x).origin = k.origin := rfl
@[simp] theorem setPte_originNum : (setPte k p x).originNum = k.originNum := rfl
@[simp] theorem setPte_tick : (setPte k p x).tick = k.tick := rfl
@[simp] theorem setPte_ticking : (setPte k p x).ticking = k.ticking := rfl
@[simp] theorem setPte_tickPend : (setPte k p x).tickPend = k.tickPend := rfl
@[simp] theorem setPte_offset : (setPte k p x).offset = k.offset := rfl
@[simp] theorem setPte_slew : (setPte k p x).slew = k.slew := rfl
@[simp] theorem setPte_slewAt : (setPte k p x).slewAt = k.slewAt := rfl
@[simp] theorem setPte_members : (setPte k p x).members = k.members := rfl
@[simp] theorem setPte_master : (setPte k p x).master = k.master := rfl
@[simp] theorem setPte_sympathy : (setPte k p x).sympathy = k.sympathy := rfl
@[simp] theorem setPte_tickSeen : (setPte k p x).tickSeen = k.tickSeen := rfl
@[simp] theorem setPte_tickAt : (setPte k p x).tickAt = k.tickAt := rfl
@[simp] theorem setPte_tickCyc : (setPte k p x).tickCyc = k.tickCyc := rfl
@[simp] theorem setPte_tickLost : (setPte k p x).tickLost = k.tickLost := rfl
@[simp] theorem setPte_fcnt : (setPte k p x).fcnt = k.fcnt := rfl
@[simp] theorem setPte_fseen : (setPte k p x).fseen = k.fseen := rfl
@[simp] theorem setPte_lag : (setPte k p x).lag = k.lag := rfl
@[simp] theorem setPte_digests : (setPte k p x).digests = k.digests := rfl
@[simp] theorem setPte_gossip : (setPte k p x).gossip = k.gossip := rfl
@[simp] theorem setPte_tally : (setPte k p x).tally = k.tally := rfl
@[simp] theorem setPte_winN : (setPte k p x).winN = k.winN := rfl
@[simp] theorem setPte_winPend : (setPte k p x).winPend = k.winPend := rfl
@[simp] theorem setPte_winBase : (setPte k p x).winBase = k.winBase := rfl
@[simp] theorem setPte_winNum : (setPte k p x).winNum = k.winNum := rfl
@[simp] theorem setPte_rolled : (setPte k p x).rolled = k.rolled := rfl
@[simp] theorem setPte_talGen : (setPte k p x).talGen = k.talGen := rfl
@[simp] theorem setPte_talTick : (setPte k p x).talTick = k.talTick := rfl
@[simp] theorem setPte_talWin : (setPte k p x).talWin = k.talWin := rfl
@[simp] theorem setPte_talSum : (setPte k p x).talSum = k.talSum := rfl
@[simp] theorem setPte_talHeld : (setPte k p x).talHeld = k.talHeld := rfl
end

section
variable (k : Claim) (n : Nat) (x : Obj)
@[simp] theorem setObj_live : (setObj k n x).live = k.live := rfl
@[simp] theorem setObj_dead : (setObj k n x).dead = k.dead := rfl
@[simp] theorem setObj_clearing : (setObj k n x).clearing = k.clearing := rfl
@[simp] theorem setObj_creating : (setObj k n x).creating = k.creating := rfl
@[simp] theorem setObj_desc : (setObj k n x).desc = k.desc := rfl
@[simp] theorem setObj_extended : (setObj k n x).extended = k.extended := rfl
@[simp] theorem setObj_ctag : (setObj k n x).ctag = k.ctag := rfl
@[simp] theorem setObj_seed : (setObj k n x).seed = k.seed := rfl
@[simp] theorem setObj_key : (setObj k n x).key = k.key := rfl
@[simp] theorem setObj_salt : (setObj k n x).salt = k.salt := rfl
@[simp] theorem setObj_units : (setObj k n x).units = k.units := rfl
@[simp] theorem setObj_t1g : (setObj k n x).t1g = k.t1g := rfl
@[simp] theorem setObj_t2g : (setObj k n x).t2g = k.t2g := rfl
@[simp] theorem setObj_sblk : (setObj k n x).sblk = k.sblk := rfl
@[simp] theorem setObj_tblk : (setObj k n x).tblk = k.tblk := rfl
@[simp] theorem setObj_sys : (setObj k n x).sys = k.sys := rfl
@[simp] theorem setObj_shift : (setObj k n x).shift = k.shift := rfl
@[simp] theorem setObj_epoch : (setObj k n x).epoch = k.epoch := rfl
@[simp] theorem setObj_step : (setObj k n x).step = k.step := rfl
@[simp] theorem setObj_pages : (setObj k n x).pages = k.pages := rfl
@[simp] theorem setObj_free : (setObj k n x).free = k.free := rfl
@[simp] theorem setObj_deadline : (setObj k n x).deadline = k.deadline := rfl
@[simp] theorem setObj_branch : (setObj k n x).branch = k.branch := rfl
@[simp] theorem setObj_vers : (setObj k n x).vers = k.vers := rfl
@[simp] theorem setObj_loads : (setObj k n x).loads = k.loads := rfl
@[simp] theorem setObj_switch : (setObj k n x).switch = k.switch := rfl
@[simp] theorem setObj_marked : (setObj k n x).marked = k.marked := rfl
@[simp] theorem setObj_markAll : (setObj k n x).markAll = k.markAll := rfl
@[simp] theorem setObj_repairs : (setObj k n x).repairs = k.repairs := rfl
@[simp] theorem setObj_repairAt : (setObj k n x).repairAt = k.repairAt := rfl
@[simp] theorem setObj_auditInt : (setObj k n x).auditInt = k.auditInt := rfl
@[simp] theorem setObj_auditPos : (setObj k n x).auditPos = k.auditPos := rfl
@[simp] theorem setObj_auditAt : (setObj k n x).auditAt = k.auditAt := rfl
@[simp] theorem setObj_audit : (setObj k n x).audit = k.audit := rfl
@[simp] theorem setObj_serve : (setObj k n x).serve = k.serve := rfl
@[simp] theorem setObj_admission : (setObj k n x).admission = k.admission := rfl
@[simp] theorem setObj_freeing : (setObj k n x).freeing = k.freeing := rfl
@[simp] theorem setObj_veinFull : (setObj k n x).veinFull = k.veinFull := rfl
@[simp] theorem setObj_turn : (setObj k n x).turn = k.turn := rfl
@[simp] theorem setObj_sweep : (setObj k n x).sweep = k.sweep := rfl
@[simp] theorem setObj_canary : (setObj k n x).canary = k.canary := rfl
@[simp] theorem setObj_canTab : (setObj k n x).canTab = k.canTab := rfl
@[simp] theorem setObj_canPend : (setObj k n x).canPend = k.canPend := rfl
@[simp] theorem setObj_still : (setObj k n x).still = k.still := rfl
@[simp] theorem setObj_alarm : (setObj k n x).alarm = k.alarm := rfl
@[simp] theorem setObj_lastStep : (setObj k n x).lastStep = k.lastStep := rfl
@[simp] theorem setObj_canGen : (setObj k n x).canGen = k.canGen := rfl
@[simp] theorem setObj_canCtl : (setObj k n x).canCtl = k.canCtl := rfl
@[simp] theorem setObj_scales : (setObj k n x).scales = k.scales := rfl
@[simp] theorem setObj_ledgers : (setObj k n x).ledgers = k.ledgers := rfl
@[simp] theorem setObj_assays : (setObj k n x).assays = k.assays := rfl
@[simp] theorem setObj_groups : (setObj k n x).groups = k.groups := rfl
@[simp] theorem setObj_colls : (setObj k n x).colls = k.colls := rfl
@[simp] theorem setObj_sigBox : (setObj k n x).sigBox = k.sigBox := rfl
@[simp] theorem setObj_aborts : (setObj k n x).aborts = k.aborts := rfl
@[simp] theorem setObj_pset : (setObj k n x).pset = k.pset := rfl
@[simp] theorem setObj_period : (setObj k n x).period = k.period := rfl
@[simp] theorem setObj_origin : (setObj k n x).origin = k.origin := rfl
@[simp] theorem setObj_originNum : (setObj k n x).originNum = k.originNum := rfl
@[simp] theorem setObj_tick : (setObj k n x).tick = k.tick := rfl
@[simp] theorem setObj_ticking : (setObj k n x).ticking = k.ticking := rfl
@[simp] theorem setObj_tickPend : (setObj k n x).tickPend = k.tickPend := rfl
@[simp] theorem setObj_offset : (setObj k n x).offset = k.offset := rfl
@[simp] theorem setObj_slew : (setObj k n x).slew = k.slew := rfl
@[simp] theorem setObj_slewAt : (setObj k n x).slewAt = k.slewAt := rfl
@[simp] theorem setObj_members : (setObj k n x).members = k.members := rfl
@[simp] theorem setObj_master : (setObj k n x).master = k.master := rfl
@[simp] theorem setObj_sympathy : (setObj k n x).sympathy = k.sympathy := rfl
@[simp] theorem setObj_tickSeen : (setObj k n x).tickSeen = k.tickSeen := rfl
@[simp] theorem setObj_tickAt : (setObj k n x).tickAt = k.tickAt := rfl
@[simp] theorem setObj_tickCyc : (setObj k n x).tickCyc = k.tickCyc := rfl
@[simp] theorem setObj_tickLost : (setObj k n x).tickLost = k.tickLost := rfl
@[simp] theorem setObj_fcnt : (setObj k n x).fcnt = k.fcnt := rfl
@[simp] theorem setObj_fseen : (setObj k n x).fseen = k.fseen := rfl
@[simp] theorem setObj_lag : (setObj k n x).lag = k.lag := rfl
@[simp] theorem setObj_digests : (setObj k n x).digests = k.digests := rfl
@[simp] theorem setObj_gossip : (setObj k n x).gossip = k.gossip := rfl
@[simp] theorem setObj_tally : (setObj k n x).tally = k.tally := rfl
@[simp] theorem setObj_winN : (setObj k n x).winN = k.winN := rfl
@[simp] theorem setObj_winPend : (setObj k n x).winPend = k.winPend := rfl
@[simp] theorem setObj_winBase : (setObj k n x).winBase = k.winBase := rfl
@[simp] theorem setObj_winNum : (setObj k n x).winNum = k.winNum := rfl
@[simp] theorem setObj_rolled : (setObj k n x).rolled = k.rolled := rfl
@[simp] theorem setObj_talGen : (setObj k n x).talGen = k.talGen := rfl
@[simp] theorem setObj_talTick : (setObj k n x).talTick = k.talTick := rfl
@[simp] theorem setObj_talWin : (setObj k n x).talWin = k.talWin := rfl
@[simp] theorem setObj_talSum : (setObj k n x).talSum = k.talSum := rfl
@[simp] theorem setObj_talHeld : (setObj k n x).talHeld = k.talHeld := rfl
end

section
variable (k : Claim) (n : Nat) (x : Ver)
@[simp] theorem setVer_live : (setVer k n x).live = k.live := rfl
@[simp] theorem setVer_dead : (setVer k n x).dead = k.dead := rfl
@[simp] theorem setVer_clearing : (setVer k n x).clearing = k.clearing := rfl
@[simp] theorem setVer_creating : (setVer k n x).creating = k.creating := rfl
@[simp] theorem setVer_desc : (setVer k n x).desc = k.desc := rfl
@[simp] theorem setVer_extended : (setVer k n x).extended = k.extended := rfl
@[simp] theorem setVer_ctag : (setVer k n x).ctag = k.ctag := rfl
@[simp] theorem setVer_seed : (setVer k n x).seed = k.seed := rfl
@[simp] theorem setVer_key : (setVer k n x).key = k.key := rfl
@[simp] theorem setVer_salt : (setVer k n x).salt = k.salt := rfl
@[simp] theorem setVer_units : (setVer k n x).units = k.units := rfl
@[simp] theorem setVer_t1g : (setVer k n x).t1g = k.t1g := rfl
@[simp] theorem setVer_t2g : (setVer k n x).t2g = k.t2g := rfl
@[simp] theorem setVer_sblk : (setVer k n x).sblk = k.sblk := rfl
@[simp] theorem setVer_tblk : (setVer k n x).tblk = k.tblk := rfl
@[simp] theorem setVer_sys : (setVer k n x).sys = k.sys := rfl
@[simp] theorem setVer_shift : (setVer k n x).shift = k.shift := rfl
@[simp] theorem setVer_epoch : (setVer k n x).epoch = k.epoch := rfl
@[simp] theorem setVer_step : (setVer k n x).step = k.step := rfl
@[simp] theorem setVer_pages : (setVer k n x).pages = k.pages := rfl
@[simp] theorem setVer_objs : (setVer k n x).objs = k.objs := rfl
@[simp] theorem setVer_free : (setVer k n x).free = k.free := rfl
@[simp] theorem setVer_deadline : (setVer k n x).deadline = k.deadline := rfl
@[simp] theorem setVer_branch : (setVer k n x).branch = k.branch := rfl
@[simp] theorem setVer_loads : (setVer k n x).loads = k.loads := rfl
@[simp] theorem setVer_switch : (setVer k n x).switch = k.switch := rfl
@[simp] theorem setVer_marked : (setVer k n x).marked = k.marked := rfl
@[simp] theorem setVer_markAll : (setVer k n x).markAll = k.markAll := rfl
@[simp] theorem setVer_repairs : (setVer k n x).repairs = k.repairs := rfl
@[simp] theorem setVer_repairAt : (setVer k n x).repairAt = k.repairAt := rfl
@[simp] theorem setVer_auditInt : (setVer k n x).auditInt = k.auditInt := rfl
@[simp] theorem setVer_auditPos : (setVer k n x).auditPos = k.auditPos := rfl
@[simp] theorem setVer_auditAt : (setVer k n x).auditAt = k.auditAt := rfl
@[simp] theorem setVer_audit : (setVer k n x).audit = k.audit := rfl
@[simp] theorem setVer_serve : (setVer k n x).serve = k.serve := rfl
@[simp] theorem setVer_admission : (setVer k n x).admission = k.admission := rfl
@[simp] theorem setVer_freeing : (setVer k n x).freeing = k.freeing := rfl
@[simp] theorem setVer_veinFull : (setVer k n x).veinFull = k.veinFull := rfl
@[simp] theorem setVer_turn : (setVer k n x).turn = k.turn := rfl
@[simp] theorem setVer_sweep : (setVer k n x).sweep = k.sweep := rfl
@[simp] theorem setVer_canary : (setVer k n x).canary = k.canary := rfl
@[simp] theorem setVer_canTab : (setVer k n x).canTab = k.canTab := rfl
@[simp] theorem setVer_canPend : (setVer k n x).canPend = k.canPend := rfl
@[simp] theorem setVer_still : (setVer k n x).still = k.still := rfl
@[simp] theorem setVer_alarm : (setVer k n x).alarm = k.alarm := rfl
@[simp] theorem setVer_lastStep : (setVer k n x).lastStep = k.lastStep := rfl
@[simp] theorem setVer_canGen : (setVer k n x).canGen = k.canGen := rfl
@[simp] theorem setVer_canCtl : (setVer k n x).canCtl = k.canCtl := rfl
@[simp] theorem setVer_scales : (setVer k n x).scales = k.scales := rfl
@[simp] theorem setVer_ledgers : (setVer k n x).ledgers = k.ledgers := rfl
@[simp] theorem setVer_assays : (setVer k n x).assays = k.assays := rfl
@[simp] theorem setVer_groups : (setVer k n x).groups = k.groups := rfl
@[simp] theorem setVer_colls : (setVer k n x).colls = k.colls := rfl
@[simp] theorem setVer_sigBox : (setVer k n x).sigBox = k.sigBox := rfl
@[simp] theorem setVer_aborts : (setVer k n x).aborts = k.aborts := rfl
@[simp] theorem setVer_pset : (setVer k n x).pset = k.pset := rfl
@[simp] theorem setVer_period : (setVer k n x).period = k.period := rfl
@[simp] theorem setVer_origin : (setVer k n x).origin = k.origin := rfl
@[simp] theorem setVer_originNum : (setVer k n x).originNum = k.originNum := rfl
@[simp] theorem setVer_tick : (setVer k n x).tick = k.tick := rfl
@[simp] theorem setVer_ticking : (setVer k n x).ticking = k.ticking := rfl
@[simp] theorem setVer_tickPend : (setVer k n x).tickPend = k.tickPend := rfl
@[simp] theorem setVer_offset : (setVer k n x).offset = k.offset := rfl
@[simp] theorem setVer_slew : (setVer k n x).slew = k.slew := rfl
@[simp] theorem setVer_slewAt : (setVer k n x).slewAt = k.slewAt := rfl
@[simp] theorem setVer_members : (setVer k n x).members = k.members := rfl
@[simp] theorem setVer_master : (setVer k n x).master = k.master := rfl
@[simp] theorem setVer_sympathy : (setVer k n x).sympathy = k.sympathy := rfl
@[simp] theorem setVer_tickSeen : (setVer k n x).tickSeen = k.tickSeen := rfl
@[simp] theorem setVer_tickAt : (setVer k n x).tickAt = k.tickAt := rfl
@[simp] theorem setVer_tickCyc : (setVer k n x).tickCyc = k.tickCyc := rfl
@[simp] theorem setVer_tickLost : (setVer k n x).tickLost = k.tickLost := rfl
@[simp] theorem setVer_fcnt : (setVer k n x).fcnt = k.fcnt := rfl
@[simp] theorem setVer_fseen : (setVer k n x).fseen = k.fseen := rfl
@[simp] theorem setVer_lag : (setVer k n x).lag = k.lag := rfl
@[simp] theorem setVer_digests : (setVer k n x).digests = k.digests := rfl
@[simp] theorem setVer_gossip : (setVer k n x).gossip = k.gossip := rfl
@[simp] theorem setVer_tally : (setVer k n x).tally = k.tally := rfl
@[simp] theorem setVer_winN : (setVer k n x).winN = k.winN := rfl
@[simp] theorem setVer_winPend : (setVer k n x).winPend = k.winPend := rfl
@[simp] theorem setVer_winBase : (setVer k n x).winBase = k.winBase := rfl
@[simp] theorem setVer_winNum : (setVer k n x).winNum = k.winNum := rfl
@[simp] theorem setVer_rolled : (setVer k n x).rolled = k.rolled := rfl
@[simp] theorem setVer_talGen : (setVer k n x).talGen = k.talGen := rfl
@[simp] theorem setVer_talTick : (setVer k n x).talTick = k.talTick := rfl
@[simp] theorem setVer_talWin : (setVer k n x).talWin = k.talWin := rfl
@[simp] theorem setVer_talSum : (setVer k n x).talSum = k.talSum := rfl
@[simp] theorem setVer_talHeld : (setVer k n x).talHeld = k.talHeld := rfl
end

/-! ### One lane of a face -/

section
variable (x : Face) (st : IssueStream) (l : Lane)
@[simp] theorem setLane_t0 : (setLane x st l).t0 = x.t0 := by cases st <;> rfl
@[simp] theorem setLane_lost : (setLane x st l).lost = x.lost := by cases st <;> rfl
@[simp] theorem setLane_t0By : (setLane x st l).t0By = x.t0By := by cases st <;> rfl
@[simp] theorem setLane_v : (setLane x st l).v = x.v := by cases st <;> rfl
@[simp] theorem setLane_m : (setLane x st l).m = x.m := by cases st <;> rfl
@[simp] theorem setLane_s : (setLane x st l).s = x.s := by cases st <;> rfl
@[simp] theorem setLane_sem : (setLane x st l).sem = x.sem := by cases st <;> rfl
@[simp] theorem setLane_acc : (setLane x st l).acc = x.acc := by cases st <;> rfl
@[simp] theorem setLane_buf : (setLane x st l).buf = x.buf := by cases st <;> rfl
@[simp] theorem setLane_dma : (setLane x st l).dma = x.dma := by cases st <;> rfl
@[simp] theorem setLane_post : (setLane x st l).post = x.post := by cases st <;> rfl
@[simp] theorem setLane_droop : (setLane x st l).droop = x.droop := by cases st <;> rfl
@[simp] theorem setLane_bubbles : (setLane x st l).bubbles = x.bubbles := by cases st <;> rfl
@[simp] theorem setLane_parV : (setLane x st l).parV = x.parV := by cases st <;> rfl
@[simp] theorem setLane_parM : (setLane x st l).parM = x.parM := by cases st <;> rfl
@[simp] theorem setLane_parS : (setLane x st l).parS = x.parS := by cases st <;> rfl
@[simp] theorem lane_setLane : lane (setLane x st l) st = l := by cases st <;> rfl
@[simp] theorem setLane_setLane (m : Lane) : setLane (setLane x st l) st m = setLane x st m := by cases st <;> rfl
@[simp] theorem setLane_lane : setLane x st (lane x st) = x := by cases st <;> rfl
theorem lane_setLane_ne {st st' : IssueStream} (h : st' ≠ st) : lane (setLane x st l) st' = lane x st' := by
  cases st <;> cases st' <;> first | rfl | exact absurd rfl h
end

/-! ### What an entry reads as once it is written, in a state of canonical form -/

theorem face_setFace {s : State} (hs : Tab.wf {} s.faces = true) (k j : Nat) (x : Face) :
    face (setFace s k x) j = if j = k then x else face s j := Tab.get_set_wf hs k j x
theorem setFace_setFace {s : State} (hs : Tab.wf {} s.faces = true) (k : Nat) (x y : Face) :
    setFace (setFace s k x) k y = setFace s k y := by simp only [setFace, Tab.set_set hs]
theorem claim_setClaim {s : State} (hs : Tab.wf {} s.claims = true) (k j : Nat) (x : Claim) :
    claim (setClaim s k x) j = if j = k then x else claim s j := Tab.get_set_wf hs k j x
theorem setClaim_setClaim {s : State} (hs : Tab.wf {} s.claims = true) (k : Nat) (x y : Claim) :
    setClaim (setClaim s k x) k y = setClaim s k y := by simp only [setClaim, Tab.set_set hs]
theorem stream_setStream {s : State} (hs : Tab.wf {} s.streams = true) (k j : Nat) (x : Stream) :
    stream (setStream s k x) j = if j = k then x else stream s j := Tab.get_set_wf hs k j x
theorem setStream_setStream {s : State} (hs : Tab.wf {} s.streams = true) (k : Nat) (x y : Stream) :
    setStream (setStream s k x) k y = setStream s k y := by simp only [setStream, Tab.set_set hs]
theorem tally_setTally {s : State} (hs : Tab.wf {} s.tallies = true) (k j : Nat) (x : Tally) :
    tally (setTally s k x) j = if j = k then x else tally s j := Tab.get_set_wf hs k j x
theorem setTally_setTally {s : State} (hs : Tab.wf {} s.tallies = true) (k : Nat) (x y : Tally) :
    setTally (setTally s k x) k y = setTally s k y := by simp only [setTally, Tab.set_set hs]
theorem ring_setRing {s : State} (hs : Tab.wf {} s.rings = true) (k j : Nat) (x : Ring) :
    ring (setRing s k x) j = if j = k then x else ring s j := Tab.get_set_wf hs k j x
theorem setRing_setRing {s : State} (hs : Tab.wf {} s.rings = true) (k : Nat) (x y : Ring) :
    setRing (setRing s k x) k y = setRing s k y := by simp only [setRing, Tab.set_set hs]
theorem outq_setOutq {s : State} (hs : Tab.wf {} s.outqs = true) (k j : Nat) (x : OutQ) :
    outq (setOutq s k x) j = if j = k then x else outq s j := Tab.get_set_wf hs k j x
theorem setOutq_setOutq {s : State} (hs : Tab.wf {} s.outqs = true) (k : Nat) (x y : OutQ) :
    setOutq (setOutq s k x) k y = setOutq s k y := by simp only [setOutq, Tab.set_set hs]
theorem fnOf_setFn {s : State} (hs : Tab.wf {} s.fns = true) (k j : Nat) (x : Fn) :
    fnOf (setFn s k x) j = if j = k then x else fnOf s j := Tab.get_set_wf hs k j x
theorem setFn_setFn {s : State} (hs : Tab.wf {} s.fns = true) (k : Nat) (x y : Fn) :
    setFn (setFn s k x) k y = setFn s k y := by simp only [setFn, Tab.set_set hs]
theorem shaft_setShaft {s : State} (hs : Tab.wf {} s.shafts = true) (k j : Nat) (x : Shaft) :
    shaft (setShaft s k x) j = if j = k then x else shaft s j := Tab.get_set_wf hs k j x
theorem setShaft_setShaft {s : State} (hs : Tab.wf {} s.shafts = true) (k : Nat) (x y : Shaft) :
    setShaft (setShaft s k x) k y = setShaft s k y := by simp only [setShaft, Tab.set_set hs]

/-! ### A word of memory -/

@[simp] theorem setWord_pending (s : State) (l : Loc) (i : Nat) (w : W80) : (setWord s l i w).pending = s.pending := by cases l <;> rfl
@[simp] theorem putWord_pending (s : State) (l : Loc) (i : Nat) (w : PWord) : (putWord s l i w).pending = s.pending := setWord_pending s l i _
@[simp] theorem setWord_time (s : State) (l : Loc) (i : Nat) (w : W80) : (setWord s l i w).time = s.time := by cases l <;> rfl
@[simp] theorem putWord_time (s : State) (l : Loc) (i : Nat) (w : PWord) : (putWord s l i w).time = s.time := setWord_time s l i _
@[simp] theorem setWord_elapsed (s : State) (l : Loc) (i : Nat) (w : W80) : (setWord s l i w).elapsed = s.elapsed := by cases l <;> rfl
@[simp] theorem putWord_elapsed (s : State) (l : Loc) (i : Nat) (w : PWord) : (putWord s l i w).elapsed = s.elapsed := setWord_elapsed s l i _
@[simp] theorem setWord_stamp (s : State) (l : Loc) (i : Nat) (w : W80) : (setWord s l i w).stamp = s.stamp := by cases l <;> rfl
@[simp] theorem putWord_stamp (s : State) (l : Loc) (i : Nat) (w : PWord) : (putWord s l i w).stamp = s.stamp := setWord_stamp s l i _
@[simp] theorem setWord_freeCtr (s : State) (l : Loc) (i : Nat) (w : W80) : (setWord s l i w).freeCtr = s.freeCtr := by cases l <;> rfl
@[simp] theorem putWord_freeCtr (s : State) (l : Loc) (i : Nat) (w : PWord) : (putWord s l i w).freeCtr = s.freeCtr := setWord_freeCtr s l i _
@[simp] theorem setWord_rand (s : State) (l : Loc) (i : Nat) (w : W80) : (setWord s l i w).rand = s.rand := by cases l <;> rfl
@[simp] theorem putWord_rand (s : State) (l : Loc) (i : Nat) (w : PWord) : (putWord s l i w).rand = s.rand := setWord_rand s l i _
@[simp] theorem setWord_nextId (s : State) (l : Loc) (i : Nat) (w : W80) : (setWord s l i w).nextId = s.nextId := by cases l <;> rfl
@[simp] theorem putWord_nextId (s : State) (l : Loc) (i : Nat) (w : PWord) : (putWord s l i w).nextId = s.nextId := setWord_nextId s l i _
@[simp] theorem setWord_host (s : State) (l : Loc) (i : Nat) (w : W80) : (setWord s l i w).host = s.host := by cases l <;> rfl
@[simp] theorem putWord_host (s : State) (l : Loc) (i : Nat) (w : PWord) : (putWord s l i w).host = s.host := setWord_host s l i _
@[simp] theorem setWord_hostBad (s : State) (l : Loc) (i : Nat) (w : W80) : (setWord s l i w).hostBad = s.hostBad := by cases l <;> rfl
@[simp] theorem putWord_hostBad (s : State) (l : Loc) (i : Nat) (w : PWord) : (putWord s l i w).hostBad = s.hostBad := setWord_hostBad s l i _
@[simp] theorem setWord_vfs (s : State) (l : Loc) (i : Nat) (w : W80) : (setWord s l i w).vfs = s.vfs := by cases l <;> rfl
@[simp] theorem putWord_vfs (s : State) (l : Loc) (i : Nat) (w : PWord) : (putWord s l i w).vfs = s.vfs := setWord_vfs s l i _
@[simp] theorem setWord_aer (s : State) (l : Loc) (i : Nat) (w : W80) : (setWord s l i w).aer = s.aer := by cases l <;> rfl
@[simp] theorem putWord_aer (s : State) (l : Loc) (i : Nat) (w : PWord) : (putWord s l i w).aer = s.aer := setWord_aer s l i _
@[simp] theorem setWord_claims (s : State) (l : Loc) (i : Nat) (w : W80) : (setWord s l i w).claims = s.claims := by cases l <;> rfl
@[simp] theorem putWord_claims (s : State) (l : Loc) (i : Nat) (w : PWord) : (putWord s l i w).claims = s.claims := setWord_claims s l i _
@[simp] theorem setWord_streams (s : State) (l : Loc) (i : Nat) (w : W80) : (setWord s l i w).streams = s.streams := by cases l <;> rfl
@[simp] theorem putWord_streams (s : State) (l : Loc) (i : Nat) (w : PWord) : (putWord s l i w).streams = s.streams := setWord_streams s l i _
@[simp] theorem setWord_tallies (s : State) (l : Loc) (i : Nat) (w : W80) : (setWord s l i w).tallies = s.tallies := by cases l <;> rfl
@[simp] theorem putWord_tallies (s : State) (l : Loc) (i : Nat) (w : PWord) : (putWord s l i w).tallies = s.tallies := setWord_tallies s l i _
@[simp] theorem setWord_reqs (s : State) (l : Loc) (i : Nat) (w : W80) : (setWord s l i w).reqs = s.reqs := by cases l <;> rfl
@[simp] theorem putWord_reqs (s : State) (l : Loc) (i : Nat) (w : PWord) : (putWord s l i w).reqs = s.reqs := setWord_reqs s l i _
@[simp] theorem setWord_batches (s : State) (l : Loc) (i : Nat) (w : W80) : (setWord s l i w).batches = s.batches := by cases l <;> rfl
@[simp] theorem putWord_batches (s : State) (l : Loc) (i : Nat) (w : PWord) : (putWord s l i w).batches = s.batches := setWord_batches s l i _
@[simp] theorem setWord_hoists (s : State) (l : Loc) (i : Nat) (w : W80) : (setWord s l i w).hoists = s.hoists := by cases l <;> rfl
@[simp] theorem putWord_hoists (s : State) (l : Loc) (i : Nat) (w : PWord) : (putWord s l i w).hoists = s.hoists := setWord_hoists s l i _
@[simp] theorem setWord_waits (s : State) (l : Loc) (i : Nat) (w : W80) : (setWord s l i w).waits = s.waits := by cases l <;> rfl
@[simp] theorem putWord_waits (s : State) (l : Loc) (i : Nat) (w : PWord) : (putWord s l i w).waits = s.waits := setWord_waits s l i _
@[simp] theorem setWord_fetches (s : State) (l : Loc) (i : Nat) (w : W80) : (setWord s l i w).fetches = s.fetches := by cases l <;> rfl
@[simp] theorem putWord_fetches (s : State) (l : Loc) (i : Nat) (w : PWord) : (putWord s l i w).fetches = s.fetches := setWord_fetches s l i _
@[simp] theorem setWord_evicts (s : State) (l : Loc) (i : Nat) (w : W80) : (setWord s l i w).evicts = s.evicts := by cases l <;> rfl
@[simp] theorem putWord_evicts (s : State) (l : Loc) (i : Nat) (w : PWord) : (putWord s l i w).evicts = s.evicts := setWord_evicts s l i _
@[simp] theorem setWord_retired (s : State) (l : Loc) (i : Nat) (w : W80) : (setWord s l i w).retired = s.retired := by cases l <;> rfl
@[simp] theorem putWord_retired (s : State) (l : Loc) (i : Nat) (w : PWord) : (putWord s l i w).retired = s.retired := setWord_retired s l i _
@[simp] theorem setWord_fenced (s : State) (l : Loc) (i : Nat) (w : W80) : (setWord s l i w).fenced = s.fenced := by cases l <;> rfl
@[simp] theorem putWord_fenced (s : State) (l : Loc) (i : Nat) (w : PWord) : (putWord s l i w).fenced = s.fenced := setWord_fenced s l i _
@[simp] theorem setWord_rings (s : State) (l : Loc) (i : Nat) (w : W80) : (setWord s l i w).rings = s.rings := by cases l <;> rfl
@[simp] theorem putWord_rings (s : State) (l : Loc) (i : Nat) (w : PWord) : (putWord s l i w).rings = s.rings := setWord_rings s l i _
@[simp] theorem setWord_turnRing (s : State) (l : Loc) (i : Nat) (w : W80) : (setWord s l i w).turnRing = s.turnRing := by cases l <;> rfl
@[simp] theorem putWord_turnRing (s : State) (l : Loc) (i : Nat) (w : PWord) : (putWord s l i w).turnRing = s.turnRing := setWord_turnRing s l i _
@[simp] theorem setWord_outqs (s : State) (l : Loc) (i : Nat) (w : W80) : (setWord s l i w).outqs = s.outqs := by cases l <;> rfl
@[simp] theorem putWord_outqs (s : State) (l : Loc) (i : Nat) (w : PWord) : (putWord s l i w).outqs = s.outqs := setWord_outqs s l i _
@[simp] theorem setWord_fns (s : State) (l : Loc) (i : Nat) (w : W80) : (setWord s l i w).fns = s.fns := by cases l <;> rfl
@[simp] theorem putWord_fns (s : State) (l : Loc) (i : Nat) (w : PWord) : (putWord s l i w).fns = s.fns := setWord_fns s l i _
@[simp] theorem setWord_msix (s : State) (l : Loc) (i : Nat) (w : W80) : (setWord s l i w).msix = s.msix := by cases l <;> rfl
@[simp] theorem putWord_msix (s : State) (l : Loc) (i : Nat) (w : PWord) : (putWord s l i w).msix = s.msix := setWord_msix s l i _
@[simp] theorem setWord_cpl (s : State) (l : Loc) (i : Nat) (w : W80) : (setWord s l i w).cpl = s.cpl := by cases l <;> rfl
@[simp] theorem putWord_cpl (s : State) (l : Loc) (i : Nat) (w : PWord) : (putWord s l i w).cpl = s.cpl := setWord_cpl s l i _
@[simp] theorem setWord_shafts (s : State) (l : Loc) (i : Nat) (w : W80) : (setWord s l i w).shafts = s.shafts := by cases l <;> rfl
@[simp] theorem putWord_shafts (s : State) (l : Loc) (i : Nat) (w : PWord) : (putWord s l i w).shafts = s.shafts := setWord_shafts s l i _
@[simp] theorem setWord_devAddr (s : State) (l : Loc) (i : Nat) (w : W80) : (setWord s l i w).devAddr = s.devAddr := by cases l <;> rfl
@[simp] theorem putWord_devAddr (s : State) (l : Loc) (i : Nat) (w : PWord) : (putWord s l i w).devAddr = s.devAddr := setWord_devAddr s l i _
@[simp] theorem setWord_routes (s : State) (l : Loc) (i : Nat) (w : W80) : (setWord s l i w).routes = s.routes := by cases l <;> rfl
@[simp] theorem putWord_routes (s : State) (l : Loc) (i : Nat) (w : PWord) : (putWord s l i w).routes = s.routes := setWord_routes s l i _
@[simp] theorem setWord_rxctx (s : State) (l : Loc) (i : Nat) (w : W80) : (setWord s l i w).rxctx = s.rxctx := by cases l <;> rfl
@[simp] theorem putWord_rxctx (s : State) (l : Loc) (i : Nat) (w : PWord) : (putWord s l i w).rxctx = s.rxctx := setWord_rxctx s l i _
@[simp] theorem setWord_descs (s : State) (l : Loc) (i : Nat) (w : W80) : (setWord s l i w).descs = s.descs := by cases l <;> rfl
@[simp] theorem putWord_descs (s : State) (l : Loc) (i : Nat) (w : PWord) : (putWord s l i w).descs = s.descs := setWord_descs s l i _
@[simp] theorem setWord_served (s : State) (l : Loc) (i : Nat) (w : W80) : (setWord s l i w).served = s.served := by cases l <;> rfl
@[simp] theorem putWord_served (s : State) (l : Loc) (i : Nat) (w : PWord) : (putWord s l i w).served = s.served := setWord_served s l i _
@[simp] theorem setWord_bell (s : State) (l : Loc) (i : Nat) (w : W80) : (setWord s l i w).bell = s.bell := by cases l <;> rfl
@[simp] theorem putWord_bell (s : State) (l : Loc) (i : Nat) (w : PWord) : (putWord s l i w).bell = s.bell := setWord_bell s l i _
@[simp] theorem setWord_winder (s : State) (l : Loc) (i : Nat) (w : W80) : (setWord s l i w).winder = s.winder := by cases l <;> rfl
@[simp] theorem putWord_winder (s : State) (l : Loc) (i : Nat) (w : PWord) : (putWord s l i w).winder = s.winder := setWord_winder s l i _
@[simp] theorem setWord_power (s : State) (l : Loc) (i : Nat) (w : W80) : (setWord s l i w).power = s.power := by cases l <;> rfl
@[simp] theorem putWord_power (s : State) (l : Loc) (i : Nat) (w : PWord) : (putWord s l i w).power = s.power := setWord_power s l i _
@[simp] theorem setWord_foul (s : State) (l : Loc) (i : Nat) (w : W80) : (setWord s l i w).foul = s.foul := by cases l <;> rfl
@[simp] theorem putWord_foul (s : State) (l : Loc) (i : Nat) (w : PWord) : (putWord s l i w).foul = s.foul := setWord_foul s l i _
@[simp] theorem setWord_t2Errs (s : State) (l : Loc) (i : Nat) (w : W80) : (setWord s l i w).t2Errs = s.t2Errs := by cases l <;> rfl
@[simp] theorem putWord_t2Errs (s : State) (l : Loc) (i : Nat) (w : PWord) : (putWord s l i w).t2Errs = s.t2Errs := setWord_t2Errs s l i _
@[simp] theorem setWord_entry (s : State) (l : Loc) (i : Nat) (w : W80) : (setWord s l i w).entry = s.entry := by cases l <;> rfl
@[simp] theorem putWord_entry (s : State) (l : Loc) (i : Nat) (w : PWord) : (putWord s l i w).entry = s.entry := setWord_entry s l i _
@[simp] theorem setWord_exit (s : State) (l : Loc) (i : Nat) (w : W80) : (setWord s l i w).exit = s.exit := by cases l <;> rfl
@[simp] theorem putWord_exit (s : State) (l : Loc) (i : Nat) (w : PWord) : (putWord s l i w).exit = s.exit := setWord_exit s l i _
@[simp] theorem setWord_boot (s : State) (l : Loc) (i : Nat) (w : W80) : (setWord s l i w).boot = s.boot := by cases l <;> rfl
@[simp] theorem putWord_boot (s : State) (l : Loc) (i : Nat) (w : PWord) : (putWord s l i w).boot = s.boot := setWord_boot s l i _
@[simp] theorem setWord_pins (s : State) (l : Loc) (i : Nat) (w : W80) : (setWord s l i w).pins = s.pins := by cases l <;> rfl
@[simp] theorem putWord_pins (s : State) (l : Loc) (i : Nat) (w : PWord) : (putWord s l i w).pins = s.pins := setWord_pins s l i _
@[simp] theorem setWord_side (s : State) (l : Loc) (i : Nat) (w : W80) : (setWord s l i w).side = s.side := by cases l <;> rfl
@[simp] theorem putWord_side (s : State) (l : Loc) (i : Nat) (w : PWord) : (putWord s l i w).side = s.side := setWord_side s l i _
@[simp] theorem setWord_sump (s : State) (l : Loc) (i : Nat) (w : W80) : (setWord s l i w).sump = s.sump := by cases l <;> rfl
@[simp] theorem putWord_sump (s : State) (l : Loc) (i : Nat) (w : PWord) : (putWord s l i w).sump = s.sump := setWord_sump s l i _
@[simp] theorem setWord_fatal (s : State) (l : Loc) (i : Nat) (w : W80) : (setWord s l i w).fatal = s.fatal := by cases l <;> rfl
@[simp] theorem putWord_fatal (s : State) (l : Loc) (i : Nat) (w : PWord) : (putWord s l i w).fatal = s.fatal := setWord_fatal s l i _
@[simp] theorem setWord_fabric (s : State) (l : Loc) (i : Nat) (w : W80) : (setWord s l i w).fabric = s.fabric := by cases l <;> rfl
@[simp] theorem putWord_fabric (s : State) (l : Loc) (i : Nat) (w : PWord) : (putWord s l i w).fabric = s.fabric := setWord_fabric s l i _

end Sys2Proof.Machine
end

