-- ==== Sys2Proof/Laws/Issue.lean ====
section
/-!
SUPPORT. What an instruction that issues comes to, once for all of them: its own work once the checks of R99, R100,
R120 and R121 have passed, and the stream at the next word.
-/
namespace Sys2Proof.Machine
open Sys2Proof

theorem issue_runs {s : State} {f : Fin 128} {st : IssueStream} {op : Nat} {i : Ins} {body : State → Ins → State}
    (h : Issuing s f st op i) : issue s f.val st op body = body s i := by
  obtain ⟨_, h1, h2, h3, h4, h5⟩ := h
  have hp : (i.l.badCode.contains i.l.pc || (i.ext && i.l.badCode.contains (i.l.pc + 1))) = false := by
    cases he : i.ext
    · simpa using h4.1
    · rw [h4.1, h4.2 he]; rfl
  simp only [issue, issueIf, h1, h2, h3, hp]
  cases he : i.ext
  · simp
  · have := h5 he
    simp
    omega
theorem withRegs_runs {s : State} {i : Ins} {ns : List Name} {body : State → State} (h : Named s i ns) :
    withRegs s i ns body = body s := by
  simp [withRegs, h.owned, h.good]
/-- The instruction stands on its face and stream, with the lane as it is. -/
theorem issuing_ins {s : State} {f : Fin 128} {st : IssueStream} {op : Nat} {i : Ins} (h : Issuing s f st op i) :
    i.f = f.val ∧ i.st = st ∧ i.l = lane (face s f) st := by
  have := h.word
  simp only [fetch] at this
  split at this
  · cases this
  · cases this; exact ⟨rfl, rfl, rfl⟩
theorem canonical_faces {s : State} (h : s.canonical = true) : Tab.wf {} s.faces = true := by
  have := faces_wf (Kept.refl s) h
  simp only [facesWf, Bool.and_eq_true] at this
  exact this.1
/-- An instruction that changes its face and goes on. -/
theorem done_setFace {s : State} {i : Ins} (h : s.canonical = true) (x : Face) : done (setFace s i.f x) i = goesOn s i x := by
  have hw := canonical_faces h
  simp only [done, modLane, goesOn, face_setFace hw, if_true, setFace_setFace hw]
/-- An instruction that changes nothing else and goes on. -/
theorem done_same {s : State} {i : Ins} : done s i = goesOn s i (face s i.f) := rfl
/-- A branch to a word that begins an instruction. -/
theorem jump_to {s : State} {i : Ins} {t : Int} {n : Nat} (ht : t = n) (hn : n ∈ starts i.l.code) :
    jump s i t = goesTo s i (face s i.f) n := by
  subst ht
  unfold jump
  rw [if_pos ⟨by omega, by simpa using hn⟩]
  rfl
/-- A branch elsewhere fails. -/
theorem jump_bad {s : State} {i : Ins} {t : Int} (hn : ∀ n : Nat, t = n → n ∉ starts i.l.code) : jump s i t = fails s i stBranchRange := by
  unfold jump
  rw [if_neg]
  · rfl
  · rintro ⟨h0, h1⟩
    refine hn t.toNat (by omega) (by simpa using h1)
/-- A fold over a list made from a range. -/
theorem foldl_zipIdx_map {α β : Type} (g : Nat → α) (n : Nat) (h : β → α × Nat → β) (b : β) :
    (((List.range n).map g).zipIdx).foldl h b = (List.range n).foldl (fun b k => h b (g k, k)) b := by
  induction n generalizing b with
  | zero => rfl
  | succ n ih => simp [List.range_succ, List.zipIdx_append, List.foldl_append, ih]
/-- Elements written in place. -/
theorem setVelems_map (s : State) (f n lo : Nat) (g : Nat → W32) (cnt : Nat) (on : Nat → Bool) :
    setVelems s f n lo ((List.range cnt).map g) on =
      setFace s f { face s f with v := (List.range cnt).foldl (fun t k =>
        if on (lo + k) then Tab.set 0 t (1024 * n + lo + k) (g k) else t) (face s f).v } := by
  unfold setVelems
  dsimp only
  rw [foldl_zipIdx_map]
/-- With no extension word, the fields of one do not matter. -/
theorem encodingOk_no {i : Ins} {fields x y : List (Nat × Nat)} (h : encodingOk i fields .no x = true) : encodingOk i fields .no y = true := by
  cases he : i.ext <;> simp_all [encodingOk]

end Sys2Proof.Machine
end

