-- ==== Sys2Proof/Laws/KeptOps.lean ====
section
/-!
SUPPORT. The state, memory, faces of a request, links, leaves, and readings of claim memory: no operation takes or adds a command, or leaves a table out of canonical form (Kept.lean).
-/
namespace Sys2Proof.Machine
open Sys2Proof

/-! ### Ops.lean -/

theorem setFace_kept {s0 s : State} {f : Nat} {x : Face} (hk : Kept s0 s) (hx : s0.canonical = true → Tab.wf 0 x.t0 = true) :
    Kept s0 (setFace s f x) :=
  mk_kept hk (fun _ => t1_wf hk) (fun _ => t2_wf hk) (fun _ => host_wf hk) (fun _ => facesWf_put (faces_wf hk) hx) (fun _ => claims_wf hk) (fun _ => streams_wf hk) (fun _ => tallies_wf hk) (fun _ => rings_wf hk) (fun _ => outqs_wf hk) (fun _ => fns_wf hk) (fun _ => msix_wf hk) (fun _ => shafts_wf hk) (fun _ => routes_wf hk) (fun _ => rxctx_wf hk) (fun _ => fabric_wf hk)

theorem setClaim_kept {s0 s : State} {c : Nat} {x : Claim} (hk : Kept s0 s) : Kept s0 (setClaim s c x) := by
  unfold setClaim
  repeat' first
    | (with_reducible first
        | assumption | apply faces_wf | apply claims_wf | apply rings_wf | apply t1_wf | apply t2_wf | apply host_wf
        | apply streams_wf | apply tallies_wf | apply outqs_wf | apply fns_wf | apply msix_wf | apply shafts_wf
        | apply routes_wf | apply rxctx_wf | apply fabric_wf | apply wf_put)
    | intro _ | with_reducible apply mk_kept
theorem setStream_kept {s0 s : State} {n : Nat} {x : Stream} (hk : Kept s0 s) : Kept s0 (setStream s n x) := by
  unfold setStream
  repeat' first
    | (with_reducible first
        | assumption | apply faces_wf | apply claims_wf | apply rings_wf | apply t1_wf | apply t2_wf | apply host_wf
        | apply streams_wf | apply tallies_wf | apply outqs_wf | apply fns_wf | apply msix_wf | apply shafts_wf
        | apply routes_wf | apply rxctx_wf | apply fabric_wf | apply wf_put)
    | intro _ | with_reducible apply mk_kept
theorem setTally_kept {s0 s : State} {n : Nat} {x : Tally} (hk : Kept s0 s) : Kept s0 (setTally s n x) := by
  unfold setTally
  repeat' first
    | (with_reducible first
        | assumption | apply faces_wf | apply claims_wf | apply rings_wf | apply t1_wf | apply t2_wf | apply host_wf
        | apply streams_wf | apply tallies_wf | apply outqs_wf | apply fns_wf | apply msix_wf | apply shafts_wf
        | apply routes_wf | apply rxctx_wf | apply fabric_wf | apply wf_put)
    | intro _ | with_reducible apply mk_kept
theorem setRing_kept {s0 s : State} {r : Nat} {x : Ring} (hk : Kept s0 s) : Kept s0 (setRing s r x) := by
  unfold setRing
  repeat' first
    | (with_reducible first
        | assumption | apply faces_wf | apply claims_wf | apply rings_wf | apply t1_wf | apply t2_wf | apply host_wf
        | apply streams_wf | apply tallies_wf | apply outqs_wf | apply fns_wf | apply msix_wf | apply shafts_wf
        | apply routes_wf | apply rxctx_wf | apply fabric_wf | apply wf_put)
    | intro _ | with_reducible apply mk_kept
theorem setOutq_kept {s0 s : State} {q : Nat} {x : OutQ} (hk : Kept s0 s) : Kept s0 (setOutq s q x) := by
  unfold setOutq
  repeat' first
    | (with_reducible first
        | assumption | apply faces_wf | apply claims_wf | apply rings_wf | apply t1_wf | apply t2_wf | apply host_wf
        | apply streams_wf | apply tallies_wf | apply outqs_wf | apply fns_wf | apply msix_wf | apply shafts_wf
        | apply routes_wf | apply rxctx_wf | apply fabric_wf | apply wf_put)
    | intro _ | with_reducible apply mk_kept
theorem setFn_kept {s0 s : State} {n : Nat} {x : Fn} (hk : Kept s0 s) : Kept s0 (setFn s n x) := by
  unfold setFn
  repeat' first
    | (with_reducible first
        | assumption | apply faces_wf | apply claims_wf | apply rings_wf | apply t1_wf | apply t2_wf | apply host_wf
        | apply streams_wf | apply tallies_wf | apply outqs_wf | apply fns_wf | apply msix_wf | apply shafts_wf
        | apply routes_wf | apply rxctx_wf | apply fabric_wf | apply wf_put)
    | intro _ | with_reducible apply mk_kept
theorem setShaft_kept {s0 s : State} {n : Nat} {x : Shaft} (hk : Kept s0 s) : Kept s0 (setShaft s n x) := by
  unfold setShaft
  repeat' first
    | (with_reducible first
        | assumption | apply faces_wf | apply claims_wf | apply rings_wf | apply t1_wf | apply t2_wf | apply host_wf
        | apply streams_wf | apply tallies_wf | apply outqs_wf | apply fns_wf | apply msix_wf | apply shafts_wf
        | apply routes_wf | apply rxctx_wf | apply fabric_wf | apply wf_put)
    | intro _ | with_reducible apply mk_kept
theorem modLane_kept {s0 s : State} {f : Nat} {st : IssueStream} {g : Lane → Lane} (hk : Kept s0 s) : Kept s0 (modLane s f st g)
    := by
  unfold modLane
  dsimp only
  repeat' first | (with_reducible first | assumption | apply setFace_kept | apply t0_lane | apply t0_wf)
theorem freshId_kept {s0 s : State} (hk : Kept s0 s) : Kept s0 (freshId s).2 := by
  unfold freshId
  dsimp only
  repeat' first
    | (with_reducible first
        | assumption | apply faces_wf | apply claims_wf | apply rings_wf | apply t1_wf | apply t2_wf | apply host_wf
        | apply streams_wf | apply tallies_wf | apply outqs_wf | apply fns_wf | apply msix_wf | apply shafts_wf
        | apply routes_wf | apply rxctx_wf | apply fabric_wf)
    | with_reducible apply mk_kept
theorem freeValue_kept {s0 s : State} (hk : Kept s0 s) : Kept s0 (freeValue s).2 := by
  unfold freeValue
  dsimp only
  repeat' first
    | (with_reducible first
        | assumption | apply faces_wf | apply claims_wf | apply rings_wf | apply t1_wf | apply t2_wf | apply host_wf
        | apply streams_wf | apply tallies_wf | apply outqs_wf | apply fns_wf | apply msix_wf | apply shafts_wf
        | apply routes_wf | apply rxctx_wf | apply fabric_wf)
    | with_reducible apply mk_kept
theorem draw_kept {s0 s : State} (hk : Kept s0 s) : Kept s0 (draw s).2 := by
  unfold draw
  dsimp only
  repeat' first
    | (with_reducible first
        | assumption | apply faces_wf | apply claims_wf | apply rings_wf | apply t1_wf | apply t2_wf | apply host_wf
        | apply streams_wf | apply tallies_wf | apply outqs_wf | apply fns_wf | apply msix_wf | apply shafts_wf
        | apply routes_wf | apply rxctx_wf | apply fabric_wf)
    | with_reducible apply mk_kept
theorem hostWrite_kept {s0 s : State} {a : Nat} {bs : List Byte} (hk : Kept s0 s) : Kept s0 (hostWrite s a bs) := by
  unfold hostWrite
  repeat' first
    | (with_reducible first
        | assumption | apply faces_wf | apply claims_wf | apply rings_wf | apply t1_wf | apply t2_wf | apply host_wf
        | apply streams_wf | apply tallies_wf | apply outqs_wf | apply fns_wf | apply msix_wf | apply shafts_wf
        | apply routes_wf | apply rxctx_wf | apply fabric_wf | apply wf_run)
    | intro _ | with_reducible apply mk_kept
theorem interrupt_kept {s0 s : State} {fn vec : Nat} (hk : Kept s0 s) : Kept s0 (interrupt s fn vec) := by
  unfold interrupt
  dsimp only
  repeat' first
    | (with_reducible first
        | assumption | apply hostWrite_kept | apply faces_wf | apply claims_wf | apply rings_wf | apply t1_wf | apply t2_wf
        | apply host_wf | apply streams_wf | apply tallies_wf | apply outqs_wf | apply fns_wf | apply msix_wf | apply shafts_wf
        | apply routes_wf | apply rxctx_wf | apply fabric_wf | apply wf_put)
    | split | intro _ | with_reducible apply mk_kept
theorem postSump_kept {s0 s : State} {r : SumpRec} (hk : Kept s0 s) : Kept s0 (postSump s r) := by
  unfold postSump
  dsimp only
  repeat' first
    | (with_reducible first
        | assumption | apply interrupt_kept | apply faces_wf | apply claims_wf | apply rings_wf | apply t1_wf | apply t2_wf
        | apply host_wf | apply streams_wf | apply tallies_wf | apply outqs_wf | apply fns_wf | apply msix_wf | apply shafts_wf
        | apply routes_wf | apply rxctx_wf | apply fabric_wf)
    | split | with_reducible apply mk_kept
theorem logHost_kept {s0 s : State} {k : Option Nat} {c : Option (Nat × W32)} {status : Nat} (hk : Kept s0 s) : Kept s0
    (logHost s k c status) := by
  unfold logHost
  repeat' first
    | (with_reducible first
        | assumption | apply postSump_kept | apply faces_wf | apply claims_wf | apply rings_wf | apply t1_wf | apply t2_wf
        | apply host_wf | apply streams_wf | apply tallies_wf | apply outqs_wf | apply fns_wf | apply msix_wf | apply shafts_wf
        | apply routes_wf | apply rxctx_wf | apply fabric_wf)
    | with_reducible apply mk_kept
theorem postQueue_kept {s0 s : State} {q : Nat} {entry : List Byte} (hk : Kept s0 s) : Kept s0 (postQueue s q entry) := by
  unfold postQueue
  dsimp only
  repeat' first
    | (with_reducible first
        | assumption | apply hostWrite_kept | apply setOutq_kept | apply logHost_kept | apply interrupt_kept)
    | split
theorem postEvent_kept {s0 s : State} {c : Option Nat} {code : Nat} {args : List Nat} (hk : Kept s0 s) : Kept s0
    (postEvent s c code args) := by
  unfold postEvent
  dsimp only
  repeat' first | (with_reducible first | assumption | apply postQueue_kept)
theorem sendReply_kept {s0 s : State} {r : Nat} {c : Cmd} {status r0 r1 : Nat} (hk : Kept s0 s) : Kept s0
    (sendReply s r c status r0 r1) := by
  unfold sendReply
  dsimp only
  repeat' first
    | (with_reducible first
        | assumption | apply setRing_kept | apply logHost_kept | apply hostWrite_kept | apply interrupt_kept)
    | split
theorem reply_kept {s0 s : State} {r : Nat} {seq : W32} {status r0 r1 : Nat} (hk : Kept s0 s) : Kept s0
    (reply s r seq status r0 r1) := by
  unfold reply
  dsimp only
  repeat' first | (with_reducible first | assumption | apply sendReply_kept | apply setRing_kept) | split
theorem replyTo_kept {s0 s : State} {c : Option (Nat × W32)} {status r0 r1 : Nat} (hk : Kept s0 s) : Kept s0
    (replyTo s c status r0 r1) := by
  unfold replyTo
  repeat' first | (with_reducible first | assumption | apply reply_kept) | split
theorem advanceTo_kept {s0 s : State} {t : Nat} (hk : Kept s0 s) : Kept s0 (advanceTo s t) := by
  unfold advanceTo
  repeat' first
    | (with_reducible first
        | assumption | apply faces_wf | apply claims_wf | apply rings_wf | apply t1_wf | apply t2_wf | apply host_wf
        | apply streams_wf | apply tallies_wf | apply outqs_wf | apply fns_wf | apply msix_wf | apply shafts_wf
        | apply routes_wf | apply rxctx_wf | apply fabric_wf)
    | split | with_reducible apply mk_kept

/-! ### Clock.lean -/

theorem clockEdge_kept {s0 s : State} (hk : Kept s0 s) : Kept s0 (clockEdge s) := by
  unfold clockEdge
  repeat' first
    | (with_reducible first
        | assumption | apply faces_wf | apply claims_wf | apply rings_wf | apply t1_wf | apply t2_wf | apply host_wf
        | apply streams_wf | apply tallies_wf | apply outqs_wf | apply fns_wf | apply msix_wf | apply shafts_wf
        | apply routes_wf | apply rxctx_wf | apply fabric_wf)
    | split | with_reducible apply mk_kept

/-! ### Mem.lean -/

theorem setMem_kept {s0 s : State} {l : Loc} {t : Tab W80} (hk : Kept s0 s) (ht : s0.canonical = true → Tab.wf 0 t = true) :
    Kept s0 (setMem s l t) := by
  cases l with
  | t0 f => exact setFace_kept hk ht
  | t1 =>
    exact mk_kept hk (fun _ => ht) (fun _ => t2_wf hk) (fun _ => host_wf hk) (fun _ => faces_wf hk) (fun _ => claims_wf hk) (fun _ => streams_wf hk) (fun _ => tallies_wf hk) (fun _ => rings_wf hk) (fun _ => outqs_wf hk) (fun _ => fns_wf hk) (fun _ => msix_wf hk) (fun _ => shafts_wf hk) (fun _ => routes_wf hk) (fun _ => rxctx_wf hk) (fun _ => fabric_wf hk)
  | t2 =>
    exact mk_kept hk (fun _ => t1_wf hk) (fun _ => ht) (fun _ => host_wf hk) (fun _ => faces_wf hk) (fun _ => claims_wf hk) (fun _ => streams_wf hk) (fun _ => tallies_wf hk) (fun _ => rings_wf hk) (fun _ => outqs_wf hk) (fun _ => fns_wf hk) (fun _ => msix_wf hk) (fun _ => shafts_wf hk) (fun _ => routes_wf hk) (fun _ => rxctx_wf hk) (fun _ => fabric_wf hk)
theorem memTab_wf {s0 s : State} {l : Loc} (hk : Kept s0 s) : s0.canonical = true → Tab.wf 0 (memTab s l) = true := by
  cases l with
  | t0 f => exact t0_wf hk
  | t1 => exact t1_wf hk
  | t2 => exact t2_wf hk
theorem setWord_kept {s0 s : State} {l : Loc} {i : Nat} {w : W80} (hk : Kept s0 s) : Kept s0 (setWord s l i w) := by
  exact setMem_kept hk (wf_put (memTab_wf hk))
theorem putWord_kept {s0 s : State} {l : Loc} {i : Nat} {w : PWord} (hk : Kept s0 s) : Kept s0 (putWord s l i w) := by
  unfold putWord
  repeat' first | (with_reducible first | assumption | apply setWord_kept)
theorem countT2_kept {s0 s : State} {l : Loc} {i : Nat} {dev : Option Nat} (hk : Kept s0 s) : Kept s0 (countT2 s l i dev) := by
  unfold countT2
  repeat' first
    | (with_reducible first
        | assumption | apply faces_wf | apply claims_wf | apply rings_wf | apply t1_wf | apply t2_wf | apply host_wf
        | apply streams_wf | apply tallies_wf | apply outqs_wf | apply fns_wf | apply msix_wf | apply shafts_wf
        | apply routes_wf | apply rxctx_wf | apply fabric_wf)
    | split | with_reducible apply mk_kept
theorem noteWord_kept {s0 s : State} {l : Loc} {i : Nat} (hk : Kept s0 s) : Kept s0 (noteWord s l i) := by
  unfold noteWord
  dsimp only
  repeat' first
    | (with_reducible first
        | assumption | apply countT2_kept | apply postSump_kept | apply setWord_kept | apply putWord_kept | apply faces_wf
        | apply claims_wf | apply rings_wf | apply t1_wf | apply t2_wf | apply host_wf | apply streams_wf | apply tallies_wf
        | apply outqs_wf | apply fns_wf | apply msix_wf | apply shafts_wf | apply routes_wf | apply rxctx_wf | apply fabric_wf)
    | split | with_reducible apply mk_kept
theorem noteRun_kept {s0 s : State} {l : Loc} {i n : Nat} (hk : Kept s0 s) : Kept s0 (noteRun s l i n) := by
  unfold noteRun
  repeat' first | (with_reducible first | assumption | apply noteWord_kept | apply fold_kept) | intro _
theorem mergeWord_kept {s0 s : State} {l : Loc} {i m d : Nat} (hk : Kept s0 s) : Kept s0 (mergeWord s l i m d) := by
  unfold mergeWord
  dsimp only
  repeat' first | (with_reducible first | assumption | apply putWord_kept | apply noteWord_kept) | split
theorem storeBytes_kept {s0 s : State} {l : Loc} {bs : List (Nat × Byte)} (hk : Kept s0 s) : Kept s0 (storeBytes s l bs) := by
  unfold storeBytes
  repeat' first | (with_reducible first | assumption | apply mergeWord_kept | apply fold_kept) | intro _
theorem noteBytes_kept {s0 s : State} {l : Loc} {a n : Nat} (hk : Kept s0 s) : Kept s0 (noteBytes s l a n) := by
  unfold noteBytes
  repeat' first | (with_reducible first | assumption | apply noteRun_kept) | split
theorem noteVa_kept {s0 s : State} {c va n : Nat} (hk : Kept s0 s) : Kept s0 (noteVa s c va n) := by
  unfold noteVa
  repeat' first | (with_reducible first | assumption | apply noteWord_kept | apply fold_kept) | split | intro _
theorem noteRead_kept {s0 s : State} {c va n : Nat} (hk : Kept s0 s) : Kept s0 (noteRead s c va n) := by
  unfold noteRead
  repeat' first | (with_reducible first | assumption | apply noteVa_kept) | split
theorem noteAll_kept {s0 s : State} {c : Nat} {spans : List (Nat × Nat)} (hk : Kept s0 s) : Kept s0 (noteAll s c spans) := by
  unfold noteAll
  repeat' first | (with_reducible first | assumption | apply noteRead_kept | apply fold_kept) | intro _
theorem dirtyRange_kept {s0 s : State} {c va n : Nat} (hk : Kept s0 s) : Kept s0 (dirtyRange s c va n) := by
  unfold dirtyRange
  repeat' first | (with_reducible first | assumption | apply setClaim_kept)
theorem vaPut_kept {s0 s : State} {c va : Nat} {ws : List PWord} (hk : Kept s0 s) : Kept s0 (vaPut s c va ws) := by
  unfold vaPut
  dsimp only
  repeat' first | (with_reducible first | assumption | apply dirtyRange_kept | apply putWord_kept | apply fold_kept) | intro _
theorem vaStore_kept {s0 s : State} {c va : Nat} {bs : List Byte} (hk : Kept s0 s) : Kept s0 (vaStore s c va bs) := by
  unfold vaStore
  dsimp only
  repeat' first | (with_reducible first | assumption | apply dirtyRange_kept | apply mergeWord_kept | apply fold_kept) | intro _
theorem vaStoreWords_kept {s0 s : State} {c va : Nat} {ws : List W64} (hk : Kept s0 s) : Kept s0 (vaStoreWords s c va ws) := by
  unfold vaStoreWords
  repeat' first | (with_reducible first | assumption | apply vaStore_kept)
theorem assignHoists_kept {s0 s : State} (hk : Kept s0 s) : Kept s0 (assignHoists s) := by
  unfold assignHoists
  dsimp only
  repeat' first
    | (with_reducible first
        | assumption | apply setClaim_kept | apply fold_kept1 | apply faces_wf | apply claims_wf | apply rings_wf | apply t1_wf
        | apply t2_wf | apply host_wf | apply streams_wf | apply tallies_wf | apply outqs_wf | apply fns_wf | apply msix_wf
        | apply shafts_wf | apply routes_wf | apply rxctx_wf | apply fabric_wf)
    | split | intro _ | with_reducible apply mk_kept
theorem startHoist_kept {s0 s : State} {c p : Nat} {bench quarter : Option Nat} {near : Bool} {init : Nat} (hk : Kept s0 s) :
    Kept s0 (startHoist s c p bench quarter near init) := by
  unfold startHoist
  dsimp only
  repeat' first
    | (with_reducible first
        | assumption | apply setClaim_kept | apply assignHoists_kept | apply faces_wf | apply claims_wf | apply rings_wf
        | apply t1_wf | apply t2_wf | apply host_wf | apply streams_wf | apply tallies_wf | apply outqs_wf | apply fns_wf
        | apply msix_wf | apply shafts_wf | apply routes_wf | apply rxctx_wf | apply fabric_wf)
    | split | with_reducible apply mk_kept
theorem waitFor_kept {s0 s : State} {c p : Nat} {who : Waiter} {bench quarter : Option Nat} (hk : Kept s0 s) : Kept s0
    (waitFor s c p who bench quarter) := by
  unfold waitFor
  dsimp only
  repeat' first
    | (with_reducible first
        | assumption | apply freshId_kept | apply startHoist_kept | apply faces_wf | apply claims_wf | apply rings_wf
        | apply t1_wf | apply t2_wf | apply host_wf | apply streams_wf | apply tallies_wf | apply outqs_wf | apply fns_wf
        | apply msix_wf | apply shafts_wf | apply routes_wf | apply rxctx_wf | apply fabric_wf)
    | with_reducible apply mk_kept
theorem addWait_kept {s0 s : State} {c p : Nat} {who : Waiter} (hk : Kept s0 s) : Kept s0 (addWait s c p who) := by
  unfold addWait
  repeat' first | (with_reducible first | assumption | apply waitFor_kept)
theorem stallOn_kept {s0 s : State} {c p : Nat} {who : Waiter} (hk : Kept s0 s) : Kept s0 (stallOn s c p who) := by
  unfold stallOn
  repeat' first | (with_reducible first | assumption | apply addWait_kept) | split
theorem stallFace_kept {s0 s : State} {c f : Nat} {ps : List Nat} {who : Waiter} (hk : Kept s0 s) : Kept s0
    (stallFace s c f ps who) := by
  unfold stallFace
  repeat' first | (with_reducible first | assumption | apply waitFor_kept | apply fold_kept) | split | intro _
theorem stallAll_kept {s0 s : State} {c : Nat} {ps : List Nat} {who : Waiter} (hk : Kept s0 s) : Kept s0 (stallAll s c ps who)
    := by
  unfold stallAll
  repeat' first | (with_reducible first | assumption | apply stallOn_kept | apply fold_kept) | intro _
theorem blocked_kept {s0 s : State} {c status : Nat} (hk : Kept s0 s) : Kept s0 (blocked s c status) := by
  unfold blocked
  repeat' first
    | (with_reducible first
        | assumption | apply postSump_kept | apply faces_wf | apply claims_wf | apply rings_wf | apply t1_wf | apply t2_wf
        | apply host_wf | apply streams_wf | apply tallies_wf | apply outqs_wf | apply fns_wf | apply msix_wf | apply shafts_wf
        | apply routes_wf | apply rxctx_wf | apply fabric_wf)
    | split | with_reducible apply mk_kept
theorem readSpan_kept {s0 s : State} {c va n : Nat} (hk : Kept s0 s) : Kept s0 (readSpan s c va n) := by
  unfold readSpan
  repeat' first | (with_reducible first | assumption | apply noteVa_kept | apply blocked_kept) | split
theorem readSpans_kept {s0 s : State} {c : Nat} {spans : List (Nat × Nat)} (hk : Kept s0 s) : Kept s0 (readSpans s c spans) :=
    by
  unfold readSpans
  repeat' first | (with_reducible first | assumption | apply readSpan_kept | apply fold_kept) | intro _
theorem storePage_kept {s0 s : State} {c : Nat} {t : Option Nat} {va : Nat} {bs : List Byte} (hk : Kept s0 s) : Kept s0
    (storePage s c t va bs) := by
  unfold storePage
  repeat' first | (with_reducible first | assumption | apply vaStore_kept | apply blocked_kept | apply addWait_kept) | split
theorem storeLater_kept {s0 s : State} {c : Nat} {t : Option Nat} {va : Nat} {bs : List Byte} (hk : Kept s0 s) : Kept s0
    (storeLater s c t va bs) := by
  unfold storeLater
  dsimp only
  repeat' first | (with_reducible first | assumption | apply storePage_kept | apply fold_kept) | intro _
theorem countsPut_kept {s0 s : State} {c va : Nat} {n : List Nat} (hk : Kept s0 s) : Kept s0 (countsPut s c va n) := by
  unfold countsPut
  dsimp only
  repeat' first | (with_reducible first | assumption | apply noteVa_kept | apply vaPut_kept)
theorem countsAdd_kept {s0 s : State} {c t : Nat} {n : List Nat} (hk : Kept s0 s) : Kept s0 (countsAdd s c t n) := by
  unfold countsAdd
  repeat' first | (with_reducible first | assumption | apply countsPut_kept | apply blocked_kept | apply addWait_kept) | split

/-! ### Work.lean -/

theorem t0_faceDrop {p : Prop} {x : Face} {id : Nat} (h : p → Tab.wf 0 x.t0 = true) : p → Tab.wf 0 (faceDrop x id).t0 = true := by
  exact t0_fold (fun x e hx => by
    dsimp only
    split 
    · exact t0_lane hx
    · exact hx) h
theorem modReq_kept {s0 s : State} {id : Nat} {g : Req → Req} (hk : Kept s0 s) : Kept s0 (modReq s id g) := by
  unfold modReq
  repeat' first
    | (with_reducible first
        | assumption | apply faces_wf | apply claims_wf | apply rings_wf | apply t1_wf | apply t2_wf | apply host_wf
        | apply streams_wf | apply tallies_wf | apply outqs_wf | apply fns_wf | apply msix_wf | apply shafts_wf
        | apply routes_wf | apply rxctx_wf | apply fabric_wf)
    | with_reducible apply mk_kept
theorem modBatch_kept {s0 s : State} {id : Nat} {g : Batch → Batch} (hk : Kept s0 s) : Kept s0 (modBatch s id g) := by
  unfold modBatch
  repeat' first
    | (with_reducible first
        | assumption | apply faces_wf | apply claims_wf | apply rings_wf | apply t1_wf | apply t2_wf | apply host_wf
        | apply streams_wf | apply tallies_wf | apply outqs_wf | apply fns_wf | apply msix_wf | apply shafts_wf
        | apply routes_wf | apply rxctx_wf | apply fabric_wf)
    | with_reducible apply mk_kept
theorem freeT0_kept {s0 s : State} {f id : Nat} (hk : Kept s0 s) : Kept s0 (freeT0 s f id) := by
  unfold freeT0
  dsimp only
  repeat' first
    | (with_reducible first
        | assumption | apply freeValue_kept | apply setWord_kept | apply setFace_kept | apply fold_kept | apply t0_wf)
    | intro _
theorem failRequest_kept {s0 s : State} {id status : Nat} (hk : Kept s0 s) : Kept s0 (failRequest s id status) := by
  unfold failRequest
  dsimp only
  repeat' first
    | (with_reducible first
        | assumption | apply setFace_kept | apply freeT0_kept | apply modReq_kept | apply fold_kept | apply t0_wf
        | apply faces_wf | apply claims_wf | apply rings_wf | apply t1_wf | apply t2_wf | apply host_wf | apply streams_wf
        | apply tallies_wf | apply outqs_wf | apply fns_wf | apply msix_wf | apply shafts_wf | apply routes_wf | apply rxctx_wf
        | apply fabric_wf | apply t0_faceDrop)
    | split | intro _ | with_reducible apply mk_kept
theorem putRecord_kept {s0 s : State} {c : Nat} {area : Bool × Nat} {off : Nat} {ws : List W64} (hk : Kept s0 s) : Kept s0
    (putRecord s c area off ws).1 := by
  unfold putRecord
  dsimp only
  repeat' first
    | (with_reducible first
        | assumption | apply hostWrite_kept | apply logHost_kept | apply vaStoreWords_kept | apply blocked_kept)
    | split
theorem cutRecords_kept {s0 s : State} {q : Req} (hk : Kept s0 s) : Kept s0 (cutRecords s q).1 := by
  unfold cutRecords
  dsimp only
  repeat' first | (with_reducible first | assumption | apply freeValue_kept | apply fold_kept1) | split | intro _
theorem closeRequest_kept {s0 s : State} {q : Req} (hk : Kept s0 s) : Kept s0 (closeRequest s q) := by
  unfold closeRequest
  dsimp only
  repeat' first
    | (with_reducible first
        | assumption | apply cutRecords_kept | apply putRecord_kept | apply setFace_kept | apply replyTo_kept | apply fold_kept
        | apply fold_kept1 | apply t0_lane | apply t0_wf | apply faces_wf | apply claims_wf | apply rings_wf | apply t1_wf
        | apply t2_wf | apply host_wf | apply streams_wf | apply tallies_wf | apply outqs_wf | apply fns_wf | apply msix_wf
        | apply shafts_wf | apply routes_wf | apply rxctx_wf | apply fabric_wf | apply t0_fold)
    | split | intro _ | dsimp only | with_reducible apply mk_kept
theorem endStream_kept {s0 s : State} {n : Nat} {st : StreamState} {fin status : Nat} (hk : Kept s0 s) : Kept s0
    (endStream s n st fin status) := by
  unfold endStream
  dsimp only
  repeat' first
    | (with_reducible first
        | assumption | apply setClaim_kept | apply setStream_kept | apply postQueue_kept | apply reply_kept | apply faces_wf
        | apply claims_wf | apply rings_wf | apply t1_wf | apply t2_wf | apply host_wf | apply streams_wf | apply tallies_wf
        | apply outqs_wf | apply fns_wf | apply msix_wf | apply shafts_wf | apply routes_wf | apply rxctx_wf | apply fabric_wf)
    | split | with_reducible apply mk_kept
theorem failBatch_kept {s0 s : State} {b : Batch} {status : Nat} (hk : Kept s0 s) : Kept s0 (failBatch s b status) := by
  unfold failBatch
  dsimp only
  repeat' first
    | (with_reducible first
        | assumption | apply endStream_kept | apply setStream_kept | apply fold_kept | apply faces_wf | apply claims_wf
        | apply rings_wf | apply t1_wf | apply t2_wf | apply host_wf | apply streams_wf | apply tallies_wf | apply outqs_wf
        | apply fns_wf | apply msix_wf | apply shafts_wf | apply routes_wf | apply rxctx_wf | apply fabric_wf)
    | split | intro _ | with_reducible apply mk_kept

/-! ### Links.lean -/

theorem shaftEvent_kept {s0 s : State} {n cause : Nat} (hk : Kept s0 s) : Kept s0 (shaftEvent s n cause) := by
  unfold shaftEvent
  repeat' first | (with_reducible first | assumption | apply postEvent_kept)
theorem modShaft_kept {s0 s : State} {n : Nat} {g : Shaft → Shaft} (hk : Kept s0 s) : Kept s0 (modShaft s n g) := by
  unfold modShaft
  repeat' first | (with_reducible first | assumption | apply setShaft_kept)
theorem bumpShaft_kept {s0 s : State} {n i : Nat} (hk : Kept s0 s) : Kept s0 (bumpShaft s n i) := by
  unfold bumpShaft
  repeat' first | (with_reducible first | assumption | apply modShaft_kept)
theorem clearRoutes_kept {s0 s : State} {n : Nat} (hk : Kept s0 s) : Kept s0 (clearRoutes s n) := by
  unfold clearRoutes
  dsimp only
  repeat' first
    | (with_reducible first
        | assumption | apply faces_wf | apply claims_wf | apply rings_wf | apply t1_wf | apply t2_wf | apply host_wf
        | apply streams_wf | apply tallies_wf | apply outqs_wf | apply fns_wf | apply msix_wf | apply shafts_wf | apply rxctx_wf
        | apply fabric_wf | apply wf_fold | apply wf_put | apply wf_new)
    | intro _ | with_reducible apply mk_kept
theorem queueFlit_kept {s0 s : State} {n : Nat} {tag : W16} {x : Flit} (hk : Kept s0 s) : Kept s0 (queueFlit s n tag x) := by
  unfold queueFlit
  repeat' first | (with_reducible first | assumption | apply modShaft_kept)
theorem queueHop_kept {s0 s : State} {n tag : Nat} {b : FlitBody} (hk : Kept s0 s) : Kept s0 (queueHop s n tag b) := by
  unfold queueHop
  repeat' first | (with_reducible first | assumption | apply modShaft_kept)
theorem sendCtrl_kept {s0 s : State} {c dst xfer : Nat} {b : FlitBody} (hk : Kept s0 s) : Kept s0 (sendCtrl s c dst xfer b) :=
    by
  unfold sendCtrl
  dsimp only
  repeat' first | (with_reducible first | assumption | apply queueFlit_kept) | split
theorem closeChannels_kept {s0 s : State} {n status : Nat} (hk : Kept s0 s) : Kept s0 (closeChannels s n status) := by
  unfold closeChannels
  dsimp only
  repeat' first | (with_reducible first | assumption | apply setShaft_kept | apply replyTo_kept | apply fold_kept) | intro _
theorem closeClaimChannels_kept {s0 s : State} {c status : Nat} (hk : Kept s0 s) : Kept s0 (closeClaimChannels s c status) := by
  unfold closeClaimChannels
  dsimp only
  repeat' first | (with_reducible first | assumption | apply setShaft_kept | apply replyTo_kept | apply fold_kept) | intro _
theorem sendAbort_kept {s0 s : State} {c : Nat} {x : Coll} {status : Nat} (hk : Kept s0 s) : Kept s0 (sendAbort s c x status) :=
    by
  unfold sendAbort
  dsimp only
  repeat' first | (with_reducible first | assumption | apply sendCtrl_kept | apply fold_kept) | split | intro _
theorem freeContexts_kept {s0 s : State} {c coll : Nat} (hk : Kept s0 s) : Kept s0 (freeContexts s c coll) := by
  unfold freeContexts
  repeat' first
    | (with_reducible first
        | assumption | apply faces_wf | apply claims_wf | apply rings_wf | apply t1_wf | apply t2_wf | apply host_wf
        | apply streams_wf | apply tallies_wf | apply outqs_wf | apply fns_wf | apply msix_wf | apply shafts_wf
        | apply routes_wf | apply rxctx_wf | apply fabric_wf | apply wf_keep)
    | intro _ | with_reducible apply mk_kept
theorem queueBell_kept {s0 s : State} {c typ prio : Nat} {body : List Nat} (hk : Kept s0 s) : Kept s0
    (queueBell s c typ prio body) := by
  unfold queueBell
  dsimp only
  repeat' first
    | (with_reducible first
        | assumption | apply faces_wf | apply claims_wf | apply rings_wf | apply t1_wf | apply t2_wf | apply host_wf
        | apply streams_wf | apply tallies_wf | apply outqs_wf | apply fns_wf | apply msix_wf | apply shafts_wf
        | apply routes_wf | apply rxctx_wf | apply fabric_wf)
    | split | with_reducible apply mk_kept
theorem stopBell_kept {s0 s : State} {c : Nat} (hk : Kept s0 s) : Kept s0 (stopBell s c) := by
  unfold stopBell
  dsimp only
  repeat' first
    | (with_reducible first
        | assumption | apply faces_wf | apply claims_wf | apply rings_wf | apply t1_wf | apply t2_wf | apply host_wf
        | apply streams_wf | apply tallies_wf | apply outqs_wf | apply fns_wf | apply msix_wf | apply shafts_wf
        | apply routes_wf | apply rxctx_wf | apply fabric_wf)
    | with_reducible apply mk_kept
theorem queueTick_kept {s0 s : State} {c : Nat} (hk : Kept s0 s) : Kept s0 (queueTick s c) := by
  unfold queueTick
  dsimp only
  repeat' first | (with_reducible first | assumption | apply setClaim_kept | apply queueBell_kept) | split

/-! ### Repair.lean -/

theorem sliceWords_kept {s0 s : State} {c va : Nat} {ws : List PWord} (hk : Kept s0 s) : Kept s0 (sliceWords s c va ws).1 := by
  unfold sliceWords
  dsimp only
  repeat' first | (with_reducible first | assumption | apply freeValue_kept | apply fold_kept1) | split | intro _
theorem slicePut_kept {s0 s : State} {c va : Nat} {ws : List PWord} (hk : Kept s0 s) : Kept s0 (slicePut s c va ws) := by
  unfold slicePut
  dsimp only
  repeat' first | (with_reducible first | assumption | apply sliceWords_kept | apply vaPut_kept)
theorem poisonLeaf_kept {s0 s : State} {c o leaf : Nat} (hk : Kept s0 s) : Kept s0 (poisonLeaf s c o leaf) := by
  unfold poisonLeaf
  dsimp only
  repeat' first
    | (with_reducible first
        | assumption | apply faces_wf | apply claims_wf | apply rings_wf | apply t1_wf | apply t2_wf | apply host_wf
        | apply streams_wf | apply tallies_wf | apply outqs_wf | apply fns_wf | apply msix_wf | apply shafts_wf
        | apply routes_wf | apply rxctx_wf | apply fabric_wf | apply wf_fold | apply wf_put)
    | intro _ | with_reducible apply mk_kept
theorem startRepair_kept {s0 s : State} {c o leaf : Nat} (hk : Kept s0 s) : Kept s0 (startRepair s c o leaf) := by
  unfold startRepair
  dsimp only
  repeat' first | (with_reducible first | assumption | apply poisonLeaf_kept | apply setClaim_kept) | split

/-! ### Layouts.lean -/

theorem vaPutAtoms_kept {s0 s : State} {c w : Nat} {ps : List Put} (hk : Kept s0 s) : Kept s0 (vaPutAtoms s c w ps) := by
  unfold vaPutAtoms
  dsimp only
  repeat' first
    | (with_reducible first
        | assumption | apply setClaim_kept | apply putWord_kept | apply mergeWord_kept | apply fold_kept)
    | split | intro _

end Sys2Proof.Machine
end

