-- ==== Sys2Proof/Laws/KeptCollective.lean ====
section
/-!
SUPPORT. Collectives and their sets, fatal errors, and digests: no operation takes or adds a command, or leaves a table out of canonical form (Kept.lean).
-/
namespace Sys2Proof.Machine
open Sys2Proof

/-! ### Collective.lean -/

theorem setColl_kept {s0 s : State} {c : Nat} {x : Coll} (hk : Kept s0 s) : Kept s0 (setColl s c x) := by
  unfold setColl
  dsimp only
  repeat' first | (with_reducible first | assumption | apply setClaim_kept)
theorem quantise_kept {s0 s : State} {c : Nat} {x : Coll} (hk : Kept s0 s) : GotKept s0 (quantise s c x) := by
  unfold quantise
  dsimp only
  repeat' first
    | (with_reducible first
        | assumption | apply countsAdd_kept | apply vaPutAtoms_kept | apply got_ok | apply got_bad | apply got_bind)
    | split | intro _
theorem clearCells_kept {s0 s : State} {c : Nat} {x : Coll} (hk : Kept s0 s) : Kept s0 (clearCells s c x) := by
  unfold clearCells
  repeat' first | (with_reducible first | assumption | apply vaPutAtoms_kept) | split
theorem openSend_kept {s0 s : State} {c id rank off : Nat} {ws : List PWord} (hk : Kept s0 s) : Kept s0
    (openSend s c id rank off ws) := by
  unfold openSend
  dsimp only
  repeat' first | (with_reducible first | assumption | apply sendCtrl_kept | apply setColl_kept) | split
theorem goPhase_kept {s0 s : State} {c : Nat} {x : Coll} {phase : Nat} (hk : Kept s0 s) : GotKept s0 (goPhase s c x phase) := by
  unfold goPhase
  dsimp only
  repeat' first
    | (with_reducible first
        | assumption | apply quantise_kept | apply clearCells_kept | apply vaPutAtoms_kept | apply setColl_kept
        | apply openSend_kept | apply fold_kept | apply got_ok | apply got_bad | apply got_bind_state | apply got_bind)
    | split | intro _
theorem takePiece_kept {s0 s : State} {c : Nat} {x : Coll} {rank off : Nat} {ws : List PWord} (hk : Kept s0 s) : GotKept s0
    (takePiece s c x rank off ws) := by
  unfold takePiece
  split
  · exact got_bad
  · exact got_map fun _ => setColl_kept (vaPutAtoms_kept hk)
theorem land_kept {s0 s : State} {c : Nat} {x : Coll} (hk : Kept s0 s) : GotKept1 s0 (land s c x) := by
  unfold land
  dsimp only
  split
  · exact got_bind1 fun _ => got_map1 fun _ => vaPutAtoms_kept hk
  · refine got_map11 (got_bind1 fun _ => got_map1 fun _ => vaPutAtoms_kept hk) fun a ha => ?_
    exact mk_kept ha (fun h => t1_wf h) (fun h => t2_wf h) (fun h => host_wf h) (fun h => faces_wf h) (fun h => claims_wf h) (fun h => streams_wf h)
      (fun h => tallies_wf h) (fun h => rings_wf h) (fun h => outqs_wf h) (fun h => fns_wf h) (fun h => msix_wf h) (fun h => shafts_wf h)
      (fun h => routes_wf h) (fun h => rxctx_wf h) (fun h => fabric_wf h)
  · split
    · exact got_bind1 fun _ => got_map11 (got_map1 fun _ => vaPutAtoms_kept hk) fun a ha => countsAdd_kept ha
    · exact got_map1 fun _ => vaPutAtoms_kept hk

/-! ### Sets.lean -/

theorem noteTables_kept {s0 s : State} {c : Nat} {x : Coll} (hk : Kept s0 s) : Kept s0 (noteTables s c x) := by
  unfold noteTables
  repeat' first | (with_reducible first | assumption | apply noteAll_kept)
theorem noteReads_kept {s0 s : State} {c : Nat} {x : Coll} {phase : Nat} (hk : Kept s0 s) : Kept s0 (noteReads s c x phase) :=
    by
  unfold noteReads
  dsimp only
  repeat' first | (with_reducible first | assumption | apply noteAll_kept)
theorem waitSet_kept {s0 s : State} {c : Nat} (hk : Kept s0 s) : Kept s0 (waitSet s c) := by
  unfold waitSet
  dsimp only
  repeat' first | (with_reducible first | assumption | apply setColl_kept | apply fold_kept) | split | intro _
theorem putLater_kept {s0 s : State} {c va : Nat} {ws : List W64} {events : List (Nat × List Nat)} (hk : Kept s0 s) : Kept s0
    (putLater s c va ws events) := by
  unfold putLater
  dsimp only
  repeat' first
    | (with_reducible first
        | assumption | apply postEvent_kept | apply vaStoreWords_kept | apply addWait_kept | apply fold_kept)
    | split | intro _
theorem dropColl_kept {s0 s : State} {c id : Nat} (hk : Kept s0 s) : Kept s0 (dropColl s c id) := by
  unfold dropColl
  dsimp only
  repeat' first | (with_reducible first | assumption | apply setClaim_kept)
theorem putEnded_kept {s0 s : State} {c id va : Nat} {ws : List W64} {events : List (Nat × List Nat)} (hk : Kept s0 s) : Kept s0
    (putEnded s c id va ws events) := by
  unfold putEnded
  repeat' first | (with_reducible first | assumption | apply addWait_kept | apply putLater_kept | apply dropColl_kept) | split
theorem endColl_kept {s0 s : State} {c : Nat} {x : Coll} {status : Nat} (hk : Kept s0 s) : Kept s0 (endColl s c x status) := by
  unfold endColl
  dsimp only
  repeat' first
    | (with_reducible first
        | assumption | apply waitSet_kept | apply setColl_kept | apply freeContexts_kept | apply putEnded_kept | apply faces_wf
        | apply claims_wf | apply rings_wf | apply t1_wf | apply t2_wf | apply host_wf | apply streams_wf | apply tallies_wf
        | apply outqs_wf | apply fns_wf | apply msix_wf | apply shafts_wf | apply routes_wf | apply rxctx_wf | apply fabric_wf)
    | split | with_reducible apply mk_kept
theorem freeSpan_kept {s0 s : State} {c va n : Nat} (hk : Kept s0 s) : Kept s0 (freeSpan s c va n) := by
  unfold freeSpan
  dsimp only
  repeat' first
    | (with_reducible first
        | assumption | apply freeValue_kept | apply vaPut_kept | apply vaStore_kept | apply fold_kept)
    | split | intro _
theorem failOne_kept {s0 s : State} {c : Nat} {x : Coll} {status : Nat} {told : Option Nat} (hk : Kept s0 s) : Kept s0
    (failOne s c x status told) := by
  unfold failOne
  dsimp only
  repeat' first
    | (with_reducible first
        | assumption | apply sendAbort_kept | apply freeSpan_kept | apply endColl_kept | apply fold_kept)
    | split | intro _
theorem failColl_kept {s0 s : State} {c id status : Nat} {tell : Bool} (hk : Kept s0 s) : Kept s0 (failColl s c id status tell)
    := by
  unfold failColl
  dsimp only
  repeat' first
    | (with_reducible first
        | assumption | apply blocked_kept | apply failOne_kept | apply setClaim_kept | apply fold_kept)
    | split | intro _
theorem settle_kept {s0 s : State} {c id : Nat} {r : Got State} (hk : Kept s0 s) (hr : GotKept s0 r) : Kept s0 (settle s c id r)
    := by
  unfold settle
  split
  · exact hr _ rfl
  · exact failColl_kept hk
  · exact stallAll_kept hk
theorem advanceOnce_kept {s0 s : State} {c id : Nat} (hk : Kept s0 s) : Kept s0 (advanceOnce s c id) := by
  unfold advanceOnce
  dsimp only
  repeat' first
    | (with_reducible first
        | assumption | apply settle_kept | apply noteReads_kept | apply noteTables_kept | apply goPhase_kept | apply got_ok
        | apply got_bad | apply got_bind | apply got_map)
    | split | intro _
theorem advance_kept {s0 s : State} {c id : Nat} (hk : Kept s0 s) : Kept s0 (advance s c id) := by
  unfold advance
  dsimp only
  repeat' first | (with_reducible first | assumption | apply advanceOnce_kept) | split

/-! ### Fatal.lean -/

theorem endRequests_kept {s0 s : State} {c status : Nat} (hk : Kept s0 s) : Kept s0 (endRequests s c status) := by
  unfold endRequests
  dsimp only
  repeat' first
    | (with_reducible first
        | assumption | apply failRequest_kept | apply closeRequest_kept | apply fold_kept)
    | split | intro _
theorem endStreams_kept {s0 s : State} {c status : Nat} (hk : Kept s0 s) : Kept s0 (endStreams s c status) := by
  unfold endStreams
  dsimp only
  repeat' first | (with_reducible first | assumption | apply failBatch_kept | apply endStream_kept | apply fold_kept) | intro _
theorem endCmds_kept {s0 s : State} {c status : Nat} (hk : Kept s0 s) : Kept s0 (endCmds s c status) := by
  unfold endCmds
  dsimp only
  repeat' first
    | (with_reducible first
        | assumption | apply reply_kept | apply setClaim_kept | apply fold_kept | apply faces_wf | apply claims_wf
        | apply rings_wf | apply t1_wf | apply t2_wf | apply host_wf | apply streams_wf | apply tallies_wf | apply outqs_wf
        | apply fns_wf | apply msix_wf | apply shafts_wf | apply routes_wf | apply rxctx_wf | apply fabric_wf)
    | intro _ | with_reducible apply mk_kept
theorem endColls_kept {s0 s : State} {c status : Nat} (hk : Kept s0 s) : Kept s0 (endColls s c status) := by
  unfold endColls
  dsimp only
  repeat' first
    | (with_reducible first
        | assumption | apply failOne_kept | apply setClaim_kept | apply fold_kept | apply faces_wf | apply claims_wf
        | apply rings_wf | apply t1_wf | apply t2_wf | apply host_wf | apply streams_wf | apply tallies_wf | apply outqs_wf
        | apply fns_wf | apply msix_wf | apply shafts_wf | apply routes_wf | apply rxctx_wf | apply fabric_wf)
    | intro _ | with_reducible apply mk_kept
theorem endWork_kept {s0 s : State} {c status : Nat} (hk : Kept s0 s) : Kept s0 (endWork s c status) := by
  have h1 : ∀ s : State, Kept s0 s → Kept s0 { s with waits := s.waits.filter fun w => w.claim != c } := fun s h => same_kept h rfl rfl rfl rfl rfl rfl rfl rfl rfl rfl rfl rfl rfl rfl rfl rfl
  exact h1 _ (endColls_kept (endCmds_kept (endStreams_kept (endRequests_kept hk))))
theorem endFatal_kept {s0 s : State} {c status : Nat} (hk : Kept s0 s) : Kept s0 (endFatal s c status) := by
  unfold endFatal
  dsimp only
  repeat' first
    | (with_reducible first
        | assumption | apply stopBell_kept | apply closeClaimChannels_kept | apply endWork_kept | apply setClaim_kept)
    | split
theorem claimFatal_kept {s0 s : State} {c status : Nat} {r : SumpRec} (hk : Kept s0 s) : Kept s0 (claimFatal s c status r) := by
  unfold claimFatal
  repeat' first | (with_reducible first | assumption | apply endFatal_kept | apply postSump_kept)
theorem deviceFatal_kept {s0 s : State} {r : SumpRec} (hk : Kept s0 s) : Kept s0 (deviceFatal s r) := by
  unfold deviceFatal
  have h1 : ∀ s : State, Kept s0 s → Kept s0 { s with fatal := true, pins := { s.pins with fault := true } } :=
    fun s h => same_kept h rfl rfl rfl rfl rfl rfl rfl rfl rfl rfl rfl rfl rfl rfl rfl rfl
  have h2 : ∀ s : State, Kept s0 s → Kept s0 { s with bell := { s.bell with queue := [] } } := fun s h => same_kept h rfl rfl rfl rfl rfl rfl rfl rfl rfl rfl rfl rfl rfl rfl rfl rfl
  dsimp only
  split
  · exact postSump_kept hk
  · exact fold_kept (fun t e h => modShaft_kept h)
      (h2 _ (fold_kept (fun t e h => fold_kept (fun t e h => sendAbort_kept h) h) (h1 _ (postSump_kept hk))))
theorem ownerFault_kept {s0 s : State} {c unit inst : Nat} (hk : Kept s0 s) : Kept s0 (ownerFault s c unit inst) := by
  unfold ownerFault
  repeat' first | (with_reducible first | assumption | apply claimFatal_kept)
theorem failOwned_kept {s0 s : State} {c status : Nat} (hk : Kept s0 s) : Kept s0 (failOwned s c status) := by
  unfold failOwned
  repeat' first | (with_reducible first | assumption | apply ownerFault_kept) | split
theorem settleFoul_kept {s0 s : State} (hk : Kept s0 s) : Kept s0 (settleFoul s) := by
  unfold settleFoul
  repeat' first
    | (with_reducible first
        | assumption | apply endFatal_kept | apply fold_kept | apply faces_wf | apply claims_wf | apply rings_wf | apply t1_wf
        | apply t2_wf | apply host_wf | apply streams_wf | apply tallies_wf | apply outqs_wf | apply fns_wf | apply msix_wf
        | apply shafts_wf | apply routes_wf | apply rxctx_wf | apply fabric_wf)
    | intro _ | with_reducible apply mk_kept

/-! ### Collectives.lean -/

theorem addColl_kept {s0 s : State} {c : Nat} {op : CollOp} {ws : List W64} {stamp : Nat} (hk : Kept s0 s) : Kept s0
    (addColl s c op ws stamp).1 := by
  unfold addColl
  dsimp only
  repeat' first | (with_reducible first | assumption | apply freshId_kept | apply setClaim_kept)
theorem joinSet_kept {s0 s : State} {c : Nat} {x : Coll} {turn : Bool} (hk : Kept s0 s) : Kept s0 (joinSet s c x turn) := by
  unfold joinSet
  dsimp only
  repeat' first | (with_reducible first | assumption | apply setClaim_kept | apply failColl_kept) | split
theorem issueColl_kept {s0 s : State} {c : Nat} {ws : List W64} {stamp : Nat} {turn : Bool} (hk : Kept s0 s) : Kept s0
    (issueColl s c ws stamp turn) := by
  unfold issueColl
  dsimp only
  repeat' first | (with_reducible first | assumption | apply addColl_kept | apply joinSet_kept) | split
theorem acceptColl_kept {s0 s : State} {c : Nat} {ws : List W64} {stamp : Nat} (hk : Kept s0 s) : Kept s0
    (acceptColl s c ws stamp) := by
  unfold acceptColl
  dsimp only
  repeat' first
    | (with_reducible first
        | assumption | apply addColl_kept | apply failOne_kept | apply failColl_kept | apply issueColl_kept)
    | split
theorem takeSig_kept {s0 s : State} {c id : Nat} {b : SigBody} (hk : Kept s0 s) : Kept s0 (takeSig s c id b) := by
  unfold takeSig
  dsimp only
  repeat' first | (with_reducible first | assumption | apply failColl_kept | apply setColl_kept) | split
theorem rxSet_kept {s0 s : State} {n : Nat} {x : Option RxCtx} (hk : Kept s0 s) : Kept s0 (rxSet s n x) := by
  unfold rxSet
  repeat' first
    | (with_reducible first
        | assumption | apply faces_wf | apply claims_wf | apply rings_wf | apply t1_wf | apply t2_wf | apply host_wf
        | apply streams_wf | apply tallies_wf | apply outqs_wf | apply fns_wf | apply msix_wf | apply shafts_wf
        | apply routes_wf | apply rxctx_wf | apply fabric_wf | apply wf_put)
    | intro _ | with_reducible apply mk_kept
theorem tryDesc_kept {s0 s : State} {via : Nat} {hdr : W64} {b : DescBody} (hk : Kept s0 s) : Kept s0 (tryDesc s via hdr b).1 :=
    by
  unfold tryDesc
  dsimp only
  repeat' first
    | (with_reducible first
        | assumption | apply failColl_kept | apply sendCtrl_kept | apply stallAll_kept | apply setColl_kept | apply rxSet_kept)
    | split
theorem refuseOn_kept {s0 s : State} {c id page status : Nat} (hk : Kept s0 s) : Kept s0 (refuseOn s c id page status) := by
  unfold refuseOn
  dsimp only
  repeat' first
    | (with_reducible first
        | assumption | apply sendCtrl_kept | apply fold_kept | apply faces_wf | apply claims_wf | apply rings_wf | apply t1_wf
        | apply t2_wf | apply host_wf | apply streams_wf | apply tallies_wf | apply outqs_wf | apply fns_wf | apply msix_wf
        | apply shafts_wf | apply routes_wf | apply rxctx_wf | apply fabric_wf)
    | intro _ | with_reducible apply mk_kept
theorem pumpDescs_kept {s0 s : State} (hk : Kept s0 s) : Kept s0 (pumpDescs s) := by
  unfold pumpDescs
  dsimp only
  repeat' first
    | (with_reducible first
        | assumption | apply tryDesc_kept | apply fold_kept | apply faces_wf | apply claims_wf | apply rings_wf | apply t1_wf
        | apply t2_wf | apply host_wf | apply streams_wf | apply tallies_wf | apply outqs_wf | apply fns_wf | apply msix_wf
        | apply shafts_wf | apply routes_wf | apply rxctx_wf | apply fabric_wf)
    | split | intro _ | with_reducible apply mk_kept
theorem goOn_kept {s0 s : State} {c id : Nat} (hk : Kept s0 s) : Kept s0 (goOn s c id) := by
  unfold goOn
  repeat' first | (with_reducible first | assumption | apply pumpDescs_kept | apply advance_kept)
theorem beginColl_kept {s0 s : State} {c : Nat} {x : Coll} {fs : List W64} (hk : Kept s0 s) : Kept s0 (beginColl s c x fs) := by
  unfold beginColl
  dsimp only
  repeat' first
    | (with_reducible first
        | assumption | apply setColl_kept | apply sendCtrl_kept | apply setClaim_kept | apply goOn_kept | apply takeSig_kept
        | apply fold_kept)
    | intro _
theorem collStartStep_kept {s0 s : State} {c id : Nat} (hk : Kept s0 s) : Kept s0 (collStartStep s c id) := by
  unfold collStartStep
  dsimp only
  repeat' first
    | (with_reducible first
        | assumption | apply stallAll_kept | apply failColl_kept | apply noteTables_kept | apply beginColl_kept)
    | split
theorem deliverSig_kept {s0 s : State} {c : Nat} {b : SigBody} (hk : Kept s0 s) : Kept s0 (deliverSig s c b) := by
  unfold deliverSig
  dsimp only
  repeat' first | (with_reducible first | assumption | apply goOn_kept | apply takeSig_kept | apply setClaim_kept) | split
theorem deliverAbort_kept {s0 s : State} {c : Nat} {b : AbortBody} (hk : Kept s0 s) : Kept s0 (deliverAbort s c b) := by
  unfold deliverAbort
  dsimp only
  repeat' first | (with_reducible first | assumption | apply setClaim_kept | apply pumpDescs_kept | apply failColl_kept) | split
theorem setSend_kept {s0 s : State} {c : Nat} {x : Coll} {t : SendXfer} (hk : Kept s0 s) : Kept s0 (setSend s c x t) := by
  unfold setSend
  dsimp only
  repeat' first | (with_reducible first | assumption | apply setColl_kept)
theorem deliverGrant_kept {s0 s : State} {c ctx : Nat} {b : GrantBody} (hk : Kept s0 s) : Kept s0 (deliverGrant s c ctx b) := by
  unfold deliverGrant
  dsimp only
  repeat' first
    | (with_reducible first
        | assumption | apply pumpDescs_kept | apply failColl_kept | apply setSend_kept | apply queueFlit_kept
        | apply sendCtrl_kept | apply fold_kept)
    | split | intro _
theorem deliverXdone_kept {s0 s : State} {c ctx : Nat} (hk : Kept s0 s) : Kept s0 (deliverXdone s c ctx) := by
  unfold deliverXdone
  repeat' first | (with_reducible first | assumption | apply goOn_kept | apply setSend_kept) | split
theorem finishRx_kept {s0 s : State} {n : Nat} (hk : Kept s0 s) : Kept s0 (finishRx s n) := by
  unfold finishRx
  dsimp only
  repeat' first
    | (with_reducible first
        | assumption | apply rxSet_kept | apply takePiece_kept | apply goOn_kept | apply sendCtrl_kept | apply pumpDescs_kept
        | apply failColl_kept | apply stallAll_kept)
    | split | with_reducible refine got_kept (by with_reducible assumption) ?_
theorem deliverData_kept {s0 s : State} {n ctx c : Nat} {payload : List Byte} (hk : Kept s0 s) : Kept s0
    (deliverData s n ctx c payload) := by
  unfold deliverData
  dsimp only
  repeat' first | (with_reducible first | assumption | apply setColl_kept | apply finishRx_kept | apply rxSet_kept) | split
theorem deliverClose_kept {s0 s : State} {ctx c : Nat} {b : CloseBody} (hk : Kept s0 s) : Kept s0 (deliverClose s ctx c b) := by
  unfold deliverClose
  repeat' first | (with_reducible first | assumption | apply finishRx_kept | apply rxSet_kept) | split
theorem deliverDesc_kept {s0 s : State} {n : Nat} {hdr : W64} {b : DescBody} (hk : Kept s0 s) : Kept s0 (deliverDesc s n hdr b)
    := by
  unfold deliverDesc
  repeat' first
    | (with_reducible first
        | assumption | apply pumpDescs_kept | apply faces_wf | apply claims_wf | apply rings_wf | apply t1_wf | apply t2_wf
        | apply host_wf | apply streams_wf | apply tallies_wf | apply outqs_wf | apply fns_wf | apply msix_wf | apply shafts_wf
        | apply routes_wf | apply rxctx_wf | apply fabric_wf)
    | with_reducible apply mk_kept
theorem collRetireStep_kept {s0 s : State} {c id : Nat} (hk : Kept s0 s) : Kept s0 (collRetireStep s c id) := by
  unfold collRetireStep
  repeat' first
    | (with_reducible first
        | assumption | apply land_kept | apply pumpDescs_kept | apply endColl_kept | apply failColl_kept | apply stallAll_kept)
    | split | with_reducible refine got_kept1 (by with_reducible assumption) ?_
theorem permuteGo_kept {s0 s : State} {c : Nat} {ms : List Coll} (hk : Kept s0 s) : GotKept s0 (permuteGo s c ms) := by
  unfold permuteGo
  refine got_bind fun _ => got_fold (fun acc e h => got_bind_state h fun t ht => ?_) (got_ok hk)
  split
  · exact goPhase_kept ht
  · exact got_ok ht
theorem fenceStep_kept {s0 s : State} {c : Nat} (hk : Kept s0 s) : Kept s0 (fenceStep s c) := by
  unfold fenceStep
  dsimp only
  repeat' first
    | (with_reducible first
        | assumption | apply stallAll_kept | apply noteReads_kept | apply noteTables_kept | apply waitSet_kept
        | apply permuteGo_kept | apply pumpDescs_kept | apply setClaim_kept | apply failColl_kept | apply fold_kept)
    | split | intro _ | with_reducible refine got_kept (by with_reducible assumption) ?_
theorem fenceTimeoutStep_kept {s0 s : State} {c : Nat} (hk : Kept s0 s) : Kept s0 (fenceTimeoutStep s c) := by
  unfold fenceTimeoutStep
  repeat' first | (with_reducible first | assumption | apply failColl_kept | apply advanceTo_kept) | split
theorem copyIn_kept {s0 s : State} {c : Nat} {x : Coll} (hk : Kept s0 s) : GotKept s0 (copyIn s c x) := by
  unfold copyIn
  dsimp only
  repeat' first
    | (with_reducible first
        | assumption | apply noteAll_kept | apply setColl_kept | apply vaPutAtoms_kept | apply got_bind | apply got_map)
    | intro _
theorem stagedStep_kept {s0 s : State} {c : Nat} (hk : Kept s0 s) : Kept s0 (stagedStep s c) := by
  unfold stagedStep
  dsimp only
  split
  · exact hk
  · split
    · exact hk
    · split
      · rename_i h
        exact setClaim_kept (got_kept h (got_fold (fun acc e h => got_bind_state h fun t ht => copyIn_kept ht) (got_ok (waitSet_kept hk))))
      · exact waitSet_kept hk
      · exact stallAll_kept (waitSet_kept hk)
theorem permuteEnd_kept {s0 s : State} {c : Nat} (hk : Kept s0 s) : Kept s0 (permuteEnd s c) := by
  unfold permuteEnd
  dsimp only
  repeat' first
    | (with_reducible first
        | assumption | apply waitSet_kept | apply setClaim_kept | apply endColl_kept | apply fold_kept)
    | split | intro _
theorem collTimeoutStep_kept {s0 s : State} {c id : Nat} (hk : Kept s0 s) : Kept s0 (collTimeoutStep s c id) := by
  unfold collTimeoutStep
  dsimp only
  repeat' first
    | (with_reducible first
        | assumption | apply pumpDescs_kept | apply failColl_kept | apply advanceTo_kept | apply setClaim_kept)
    | split

/-! ### Digest.lean -/

theorem setAssay_kept {s0 s : State} {c : Nat} {a : Assay} (hk : Kept s0 s) : Kept s0 (setAssay s c a) := by
  unfold setAssay
  dsimp only
  repeat' first | (with_reducible first | assumption | apply setClaim_kept)
theorem mismatchEvent_kept {s0 s : State} {c : Nat} {id : W32} {range dev : Nat} {absent : Bool} (hk : Kept s0 s) : Kept s0
    (mismatchEvent s c id range dev absent) := by
  unfold mismatchEvent
  repeat' first | (with_reducible first | assumption | apply postEvent_kept)
theorem failAssay_kept {s0 s : State} {c : Nat} {a : Assay} {status : Nat} (hk : Kept s0 s) : Kept s0 (failAssay s c a status)
    := by
  unfold failAssay
  dsimp only
  repeat' first | (with_reducible first | assumption | apply reply_kept | apply setClaim_kept)
theorem assayTry_kept {s0 s : State} {c : Nat} {id : W32} (hk : Kept s0 s) : Kept s0 (assayTry s c id) := by
  unfold assayTry
  dsimp only
  repeat' first
    | (with_reducible first
        | assumption | apply noteAll_kept | apply stallAll_kept | apply failOwned_kept | apply failAssay_kept
        | apply setAssay_kept | apply queueBell_kept | apply mismatchEvent_kept | apply fold_kept)
    | split | intro _
theorem endLedger_kept {s0 s : State} {c : Nat} {l : Ledger} {status r0 r1 : Nat} (hk : Kept s0 s) : Kept s0
    (endLedger s c l status r0 r1) := by
  unfold endLedger
  dsimp only
  repeat' first | (with_reducible first | assumption | apply reply_kept | apply setClaim_kept)
theorem ledgerTry_kept {s0 s : State} {c r : Nat} {q : W32} (hk : Kept s0 s) : Kept s0 (ledgerTry s c r q) := by
  unfold ledgerTry
  dsimp only
  repeat' first
    | (with_reducible first
        | assumption | apply noteAll_kept | apply failOwned_kept | apply endLedger_kept | apply stallAll_kept)
    | split

/-! ### Caps.lean -/

theorem coolCap_kept {s0 s : State} (hk : Kept s0 s) : Kept s0 (coolCap s) := by
  unfold coolCap
  dsimp only
  repeat' first
    | (with_reducible first
        | assumption | apply faces_wf | apply claims_wf | apply rings_wf | apply t1_wf | apply t2_wf | apply host_wf
        | apply streams_wf | apply tallies_wf | apply outqs_wf | apply fns_wf | apply msix_wf | apply shafts_wf
        | apply routes_wf | apply rxctx_wf | apply fabric_wf)
    | with_reducible apply mk_kept

end Sys2Proof.Machine
end

