-- ==== Sys2Proof/Laws/KeptFace.lean ====
section
/-!
SUPPORT. The tubs, and the instructions of a face: no operation takes or adds a command, or leaves a table out of canonical form (Kept.lean).
-/
namespace Sys2Proof.Machine
open Sys2Proof

/-! ### Tubs.lean -/

theorem pokeAs_kept {s0 : State} {w : Who} {s : State} {c va : Nat} {bs : List Byte} (hk : Kept s0 s) : Kept s0
    (pokeAs w s c va bs) := by
  unfold pokeAs
  repeat' first | (with_reducible first | assumption | apply vaStore_kept | apply blocked_kept) | split
theorem poke_kept {s0 s : State} {c va : Nat} {bs : List Byte} (hk : Kept s0 s) : Kept s0 (poke s c va bs) := by
  unfold poke
  repeat' first | (with_reducible first | assumption | apply pokeAs_kept)
theorem mapPut_kept {s0 s : State} {c : Nat} {x : Stream} {j v : Nat} (hk : Kept s0 s) : Kept s0 (mapPut s c x j v) := by
  unfold mapPut
  repeat' first | (with_reducible first | assumption | apply pokeAs_kept)
theorem putTub_kept {s0 s : State} {c : Nat} {v : Serve} {t : Nat} {x : Tub} (hk : Kept s0 s) : Kept s0 (putTub s c v t x) := by
  unfold putTub
  dsimp only
  repeat' first | (with_reducible first | assumption | apply poke_kept)
theorem veinPut_kept {s0 s : State} {c : Nat} {v : Serve} {t : Nat} {x : Tub} {u0 : Option Nat} (hk : Kept s0 s) : Kept s0
    (veinPut s c v t x u0) := by
  cases u0 with
  | none => exact putTub_kept (setClaim_kept hk)
  | some e => exact putTub_kept (poke_kept hk)
theorem veinInsert_kept {s0 s : State} {c : Nat} {v : Serve} {t : Nat} {x : Tub} (hk : Kept s0 s) : Kept s0
    (veinInsert s c v t x) := by
  unfold veinInsert
  repeat' first | (with_reducible first | assumption | apply veinPut_kept)
theorem shareTub_kept {s0 s : State} {c : Nat} {v : Serve} {x : Stream} {j t : Nat} (hk : Kept s0 s) : Kept s0
    (shareTub s c v x j t) := by
  unfold shareTub
  dsimp only
  repeat' first | (with_reducible first | assumption | apply storeLater_kept | apply putTub_kept)
theorem dropTub_kept {s0 s : State} {c : Nat} {v : Serve} {t : Nat} (hk : Kept s0 s) : Kept s0 (dropTub s c v t) := by
  unfold dropTub
  dsimp only
  repeat' first | (with_reducible first | assumption | apply poke_kept | apply putTub_kept) | split
theorem takeTub_kept {s0 s : State} {c n : Nat} {v : Serve} {j : Nat} {u0 : Option Nat} (hk : Kept s0 s) : Kept s0
    (takeTub s c n v j u0) := by
  cases u0 with
  | none => exact hk
  | some e => exact setStream_kept (putTub_kept (mapPut_kept hk))
theorem giveTub_kept {s0 s : State} {c n : Nat} {v : Serve} {j : Nat} (hk : Kept s0 s) : Kept s0 (giveTub s c n v j) := by
  unfold giveTub
  repeat' first | (with_reducible first | assumption | apply takeTub_kept) | split
theorem releaseMap_kept {s0 s : State} {c : Nat} {v : Serve} {m : Nat × Nat × Nat} (hk : Kept s0 s) : Kept s0
    (releaseMap s c v m) := by
  unfold releaseMap
  dsimp only
  repeat' first
    | (with_reducible first
        | assumption | apply stallAll_kept | apply setClaim_kept | apply blocked_kept | apply readSpan_kept
        | apply readSpans_kept | apply dropTub_kept | apply fold_kept)
    | split | intro _
theorem releaseTubs_kept {s0 s : State} {c : Nat} (hk : Kept s0 s) : Kept s0 (releaseTubs s c) := by
  unfold releaseTubs
  dsimp only
  repeat' first
    | (with_reducible first
        | assumption | apply setClaim_kept | apply releaseMap_kept | apply fold_kept)
    | split | intro _
theorem clearTubs_kept {s0 s : State} {c : Nat} {v : Serve} (hk : Kept s0 s) : Kept s0 (clearTubs s c v) := by
  unfold clearTubs
  dsimp only
  repeat' first | (with_reducible first | assumption | apply poke_kept | apply fold_kept) | intro _
theorem countBump_kept {s0 s : State} {c : Nat} {v : Serve} {n i : Nat} (hk : Kept s0 s) : Kept s0 (countBump s c v n i) := by
  unfold countBump
  repeat' first | (with_reducible first | assumption | apply poke_kept)
theorem countClear_kept {s0 s : State} {c : Nat} {v : Serve} {n : Nat} (hk : Kept s0 s) : Kept s0 (countClear s c v n) := by
  unfold countClear
  repeat' first | (with_reducible first | assumption | apply poke_kept)

/-! ### Operands.lean -/

theorem raise_kept {s0 s : State} {i : Ins} {status : Nat} (hk : Kept s0 s) : Kept s0 (raise s i status) := by
  unfold raise
  repeat' first | (with_reducible first | assumption | apply failRequest_kept)
theorem raiseParity_kept {s0 s : State} {i : Ins} (hk : Kept s0 s) : Kept s0 (raiseParity s i) := by
  unfold raiseParity
  repeat' first | (with_reducible first | assumption | apply raise_kept | apply postSump_kept)
theorem done_kept {s0 s : State} {i : Ins} (hk : Kept s0 s) : Kept s0 (done s i) := by
  unfold done
  repeat' first | (with_reducible first | assumption | apply modLane_kept)
theorem stalled_kept {s0 s : State} {i : Ins} {w : Stall} (hk : Kept s0 s) : Kept s0 (stalled s i w) := by
  unfold stalled
  repeat' first | (with_reducible first | assumption | apply modLane_kept)
theorem jump_kept {s0 s : State} {i : Ins} {target : Int} (hk : Kept s0 s) : Kept s0 (jump s i target) := by
  unfold jump
  repeat' first | (with_reducible first | assumption | apply modLane_kept | apply raise_kept) | split
theorem issueIf_kept {s0 s : State} {f : Nat} {st : IssueStream} {is : Nat → Bool} {body : State → Ins → State} (hk : Kept s0 s)
    (h_body : ∀ a0 a1, Kept s0 a0 → Kept s0 (body a0 a1)) : Kept s0 (issueIf s f st is body) := by
  unfold issueIf
  repeat' first
    | (with_reducible first
        | assumption | apply failRequest_kept | apply raiseParity_kept | apply raise_kept | apply h_body)
    | split
theorem issue_kept {s0 s : State} {f : Nat} {st : IssueStream} {opcode : Nat} {body : State → Ins → State} (hk : Kept s0 s)
    (h_body : ∀ a0 a1, Kept s0 a0 → Kept s0 (body a0 a1)) : Kept s0 (issue s f st opcode body) := by
  unfold issue
  repeat' first | (with_reducible first | assumption | apply issueIf_kept)
theorem withRegs_kept {s0 s : State} {i : Ins} {names : List Name} {body : State → State} (hk : Kept s0 s)
    (h_body : ∀ a0, Kept s0 a0 → Kept s0 (body a0)) : Kept s0 (withRegs s i names body) := by
  unfold withRegs
  repeat' first | (with_reducible first | assumption | apply raise_kept | apply raiseParity_kept | apply h_body) | split
theorem setSreg_kept {s0 s : State} {f n : Nat} {v : W64} (hk : Kept s0 s) : Kept s0 (setSreg s f n v) := by
  unfold setSreg
  dsimp only
  repeat' first | (with_reducible first | assumption | apply setFace_kept | apply t0_wf)
theorem setVelems_kept {s0 s : State} {f n lo : Nat} {vs : List W32} {on : Nat → Bool} (hk : Kept s0 s) : Kept s0
    (setVelems s f n lo vs on) := by
  unfold setVelems
  dsimp only
  repeat' first | (with_reducible first | assumption | apply setFace_kept | apply t0_wf)
theorem setMreg_kept {s0 s : State} {f n : Nat} {v : BitVec 1024} (hk : Kept s0 s) : Kept s0 (setMreg s f n v) := by
  unfold setMreg
  dsimp only
  repeat' first | (with_reducible first | assumption | apply setFace_kept | apply t0_wf)
theorem t0Note_kept {s0 s : State} {f : Nat} {spans : List (Nat × Nat)} (hk : Kept s0 s) : Kept s0 (t0Note s f spans) := by
  unfold t0Note
  repeat' first | (with_reducible first | assumption | apply noteBytes_kept | apply fold_kept) | intro _
theorem t0Store_kept {s0 s : State} {f req : Nat} {bs : List (Nat × Byte)} (hk : Kept s0 s) : Kept s0 (t0Store s f req bs) := by
  unfold t0Store
  dsimp only
  repeat' first | (with_reducible first | assumption | apply storeBytes_kept | apply setFace_kept | apply t0_wf)
theorem t0Put_kept {s0 s : State} {f req i : Nat} {ws : List PWord} (hk : Kept s0 s) : Kept s0 (t0Put s f req i ws) := by
  unfold t0Put
  dsimp only
  repeat' first | (with_reducible first | assumption | apply setFace_kept | apply t0_wf | apply wf_run)

/-! ### Flags.lean -/

theorem setFlag_kept {s0 s : State} {i : Ins} {n : Nat} {on : Bool} (hk : Kept s0 s) : Kept s0 (setFlag s i n on) := by
  unfold setFlag
  repeat' first | (with_reducible first | assumption | apply modLane_kept) | split

/-! ### Vector.lean -/

theorem vecOp_kept {s0 s : State} {f : Nat} {st : IssueStream} {op : Nat} {fields : List (Nat × Nat)} {use : ExtUse}
    {ok : Ins → Bool} {names : Ins → List Name} {body : State → Ins → State} (hk : Kept s0 s)
    (h_body : ∀ a0 a1, Kept s0 a0 → Kept s0 (body a0 a1)) : Kept s0 (vecOp s f st op fields use ok names body) := by
  unfold vecOp
  repeat' first
    | (with_reducible first
        | assumption | apply issue_kept | apply raise_kept | apply withRegs_kept | apply done_kept | apply h_body)
    | split | intro _
theorem mapElems_kept {s0 s : State} {i : Ins} {g : Nat → W32} (hk : Kept s0 s) : Kept s0 (mapElems s i g) := by
  unfold mapElems
  repeat' first | (with_reducible first | assumption | apply setVelems_kept)
theorem binOp_kept {s0 s : State} {f : Nat} {st : IssueStream} {op : Nat} {g : W32 → W32 → W32} (hk : Kept s0 s) : Kept s0
    (binOp s f st op g) := by
  unfold binOp
  repeat' first | (with_reducible first | assumption | apply vecOp_kept | apply mapElems_kept) | intro _
theorem unOp_kept {s0 s : State} {f : Nat} {st : IssueStream} {op : Nat} {g : W32 → W32} (hk : Kept s0 s) : Kept s0
    (unOp s f st op g) := by
  unfold unOp
  repeat' first | (with_reducible first | assumption | apply vecOp_kept | apply mapElems_kept) | intro _
theorem cmpOp_kept {s0 s : State} {f : Nat} {st : IssueStream} {op : Nat} {g : W32 → W32 → Bool} (hk : Kept s0 s) : Kept s0
    (cmpOp s f st op g) := by
  unfold cmpOp
  dsimp only
  repeat' first | (with_reducible first | assumption | apply vecOp_kept | apply setMreg_kept) | intro _
theorem vFmaStep_kept {s0 s : State} {f : Nat} {st : IssueStream} (hk : Kept s0 s) : Kept s0 (vFmaStep s f st) := by
  unfold vFmaStep
  repeat' first | (with_reducible first | assumption | apply vecOp_kept | apply mapElems_kept) | intro _
theorem vSelStep_kept {s0 s : State} {f : Nat} {st : IssueStream} (hk : Kept s0 s) : Kept s0 (vSelStep s f st) := by
  unfold vSelStep
  repeat' first | (with_reducible first | assumption | apply vecOp_kept | apply mapElems_kept) | intro _
theorem vMovStep_kept {s0 s : State} {f : Nat} {st : IssueStream} (hk : Kept s0 s) : Kept s0 (vMovStep s f st) := by
  unfold vMovStep
  repeat' first | (with_reducible first | assumption | apply vecOp_kept | apply mapElems_kept) | intro _
theorem vCvtF2iStep_kept {s0 s : State} {f : Nat} {st : IssueStream} (hk : Kept s0 s) : Kept s0 (vCvtF2iStep s f st) := by
  unfold vCvtF2iStep
  dsimp only
  repeat' first | (with_reducible first | assumption | apply vecOp_kept | apply setFlag_kept | apply mapElems_kept) | intro _
theorem vRoundStep_kept {s0 s : State} {f : Nat} {st : IssueStream} (hk : Kept s0 s) : Kept s0 (vRoundStep s f st) := by
  unfold vRoundStep
  dsimp only
  repeat' first
    | (with_reducible first
        | assumption | apply issue_kept | apply raise_kept | apply withRegs_kept | apply done_kept | apply mapElems_kept)
    | split | intro _
theorem vIotaStep_kept {s0 s : State} {f : Nat} {st : IssueStream} (hk : Kept s0 s) : Kept s0 (vIotaStep s f st) := by
  unfold vIotaStep
  repeat' first | (with_reducible first | assumption | apply vecOp_kept | apply mapElems_kept) | intro _
theorem setFirst_kept {s0 s : State} {i : Ins} {v : Xr} (hk : Kept s0 s) : Kept s0 (setFirst s i v) := by
  unfold setFirst
  repeat' first | (with_reducible first | assumption | apply setVelems_kept)
theorem redOp_kept {s0 s : State} {f : Nat} {st : IssueStream} {op : Nat} {g : List Xr → Xr} (hk : Kept s0 s) : Kept s0
    (redOp s f st op g) := by
  unfold redOp
  repeat' first | (with_reducible first | assumption | apply vecOp_kept | apply setFirst_kept) | intro _
theorem vRdotStep_kept {s0 s : State} {f : Nat} {st : IssueStream} (hk : Kept s0 s) : Kept s0 (vRdotStep s f st) := by
  unfold vRdotStep
  repeat' first | (with_reducible first | assumption | apply vecOp_kept | apply setFirst_kept) | intro _
theorem softOp_kept {s0 s : State} {f : Nat} {st : IssueStream} {op : Nat} {g : List Xr → List Bool → List Xr × Bool}
    (hk : Kept s0 s) : Kept s0 (softOp s f st op g) := by
  unfold softOp
  dsimp only
  repeat' first
    | (with_reducible first
        | assumption | apply issue_kept | apply raise_kept | apply withRegs_kept | apply setVelems_kept | apply setMreg_kept
        | apply done_kept | apply setFlag_kept)
    | split | intro _
theorem normOp_kept {s0 s : State} {f : Nat} {st : IssueStream} {op : Nat} {fields : List (Nat × Nat)} {names : Ins → List Name}
    {g : State → Ins → List Xr} (hk : Kept s0 s) : Kept s0 (normOp s f st op fields names g) := by
  unfold normOp
  repeat' first
    | (with_reducible first
        | assumption | apply issue_kept | apply raise_kept | apply withRegs_kept | apply done_kept | apply setVelems_kept)
    | split | intro _
theorem vLdStep_kept {s0 s : State} {f : Nat} {st : IssueStream} (hk : Kept s0 s) : Kept s0 (vLdStep s f st) := by
  unfold vLdStep
  dsimp only
  repeat' first
    | (with_reducible first
        | assumption | apply issue_kept | apply withRegs_kept | apply raise_kept | apply t0Note_kept | apply done_kept
        | apply setVelems_kept)
    | split | intro _
theorem addCounts_kept {s0 s : State} {i : Ins} {tensor : Nat} {n : ConvCount} (hk : Kept s0 s) : Kept s0
    (addCounts s i tensor n) := by
  unfold addCounts
  dsimp only
  repeat' first | (with_reducible first | assumption | apply modLane_kept) | split
theorem vStStep_kept {s0 s : State} {f : Nat} {st : IssueStream} (hk : Kept s0 s) : Kept s0 (vStStep s f st) := by
  unfold vStStep
  dsimp only
  repeat' first
    | (with_reducible first
        | assumption | apply issue_kept | apply withRegs_kept | apply raise_kept | apply t0Store_kept | apply addCounts_kept
        | apply done_kept | apply setFlag_kept)
    | split | intro _
theorem mLdStep_kept {s0 s : State} {f : Nat} {st : IssueStream} (hk : Kept s0 s) : Kept s0 (mLdStep s f st) := by
  unfold mLdStep
  dsimp only
  repeat' first
    | (with_reducible first
        | assumption | apply issue_kept | apply raise_kept | apply withRegs_kept | apply t0Note_kept | apply done_kept
        | apply setMreg_kept)
    | split | intro _
theorem mStStep_kept {s0 s : State} {f : Nat} {st : IssueStream} (hk : Kept s0 s) : Kept s0 (mStStep s f st) := by
  unfold mStStep
  dsimp only
  repeat' first
    | (with_reducible first
        | assumption | apply issue_kept | apply raise_kept | apply withRegs_kept | apply freeValue_kept | apply done_kept
        | apply t0Store_kept)
    | split | intro _
theorem maskOp_kept {s0 s : State} {f : Nat} {st : IssueStream} {op : Nat} {two : Bool} {g : Bool → Bool → Bool}
    (hk : Kept s0 s) : Kept s0 (maskOp s f st op two g) := by
  unfold maskOp
  dsimp only
  repeat' first | (with_reducible first | assumption | apply vecOp_kept | apply setMreg_kept) | intro _

/-! ### Matrix.lean -/

theorem withClaim_kept {s0 s : State} {i : Ins} {va n : Nat} {body : State → State} (hk : Kept s0 s)
    (h_body : ∀ a0, Kept s0 a0 → Kept s0 (body a0)) : Kept s0 (withClaim s i va n body) := by
  unfold withClaim
  repeat' first
    | (with_reducible first
        | assumption | apply raise_kept | apply ownerFault_kept | apply stallFace_kept | apply h_body)
    | split
theorem setBuf_kept {s0 s : State} {f n : Nat} {b : OpBuf} (hk : Kept s0 s) : Kept s0 (setBuf s f n b) := by
  unfold setBuf
  dsimp only
  repeat' first | (with_reducible first | assumption | apply setFace_kept | apply t0_wf)
theorem loadTile_kept {s0 s : State} {i : Ins} {fm : Fmt} {a stride kn rows : Nat} {scales : List Xr} (hk : Kept s0 s) : Kept s0
    (loadTile s i fm a stride kn rows scales) := by
  unfold loadTile
  dsimp only
  repeat' first
    | (with_reducible first
        | assumption | apply raise_kept | apply t0Note_kept | apply done_kept | apply setBuf_kept)
    | split
theorem tloadStep_kept {s0 s : State} {f : Nat} {st : IssueStream} (hk : Kept s0 s) : Kept s0 (tloadStep s f st) := by
  unfold tloadStep
  dsimp only
  repeat' first
    | (with_reducible first
        | assumption | apply issue_kept | apply raise_kept | apply withRegs_kept | apply loadTile_kept | apply withClaim_kept
        | apply sliceWords_kept | apply noteVa_kept)
    | split | intro _
theorem setAcc_kept {s0 s : State} {f n : Nat} {a : Acc} (hk : Kept s0 s) : Kept s0 (setAcc s f n a) := by
  unfold setAcc
  dsimp only
  repeat' first | (with_reducible first | assumption | apply setFace_kept | apply t0_wf)
theorem mmaStep_kept {s0 s : State} {f : Nat} {st : IssueStream} (hk : Kept s0 s) : Kept s0 (mmaStep s f st) := by
  unfold mmaStep
  dsimp only
  repeat' first
    | (with_reducible first
        | assumption | apply issue_kept | apply raise_kept | apply withRegs_kept | apply done_kept | apply setAcc_kept)
    | split | intro _
theorem drainFlags_kept {s0 s : State} {i : Ins} {x : Acc} {sat nonfin ovf : Bool} (hk : Kept s0 s) : Kept s0
    (drainFlags s i x sat nonfin ovf) := by
  unfold drainFlags
  repeat' first | (with_reducible first | assumption | apply setFlag_kept)
theorem drained_kept {s0 s : State} {i : Ins} (hk : Kept s0 s) : Kept s0 (drained s i) := by
  unfold drained
  repeat' first | (with_reducible first | assumption | apply done_kept | apply setAcc_kept)
theorem drainVec_kept {s0 s : State} {i : Ins} {x : Acc} {fm : Fmt} (hk : Kept s0 s) : Kept s0 (drainVec s i x fm) := by
  unfold drainVec
  dsimp only
  repeat' first
    | (with_reducible first
        | assumption | apply raise_kept | apply setFace_kept | apply addCounts_kept | apply drained_kept | apply drainFlags_kept
        | apply t0_wf)
    | split
theorem setBitAt_kept {s0 s : State} {c va n : Nat} (hk : Kept s0 s) : Kept s0 (setBitAt s c va n) := by
  unfold setBitAt
  dsimp only
  repeat' first | (with_reducible first | assumption | apply vaStore_kept | apply slicePut_kept) | split
theorem withTile_kept {s0 s : State} {i : Ins} {sc : Nat} {rows : List RowOut} {body : State → State} (hk : Kept s0 s)
    (h_body : ∀ a0, Kept s0 a0 → Kept s0 (body a0)) : Kept s0 (withTile s i sc rows body) := by
  unfold withTile
  dsimp only
  repeat' first
    | (with_reducible first
        | assumption | apply withClaim_kept | apply setBitAt_kept | apply h_body)
    | split | intro _
theorem drainScale_kept {s0 s : State} {i : Ins} {fm : Fmt} {sc : Nat} {e : W64} {rows : List RowOut} (hk : Kept s0 s) : Kept s0
    (drainScale s i fm sc e rows) := by
  unfold drainScale
  dsimp only
  repeat' first | (with_reducible first | assumption | apply slicePut_kept | apply setClaim_kept) | split
theorem drainT0_kept {s0 s : State} {i : Ins} {x : Acc} {fm : Fmt} {e : W64} {a stride : Nat} (hk : Kept s0 s) : Kept s0
    (drainT0 s i x fm e a stride) := by
  unfold drainT0
  dsimp only
  repeat' first
    | (with_reducible first
        | assumption | apply t0Store_kept | apply drainScale_kept | apply addCounts_kept | apply drained_kept
        | apply drainFlags_kept)
    | split
theorem drainScaled_kept {s0 s : State} {i : Ins} {x : Acc} {fm : Fmt} {sc a stride : Nat} (hk : Kept s0 s) : Kept s0
    (drainScaled s i x fm sc a stride) := by
  refine withClaim_kept hk fun t ht => ?_
  have h : ∀ ws, Kept s0 (sliceWords (noteVa t i.l.claim sc 8) i.l.claim sc ws).1 := fun ws => sliceWords_kept (noteVa_kept ht)
  dsimp only
  split
  · exact raise_kept (h _)
  · split
    · exact raise_kept (h _)
    · exact withTile_kept (h _) fun u hu => drainT0_kept hu
theorem drainStep_kept {s0 s : State} {f : Nat} {st : IssueStream} (hk : Kept s0 s) : Kept s0 (drainStep s f st) := by
  unfold drainStep
  dsimp only
  repeat' first
    | (with_reducible first
        | assumption | apply issue_kept | apply raise_kept | apply withRegs_kept | apply drainVec_kept | apply drainT0_kept
        | apply drainScaled_kept)
    | split | intro _
theorem accClearStep_kept {s0 s : State} {f : Nat} {st : IssueStream} (hk : Kept s0 s) : Kept s0 (accClearStep s f st) := by
  unfold accClearStep
  repeat' first
    | (with_reducible first
        | assumption | apply issue_kept | apply raise_kept | apply withRegs_kept | apply drained_kept)
    | split | intro _

/-! ### Dma.lean -/

theorem semPut_kept {s0 s : State} {f n v : Nat} (hk : Kept s0 s) : Kept s0 (semPut s f n v) := by
  unfold semPut
  dsimp only
  repeat' first | (with_reducible first | assumption | apply setFace_kept | apply t0_wf)
theorem semAdd_kept {s0 s : State} {f sem n req : Nat} (hk : Kept s0 s) : Kept s0 (semAdd s f sem n req) := by
  unfold semAdd
  repeat' first | (with_reducible first | assumption | apply failRequest_kept | apply semPut_kept) | split
theorem dmaFail_kept {s0 s : State} {f : Nat} {d : Dma} {status : Nat} (hk : Kept s0 s) : Kept s0 (dmaFail s f d status) := by
  unfold dmaFail
  dsimp only
  repeat' first | (with_reducible first | assumption | apply failRequest_kept | apply ownerFault_kept) | split
theorem setDma_kept {s0 s : State} {f n : Nat} {d : Dma} (hk : Kept s0 s) : Kept s0 (setDma s f n d) := by
  unfold setDma
  dsimp only
  repeat' first | (with_reducible first | assumption | apply setFace_kept | apply t0_wf)
theorem dmaIssue_kept {s0 s : State} {i : Ins} {d : Dma} (hk : Kept s0 s) : Kept s0 (dmaIssue s i d) := by
  unfold dmaIssue
  repeat' first
    | (with_reducible first
        | assumption | apply stalled_kept | apply dmaFail_kept | apply done_kept | apply setDma_kept | apply stallAll_kept)
    | split
theorem dmaStep_kept {s0 s : State} {f : Nat} {st : IssueStream} {op : Nat} {kind : DmaKind} (hk : Kept s0 s) : Kept s0
    (dmaStep s f st op kind) := by
  unfold dmaStep
  dsimp only
  repeat' first
    | (with_reducible first
        | assumption | apply issue_kept | apply raise_kept | apply withRegs_kept | apply t0Note_kept | apply dmaIssue_kept)
    | split | intro _
theorem dmaPut_kept {s0 s : State} {d : Dma} {va : Nat} {ws : List PWord} (hk : Kept s0 s) : Kept s0 (dmaPut s d va ws) := by
  unfold dmaPut
  repeat' first | (with_reducible first | assumption | apply slicePut_kept | apply fold_kept) | split | intro _
theorem claimWords_kept {s0 s : State} {c va n : Nat} (hk : Kept s0 s) : Kept s0 (claimWords s c va n).1 := by
  unfold claimWords
  dsimp only
  repeat' first | (with_reducible first | assumption | apply noteVa_kept | apply sliceWords_kept)
theorem dmaMove_kept {s0 s : State} {f : Nat} {d : Dma} (hk : Kept s0 s) : Kept s0 (dmaMove s f d) := by
  unfold dmaMove
  dsimp only
  repeat' first
    | (with_reducible first
        | assumption | apply t0Note_kept | apply dmaPut_kept | apply t0Put_kept | apply claimWords_kept | apply fold_kept)
    | split | intro _
theorem dmaDoneStep_kept {s0 s : State} {f n : Nat} (hk : Kept s0 s) : Kept s0 (dmaDoneStep s f n) := by
  unfold dmaDoneStep
  dsimp only
  repeat' first
    | (with_reducible first
        | assumption | apply dmaFail_kept | apply stallAll_kept | apply failRequest_kept | apply setDma_kept
        | apply dmaMove_kept | apply semAdd_kept | apply noteVa_kept | apply stallOn_kept | apply startRepair_kept
        | apply fold_kept)
    | split | intro _

/-! ### Programs.lean -/

theorem noteImage_kept {s0 s : State} {c va : Nat} (hk : Kept s0 s) : Kept s0 (noteImage s c va) := by
  unfold noteImage
  dsimp only
  repeat' first | (with_reducible first | assumption | apply noteRead_kept) | split
theorem loadLane_kept {s0 s : State} {q : Req} {n : Nat} {p : Prog} {i : Image} (hk : Kept s0 s) : Kept s0 (loadLane s q n p i)
    := by
  unfold loadLane
  dsimp only
  repeat' first | (with_reducible first | assumption | apply setFace_kept | apply t0_lane | apply t0_wf)
theorem noteReq_kept {s0 s : State} {q : Req} (hk : Kept s0 s) : Kept s0 (noteReq s q) := by
  unfold noteReq
  dsimp only
  repeat' first
    | (with_reducible first
        | assumption | apply noteRead_kept | apply noteImage_kept | apply fold_kept)
    | split | intro _
theorem failStart_kept {s0 s : State} {q : Req} {status : Nat} (hk : Kept s0 s) : Kept s0 (failStart s q status) := by
  unfold failStart
  repeat' first | (with_reducible first | assumption | apply ownerFault_kept | apply failRequest_kept) | split
theorem startReq_kept {s0 s : State} {q : Req} (hk : Kept s0 s) : Kept s0 (startReq s q) := by
  unfold startReq
  dsimp only
  repeat' first
    | (with_reducible first
        | assumption | apply noteReq_kept | apply modReq_kept | apply stallAll_kept | apply failStart_kept
        | apply failRequest_kept | apply loadLane_kept | apply fold_kept)
    | split | intro _
theorem issueSlices_kept {s0 s : State} {id t : Nat} (hk : Kept s0 s) : Kept s0 (issueSlices s id t) := by
  unfold issueSlices
  repeat' first
    | (with_reducible first
        | assumption | apply failRequest_kept | apply modLane_kept | apply fold_kept)
    | split | intro _

end Sys2Proof.Machine
end

