-- ==== Sys2Proof/Laws/KeptServing.lean ====
section
/-!
SUPPORT. Steps of the generation shift and the tick boundary: no operation takes or adds a command, or leaves a table out of canonical form (Kept.lean).
-/
namespace Sys2Proof.Machine
open Sys2Proof

/-! ### Windows.lean -/

theorem rollWindow_kept {s0 s : State} {c n : Nat} (hk : Kept s0 s) : Kept s0 (rollWindow s c n) := by
  unfold rollWindow
  dsimp only
  repeat' first
    | (with_reducible first
        | assumption | apply postQueue_kept | apply setTally_kept | apply setStream_kept | apply setClaim_kept | apply fold_kept)
    | split | intro _
theorem rollDue_kept {s0 s : State} {c : Nat} (hk : Kept s0 s) : Kept s0 (rollDue s c) := by
  unfold rollDue
  dsimp only
  repeat' first | (with_reducible first | assumption | apply rollWindow_kept) | split

/-! ### Steps.lean -/

theorem charge_kept {s0 s : State} {c tenant : Nat} {g : Tally → Tally} (hk : Kept s0 s) : Kept s0 (charge s c tenant g) := by
  unfold charge
  dsimp only
  repeat' first | (with_reducible first | assumption | apply setTally_kept | apply setClaim_kept)
theorem headPut_kept {s0 s : State} {c va n : Nat} {ws : List PWord} (hk : Kept s0 s) : Kept s0 (headPut s c va n ws) := by
  unfold headPut
  repeat' first | (with_reducible first | assumption | apply vaPut_kept | apply blocked_kept) | split
theorem steerRow_kept {s0 s : State} {c : Nat} {v : Serve} {n : Nat} {r : Row} (hk : Kept s0 s) : Kept s0 (steerRow s c v n r)
    := by
  unfold steerRow
  repeat' first | (with_reducible first | assumption | apply headPut_kept)
theorem failStep_kept {s0 s : State} {b : Batch} {status : Nat} (hk : Kept s0 s) : Kept s0 (failStep s b status) := by
  unfold failStep
  repeat' first | (with_reducible first | assumption | apply ownerFault_kept | apply failRequest_kept) | split
theorem prepareBatch_kept {s0 s : State} {id : Nat} (hk : Kept s0 s) : Kept s0 (prepareBatch s id) := by
  unfold prepareBatch
  dsimp only
  repeat' first
    | (with_reducible first
        | assumption | apply failStep_kept | apply stallAll_kept | apply readSpans_kept | apply giveTub_kept | apply poke_kept
        | apply steerRow_kept | apply modBatch_kept | apply fold_kept)
    | split | intro _
theorem samplerStep_kept {s0 s : State} {id : Nat} {poison : Bool} {main draft : List (List W32)} (hk : Kept s0 s) : Kept s0
    (samplerStep s id poison main draft) := by
  unfold samplerStep
  dsimp only
  repeat' first
    | (with_reducible first
        | assumption | apply readSpans_kept | apply failBatch_kept | apply freeValue_kept | apply modBatch_kept)
    | split
theorem parkDone_kept {s0 s : State} {n fin lost : Nat} (hk : Kept s0 s) : Kept s0 (parkDone s n fin lost) := by
  unfold parkDone
  dsimp only
  repeat' first
    | (with_reducible first
        | assumption | apply endStream_kept | apply reply_kept | apply readSpan_kept | apply hostWrite_kept | apply logHost_kept)
    | split
theorem parkNow_kept {s0 s : State} {n : Nat} (hk : Kept s0 s) : Kept s0 (parkNow s n) := by
  unfold parkNow
  dsimp only
  repeat' first | (with_reducible first | assumption | apply stallAll_kept | apply parkDone_kept | apply blocked_kept) | split
theorem settleTub_kept {s0 s : State} {b : Batch} {v : Serve} {x : Stream} {j : Nat} (hk : Kept s0 s) : Kept s0
    (settleTub s b v x j) := by
  unfold settleTub
  lift_lets
  intros
  repeat' first | (with_reducible first | assumption | apply putTub_kept | apply veinInsert_kept) | split
theorem putTokens_kept {s0 s : State} {b : Batch} {x : Stream} {p0 : Nat} {ts : List Nat} (hk : Kept s0 s) : Kept s0
    (putTokens s b x p0 ts) := by
  unfold putTokens
  dsimp only
  repeat' first | (with_reducible first | assumption | apply pokeAs_kept | apply fold_kept) | split | intro _
theorem commitRow_kept {s0 s : State} {b : Batch} {v : Serve} {r : Row} (hk : Kept s0 s) : Kept s0 (commitRow s b v r) := by
  unfold commitRow
  lift_lets
  intros
  repeat' first
    | (with_reducible first
        | assumption | apply putTokens_kept | apply countBump_kept | apply setStream_kept | apply settleTub_kept
        | apply postQueue_kept | apply charge_kept | apply parkDone_kept | apply fold_kept | apply faces_wf | apply claims_wf
        | apply rings_wf | apply t1_wf | apply t2_wf | apply host_wf | apply streams_wf | apply tallies_wf | apply outqs_wf
        | apply fns_wf | apply msix_wf | apply shafts_wf | apply routes_wf | apply rxctx_wf | apply fabric_wf)
    | split | intro _ | with_reducible apply mk_kept
theorem chargeRow_kept {s0 s : State} {b : Batch} {r : Row} (hk : Kept s0 s) : Kept s0 (chargeRow s b r) := by
  unfold chargeRow
  dsimp only
  repeat' first | (with_reducible first | assumption | apply setStream_kept | apply charge_kept)
theorem retireRow_kept {s0 s : State} {b : Batch} {v : Serve} {r : Row} (hk : Kept s0 s) : Kept s0 (retireRow s b v r) := by
  unfold retireRow
  dsimp only
  repeat' first
    | (with_reducible first
        | assumption | apply chargeRow_kept | apply endStream_kept | apply commitRow_kept)
    | split
theorem faceCharge_kept {s0 s : State} {b : Batch} (hk : Kept s0 s) : Kept s0 (faceCharge s b) := by
  unfold faceCharge
  dsimp only
  repeat' first | (with_reducible first | assumption | apply freeValue_kept | apply charge_kept | apply fold_kept) | intro _
theorem commitBatch_kept {s0 s : State} {b : Batch} {v : Serve} (hk : Kept s0 s) : Kept s0 (commitBatch s b v) := by
  unfold commitBatch
  repeat' first | (with_reducible first | assumption | apply faceCharge_kept | apply retireRow_kept | apply fold_kept) | intro _
theorem afterStamp_kept {s0 s : State} (hk : Kept s0 s) : Kept s0 (afterStamp s) := by
  unfold afterStamp
  repeat' first | (with_reducible first | assumption | apply advanceTo_kept) | split
theorem retireStep_kept {s0 s : State} {id : Nat} (hk : Kept s0 s) : Kept s0 (retireStep s id) := by
  unfold retireStep
  dsimp only
  repeat' first
    | (with_reducible first
        | assumption | apply afterStamp_kept | apply readSpans_kept | apply failBatch_kept | apply commitBatch_kept
        | apply stallAll_kept | apply faces_wf | apply claims_wf | apply rings_wf | apply t1_wf | apply t2_wf | apply host_wf
        | apply streams_wf | apply tallies_wf | apply outqs_wf | apply fns_wf | apply msix_wf | apply shafts_wf
        | apply routes_wf | apply rxctx_wf | apply fabric_wf)
    | split | with_reducible apply mk_kept
theorem parkStep_kept {s0 s : State} {n : Nat} (hk : Kept s0 s) : Kept s0 (parkStep s n) := by
  unfold parkStep
  dsimp only
  repeat' first | (with_reducible first | assumption | apply parkNow_kept | apply advanceTo_kept) | split

/-! ### Ticks.lean -/

theorem periodStep_kept {s0 s : State} {c : Nat} (hk : Kept s0 s) : Kept s0 (periodStep s c) := by
  unfold periodStep
  dsimp only
  repeat' first | (with_reducible first | assumption | apply setClaim_kept | apply advanceTo_kept) | split
theorem windowStep_kept {s0 s : State} {c : Nat} (hk : Kept s0 s) : Kept s0 (windowStep s c) := by
  unfold windowStep
  dsimp only
  repeat' first | (with_reducible first | assumption | apply rollWindow_kept | apply advanceTo_kept) | split
theorem addT1_kept {s0 s : State} {c t n : Nat} (hk : Kept s0 s) : Kept s0 (addT1 s c t n) := by
  unfold addT1
  dsimp only
  repeat' first | (with_reducible first | assumption | apply setTally_kept | apply blocked_kept) | split
theorem accrue_kept {s0 s : State} {c n : Nat} (hk : Kept s0 s) : Kept s0 (accrue s c n) := by
  unfold accrue
  dsimp only
  repeat' first
    | (with_reducible first
        | assumption | apply addT1_kept | apply readSpan_kept | apply freeValue_kept | apply setClaim_kept | apply fold_kept)
    | split | intro _
theorem heldAccrue_kept {s0 s : State} {c : Nat} (hk : Kept s0 s) : Kept s0 (heldAccrue s c) := by
  unfold heldAccrue
  dsimp only
  repeat' first
    | (with_reducible first
        | assumption | apply charge_kept | apply setStream_kept | apply fold_kept)
    | split | intro _
theorem endCancelled_kept {s0 s : State} {c : Nat} (hk : Kept s0 s) : Kept s0 (endCancelled s c) := by
  unfold endCancelled
  repeat' first
    | (with_reducible first
        | assumption | apply endStream_kept | apply parkNow_kept | apply fold_kept)
    | split | intro _
theorem freeVersions_kept {s0 s : State} {c n : Nat} (hk : Kept s0 s) : Kept s0 (freeVersions s c n) := by
  unfold freeVersions
  dsimp only
  repeat' first
    | (with_reducible first
        | assumption | apply postEvent_kept | apply setClaim_kept | apply fold_kept)
    | split | intro _
theorem holdStreams_kept {s0 s : State} {c n : Nat} {window : Bool} (hk : Kept s0 s) : Kept s0 (holdStreams s c n window) := by
  unfold holdStreams
  dsimp only
  repeat' first
    | (with_reducible first
        | assumption | apply setTally_kept | apply setStream_kept | apply fold_kept)
    | split | intro _
theorem switchVersion_kept {s0 s : State} {c n : Nat} (hk : Kept s0 s) : Kept s0 (switchVersion s c n) := by
  unfold switchVersion
  dsimp only
  repeat' first | (with_reducible first | assumption | apply reply_kept | apply setClaim_kept) | split
theorem switchStep_kept {s0 s : State} {c : Nat} (hk : Kept s0 s) : Kept s0 (switchStep s c) := by
  unfold switchStep
  dsimp only
  repeat' first | (with_reducible first | assumption | apply switchVersion_kept | apply advanceTo_kept) | split
theorem enterPrefill_kept {s0 s : State} {c m n slot vid : Nat} {v : Serve} {a : List Nat × List Nat} (hk : Kept s0 s) : Kept s0
    (enterPrefill s c m n slot vid v a) := by
  unfold enterPrefill
  dsimp only
  repeat' first
    | (with_reducible first
        | assumption | apply shareTub_kept | apply setStream_kept | apply countBump_kept | apply countClear_kept
        | apply fold_kept)
    | intro _
theorem admitOne_kept {s0 s : State} {c n slot : Nat} {v : Serve} {ad : Admit} {m : Nat} (hk : Kept s0 s) : Kept s0
    (admitOne s c n slot v ad m) := by
  unfold admitOne
  dsimp only
  repeat' first
    | (with_reducible first
        | assumption | apply noteAll_kept | apply readSpans_kept | apply endStream_kept | apply blocked_kept
        | apply stallAll_kept | apply enterPrefill_kept)
    | split
theorem admitStreams_kept {s0 s : State} {c n : Nat} (hk : Kept s0 s) : Kept s0 (admitStreams s c n) := by
  unfold admitStreams
  dsimp only
  repeat' first | (with_reducible first | assumption | apply admitOne_kept | apply fold_kept) | split | intro _
theorem openBatch_kept {s0 s : State} {c n : Nat} {v : Serve} {ad : Admit} {prefill : Bool} {g : Nat × List Nat}
    (hk : Kept s0 s) : Kept s0 (openBatch s c n v ad prefill g) := by
  unfold openBatch
  dsimp only
  repeat' first
    | (with_reducible first
        | assumption | apply freshId_kept | apply setStream_kept | apply prepareBatch_kept | apply fold_kept | apply faces_wf
        | apply claims_wf | apply rings_wf | apply t1_wf | apply t2_wf | apply host_wf | apply streams_wf | apply tallies_wf
        | apply outqs_wf | apply fns_wf | apply msix_wf | apply shafts_wf | apply routes_wf | apply rxctx_wf | apply fabric_wf)
    | split | intro _ | with_reducible apply mk_kept
theorem formKind_kept {s0 s : State} {c n : Nat} {v : Serve} {ad : Admit} {prefill : Bool} (hk : Kept s0 s) : Kept s0
    (formKind s c n v ad prefill) := by
  unfold formKind
  dsimp only
  repeat' first | (with_reducible first | assumption | apply openBatch_kept | apply fold_kept) | intro _
theorem formBatches_kept {s0 s : State} {c n : Nat} (hk : Kept s0 s) : Kept s0 (formBatches s c n) := by
  unfold formBatches
  dsimp only
  repeat' first | (with_reducible first | assumption | apply formKind_kept) | split
theorem checkPromises_kept {s0 s : State} {c n : Nat} (hk : Kept s0 s) : Kept s0 (checkPromises s c n) := by
  unfold checkPromises
  dsimp only
  repeat' first
    | (with_reducible first
        | assumption | apply charge_kept | apply postEvent_kept | apply setStream_kept | apply fold_kept)
    | split | intro _
theorem markDue_kept {s0 s : State} {c t : Nat} (hk : Kept s0 s) : Kept s0 (markDue s c t) := by
  unfold markDue
  dsimp only
  repeat' first | (with_reducible first | assumption | apply setClaim_kept)
theorem lateSteps_kept {s0 s : State} {c n : Nat} (hk : Kept s0 s) : Kept s0 (lateSteps s c n) := by
  unfold lateSteps
  repeat' first
    | (with_reducible first
        | assumption | apply failRequest_kept | apply failBatch_kept | apply fold_kept)
    | split | intro _
theorem issueDue_kept {s0 s : State} {c t : Nat} (hk : Kept s0 s) : Kept s0 (issueDue s c t) := by
  unfold issueDue
  dsimp only
  repeat' first
    | (with_reducible first
        | assumption | apply startReq_kept | apply issueSlices_kept | apply fold_kept)
    | split | intro _
theorem gossipRound_kept {s0 s : State} {c n : Nat} (hk : Kept s0 s) : Kept s0 (gossipRound s c n) := by
  unfold gossipRound
  dsimp only
  repeat' first
    | (with_reducible first
        | assumption | apply setClaim_kept | apply queueBell_kept | apply faces_wf | apply claims_wf | apply rings_wf
        | apply t1_wf | apply t2_wf | apply host_wf | apply streams_wf | apply tallies_wf | apply outqs_wf | apply fns_wf
        | apply msix_wf | apply shafts_wf | apply routes_wf | apply rxctx_wf | apply fabric_wf)
    | split | with_reducible apply mk_kept
theorem tallySummary_kept {s0 s : State} {c n : Nat} (hk : Kept s0 s) : Kept s0 (tallySummary s c n) := by
  unfold tallySummary
  dsimp only
  repeat' first | (with_reducible first | assumption | apply setClaim_kept)
theorem boundary_kept {s0 s : State} {c : Nat} (hk : Kept s0 s) : Kept s0 (boundary s c) := by
  unfold boundary
  dsimp only
  repeat' first
    | (with_reducible first
        | assumption | apply periodStep_kept | apply advanceTo_kept | apply rollWindow_kept | apply setClaim_kept
        | apply accrue_kept | apply endCancelled_kept | apply freeVersions_kept | apply releaseTubs_kept
        | apply switchVersion_kept | apply heldAccrue_kept | apply holdStreams_kept | apply formBatches_kept
        | apply admitStreams_kept | apply markDue_kept | apply checkPromises_kept | apply lateSteps_kept | apply issueDue_kept
        | apply gossipRound_kept | apply tallySummary_kept)
    | split
theorem tickStep_kept {s0 s : State} {c : Nat} (hk : Kept s0 s) : Kept s0 (tickStep s c) := by
  unfold tickStep
  repeat' first | (with_reducible first | assumption | apply boundary_kept) | split

end Sys2Proof.Machine
end

