-- ==== Sys2Proof/Laws/KeptLinks.lean ====
section
/-!
SUPPORT. The bell, Lervo packets, MUSTER, and shafts: no operation takes or adds a command, or leaves a table out of canonical form (Kept.lean).
-/
namespace Sys2Proof.Machine
open Sys2Proof

/-! ### Bells.lean -/

theorem modBell_kept {s0 s : State} {g : Bell → Bell} (hk : Kept s0 s) : Kept s0 (modBell s g) := by
  unfold modBell
  repeat' first
    | (with_reducible first
        | assumption | apply faces_wf | apply claims_wf | apply rings_wf | apply t1_wf | apply t2_wf | apply host_wf
        | apply streams_wf | apply tallies_wf | apply outqs_wf | apply fns_wf | apply msix_wf | apply shafts_wf
        | apply routes_wf | apply rxctx_wf | apply fabric_wf)
    | with_reducible apply mk_kept
theorem bumpBell_kept {s0 s : State} {i : Nat} (hk : Kept s0 s) : Kept s0 (bumpBell s i) := by
  unfold bumpBell
  repeat' first | (with_reducible first | assumption | apply modBell_kept)
theorem sendQueued_kept {s0 s : State} {q : BellQ} (hk : Kept s0 s) : Kept s0 (sendQueued s q).1 := by
  unfold sendQueued
  dsimp only
  repeat' first | (with_reducible first | assumption | apply setClaim_kept)
theorem queueTokens_kept {s0 s : State} (hk : Kept s0 s) : Kept s0 (queueTokens s) := by
  unfold queueTokens
  dsimp only
  repeat' first | (with_reducible first | assumption | apply queueBell_kept | apply fold_kept) | split | intro _
theorem ownSlot_kept {s0 s : State} (hk : Kept s0 s) : Kept s0 (ownSlot s) := by
  unfold ownSlot
  dsimp only
  repeat' first
    | (with_reducible first
        | assumption | apply queueTokens_kept | apply sendQueued_kept | apply modBell_kept)
    | split
theorem backoff_kept {s0 s : State} {hits : Nat} (hk : Kept s0 s) : Kept s0 (backoff s hits).2 := by
  unfold backoff
  dsimp only
  repeat' first | (with_reducible first | assumption | apply draw_kept)
theorem sendContention_kept {s0 s : State} {q : BellQ} (hk : Kept s0 s) : Kept s0 (sendContention s q) := by
  unfold sendContention
  dsimp only
  repeat' first | (with_reducible first | assumption | apply sendQueued_kept | apply modBell_kept)
theorem contentionSlot_kept {s0 s : State} (hk : Kept s0 s) : Kept s0 (contentionSlot s) := by
  unfold contentionSlot
  dsimp only
  repeat' first
    | (with_reducible first
        | assumption | apply modBell_kept | apply backoff_kept | apply sendContention_kept)
    | split
theorem joinFails_kept {s0 s : State} {status : Nat} (hk : Kept s0 s) : Kept s0 (joinFails s status) := by
  unfold joinFails
  dsimp only
  repeat' first | (with_reducible first | assumption | apply replyTo_kept | apply modBell_kept)
theorem leaveBell_kept {s0 s : State} (hk : Kept s0 s) : Kept s0 (leaveBell s) := by
  unfold leaveBell
  repeat' first | (with_reducible first | assumption | apply joinFails_kept | apply modBell_kept)
theorem ageSeen_kept {s0 s : State} (hk : Kept s0 s) : Kept s0 (ageSeen s) := by
  unfold ageSeen
  repeat' first | (with_reducible first | assumption | apply modBell_kept)
theorem countTicks_kept {s0 s : State} (hk : Kept s0 s) : Kept s0 (countTicks s) := by
  unfold countTicks
  dsimp only
  repeat' first | (with_reducible first | assumption | apply setClaim_kept | apply fold_kept) | split | intro _
theorem cycleEnd_kept {s0 s : State} (hk : Kept s0 s) : Kept s0 (cycleEnd s) := by
  unfold cycleEnd
  dsimp only
  repeat' first
    | (with_reducible first
        | assumption | apply ageSeen_kept | apply countTicks_kept | apply leaveBell_kept | apply modBell_kept
        | apply joinFails_kept)
    | split
theorem bellSlotStep_kept {s0 s : State} {slot : Nat} (hk : Kept s0 s) : Kept s0 (bellSlotStep s slot) := by
  unfold bellSlotStep
  dsimp only
  repeat' first
    | (with_reducible first
        | assumption | apply modBell_kept | apply ownSlot_kept | apply contentionSlot_kept | apply cycleEnd_kept)
    | split
theorem lockStep_kept {s0 s : State} (hk : Kept s0 s) : Kept s0 (lockStep s) := by
  unfold lockStep
  repeat' first | (with_reducible first | assumption | apply modBell_kept) | split
theorem noSignalStep_kept {s0 s : State} (hk : Kept s0 s) : Kept s0 (noSignalStep s) := by
  unfold noSignalStep
  repeat' first | (with_reducible first | assumption | apply modBell_kept) | split
theorem noteBusy_kept {s0 s : State} {slot : Nat} (hk : Kept s0 s) : Kept s0 (noteBusy s slot) := by
  unfold noteBusy
  dsimp only
  repeat' first | (with_reducible first | assumption | apply modBell_kept) | split
theorem badBurst_kept {s0 s : State} {slot : Nat} {fecOk : Bool} (hk : Kept s0 s) : Kept s0 (badBurst s slot fecOk) := by
  unfold badBurst
  repeat' first | (with_reducible first | assumption | apply bumpBell_kept)
theorem ownEcho_kept {s0 s : State} {rx : BellRx} (hk : Kept s0 s) : Kept s0 (ownEcho s rx) := by
  unfold ownEcho
  dsimp only
  repeat' first | (with_reducible first | assumption | apply modBell_kept | apply replyTo_kept) | split
theorem noteFrame_kept {s0 s : State} {rx : BellRx} (hk : Kept s0 s) : Kept s0 (noteFrame s rx) := by
  unfold noteFrame
  dsimp only
  repeat' first | (with_reducible first | assumption | apply modBell_kept) | split
theorem takeBarrier_kept {s0 s : State} {c src : Nat} {ws : List W64} (hk : Kept s0 s) : Kept s0 (takeBarrier s c src ws) := by
  unfold takeBarrier
  dsimp only
  repeat' first | (with_reducible first | assumption | apply waitSet_kept | apply setClaim_kept) | split
theorem ownToken_kept {s0 s : State} {rx : BellRx} (hk : Kept s0 s) : Kept s0 (ownToken s rx) := by
  unfold ownToken
  dsimp only
  repeat' first | (with_reducible first | assumption | apply setClaim_kept | apply takeBarrier_kept) | split
theorem onBell_kept {s0 s : State} {typ : Nat} {rx : BellRx} {take : State → Nat → Nat → State} (hk : Kept s0 s)
    (h_take : ∀ a0 a1 a2, Kept s0 a0 → Kept s0 (take a0 a1 a2)) : Kept s0 (onBell s typ rx take) := by
  unfold onBell
  dsimp only
  repeat' first
    | (with_reducible first
        | assumption | apply noteBusy_kept | apply badBurst_kept | apply ownToken_kept | apply ownEcho_kept
        | apply bumpBell_kept | apply noteFrame_kept | apply setClaim_kept | apply h_take)
    | split
theorem takeSample_kept {s0 s : State} {d : Nat} (hk : Kept s0 s) : Kept s0 (takeSample s d) := by
  unfold takeSample
  dsimp only
  repeat' first | (with_reducible first | assumption | apply modBell_kept | apply joinFails_kept) | split
theorem joinStep_kept {s0 s : State} {rx : BellRx} (hk : Kept s0 s) : Kept s0 (joinStep s rx) := by
  unfold joinStep
  dsimp only
  repeat' first | (with_reducible first | assumption | apply takeSample_kept | apply onBell_kept) | split | intro _
theorem collisionStep_kept {s0 s : State} {rx : BellRx} {own : Bool} (hk : Kept s0 s) : Kept s0 (collisionStep s rx own) := by
  unfold collisionStep
  dsimp only
  repeat' first
    | (with_reducible first
        | assumption | apply badBurst_kept | apply noteBusy_kept | apply bumpBell_kept | apply modBell_kept)
    | split
theorem conflictStep_kept {s0 s : State} (hk : Kept s0 s) : Kept s0 (conflictStep s) := by
  unfold conflictStep
  repeat' first | (with_reducible first | assumption | apply postEvent_kept | apply bumpBell_kept | apply modBell_kept) | split
theorem takeoverStep_kept {s0 s : State} (hk : Kept s0 s) : Kept s0 (takeoverStep s) := by
  unfold takeoverStep
  dsimp only
  repeat' first | (with_reducible first | assumption | apply modBell_kept) | split
theorem takeTick_kept {s0 s : State} {c src : Nat} {ws : List W64} (hk : Kept s0 s) : Kept s0 (takeTick s c src ws) := by
  unfold takeTick
  dsimp only
  repeat' first | (with_reducible first | assumption | apply setClaim_kept) | split
theorem tickSendStep_kept {s0 s : State} {c : Nat} (hk : Kept s0 s) : Kept s0 (tickSendStep s c) := by
  unfold tickSendStep
  repeat' first | (with_reducible first | assumption | apply queueTick_kept) | split
theorem lostStep_kept {s0 s : State} {c : Nat} (hk : Kept s0 s) : Kept s0 (lostStep s c) := by
  unfold lostStep
  dsimp only
  repeat' first
    | (with_reducible first
        | assumption | apply advanceTo_kept | apply postEvent_kept | apply setClaim_kept)
    | split
theorem takeLag_kept {s0 s : State} {c src : Nat} {ws : List W64} (hk : Kept s0 s) : Kept s0 (takeLag s c src ws) := by
  unfold takeLag
  dsimp only
  repeat' first
    | (with_reducible first
        | assumption | apply postEvent_kept | apply faces_wf | apply claims_wf | apply rings_wf | apply t1_wf | apply t2_wf
        | apply host_wf | apply streams_wf | apply tallies_wf | apply outqs_wf | apply fns_wf | apply msix_wf | apply shafts_wf
        | apply routes_wf | apply rxctx_wf | apply fabric_wf)
    | split | with_reducible apply mk_kept
theorem expireStep_kept {s0 s : State} {c src : Nat} (hk : Kept s0 s) : Kept s0 (expireStep s c src) := by
  unfold expireStep
  dsimp only
  repeat' first
    | (with_reducible first
        | assumption | apply advanceTo_kept | apply faces_wf | apply claims_wf | apply rings_wf | apply t1_wf | apply t2_wf
        | apply host_wf | apply streams_wf | apply tallies_wf | apply outqs_wf | apply fns_wf | apply msix_wf | apply shafts_wf
        | apply routes_wf | apply rxctx_wf | apply fabric_wf)
    | split | with_reducible apply mk_kept
theorem takeGossip_kept {s0 s : State} {c src : Nat} {ws : List W64} (hk : Kept s0 s) : Kept s0 (takeGossip s c src ws) := by
  unfold takeGossip
  dsimp only
  repeat' first | (with_reducible first | assumption | apply bumpBell_kept | apply setClaim_kept | apply postEvent_kept) | split
theorem hearReplica_kept {s0 : State} {c : Nat} {h : Nat × Nat × W64} {s : State} {a : Assay} (hk : Kept s0 s) : Kept s0
    (hearReplica c h s a) := by
  unfold hearReplica
  dsimp only
  repeat' first | (with_reducible first | assumption | apply setAssay_kept | apply mismatchEvent_kept) | split
theorem takeReplica_kept {s0 s : State} {c src : Nat} {ws : List W64} (hk : Kept s0 s) : Kept s0 (takeReplica s c src ws) := by
  unfold takeReplica
  dsimp only
  repeat' first | (with_reducible first | assumption | apply hearReplica_kept | apply fold_kept) | split
theorem lagStep_kept {s0 s : State} {c expect : Nat} (hk : Kept s0 s) : Kept s0 (lagStep s c expect) := by
  unfold lagStep
  dsimp only
  repeat' first
    | (with_reducible first
        | assumption | apply setClaim_kept | apply advanceTo_kept | apply queueBell_kept)
    | split

/-! ### Lervo.lean -/

/-- What a command's own work leaves behind, whichever way it ends. -/
def AnsKept (s : State) : Ans → Prop
  | .done t _ _ _ => Kept s t
  | .wait t => Kept s t
theorem ans_done {s t : State} {st a b : Nat} (h : Kept s t) : AnsKept s (.done t st a b) := h
theorem ans_wait {s t : State} (h : Kept s t) : AnsKept s (.wait t) := h
theorem okay_kept {s0 s : State} (hk : Kept s0 s) : AnsKept s0 (okay s) := by
  exact hk
theorem refuse_kept {s0 s : State} {status : Nat} (hk : Kept s0 s) : AnsKept s0 (refuse s status) := by
  exact hk
theorem putShadow_kept {s0 s : State} {r : Nat} (hk : Kept s0 s) : Kept s0 (putShadow s r) := by
  unfold putShadow
  dsimp only
  repeat' first | (with_reducible first | assumption | apply hostWrite_kept | apply logHost_kept | apply setRing_kept) | split
theorem stamped_kept {s0 s : State} (hk : Kept s0 s) : Kept s0 (stamped s) := by
  unfold stamped
  repeat' first
    | (with_reducible first
        | assumption | apply faces_wf | apply claims_wf | apply rings_wf | apply t1_wf | apply t2_wf | apply host_wf
        | apply streams_wf | apply tallies_wf | apply outqs_wf | apply fns_wf | apply msix_wf | apply shafts_wf
        | apply routes_wf | apply rxctx_wf | apply fabric_wf)
    | with_reducible apply mk_kept
theorem takePacket_kept {s0 s : State} {r : Nat} (hk : Kept s0 s) : Kept s0 (takePacket s r) := by
  unfold takePacket
  dsimp only
  repeat' first
    | (with_reducible first
        | assumption | apply setRing_kept | apply stamped_kept | apply faces_wf | apply claims_wf | apply rings_wf | apply t1_wf
        | apply t2_wf | apply host_wf | apply streams_wf | apply tallies_wf | apply outqs_wf | apply fns_wf | apply msix_wf
        | apply shafts_wf | apply routes_wf | apply rxctx_wf | apply fabric_wf)
    | split | with_reducible apply mk_kept
theorem runPacket_kept {s0 s : State} {r : Nat} {ws : List W64} {used : List Nat} {body : Call → State → Ans} (hk : Kept s0 s)
    (h_body : ∀ a0 a1, Kept s0 a1 → AnsKept s0 (body a0 a1)) : Kept s0 (runPacket s r ws used body) := by
  unfold runPacket
  dsimp only
  split
  · exact sendReply_kept (takePacket_kept hk)
  · split
    · exact reply_kept (setRing_kept (takePacket_kept hk))
    · split
      · rename_i t st a b e
        have h : AnsKept s0 (.done t st a b) := by rw [← e]; exact h_body _ _ (setRing_kept (takePacket_kept hk))
        exact reply_kept h
      · rename_i t e
        have h : AnsKept s0 (.wait t) := by rw [← e]; exact h_body _ _ (setRing_kept (takePacket_kept hk))
        exact putShadow_kept h
theorem serveRing_kept {s0 s : State} {r : Nat} {ops : Nat → Bool} {used : List Nat} {body : Call → State → Ans}
    (hk : Kept s0 s) (h_body : ∀ a0 a1, Kept s0 a1 → AnsKept s0 (body a0 a1)) : Kept s0 (serveRing s r ops used body) := by
  unfold serveRing
  dsimp only
  repeat' first | (with_reducible first | assumption | apply logHost_kept | apply setRing_kept | apply runPacket_kept) | split
theorem lervo_kept {s0 s : State} {r op : Nat} {used : List Nat} {body : Call → State → Ans} (hk : Kept s0 s)
    (h_body : ∀ a0 a1, Kept s0 a1 → AnsKept s0 (body a0 a1)) : Kept s0 (lervo s r op used body) := by
  unfold lervo
  repeat' first | (with_reducible first | assumption | apply serveRing_kept)
theorem readHost_kept {s0 s : State} {k : Call} {a n : Nat} {f : List Byte → Ans} (hk : Kept s0 s)
    (h_f : ∀ a0, AnsKept s0 (f a0)) : AnsKept s0 (readHost s k a n f) := by
  unfold readHost
  repeat' first | (with_reducible first | assumption | apply refuse_kept | apply logHost_kept | apply h_f) | split
theorem putHost_kept {s0 s : State} {k : Call} {a : Nat} {bs : List Byte} {f : State → Ans} (hk : Kept s0 s)
    (h_f : ∀ a0, Kept s0 a0 → AnsKept s0 (f a0)) : AnsKept s0 (putHost s k a bs f) := by
  unfold putHost
  repeat' first
    | (with_reducible first
        | assumption | apply hostWrite_kept | apply refuse_kept | apply logHost_kept | apply h_f)
    | split
theorem badReach_kept {s0 s : State} {c status : Nat} (hk : Kept s0 s) : AnsKept s0 (badReach s c status) := by
  unfold badReach
  repeat' first | (with_reducible first | assumption | apply refuse_kept | apply ownerFault_kept) | split
theorem readClaim_kept {s0 s : State} {c va n : Nat} {f : State → List Byte → Ans} (hk : Kept s0 s)
    (h_f : ∀ a0 a1, Kept s0 a0 → AnsKept s0 (f a0 a1)) : AnsKept s0 (readClaim s c va n f) := by
  unfold readClaim
  repeat' first
    | (with_reducible first
        | assumption | apply noteVa_kept | apply refuse_kept | apply badReach_kept | apply h_f)
    | split
theorem readClaimWords_kept {s0 s : State} {c va n : Nat} {f : State → List W64 → Ans} (hk : Kept s0 s)
    (h_f : ∀ a0 a1, Kept s0 a0 → AnsKept s0 (f a0 a1)) : AnsKept s0 (readClaimWords s c va n f) := by
  unfold readClaimWords
  repeat' first | (with_reducible first | assumption | apply readClaim_kept | apply h_f) | intro _
theorem noted_kept {s0 : State} {α : Type} {x : Got α} {note : State → State} {s : State}
    (h_note : ∀ a0, Kept s0 a0 → Kept s0 (note a0)) (hk : Kept s0 s) : Kept s0 (noted x note s) := by
  unfold noted
  repeat' first | (with_reducible first | assumption | apply h_note) | split
theorem gotAns_kept {s0 : State} {α : Type} {s : State} {c : Nat} {x : Got α} {f : α → Ans} (hk : Kept s0 s)
    (h_f : ∀ a0, AnsKept s0 (f a0)) : AnsKept s0 (gotAns s c x f) := by
  unfold gotAns
  repeat' first | (with_reducible first | assumption | apply badReach_kept | apply refuse_kept | apply h_f) | split
theorem putClaim_kept {s0 s : State} {c va : Nat} {bs : List Byte} {f : State → Ans} (hk : Kept s0 s)
    (h_f : ∀ a0, Kept s0 a0 → AnsKept s0 (f a0)) : AnsKept s0 (putClaim s c va bs f) := by
  unfold putClaim
  repeat' first
    | (with_reducible first
        | assumption | apply vaStore_kept | apply badReach_kept | apply refuse_kept | apply h_f)
    | split
theorem reservedOpStep_kept {s0 s : State} {r : Nat} (hk : Kept s0 s) : Kept s0 (reservedOpStep s r) := by
  unfold reservedOpStep
  repeat' first | (with_reducible first | assumption | apply serveRing_kept | apply refuse_kept) | intro _

/-! ### Muster.lean -/

theorem musterStep_kept {s0 s : State} {r : Nat} (hk : Kept s0 s) : Kept s0 (musterStep s r) := by
  unfold musterStep
  dsimp only
  repeat' first
    | (with_reducible first
        | assumption | apply lervo_kept | apply refuse_kept | apply putHost_kept | apply okay_kept)
    | split | intro _
theorem outqSetStep_kept {s0 s : State} {r : Nat} (hk : Kept s0 s) : Kept s0 (outqSetStep s r) := by
  unfold outqSetStep
  dsimp only
  repeat' first
    | (with_reducible first
        | assumption | apply lervo_kept | apply refuse_kept | apply okay_kept | apply setOutq_kept)
    | split | intro _
theorem ringGrantStep_kept {s0 s : State} {r : Nat} (hk : Kept s0 s) : Kept s0 (ringGrantStep s r) := by
  unfold ringGrantStep
  dsimp only
  repeat' first
    | (with_reducible first
        | assumption | apply lervo_kept | apply refuse_kept | apply okay_kept | apply setRing_kept)
    | split | intro _
theorem ringRevokeStep_kept {s0 s : State} {r : Nat} (hk : Kept s0 s) : Kept s0 (ringRevokeStep s r) := by
  unfold ringRevokeStep
  dsimp only
  repeat' first
    | (with_reducible first
        | assumption | apply lervo_kept | apply refuse_kept | apply okay_kept | apply setRing_kept)
    | split | intro _

/-! ### Shafts.lean -/

theorem holdFlit_kept {s0 s : State} {n : Nat} {tag : W16} (hk : Kept s0 s) : Kept s0 (holdFlit s n tag) := by
  unfold holdFlit
  dsimp only
  repeat' first | (with_reducible first | assumption | apply modShaft_kept | apply queueHop_kept | apply bumpShaft_kept) | split
theorem letFlit_kept {s0 s : State} {n : Nat} {tag : W16} (hk : Kept s0 s) : Kept s0 (letFlit s n tag) := by
  unfold letFlit
  dsimp only
  repeat' first | (with_reducible first | assumption | apply modShaft_kept | apply queueHop_kept) | split
theorem retrain_kept {s0 s : State} {n : Nat} {half : Bool} (hk : Kept s0 s) : Kept s0 (retrain s n half) := by
  unfold retrain
  dsimp only
  repeat' first | (with_reducible first | assumption | apply modShaft_kept | apply postSump_kept | apply bumpShaft_kept)
theorem failMembers_kept {s0 s : State} {n : Nat} (hk : Kept s0 s) : Kept s0 (failMembers s n) := by
  unfold failMembers
  dsimp only
  repeat' first
    | (with_reducible first
        | assumption | apply pumpDescs_kept | apply failColl_kept | apply fold_kept)
    | split | intro _
theorem shaftLeaves_kept {s0 s : State} {n : Nat} {st : ShaftState} {cause : Nat} (hk : Kept s0 s) : Kept s0
    (shaftLeaves s n st cause) := by
  unfold shaftLeaves
  dsimp only
  repeat' first
    | (with_reducible first
        | assumption | apply letFlit_kept | apply setShaft_kept | apply shaftEvent_kept | apply failMembers_kept
        | apply clearRoutes_kept | apply fold_kept)
    | split | intro _
theorem shaftOff_kept {s0 s : State} {n : Nat} (hk : Kept s0 s) : Kept s0 (shaftOff s n) := by
  unfold shaftOff
  repeat' first | (with_reducible first | assumption | apply shaftLeaves_kept | apply closeChannels_kept) | split
theorem resendAll_kept {s0 s : State} {n : Nat} (hk : Kept s0 s) : Kept s0 (resendAll s n) := by
  unfold resendAll
  dsimp only
  repeat' first
    | (with_reducible first
        | assumption | apply shaftEvent_kept | apply retrain_kept | apply postSump_kept | apply bumpShaft_kept
        | apply setShaft_kept)
    | split
theorem takeAck_kept {s0 s : State} {n : Nat} {hdr : W64} (hk : Kept s0 s) : Kept s0 (takeAck s n hdr) := by
  unfold takeAck
  dsimp only
  repeat' first | (with_reducible first | assumption | apply setShaft_kept | apply resendAll_kept) | split
theorem rxCheck_kept {s0 s : State} {n : Nat} {crcOk : Bool} {wrong : List Nat} (hk : Kept s0 s) : Kept s0
    (rxCheck s n crcOk wrong).1 := by
  unfold rxCheck
  dsimp only
  repeat' first | (with_reducible first | assumption | apply setShaft_kept | apply modShaft_kept | apply bumpShaft_kept) | split
theorem rxSeq_kept {s0 s : State} {n : Nat} {hdr : W64} {crcOk : Bool} {wrong : List Nat} (hk : Kept s0 s) : Kept s0
    (rxSeq s n hdr crcOk wrong).1 := by
  unfold rxSeq
  dsimp only
  repeat' first | (with_reducible first | assumption | apply rxCheck_kept | apply takeAck_kept | apply setShaft_kept) | split
theorem relayFlit_kept {s0 s : State} {n : Nat} {hdr : W64} {body : FlitBody} (hk : Kept s0 s) : Kept s0
    (relayFlit s n hdr body) := by
  unfold relayFlit
  dsimp only
  repeat' first | (with_reducible first | assumption | apply bumpShaft_kept | apply holdFlit_kept | apply modShaft_kept) | split
theorem refuseDesc_kept {s0 s : State} {n : Nat} {hdr : W64} {b : DescBody} (hk : Kept s0 s) : Kept s0 (refuseDesc s n hdr b) :=
    by
  unfold refuseDesc
  dsimp only
  repeat' first | (with_reducible first | assumption | apply modShaft_kept)
theorem routeFlit_kept {s0 s : State} {n : Nat} {hdr : W64} {body : FlitBody} {deliver : State → Nat → State} (hk : Kept s0 s)
    (h_deliver : ∀ a0 a1, Kept s0 a0 → Kept s0 (deliver a0 a1)) : Kept s0 (routeFlit s n hdr body deliver) := by
  unfold routeFlit
  dsimp only
  repeat' first
    | (with_reducible first
        | assumption | apply bumpShaft_kept | apply refuseDesc_kept | apply relayFlit_kept | apply h_deliver)
    | split
theorem onFlit_kept {s0 s : State} {n : Nat} {hdr : W64} {crcOk : Bool} {wrong : List Nat} {body : FlitBody}
    {deliver : State → Nat → State} (hk : Kept s0 s) (h_deliver : ∀ a0 a1, Kept s0 a0 → Kept s0 (deliver a0 a1)) : Kept s0
    (onFlit s n hdr crcOk wrong body deliver) := by
  unfold onFlit
  dsimp only
  repeat' first | (with_reducible first | assumption | apply rxSeq_kept | apply routeFlit_kept) | split
theorem onHop_kept {s0 s : State} {n : Nat} {hdr : W64} {rx : FlitRx} {take : State → State} (hk : Kept s0 s)
    (h_take : ∀ a0, Kept s0 a0 → Kept s0 (take a0)) : Kept s0 (onHop s n hdr rx take) := by
  unfold onHop
  dsimp only
  repeat' first | (with_reducible first | assumption | apply rxSeq_kept | apply h_take) | split
theorem idleStep_kept {s0 s : State} {n : Nat} {hdr : W64} {rx : FlitRx} (hk : Kept s0 s) : Kept s0 (idleStep s n hdr rx) := by
  unfold idleStep
  dsimp only
  repeat' first | (with_reducible first | assumption | apply rxCheck_kept | apply takeAck_kept) | split
theorem xoffStep_kept {s0 s : State} {n : Nat} {hdr : W64} {rx : FlitRx} (hk : Kept s0 s) : Kept s0 (xoffStep s n hdr rx) := by
  unfold xoffStep
  repeat' first | (with_reducible first | assumption | apply onHop_kept | apply modShaft_kept) | intro _
theorem xonStep_kept {s0 s : State} {n : Nat} {hdr : W64} {rx : FlitRx} (hk : Kept s0 s) : Kept s0 (xonStep s n hdr rx) := by
  unfold xonStep
  repeat' first | (with_reducible first | assumption | apply onHop_kept | apply modShaft_kept) | intro _
theorem setAuth_kept {s0 s : State} {n c : Nat} {a : Auth} (hk : Kept s0 s) : Kept s0 (setAuth s n c a) := by
  unfold setAuth
  repeat' first | (with_reducible first | assumption | apply modShaft_kept)
theorem startAuth_kept {s0 s : State} {n c : Nat} {cmd : Option (Nat × W32)} (hk : Kept s0 s) : Kept s0 (startAuth s n c cmd) :=
    by
  unfold startAuth
  dsimp only
  repeat' first
    | (with_reducible first
        | assumption | apply draw_kept | apply replyTo_kept | apply queueHop_kept | apply setAuth_kept)
theorem startAuths_kept {s0 s : State} {n : Nat} (hk : Kept s0 s) : Kept s0 (startAuths s n) := by
  unfold startAuths
  dsimp only
  repeat' first | (with_reducible first | assumption | apply startAuth_kept | apply fold_kept) | split | intro _
theorem takeShares_kept {s0 s : State} {n : Nat} {share : Tab Nat} {relay : List (W16 × Nat)} (hk : Kept s0 s) : Kept s0
    (takeShares s n share relay) := by
  unfold takeShares
  dsimp only
  repeat' first
    | (with_reducible first
        | assumption | apply setShaft_kept | apply startAuth_kept | apply replyTo_kept | apply fold_kept)
    | split | intro _
theorem setShares_kept {s0 s : State} {n : Nat} {share : Tab Nat} {relay : List (W16 × Nat)} (hk : Kept s0 s) : Kept s0
    (setShares s n share relay) := by
  unfold setShares
  dsimp only
  repeat' first | (with_reducible first | assumption | apply setShaft_kept | apply takeShares_kept) | split
theorem dropFlits_kept {s0 s : State} {n : Nat} (hk : Kept s0 s) : Kept s0 (dropFlits s n) := by
  unfold dropFlits
  dsimp only
  repeat' first
    | (with_reducible first
        | assumption | apply letFlit_kept | apply modShaft_kept | apply fold_kept)
    | split | intro _
theorem onIdent_kept {s0 s : State} {n : Nat} {hdr : W64} {rx : FlitRx} {take : State → State} (hk : Kept s0 s)
    (h_take : ∀ a0, Kept s0 a0 → Kept s0 (take a0)) : Kept s0 (onIdent s n hdr rx take) := by
  unfold onIdent
  dsimp only
  repeat' first
    | (with_reducible first
        | assumption | apply onHop_kept | apply rxCheck_kept | apply takeAck_kept | apply setShaft_kept | apply h_take)
    | split
theorem identStep_kept {s0 s : State} {n : Nat} {hdr : W64} {rx : FlitRx} {b : IdentBody} (hk : Kept s0 s) : Kept s0
    (identStep s n hdr rx b) := by
  unfold identStep
  dsimp only
  repeat' first
    | (with_reducible first
        | assumption | apply onIdent_kept | apply shaftLeaves_kept | apply closeChannels_kept | apply dropFlits_kept
        | apply modShaft_kept | apply shaftEvent_kept | apply clearRoutes_kept | apply startAuths_kept)
    | split | intro _
theorem nonceStep_kept {s0 s : State} {n : Nat} {hdr : W64} {rx : FlitRx} {v : BitVec 128} (hk : Kept s0 s) : Kept s0
    (nonceStep s n hdr rx v) := by
  unfold nonceStep
  dsimp only
  repeat' first
    | (with_reducible first
        | assumption | apply onHop_kept | apply startAuth_kept | apply queueHop_kept | apply setAuth_kept)
    | split | intro _
theorem tagStep_kept {s0 s : State} {n : Nat} {hdr : W64} {rx : FlitRx} {t : BitVec 128} (hk : Kept s0 s) : Kept s0
    (tagStep s n hdr rx t) := by
  unfold tagStep
  dsimp only
  repeat' first
    | (with_reducible first
        | assumption | apply onHop_kept | apply modShaft_kept | apply setAuth_kept | apply shaftEvent_kept
        | apply bumpShaft_kept | apply replyTo_kept)
    | split | intro _
theorem noteKept_kept {s0 s : State} {n : Nat} {e : Nat × Flit} (hk : Kept s0 s) : Kept s0 (noteKept s n e) := by
  unfold noteKept
  dsimp only
  repeat' first
    | (with_reducible first
        | assumption | apply postSump_kept | apply modShaft_kept | apply fold_kept)
    | split | intro _
theorem slotSend_kept {s0 s : State} {n : Nat} (hk : Kept s0 s) : Kept s0 (slotSend s n) := by
  unfold slotSend
  dsimp only
  repeat' first
    | (with_reducible first
        | assumption | apply takeShares_kept | apply setShaft_kept | apply noteKept_kept | apply letFlit_kept)
    | split
theorem slotStep_kept {s0 s : State} {n : Nat} (hk : Kept s0 s) : Kept s0 (slotStep s n) := by
  unfold slotStep
  dsimp only
  repeat' first | (with_reducible first | assumption | apply slotSend_kept | apply modShaft_kept) | split
theorem replayStep_kept {s0 s : State} {n : Nat} (hk : Kept s0 s) : Kept s0 (replayStep s n) := by
  unfold replayStep
  repeat' first | (with_reducible first | assumption | apply resendAll_kept) | split
theorem retrainStep_kept {s0 s : State} {n : Nat} (hk : Kept s0 s) : Kept s0 (retrainStep s n) := by
  unfold retrainStep
  dsimp only
  repeat' first
    | (with_reducible first
        | assumption | apply queueHop_kept | apply shaftEvent_kept | apply modShaft_kept)
    | split
theorem lockShaft_kept {s0 s : State} {n : Nat} {half sel : Bool} (hk : Kept s0 s) : Kept s0 (lockShaft s n half sel) := by
  unfold lockShaft
  dsimp only
  repeat' first | (with_reducible first | assumption | apply modShaft_kept | apply queueHop_kept)
theorem failLane_kept {s0 s : State} {n l : Nat} (hk : Kept s0 s) : Kept s0 (failLane s n l) := by
  unfold failLane
  dsimp only
  repeat' first
    | (with_reducible first
        | assumption | apply setShaft_kept | apply shaftLeaves_kept | apply shaftEvent_kept | apply modShaft_kept
        | apply retrain_kept)
    | split
theorem failLanes_kept {s0 s : State} {n : Nat} {lanes : BitVec 8} (hk : Kept s0 s) : Kept s0 (failLanes s n lanes) := by
  unfold failLanes
  repeat' first | (with_reducible first | assumption | apply failLane_kept | apply fold_kept) | intro _
theorem bringupStep_kept {s0 s : State} {n : Nat} {good : BitVec 8} (hk : Kept s0 s) : Kept s0 (bringupStep s n good) := by
  unfold bringupStep
  dsimp only
  repeat' first
    | (with_reducible first
        | assumption | apply setShaft_kept | apply lockShaft_kept | apply failLanes_kept | apply modShaft_kept
        | apply shaftLeaves_kept)
    | split
theorem laneStep_kept {s0 s : State} {n l : Nat} (hk : Kept s0 s) : Kept s0 (laneStep s n l) := by
  unfold laneStep
  repeat' first | (with_reducible first | assumption | apply failLane_kept) | split
theorem lossStep_kept {s0 s : State} {n : Nat} (hk : Kept s0 s) : Kept s0 (lossStep s n) := by
  unfold lossStep
  dsimp only
  repeat' first
    | (with_reducible first
        | assumption | apply shaftLeaves_kept | apply modShaft_kept | apply closeChannels_kept | apply shaftEvent_kept
        | apply clearRoutes_kept)
    | split

end Sys2Proof.Machine
end

