-- ==== Sys2Proof/Laws/KeptClaims.lean ====
section
/-!
SUPPORT. Pages, claims, the winder, resets, boot, and errors: no operation takes or adds a command, or leaves a table out of canonical form (Kept.lean).
-/
namespace Sys2Proof.Machine
open Sys2Proof

/-! ### Pages.lean -/

theorem giveFrame_kept {s0 s : State} {c f : Nat} (hk : Kept s0 s) : Kept s0 (giveFrame s c f) := by
  unfold giveFrame
  repeat' first | (with_reducible first | assumption | apply assignHoists_kept | apply setClaim_kept)
theorem toT2_kept {s0 s : State} {c p : Nat} (hk : Kept s0 s) : Kept s0 (toT2 s c p) := by
  unfold toT2
  dsimp only
  repeat' first | (with_reducible first | assumption | apply giveFrame_kept | apply setClaim_kept)
theorem startBack_kept {s0 s : State} {c p : Nat} {cmd : Option (Nat × W32)} (hk : Kept s0 s) : Kept s0 (startBack s c p cmd) :=
    by
  unfold startBack
  dsimp only
  repeat' first
    | (with_reducible first
        | assumption | apply assignHoists_kept | apply setClaim_kept | apply faces_wf | apply claims_wf | apply rings_wf
        | apply t1_wf | apply t2_wf | apply host_wf | apply streams_wf | apply tallies_wf | apply outqs_wf | apply fns_wf
        | apply msix_wf | apply shafts_wf | apply routes_wf | apply rxctx_wf | apply fabric_wf)
    | with_reducible apply mk_kept
theorem dropPage_kept {s0 s : State} {c p : Nat} {cmd : Option (Nat × W32)} (hk : Kept s0 s) : Kept s0 (dropPage s c p cmd) :=
    by
  unfold dropPage
  repeat' first | (with_reducible first | assumption | apply toT2_kept | apply startBack_kept) | split
theorem releaseNear_kept {s0 s : State} {c p : Nat} (hk : Kept s0 s) : Kept s0 (releaseNear s c p) := by
  unfold releaseNear
  dsimp only
  repeat' first
    | (with_reducible first
        | assumption | apply dropPage_kept | apply faces_wf | apply claims_wf | apply rings_wf | apply t1_wf | apply t2_wf
        | apply host_wf | apply streams_wf | apply tallies_wf | apply outqs_wf | apply fns_wf | apply msix_wf | apply shafts_wf
        | apply routes_wf | apply rxctx_wf | apply fabric_wf)
    | split | with_reducible apply mk_kept

/-! ### Claims.lean -/

theorem startClaim_kept {s0 s : State} {c : Nat} {d : List Byte} {salt : BitVec 128} {stamp : Nat} (hk : Kept s0 s) : Kept s0
    (startClaim s c d salt stamp) := by
  unfold startClaim
  dsimp only
  repeat' first
    | (with_reducible first
        | assumption | apply setClaim_kept | apply setShares_kept | apply fold_kept)
    | split | intro _
set_option maxRecDepth 4000 in
theorem claimCreateStep_kept {s0 s : State} {r : Nat} (hk : Kept s0 s) : Kept s0 (claimCreateStep s r) := by
  refine lervo_kept hk fun k t ht => readHost_kept ht fun d => ?_
  have h : Kept s0 (draw t).2 := draw_kept ht
  generalize draw t = p at h
  obtain ⟨salt, u⟩ := p
  dsimp only
  split
  · exact refuse_kept ht
  · by_cases hg : granulesReady u (newClaim d salt u.time) = true
    · rw [if_pos hg]; exact ans_done (startClaim_kept h)
    · rw [if_neg hg]; exact ans_wait (setClaim_kept h)
theorem createWaiting_kept {s0 s : State} (hk : Kept s0 s) : Kept s0 (createWaiting s) := by
  unfold createWaiting
  dsimp only
  repeat' first
    | (with_reducible first
        | assumption | apply reply_kept | apply startClaim_kept | apply fold_kept)
    | split | intro _
theorem abortCmds_kept {s0 s : State} {c : Nat} (hk : Kept s0 s) : Kept s0 (abortCmds s c) := by
  unfold abortCmds
  dsimp only
  repeat' first | (with_reducible first | assumption | apply reply_kept | apply fold_kept) | split | intro _
theorem clearWindows_kept {s0 s : State} {k : Claim} (hk : Kept s0 s) : Kept s0 (clearWindows s k) := by
  unfold clearWindows
  dsimp only
  repeat' first
    | (with_reducible first
        | assumption | apply faces_wf | apply claims_wf | apply rings_wf | apply t1_wf | apply t2_wf | apply host_wf
        | apply streams_wf | apply tallies_wf | apply outqs_wf | apply fns_wf | apply msix_wf | apply shafts_wf
        | apply routes_wf | apply rxctx_wf | apply fabric_wf | apply wf_fold | apply wf_put)
    | intro _ | with_reducible apply mk_kept
theorem abortParks_kept {s0 s : State} {c : Nat} (hk : Kept s0 s) : Kept s0 (abortParks s c) := by
  unfold abortParks
  dsimp only
  repeat' first
    | (with_reducible first
        | assumption | apply setStream_kept | apply reply_kept | apply fold_kept)
    | split | intro _
theorem dropFaces_kept {s0 s : State} {c : Nat} (hk : Kept s0 s) : Kept s0 (dropFaces s c) := by
  unfold dropFaces
  dsimp only
  repeat' first
    | (with_reducible first
        | assumption | apply t0_wf_entry | apply facesWf_put | apply faces_wf | apply claims_wf | apply rings_wf | apply t1_wf
        | apply t2_wf | apply host_wf | apply streams_wf | apply tallies_wf | apply outqs_wf | apply fns_wf | apply msix_wf
        | apply shafts_wf | apply routes_wf | apply rxctx_wf | apply fabric_wf | apply facesWf_fold)
    | intro _ | with_reducible apply mk_kept
theorem closeClaim_kept {s0 s : State} {c : Nat} (hk : Kept s0 s) : Kept s0 (closeClaim s c) := by
  unfold closeClaim
  dsimp only
  repeat' first
    | (with_reducible first
        | assumption | apply abortParks_kept | apply stopBell_kept | apply closeClaimChannels_kept | apply endWork_kept
        | apply clearWindows_kept | apply abortCmds_kept | apply dropFaces_kept | apply setClaim_kept | apply faces_wf
        | apply claims_wf | apply rings_wf | apply t1_wf | apply t2_wf | apply host_wf | apply streams_wf | apply tallies_wf
        | apply outqs_wf | apply fns_wf | apply msix_wf | apply shafts_wf | apply routes_wf | apply rxctx_wf | apply fabric_wf)
    | with_reducible apply mk_kept
theorem wipeSlots_kept {s0 s : State} {c : Nat} (hk : Kept s0 s) : Kept s0 (wipeSlots s c) := by
  unfold wipeSlots
  dsimp only
  repeat' first
    | (with_reducible first
        | assumption | apply faces_wf | apply claims_wf | apply rings_wf | apply t1_wf | apply t2_wf | apply host_wf
        | apply streams_wf | apply tallies_wf | apply outqs_wf | apply fns_wf | apply msix_wf | apply shafts_wf
        | apply routes_wf | apply rxctx_wf | apply fabric_wf | apply wf_keep)
    | intro _ | with_reducible apply mk_kept
theorem wipeMemory_kept {s0 s : State} {c : Nat} (hk : Kept s0 s) : Kept s0 (wipeMemory s c) := by
  unfold wipeMemory
  dsimp only
  repeat' first
    | (with_reducible first
        | assumption | apply facesWf_put | apply faces_wf | apply claims_wf | apply rings_wf | apply t1_wf | apply t2_wf
        | apply host_wf | apply streams_wf | apply tallies_wf | apply outqs_wf | apply fns_wf | apply msix_wf | apply shafts_wf
        | apply routes_wf | apply rxctx_wf | apply fabric_wf | apply facesWf_fold | apply wf_keep | apply wf_new)
    | split | intro _ | with_reducible apply mk_kept
theorem dropShares_kept {s0 s : State} {c : Nat} (hk : Kept s0 s) : Kept s0 (dropShares s c) := by
  unfold dropShares
  dsimp only
  repeat' first | (with_reducible first | assumption | apply setShares_kept | apply fold_kept) | split | intro _
theorem claimDestroyStep_kept {s0 s : State} {r : Nat} (hk : Kept s0 s) : Kept s0 (claimDestroyStep s r) := by
  unfold claimDestroyStep
  dsimp only
  repeat' first
    | (with_reducible first
        | assumption | apply lervo_kept | apply refuse_kept | apply closeClaim_kept | apply setClaim_kept | apply ans_wait
        | apply faces_wf | apply claims_wf | apply rings_wf | apply t1_wf | apply t2_wf | apply host_wf | apply streams_wf
        | apply tallies_wf | apply outqs_wf | apply fns_wf | apply msix_wf | apply shafts_wf | apply routes_wf | apply rxctx_wf
        | apply fabric_wf | apply wf_fold | apply wf_put)
    | split | intro _ | with_reducible apply mk_kept
theorem claimResetStep_kept {s0 s : State} {r : Nat} (hk : Kept s0 s) : Kept s0 (claimResetStep s r) := by
  unfold claimResetStep
  dsimp only
  repeat' first
    | (with_reducible first
        | assumption | apply lervo_kept | apply refuse_kept | apply closeClaim_kept | apply setOutq_kept | apply coolCap_kept
        | apply setClaim_kept | apply fold_kept | apply ans_wait)
    | split | intro _
theorem clearDone_kept {s0 s : State} {c : Nat} (hk : Kept s0 s) : Kept s0 (clearDone s c) := by
  unfold clearDone
  dsimp only
  repeat' first
    | (with_reducible first
        | assumption | apply wipeSlots_kept | apply wipeMemory_kept | apply draw_kept | apply reply_kept | apply startClaim_kept
        | apply setClaim_kept | apply dropShares_kept)
    | split
theorem clearDoneStep_kept {s0 s : State} {r : Nat} (hk : Kept s0 s) : Kept s0 (clearDoneStep s r) := by
  unfold clearDoneStep
  repeat' first | (with_reducible first | assumption | apply clearDone_kept) | split
theorem claimQueryStep_kept {s0 s : State} {r : Nat} (hk : Kept s0 s) : Kept s0 (claimQueryStep s r) := by
  unfold claimQueryStep
  dsimp only
  repeat' first
    | (with_reducible first
        | assumption | apply lervo_kept | apply refuse_kept | apply putHost_kept | apply okay_kept)
    | split | intro _
theorem regionRetireStep_kept {s0 s : State} {r : Nat} (hk : Kept s0 s) : Kept s0 (regionRetireStep s r) := by
  unfold regionRetireStep
  dsimp only
  repeat' first
    | (with_reducible first
        | assumption | apply lervo_kept | apply refuse_kept | apply okay_kept | apply faces_wf | apply claims_wf
        | apply rings_wf | apply t1_wf | apply t2_wf | apply host_wf | apply streams_wf | apply tallies_wf | apply outqs_wf
        | apply fns_wf | apply msix_wf | apply shafts_wf | apply routes_wf | apply rxctx_wf | apply fabric_wf)
    | split | intro _ | with_reducible apply mk_kept
theorem regionRestoreStep_kept {s0 s : State} {r : Nat} (hk : Kept s0 s) : Kept s0 (regionRestoreStep s r) := by
  unfold regionRestoreStep
  dsimp only
  repeat' first
    | (with_reducible first
        | assumption | apply lervo_kept | apply okay_kept | apply refuse_kept | apply faces_wf | apply claims_wf
        | apply rings_wf | apply t1_wf | apply t2_wf | apply host_wf | apply streams_wf | apply tallies_wf | apply outqs_wf
        | apply fns_wf | apply msix_wf | apply shafts_wf | apply routes_wf | apply rxctx_wf | apply fabric_wf)
    | split | intro _ | with_reducible apply mk_kept
theorem regionListStep_kept {s0 s : State} {r : Nat} (hk : Kept s0 s) : Kept s0 (regionListStep s r) := by
  unfold regionListStep
  dsimp only
  repeat' first | (with_reducible first | assumption | apply lervo_kept | apply putHost_kept | apply ans_done) | intro _

/-! ### Winder.lean -/

theorem modWinder_kept {s0 s : State} {g : Winder → Winder} (hk : Kept s0 s) : Kept s0 (modWinder s g) := by
  unfold modWinder
  repeat' first
    | (with_reducible first
        | assumption | apply faces_wf | apply claims_wf | apply rings_wf | apply t1_wf | apply t2_wf | apply host_wf
        | apply streams_wf | apply tallies_wf | apply outqs_wf | apply fns_wf | apply msix_wf | apply shafts_wf
        | apply routes_wf | apply rxctx_wf | apply fabric_wf)
    | with_reducible apply mk_kept
theorem unmetStep_kept {s0 s : State} {measured : Nat} (hk : Kept s0 s) : Kept s0 (unmetStep s measured) := by
  unfold unmetStep
  dsimp only
  repeat' first | (with_reducible first | assumption | apply modWinder_kept | apply postSump_kept) | split
theorem controlStep_kept {s0 s : State} {p : Prediction} (hk : Kept s0 s) : Kept s0 (controlStep s p) := by
  unfold controlStep
  dsimp only
  repeat' first
    | (with_reducible first
        | assumption | apply unmetStep_kept | apply t0_wf_entry | apply facesWf_put | apply faces_wf | apply claims_wf
        | apply rings_wf | apply t1_wf | apply t2_wf | apply host_wf | apply streams_wf | apply tallies_wf | apply outqs_wf
        | apply fns_wf | apply msix_wf | apply shafts_wf | apply routes_wf | apply rxctx_wf | apply fabric_wf
        | apply facesWf_fold)
    | split | intro _ | with_reducible apply mk_kept
theorem settledStep_kept {s0 s : State} (hk : Kept s0 s) : Kept s0 (settledStep s) := by
  unfold settledStep
  repeat' first | (with_reducible first | assumption | apply modWinder_kept) | split
theorem droopStep_kept {s0 s : State} {f : Nat} (hk : Kept s0 s) : Kept s0 (droopStep s f) := by
  unfold droopStep
  dsimp only
  repeat' first
    | (with_reducible first
        | assumption | apply freeValue_kept | apply setFace_kept | apply modWinder_kept | apply t0_wf)
    | split
theorem currentStep_kept {s0 s : State} {rails : List Rail} (hk : Kept s0 s) : Kept s0 (currentStep s rails) := by
  unfold currentStep
  dsimp only
  repeat' first | (with_reducible first | assumption | apply freeValue_kept | apply modWinder_kept) | split
theorem canaryFailStep_kept {s0 s : State} {b : Nat} (hk : Kept s0 s) : Kept s0 (canaryFailStep s b) := by
  unfold canaryFailStep
  dsimp only
  repeat' first
    | (with_reducible first
        | assumption | apply setFace_kept | apply modWinder_kept | apply postSump_kept | apply fold_kept | apply t0_wf)
    | split | intro _
theorem trimLowerStep_kept {s0 s : State} {b : Nat} (hk : Kept s0 s) : Kept s0 (trimLowerStep s b) := by
  unfold trimLowerStep
  dsimp only
  repeat' first | (with_reducible first | assumption | apply advanceTo_kept | apply modWinder_kept) | split
theorem saveTrims_kept {s0 s : State} (hk : Kept s0 s) : Kept s0 (saveTrims s) := by
  unfold saveTrims
  repeat' first | (with_reducible first | assumption | apply modWinder_kept)
theorem trimSaveStep_kept {s0 s : State} (hk : Kept s0 s) : Kept s0 (trimSaveStep s) := by
  unfold trimSaveStep
  repeat' first | (with_reducible first | assumption | apply saveTrims_kept) | split
theorem thermalStep_kept {s0 s : State} {mean : Nat} (hk : Kept s0 s) : Kept s0 (thermalStep s mean) := by
  unfold thermalStep
  repeat' first | (with_reducible first | assumption | apply modWinder_kept) | split
theorem beginRecovery_kept {s0 s : State} (hk : Kept s0 s) : Kept s0 (beginRecovery s) := by
  unfold beginRecovery
  dsimp only
  repeat' first | (with_reducible first | assumption | apply freeValue_kept | apply modWinder_kept)
theorem temperatureStep_kept {s0 s : State} {t : Int} (hk : Kept s0 s) : Kept s0 (temperatureStep s t) := by
  unfold temperatureStep
  dsimp only
  repeat' first | (with_reducible first | assumption | apply modWinder_kept | apply beginRecovery_kept) | split
theorem stopDomains_kept {s0 s : State} (hk : Kept s0 s) : Kept s0 (stopDomains s) := by
  unfold stopDomains
  dsimp only
  repeat' first
    | (with_reducible first
        | assumption | apply faces_wf | apply claims_wf | apply rings_wf | apply t1_wf | apply t2_wf | apply host_wf
        | apply streams_wf | apply tallies_wf | apply outqs_wf | apply fns_wf | apply msix_wf | apply shafts_wf
        | apply routes_wf | apply rxctx_wf | apply fabric_wf | apply wf_fold | apply wf_put)
    | intro _ | with_reducible apply mk_kept
theorem thermtripStep_kept {s0 s : State} {sensor : Nat} {t : Int} (hk : Kept s0 s) : Kept s0 (thermtripStep s sensor t) := by
  unfold thermtripStep
  dsimp only
  repeat' first
    | (with_reducible first
        | assumption | apply deviceFatal_kept | apply stopDomains_kept | apply faces_wf | apply claims_wf | apply rings_wf
        | apply t1_wf | apply t2_wf | apply host_wf | apply streams_wf | apply tallies_wf | apply outqs_wf | apply fns_wf
        | apply msix_wf | apply shafts_wf | apply routes_wf | apply rxctx_wf | apply fabric_wf)
    | split | with_reducible apply mk_kept
theorem capSetStep_kept {s0 s : State} {r : Nat} (hk : Kept s0 s) : Kept s0 (capSetStep s r) := by
  unfold capSetStep
  dsimp only
  repeat' first
    | (with_reducible first
        | assumption | apply lervo_kept | apply refuse_kept | apply modWinder_kept | apply ans_done)
    | split | intro _
theorem capFloorStep_kept {s0 s : State} {r : Nat} (hk : Kept s0 s) : Kept s0 (capFloorStep s r) := by
  unfold capFloorStep
  repeat' first | (with_reducible first | assumption | apply lervo_kept | apply ans_done) | intro _
theorem prioritySetStep_kept {s0 s : State} {r : Nat} (hk : Kept s0 s) : Kept s0 (prioritySetStep s r) := by
  unfold prioritySetStep
  dsimp only
  repeat' first
    | (with_reducible first
        | assumption | apply lervo_kept | apply refuse_kept | apply okay_kept | apply modWinder_kept)
    | split | intro _
theorem opFixStep_kept {s0 s : State} {r : Nat} (hk : Kept s0 s) : Kept s0 (opFixStep s r) := by
  unfold opFixStep
  dsimp only
  repeat' first
    | (with_reducible first
        | assumption | apply lervo_kept | apply refuse_kept | apply okay_kept | apply modWinder_kept)
    | split | intro _
theorem opLimitStep_kept {s0 s : State} {r : Nat} (hk : Kept s0 s) : Kept s0 (opLimitStep s r) := by
  unfold opLimitStep
  dsimp only
  repeat' first
    | (with_reducible first
        | assumption | apply lervo_kept | apply refuse_kept | apply okay_kept | apply modWinder_kept)
    | split | intro _
theorem winderQueryStep_kept {s0 s : State} {r : Nat} (hk : Kept s0 s) : Kept s0 (winderQueryStep s r) := by
  unfold winderQueryStep
  repeat' first | (with_reducible first | assumption | apply lervo_kept | apply putHost_kept | apply okay_kept) | intro _
theorem marginClearStep_kept {s0 s : State} {r : Nat} (hk : Kept s0 s) : Kept s0 (marginClearStep s r) := by
  unfold marginClearStep
  dsimp only
  repeat' first
    | (with_reducible first
        | assumption | apply lervo_kept | apply refuse_kept | apply ans_done | apply faces_wf | apply claims_wf | apply rings_wf
        | apply t1_wf | apply t2_wf | apply host_wf | apply streams_wf | apply tallies_wf | apply outqs_wf | apply fns_wf
        | apply msix_wf | apply shafts_wf | apply routes_wf | apply rxctx_wf | apply fabric_wf)
    | split | intro _ | with_reducible apply mk_kept

/-! ### Resets.lean -/

theorem loseSump_kept {s0 s : State} (hk : Kept s0 s) : Kept s0 (loseSump s) := by
  have h1 : ∀ s : State, Kept s0 s → ∀ u : Sump, Kept s0 { s with sump := u } := fun s h u => same_kept h rfl rfl rfl rfl rfl rfl rfl rfl rfl rfl rfl rfl rfl rfl rfl rfl
  have h2 : ∀ t, Kept s0 t → Kept s0 ((List.range 8).foldl (fun (acc : List W64 × State) _ =>
      let (v, s) := freeValue acc.2
      (acc.1 ++ [v], s)) ([], t)).2 := fun t ht => fold_kept2 (fun acc e h => freeValue_kept h) ht
  unfold loseSump
  refine fold_kept (fun t e ht => ?_) (h1 _ (freeValue_kept hk) _)
  split
  · have h3 := h2 t ht
    generalize List.foldl _ _ _ = p at h3 ⊢
    exact h1 p.2 h3 _
  · exact ht
theorem flashWriteStep_kept {s0 s : State} (hk : Kept s0 s) : Kept s0 (flashWriteStep s) := by
  unfold flashWriteStep
  repeat' first
    | (with_reducible first
        | assumption | apply faces_wf | apply claims_wf | apply rings_wf | apply t1_wf | apply t2_wf | apply host_wf
        | apply streams_wf | apply tallies_wf | apply outqs_wf | apply fns_wf | apply msix_wf | apply shafts_wf
        | apply routes_wf | apply rxctx_wf | apply fabric_wf)
    | split | with_reducible apply mk_kept
theorem abortRings_kept {s0 s : State} {but : Option (Nat × W32)} (hk : Kept s0 s) : Kept s0 (abortRings s but) := by
  unfold abortRings
  repeat' first | (with_reducible first | assumption | apply reply_kept | apply fold_kept) | split | intro _
theorem endClaims_kept {s0 s : State} (hk : Kept s0 s) : Kept s0 (endClaims s) := by
  unfold endClaims
  repeat' first | (with_reducible first | assumption | apply closeClaim_kept | apply fold_kept)
theorem warmKeep_kept {s0 s : State} (hk : Kept s0 s) : Kept s0 (warmKeep s) := by
  apply mk_kept hk <;> intro h <;> first
    | exact t1_wf h
    | exact t2_wf h
    | exact host_wf h
    | exact wf_fold (fun t e ht => wf_put ht) wf_new
    | exact fun _ => rfl
theorem warmReset_kept {s0 s : State} (hk : Kept s0 s) : Kept s0 (warmReset s) := by
  unfold warmReset
  dsimp only
  repeat' first
    | (with_reducible first
        | assumption | apply abortRings_kept | apply endClaims_kept | apply warmKeep_kept | apply faces_wf | apply rings_wf
        | apply t1_wf | apply t2_wf | apply host_wf | apply streams_wf | apply tallies_wf | apply outqs_wf | apply fns_wf
        | apply msix_wf | apply shafts_wf | apply routes_wf | apply rxctx_wf | apply fabric_wf | apply wf_fold | apply wf_put
        | apply wf_new)
    | split | intro _ | with_reducible apply mk_kept
theorem fundamental_kept {s0 s : State} (hk : Kept s0 s) : Kept s0 (fundamental s) := by
  apply mk_kept hk <;> intro h <;> first
    | exact host_wf h
    | exact fun _ => rfl
theorem resetFn_kept {s0 s : State} {n : Nat} (hk : Kept s0 s) : Kept s0 (resetFn s n) := by
  unfold resetFn
  dsimp only
  repeat' first
    | (with_reducible first
        | assumption | apply setFn_kept | apply faces_wf | apply claims_wf | apply rings_wf | apply t1_wf | apply t2_wf
        | apply host_wf | apply streams_wf | apply tallies_wf | apply outqs_wf | apply fns_wf | apply msix_wf | apply shafts_wf
        | apply routes_wf | apply rxctx_wf | apply fabric_wf | apply wf_fold | apply wf_put | apply wf_keep)
    | split | intro _ | with_reducible apply mk_kept
theorem flrStep_kept {s0 s : State} {n : Nat} (hk : Kept s0 s) : Kept s0 (flrStep s n) := by
  unfold flrStep
  repeat' first | (with_reducible first | assumption | apply coolCap_kept | apply resetFn_kept | apply fold_kept) | split
theorem hotStep_kept {s0 s : State} (hk : Kept s0 s) : Kept s0 (hotStep s) := by
  unfold hotStep
  dsimp only
  repeat' first
    | (with_reducible first
        | assumption | apply coolCap_kept | apply resetFn_kept | apply fold_kept | apply faces_wf | apply claims_wf
        | apply rings_wf | apply t1_wf | apply t2_wf | apply host_wf | apply streams_wf | apply tallies_wf | apply outqs_wf
        | apply fns_wf | apply msix_wf | apply shafts_wf | apply routes_wf | apply rxctx_wf | apply fabric_wf)
    | split | with_reducible apply mk_kept

/-! ### Boot.lean -/

theorem bootEnd_kept {s0 s : State} {inp : BootInputs} (hk : Kept s0 s) : Kept s0 (bootEnd s inp) := by
  unfold bootEnd
  dsimp only
  repeat' first
    | (with_reducible first
        | assumption | apply faces_wf | apply claims_wf | apply rings_wf | apply t1_wf | apply t2_wf | apply host_wf
        | apply streams_wf | apply tallies_wf | apply outqs_wf | apply fns_wf | apply msix_wf | apply shafts_wf
        | apply routes_wf | apply rxctx_wf | apply fabric_wf)
    | split | with_reducible apply mk_kept
theorem readyStep_kept {s0 s : State} {inp : BootInputs} (hk : Kept s0 s) : Kept s0 (readyStep s inp) := by
  unfold readyStep
  repeat' first | (with_reducible first | assumption | apply bootEnd_kept) | split
theorem aditStep_kept {s0 s : State} (hk : Kept s0 s) : Kept s0 (aditStep s) := by
  unfold aditStep
  dsimp only
  repeat' first
    | (with_reducible first
        | assumption | apply faces_wf | apply claims_wf | apply rings_wf | apply t1_wf | apply t2_wf | apply host_wf
        | apply streams_wf | apply tallies_wf | apply outqs_wf | apply fns_wf | apply msix_wf | apply shafts_wf
        | apply routes_wf | apply rxctx_wf | apply fabric_wf)
    | split | with_reducible apply mk_kept
theorem initStack_kept {s0 s : State} {n : Nat} (hk : Kept s0 s) : Kept s0 (initStack s n) := by
  unfold initStack
  dsimp only
  repeat' first
    | (with_reducible first
        | assumption | apply faces_wf | apply claims_wf | apply rings_wf | apply t1_wf | apply t2_wf | apply host_wf
        | apply streams_wf | apply tallies_wf | apply outqs_wf | apply fns_wf | apply msix_wf | apply shafts_wf
        | apply routes_wf | apply rxctx_wf | apply fabric_wf | apply wf_keep)
    | split | intro _ | with_reducible apply mk_kept
theorem initT2_kept {s0 s : State} (hk : Kept s0 s) : Kept s0 (initT2 s) := by
  unfold initT2
  dsimp only
  repeat' first
    | (with_reducible first
        | assumption | apply faces_wf | apply claims_wf | apply rings_wf | apply t1_wf | apply t2_wf | apply host_wf
        | apply streams_wf | apply tallies_wf | apply outqs_wf | apply fns_wf | apply msix_wf | apply shafts_wf
        | apply routes_wf | apply rxctx_wf | apply fabric_wf | apply wf_keep)
    | split | intro _ | with_reducible apply mk_kept
theorem memInitStep_kept {s0 s : State} {u : MemUnit} (hk : Kept s0 s) : Kept s0 (memInitStep s u) := by
  unfold memInitStep
  repeat' first
    | (with_reducible first
        | assumption | apply createWaiting_kept | apply initStack_kept | apply initT2_kept)
    | split
theorem fwStageStep_kept {s0 s : State} {r : Nat} (hk : Kept s0 s) : Kept s0 (fwStageStep s r) := by
  unfold fwStageStep
  dsimp only
  repeat' first
    | (with_reducible first
        | assumption | apply lervo_kept | apply ans_wait | apply faces_wf | apply claims_wf | apply rings_wf | apply t1_wf
        | apply t2_wf | apply host_wf | apply streams_wf | apply tallies_wf | apply outqs_wf | apply fns_wf | apply msix_wf
        | apply shafts_wf | apply routes_wf | apply rxctx_wf | apply fabric_wf)
    | split | intro _ | with_reducible apply mk_kept
theorem endStaging_kept {s0 s : State} {status : Nat} {o : Option FwImage} (hk : Kept s0 s) : Kept s0 (endStaging s status o) :=
    by
  unfold endStaging
  dsimp only
  repeat' first
    | (with_reducible first
        | assumption | apply reply_kept | apply faces_wf | apply claims_wf | apply rings_wf | apply t1_wf | apply t2_wf
        | apply host_wf | apply streams_wf | apply tallies_wf | apply outqs_wf | apply fns_wf | apply msix_wf | apply shafts_wf
        | apply routes_wf | apply rxctx_wf | apply fabric_wf)
    | split | with_reducible apply mk_kept
theorem stageDoneStep_kept {s0 s : State} {r : Nat} (hk : Kept s0 s) : Kept s0 (stageDoneStep s r) := by
  unfold stageDoneStep
  dsimp only
  repeat' first | (with_reducible first | assumption | apply endStaging_kept | apply logHost_kept) | split
theorem fwActivateStep_kept {s0 s : State} {r : Nat} (hk : Kept s0 s) : Kept s0 (fwActivateStep s r) := by
  unfold fwActivateStep
  dsimp only
  repeat' first
    | (with_reducible first
        | assumption | apply lervo_kept | apply refuse_kept | apply okay_kept | apply warmReset_kept | apply faces_wf
        | apply claims_wf | apply rings_wf | apply t1_wf | apply t2_wf | apply host_wf | apply streams_wf | apply tallies_wf
        | apply outqs_wf | apply fns_wf | apply msix_wf | apply shafts_wf | apply routes_wf | apply rxctx_wf | apply fabric_wf)
    | split | intro _ | with_reducible apply mk_kept
theorem fwQueryStep_kept {s0 s : State} {r : Nat} (hk : Kept s0 s) : Kept s0 (fwQueryStep s r) := by
  unfold fwQueryStep
  repeat' first | (with_reducible first | assumption | apply lervo_kept | apply ans_done) | intro _
theorem sumpReadStep_kept {s0 s : State} {r : Nat} (hk : Kept s0 s) : Kept s0 (sumpReadStep s r) := by
  unfold sumpReadStep
  dsimp only
  repeat' first
    | (with_reducible first
        | assumption | apply lervo_kept | apply refuse_kept | apply putHost_kept | apply ans_done)
    | split | intro _

/-! ### Errors.lean -/

theorem watchdogStep_kept {s0 s : State} {core pc : Nat} (hk : Kept s0 s) : Kept s0 (watchdogStep s core pc) := by
  unfold watchdogStep
  repeat' first | (with_reducible first | assumption | apply deviceFatal_kept) | split
theorem fabricStep_kept {s0 s : State} {b : Nat} {again : Bool} (hk : Kept s0 s) : Kept s0 (fabricStep s b again) := by
  unfold fabricStep
  dsimp only
  repeat' first
    | (with_reducible first
        | assumption | apply deviceFatal_kept | apply postSump_kept | apply faces_wf | apply claims_wf | apply rings_wf
        | apply t1_wf | apply t2_wf | apply host_wf | apply streams_wf | apply tallies_wf | apply outqs_wf | apply fns_wf
        | apply msix_wf | apply shafts_wf | apply routes_wf | apply rxctx_wf | apply fabric_wf | apply wf_put)
    | split | intro _ | with_reducible apply mk_kept
theorem fenceT2Step_kept {s0 s : State} {n : Nat} (hk : Kept s0 s) : Kept s0 (fenceT2Step s n) := by
  unfold fenceT2Step
  dsimp only
  repeat' first
    | (with_reducible first
        | assumption | apply freeValue_kept | apply claimFatal_kept | apply fold_kept | apply faces_wf | apply claims_wf
        | apply rings_wf | apply t1_wf | apply t2_wf | apply host_wf | apply streams_wf | apply tallies_wf | apply outqs_wf
        | apply fns_wf | apply msix_wf | apply shafts_wf | apply routes_wf | apply rxctx_wf | apply fabric_wf)
    | split | intro _ | with_reducible apply mk_kept

end Sys2Proof.Machine
end

