-- ==== Sys2Proof/Laws/KeptPages.lean ====
section
/-!
SUPPORT. Sweeps, hoists, versions, and the host's registers: no operation takes or adds a command, or leaves a table out of canonical form (Kept.lean).
-/
namespace Sys2Proof.Machine
open Sys2Proof

/-! ### Learning.lean -/

theorem setSweep_kept {s0 s : State} {c : Nat} {g : Sweep → Sweep} (hk : Kept s0 s) : Kept s0 (setSweep s c g) := by
  unfold setSweep
  dsimp only
  repeat' first | (with_reducible first | assumption | apply setClaim_kept)
theorem readHyper_kept {s0 s : State} {c : Nat} (hk : Kept s0 s) : Kept s0 (readHyper s c) := by
  unfold readHyper
  dsimp only
  repeat' first
    | (with_reducible first
        | assumption | apply setSweep_kept | apply noteRead_kept | apply stallAll_kept | apply fold_kept)
    | split | intro _
theorem zeroTable_kept {s0 s : State} {c va : Nat} (hk : Kept s0 s) : Kept s0 (zeroTable s c va) := by
  unfold zeroTable
  repeat' first | (with_reducible first | assumption | apply storeLater_kept)
theorem canaryBegin_kept {s0 s : State} {c : Nat} (hk : Kept s0 s) : Kept s0 (canaryBegin s c) := by
  unfold canaryBegin
  dsimp only
  repeat' first | (with_reducible first | assumption | apply setClaim_kept | apply zeroTable_kept) | split
theorem sweepStartStep_kept {s0 s : State} {c : Nat} (hk : Kept s0 s) : Kept s0 (sweepStartStep s c) := by
  unfold sweepStartStep
  repeat' first
    | (with_reducible first
        | assumption | apply readHyper_kept | apply setSweep_kept | apply canaryBegin_kept)
    | split
theorem nearWait_kept {s0 s : State} {c i q p : Nat} (hk : Kept s0 s) : Kept s0 (nearWait s c i q p) := by
  unfold nearWait
  dsimp only
  repeat' first | (with_reducible first | assumption | apply setSweep_kept | apply waitFor_kept) | split
theorem endBlock_kept {s0 s : State} {c i status seg : Nat} (hk : Kept s0 s) : Kept s0 (endBlock s c i status seg) := by
  unfold endBlock
  dsimp only
  repeat' first
    | (with_reducible first
        | assumption | apply setSweep_kept | apply putLater_kept | apply releaseNear_kept | apply fold_kept | apply faces_wf
        | apply claims_wf | apply rings_wf | apply t1_wf | apply t2_wf | apply host_wf | apply streams_wf | apply tallies_wf
        | apply outqs_wf | apply fns_wf | apply msix_wf | apply shafts_wf | apply routes_wf | apply rxctx_wf | apply fabric_wf)
    | split | intro _ | with_reducible apply mk_kept
theorem updateBlock_kept {s0 s : State} {c i : Nat} {b : Blk} {h : List W64} (hk : Kept s0 s) : Kept s0 (updateBlock s c i b h)
    := by
  unfold updateBlock
  dsimp only
  repeat' first
    | (with_reducible first
        | assumption | apply noteVa_kept | apply vaPutAtoms_kept | apply countsAdd_kept | apply setSweep_kept
        | apply endBlock_kept | apply fold_kept)
    | split | intro _
theorem blockStep_kept {s0 s : State} {c i : Nat} (hk : Kept s0 s) : Kept s0 (blockStep s c i) := by
  unfold blockStep
  dsimp only
  repeat' first
    | (with_reducible first
        | assumption | apply ownerFault_kept | apply updateBlock_kept | apply nearWait_kept | apply endBlock_kept
        | apply fold_kept)
    | split | intro _
theorem advanceScales_kept {s0 s : State} {c : Nat} (hk : Kept s0 s) : Kept s0 (advanceScales s c) := by
  unfold advanceScales
  dsimp only
  repeat' first
    | (with_reducible first
        | assumption | apply noteVa_kept | apply vaPut_kept | apply blocked_kept | apply setClaim_kept | apply fold_kept)
    | split | intro _
theorem sweepFinish_kept {s0 s : State} {c : Nat} {w : Sweep} (hk : Kept s0 s) : Kept s0 (sweepFinish s c w) := by
  unfold sweepFinish
  dsimp only
  repeat' first
    | (with_reducible first
        | assumption | apply postQueue_kept | apply setClaim_kept | apply postEvent_kept | apply advanceScales_kept
        | apply reply_kept | apply fold_kept)
    | intro _
theorem sweepEndStep_kept {s0 s : State} {c : Nat} (hk : Kept s0 s) : Kept s0 (sweepEndStep s c) := by
  unfold sweepEndStep
  repeat' first | (with_reducible first | assumption | apply sweepFinish_kept | apply stallAll_kept) | split

/-! ### Hoists.lean -/

theorem fetchOne_kept {s0 s : State} {r : Nat} {q : W32} {p : Nat} {good : Bool} (hk : Kept s0 s) : Kept s0
    (fetchOne s r q p good) := by
  unfold fetchOne
  dsimp only
  repeat' first
    | (with_reducible first
        | assumption | apply reply_kept | apply faces_wf | apply claims_wf | apply rings_wf | apply t1_wf | apply t2_wf
        | apply host_wf | apply streams_wf | apply tallies_wf | apply outqs_wf | apply fns_wf | apply msix_wf | apply shafts_wf
        | apply routes_wf | apply rxctx_wf | apply fabric_wf)
    | split | with_reducible apply mk_kept
theorem retryRx_kept {s0 s : State} {c id : Nat} (hk : Kept s0 s) : Kept s0 (retryRx s c id) := by
  unfold retryRx
  repeat' first | (with_reducible first | assumption | apply finishRx_kept | apply fold_kept) | intro _
theorem resume_kept {s0 s : State} {w : Wait} (hk : Kept s0 s) : Kept s0 (resume s w) := by
  unfold resume
  repeat' first
    | (with_reducible first
        | assumption | apply fetchOne_kept | apply goOn_kept | apply retryRx_kept | apply prepareBatch_kept
        | apply readHyper_kept | apply putLater_kept | apply putEnded_kept | apply storePage_kept | apply countsAdd_kept
        | apply assayTry_kept | apply ledgerTry_kept)
    | split
theorem hyperFail_kept {s0 s : State} {c p status : Nat} {all : Bool} (hk : Kept s0 s) : Kept s0 (hyperFail s c p status all) :=
    by
  unfold hyperFail
  dsimp only
  repeat' first | (with_reducible first | assumption | apply setSweep_kept | apply fold_kept) | split | intro _
theorem parkFail_kept {s0 s : State} {n status : Nat} (hk : Kept s0 s) : Kept s0 (parkFail s n status) := by
  unfold parkFail
  repeat' first | (with_reducible first | assumption | apply reply_kept | apply endStream_kept) | split
theorem recordFail_kept {s0 s : State} {c a : Nat} {ws : List W64} {ev : List (Nat × List Nat)} {status : Nat} (hk : Kept s0 s)
    : Kept s0 (recordFail s c a ws ev status) := by
  unfold recordFail
  dsimp only
  repeat' first
    | (with_reducible first
        | assumption | apply postEvent_kept | apply setSweep_kept | apply closeRequest_kept | apply modReq_kept
        | apply fold_kept)
    | split | intro _
theorem loadFail_kept {s0 s : State} {c ring : Nat} {seq : W32} {status : Nat} (hk : Kept s0 s) : Kept s0
    (loadFail s c ring seq status) := by
  unfold loadFail
  dsimp only
  repeat' first | (with_reducible first | assumption | apply reply_kept | apply setClaim_kept) | split
theorem failTransfer_kept {s0 s : State} {c id page status : Nat} (hk : Kept s0 s) : Kept s0 (failTransfer s c id page status)
    := by
  unfold failTransfer
  repeat' first | (with_reducible first | assumption | apply pumpDescs_kept | apply failColl_kept | apply refuseOn_kept)
theorem turnDropped_kept {s0 s : State} {c id status : Nat} (hk : Kept s0 s) : Kept s0 (turnDropped s c id status) := by
  unfold turnDropped
  dsimp only
  repeat' first | (with_reducible first | assumption | apply setClaim_kept) | split
theorem failWait_kept {s0 s : State} {w : Wait} {status : Nat} (hk : Kept s0 s) : Kept s0 (failWait s w status) := by
  unfold failWait
  dsimp only
  repeat' first
    | (with_reducible first
        | assumption | apply failRequest_kept | apply endBlock_kept | apply fetchOne_kept | apply stagedStep_kept
        | apply failTransfer_kept | apply modBatch_kept | apply failBatch_kept | apply parkFail_kept | apply hyperFail_kept
        | apply endStream_kept | apply setClaim_kept | apply recordFail_kept | apply postEvent_kept | apply dropColl_kept
        | apply turnDropped_kept | apply failAssay_kept | apply endLedger_kept | apply loadFail_kept | apply fold_kept)
    | split | intro _
theorem releasePage_kept {s0 s : State} {c p init status : Nat} (hk : Kept s0 s) : Kept s0 (releasePage s c p init status) := by
  unfold releasePage
  dsimp only
  repeat' first
    | (with_reducible first
        | assumption | apply failWait_kept | apply resume_kept | apply fold_kept | apply faces_wf | apply claims_wf
        | apply rings_wf | apply t1_wf | apply t2_wf | apply host_wf | apply streams_wf | apply tallies_wf | apply outqs_wf
        | apply fns_wf | apply msix_wf | apply shafts_wf | apply routes_wf | apply rxctx_wf | apply fabric_wf)
    | split | intro _ | with_reducible apply mk_kept
theorem deadlineStep_kept {s0 s : State} {id : Nat} (hk : Kept s0 s) : Kept s0 (deadlineStep s id) := by
  unfold deadlineStep
  dsimp only
  repeat' first
    | (with_reducible first
        | assumption | apply advanceTo_kept | apply failWait_kept | apply faces_wf | apply claims_wf | apply rings_wf
        | apply t1_wf | apply t2_wf | apply host_wf | apply streams_wf | apply tallies_wf | apply outqs_wf | apply fns_wf
        | apply msix_wf | apply shafts_wf | apply routes_wf | apply rxctx_wf | apply fabric_wf)
    | split | with_reducible apply mk_kept
theorem unmapPage_kept {s0 s : State} {c p : Nat} (hk : Kept s0 s) : Kept s0 (unmapPage s c p) := by
  unfold unmapPage
  dsimp only
  repeat' first | (with_reducible first | assumption | apply setClaim_kept | apply giveFrame_kept) | split
theorem objGone_kept {s0 s : State} {c o : Nat} (hk : Kept s0 s) : Kept s0 (objGone s c o) := by
  unfold objGone
  dsimp only
  repeat' first | (with_reducible first | assumption | apply reply_kept | apply setClaim_kept) | split
theorem destroyStep_kept {s0 s : State} {c o : Nat} (hk : Kept s0 s) : Kept s0 (destroyStep s c o) := by
  unfold destroyStep
  dsimp only
  repeat' first
    | (with_reducible first
        | assumption | apply unmapPage_kept | apply objGone_kept | apply fold_kept | apply faces_wf | apply claims_wf
        | apply rings_wf | apply t1_wf | apply t2_wf | apply host_wf | apply streams_wf | apply tallies_wf | apply outqs_wf
        | apply fns_wf | apply msix_wf | apply shafts_wf | apply routes_wf | apply rxctx_wf | apply fabric_wf)
    | split | intro _ | with_reducible apply mk_kept
theorem evictStep_kept {s0 s : State} {c p : Nat} (hk : Kept s0 s) : Kept s0 (evictStep s c p) := by
  unfold evictStep
  dsimp only
  repeat' first
    | (with_reducible first
        | assumption | apply startBack_kept | apply reply_kept | apply dropPage_kept | apply faces_wf | apply claims_wf
        | apply rings_wf | apply t1_wf | apply t2_wf | apply host_wf | apply streams_wf | apply tallies_wf | apply outqs_wf
        | apply fns_wf | apply msix_wf | apply shafts_wf | apply routes_wf | apply rxctx_wf | apply fabric_wf)
    | split | with_reducible apply mk_kept
theorem putT1Run_kept {s0 s : State} {i : Nat} {ws : List PWord} (hk : Kept s0 s) : Kept s0 (putT1Run s i ws) := by
  unfold putT1Run
  repeat' first
    | (with_reducible first
        | assumption | apply faces_wf | apply claims_wf | apply rings_wf | apply t1_wf | apply t2_wf | apply host_wf
        | apply streams_wf | apply tallies_wf | apply outqs_wf | apply fns_wf | apply msix_wf | apply shafts_wf
        | apply routes_wf | apply rxctx_wf | apply fabric_wf | apply wf_run)
    | intro _ | with_reducible apply mk_kept
theorem noteChunk_kept {s0 s : State} {k : Claim} {e : Pte} {n : Nat} (hk : Kept s0 s) : Kept s0 (noteChunk s k e n) := by
  unfold noteChunk
  repeat' first | (with_reducible first | assumption | apply noteRun_kept)
theorem landChunk_kept {s0 s : State} {h : Hoist} {e : Pte} {n : Nat} {head : Bool} (hk : Kept s0 s) : Kept s0
    (landChunk s h e n head).1 := by
  unfold landChunk
  dsimp only
  repeat' first
    | (with_reducible first
        | assumption | apply noteChunk_kept | apply putT1Run_kept | apply postSump_kept | apply poisonLeaf_kept
        | apply startRepair_kept)
    | split
theorem finishHoist_kept {s0 s : State} {h : Hoist} {status : Nat} (hk : Kept s0 s) : Kept s0 (finishHoist s h status) := by
  unfold finishHoist
  dsimp only
  repeat' first
    | (with_reducible first
        | assumption | apply objGone_kept | apply releasePage_kept | apply unmapPage_kept | apply setClaim_kept
        | apply assignHoists_kept | apply dropPage_kept | apply faces_wf | apply claims_wf | apply rings_wf | apply t1_wf
        | apply t2_wf | apply host_wf | apply streams_wf | apply tallies_wf | apply outqs_wf | apply fns_wf | apply msix_wf
        | apply shafts_wf | apply routes_wf | apply rxctx_wf | apply fabric_wf)
    | split | with_reducible apply mk_kept
theorem hoistFault_kept {s0 s : State} {h : Hoist} (hk : Kept s0 s) : Kept s0 (hoistFault s h) := by
  unfold hoistFault
  repeat' first
    | (with_reducible first
        | assumption | apply ownerFault_kept | apply faces_wf | apply claims_wf | apply rings_wf | apply t1_wf | apply t2_wf
        | apply host_wf | apply streams_wf | apply tallies_wf | apply outqs_wf | apply fns_wf | apply msix_wf | apply shafts_wf
        | apply routes_wf | apply rxctx_wf | apply fabric_wf)
    | with_reducible apply mk_kept
theorem noteHeads_kept {s0 s : State} {e : Pte} (hk : Kept s0 s) : Kept s0 (noteHeads s e) := by
  unfold noteHeads
  repeat' first | (with_reducible first | assumption | apply noteRun_kept | apply fold_kept) | intro _
theorem hoistStep_kept {s0 s : State} {c p : Nat} (hk : Kept s0 s) : Kept s0 (hoistStep s c p) := by
  unfold hoistStep
  dsimp only
  repeat' first
    | (with_reducible first
        | assumption | apply hoistFault_kept | apply landChunk_kept | apply noteHeads_kept | apply finishHoist_kept
        | apply fold_kept1 | apply faces_wf | apply claims_wf | apply rings_wf | apply t1_wf | apply t2_wf | apply host_wf
        | apply streams_wf | apply tallies_wf | apply outqs_wf | apply fns_wf | apply msix_wf | apply shafts_wf
        | apply routes_wf | apply rxctx_wf | apply fabric_wf)
    | split | intro _ | with_reducible apply mk_kept
theorem storeChunk_kept {s0 s : State} {c p n : Nat} (hk : Kept s0 s) : Kept s0 (storeChunk s c p n) := by
  unfold storeChunk
  dsimp only
  repeat' first
    | (with_reducible first
        | assumption | apply noteRun_kept | apply setClaim_kept | apply faces_wf | apply claims_wf | apply rings_wf
        | apply t1_wf | apply t2_wf | apply host_wf | apply streams_wf | apply tallies_wf | apply outqs_wf | apply fns_wf
        | apply msix_wf | apply shafts_wf | apply routes_wf | apply rxctx_wf | apply fabric_wf | apply wf_run)
    | split | intro _ | with_reducible apply mk_kept
theorem backStep_kept {s0 s : State} {c p : Nat} (hk : Kept s0 s) : Kept s0 (backStep s c p) := by
  unfold backStep
  dsimp only
  repeat' first
    | (with_reducible first
        | assumption | apply hoistFault_kept | apply storeChunk_kept | apply objGone_kept | apply releasePage_kept
        | apply unmapPage_kept | apply toT2_kept | apply replyTo_kept | apply startHoist_kept | apply releaseNear_kept
        | apply fold_kept | apply faces_wf | apply claims_wf | apply rings_wf | apply t1_wf | apply t2_wf | apply host_wf
        | apply streams_wf | apply tallies_wf | apply outqs_wf | apply fns_wf | apply msix_wf | apply shafts_wf
        | apply routes_wf | apply rxctx_wf | apply fabric_wf)
    | split | intro _ | with_reducible apply mk_kept
theorem mendLeaf_kept {s0 s : State} {c o leaf p : Nat} {ws : List PWord} (hk : Kept s0 s) : Kept s0 (mendLeaf s c o leaf p ws)
    := by
  unfold mendLeaf
  dsimp only
  repeat' first
    | (with_reducible first
        | assumption | apply putT1Run_kept | apply setClaim_kept | apply postEvent_kept | apply faces_wf | apply claims_wf
        | apply rings_wf | apply t1_wf | apply t2_wf | apply host_wf | apply streams_wf | apply tallies_wf | apply outqs_wf
        | apply fns_wf | apply msix_wf | apply shafts_wf | apply routes_wf | apply rxctx_wf | apply fabric_wf)
    | split | with_reducible apply mk_kept
theorem markLeaf_kept {s0 s : State} {c o leaf : Nat} (hk : Kept s0 s) : Kept s0 (markLeaf s c o leaf) := by
  unfold markLeaf
  dsimp only
  repeat' first | (with_reducible first | assumption | apply postEvent_kept | apply setClaim_kept)
theorem mirrorWait_kept {s0 s : State} {c o leaf p : Nat} {mirror : PeerAnswer} (hk : Kept s0 s) : Kept s0
    (mirrorWait s c o leaf p mirror) := by
  unfold mirrorWait
  repeat' first | (with_reducible first | assumption | apply advanceTo_kept) | split
theorem endRepair_kept {s0 s : State} {c o leaf : Nat} (hk : Kept s0 s) : Kept s0 (endRepair s c o leaf) := by
  unfold endRepair
  dsimp only
  repeat' first | (with_reducible first | assumption | apply setClaim_kept)
theorem repairStep_kept {s0 s : State} {c o leaf : Nat} {mirror : PeerAnswer} (hk : Kept s0 s) : Kept s0
    (repairStep s c o leaf mirror) := by
  unfold repairStep
  dsimp only
  repeat' first
    | (with_reducible first
        | assumption | apply ownerFault_kept | apply mirrorWait_kept | apply noteChunk_kept | apply mendLeaf_kept
        | apply markLeaf_kept | apply endRepair_kept | apply finishHoist_kept | apply releasePage_kept)
    | split
theorem endPass_kept {s0 s : State} {t : Nat} (hk : Kept s0 s) : Kept s0 (endPass s t) := by
  unfold endPass
  dsimp only
  repeat' first
    | (with_reducible first
        | assumption | apply faces_wf | apply claims_wf | apply rings_wf | apply t1_wf | apply t2_wf | apply host_wf
        | apply streams_wf | apply tallies_wf | apply outqs_wf | apply fns_wf | apply msix_wf | apply shafts_wf
        | apply routes_wf | apply rxctx_wf | apply fabric_wf)
    | with_reducible apply mk_kept
theorem scrubStep_kept {s0 s : State} {t : Tier} {f addr : Nat} (hk : Kept s0 s) : Kept s0 (scrubStep s t f addr) := by
  unfold scrubStep
  dsimp only
  repeat' first
    | (with_reducible first
        | assumption | apply noteRun_kept | apply endPass_kept | apply faces_wf | apply claims_wf | apply rings_wf | apply t1_wf
        | apply t2_wf | apply host_wf | apply streams_wf | apply tallies_wf | apply outqs_wf | apply fns_wf | apply msix_wf
        | apply shafts_wf | apply routes_wf | apply rxctx_wf | apply fabric_wf)
    | split | dsimp only | with_reducible apply mk_kept

/-! ### Versions.lean -/

theorem readyEvent_kept {s0 s : State} {c slot vid : Nat} (hk : Kept s0 s) : Kept s0 (readyEvent s c slot vid) := by
  unfold readyEvent
  repeat' first | (with_reducible first | assumption | apply postEvent_kept)
theorem settleSlots_kept {s0 s : State} {c : Nat} (hk : Kept s0 s) : Kept s0 (settleSlots s c) := by
  unfold settleSlots
  dsimp only
  repeat' first
    | (with_reducible first
        | assumption | apply readyEvent_kept | apply setClaim_kept | apply fold_kept)
    | split | intro _
theorem markLoaded_kept {s0 s : State} {c : Nat} {e : VEntry} (hk : Kept s0 s) : Kept s0 (markLoaded s c e) := by
  unfold markLoaded
  dsimp only
  repeat' first | (with_reducible first | assumption | apply settleSlots_kept | apply setClaim_kept)
theorem unmark_kept {s0 s : State} {c o : Nat} (hk : Kept s0 s) : Kept s0 (unmark s c o) := by
  unfold unmark
  dsimp only
  repeat' first | (with_reducible first | assumption | apply setClaim_kept)
theorem putShard_kept {s0 s : State} {c va n : Nat} {ws : List PWord} (hk : Kept s0 s) : Kept s0 (putShard s c va n ws) := by
  unfold putShard
  dsimp only
  repeat' first | (with_reducible first | assumption | apply vaPut_kept | apply vaStore_kept) | split
theorem putMarked_kept {s0 s : State} {c o n : Nat} {ws : List PWord} (hk : Kept s0 s) : Kept s0 (putMarked s c o n ws) := by
  unfold putMarked
  repeat' first | (with_reducible first | assumption | apply putShard_kept | apply fold_kept) | split | intro _
theorem loadGood_kept {s0 s : State} {c : Nat} {l : Load} {e : VEntry} (hk : Kept s0 s) : Kept s0 (loadGood s c l e) := by
  unfold loadGood
  dsimp only
  repeat' first
    | (with_reducible first
        | assumption | apply setClaim_kept | apply reply_kept | apply unmark_kept | apply markLoaded_kept)
    | split
theorem loadBad_kept {s0 s : State} {c : Nat} {l : Load} {va n : Nat} {ws : Option (List PWord)} {status : Nat} (hk : Kept s0 s)
    : Kept s0 (loadBad s c l va n ws status) := by
  unfold loadBad
  dsimp only
  repeat' first
    | (with_reducible first
        | assumption | apply vaPut_kept | apply freeSpan_kept | apply loadFail_kept | apply fold_kept)
    | split | intro _
theorem loadStep_kept {s0 s : State} {c slot entry : Nat} {peer : PeerAnswer} (hk : Kept s0 s) : Kept s0
    (loadStep s c slot entry peer) := by
  unfold loadStep
  dsimp only
  repeat' first
    | (with_reducible first
        | assumption | apply failOwned_kept | apply loadFail_kept | apply stallAll_kept | apply loadBad_kept
        | apply advanceTo_kept | apply noteVa_kept | apply putMarked_kept | apply putShard_kept | apply loadGood_kept)
    | split
theorem auditStep_kept {s0 s : State} {c : Nat} (hk : Kept s0 s) : Kept s0 (auditStep s c) := by
  unfold auditStep
  dsimp only
  repeat' first | (with_reducible first | assumption | apply setClaim_kept) | split
theorem notePage_kept {s0 s : State} {c p : Nat} (hk : Kept s0 s) : Kept s0 (notePage s c p) := by
  unfold notePage
  dsimp only
  repeat' first
    | (with_reducible first
        | assumption | apply noteChunk_kept | apply noteRun_kept | apply fold_kept)
    | split | intro _
theorem auditFail_kept {s0 s : State} {c slot n : Nat} {e : VEntry} {d : BitVec 256} (hk : Kept s0 s) : Kept s0
    (auditFail s c slot n e d) := by
  unfold auditFail
  dsimp only
  repeat' first | (with_reducible first | assumption | apply postEvent_kept | apply setClaim_kept)
theorem auditDoneStep_kept {s0 s : State} {c : Nat} (hk : Kept s0 s) : Kept s0 (auditDoneStep s c) := by
  unfold auditDoneStep
  dsimp only
  repeat' first
    | (with_reducible first
        | assumption | apply setClaim_kept | apply notePage_kept | apply auditFail_kept | apply fold_kept)
    | split | intro _
theorem serveStep_kept {s0 s : State} {n peer : Nat} {tag : W16} {vid entry : Nat} (hk : Kept s0 s) : Kept s0
    (serveStep s n peer tag vid entry) := by
  unfold serveStep
  dsimp only
  repeat' first
    | (with_reducible first
        | assumption | apply stallAll_kept | apply noteVa_kept | apply faces_wf | apply claims_wf | apply rings_wf | apply t1_wf
        | apply t2_wf | apply host_wf | apply streams_wf | apply tallies_wf | apply outqs_wf | apply fns_wf | apply msix_wf
        | apply shafts_wf | apply routes_wf | apply rxctx_wf | apply fabric_wf)
    | split | with_reducible apply mk_kept

/-! ### HostRegs.lean -/

theorem onHost_kept {s0 s : State} {bar2 : Bool} {fn off : Nat} {f : State → State} (hk : Kept s0 s)
    (h_f : ∀ a0, Kept s0 a0 → Kept s0 (f a0)) : Kept s0 (onHost s bar2 fn off f) := by
  unfold onHost
  repeat' first | (with_reducible first | assumption | apply h_f) | split
theorem complete_kept {s0 s : State} {st : CplStatus} {data : List W64} {ep : Bool} (hk : Kept s0 s) : Kept s0
    (complete s st data ep) := by
  unfold complete
  repeat' first
    | (with_reducible first
        | assumption | apply faces_wf | apply claims_wf | apply rings_wf | apply t1_wf | apply t2_wf | apply host_wf
        | apply streams_wf | apply tallies_wf | apply outqs_wf | apply fns_wf | apply msix_wf | apply shafts_wf
        | apply routes_wf | apply rxctx_wf | apply fabric_wf)
    | with_reducible apply mk_kept
theorem modRing_kept {s0 s : State} {r : Nat} {g : Ring → Ring} (hk : Kept s0 s) : Kept s0 (modRing s r g) := by
  unfold modRing
  repeat' first | (with_reducible first | assumption | apply setRing_kept)
theorem ringOnStep_kept {s0 s : State} {fn r w3 : Nat} (hk : Kept s0 s) : Kept s0 (ringOnStep s fn r w3) := by
  unfold ringOnStep
  repeat' first | (with_reducible first | assumption | apply modRing_kept) | split
theorem ringOffStep_kept {s0 s : State} {fn r : Nat} (hk : Kept s0 s) : Kept s0 (ringOffStep s fn r) := by
  unfold ringOffStep
  repeat' first | (with_reducible first | assumption | apply modRing_kept) | split
theorem sqTailStep_kept {s0 s : State} {fn r v : Nat} (hk : Kept s0 s) : Kept s0 (sqTailStep s fn r v) := by
  unfold sqTailStep
  repeat' first | (with_reducible first | assumption | apply modRing_kept) | split
theorem cqHeadStep_kept {s0 s : State} {fn r v : Nat} (hk : Kept s0 s) : Kept s0 (cqHeadStep s fn r v) := by
  unfold cqHeadStep
  repeat' first | (with_reducible first | assumption | apply modRing_kept) | split
theorem outqHeadStep_kept {s0 s : State} {fn q v : Nat} (hk : Kept s0 s) : Kept s0 (outqHeadStep s fn q v) := by
  unfold outqHeadStep
  dsimp only
  repeat' first | (with_reducible first | assumption | apply setOutq_kept) | split
theorem fnClaimStep_kept {s0 s : State} {fn target v : Nat} (hk : Kept s0 s) : Kept s0 (fnClaimStep s fn target v) := by
  unfold fnClaimStep
  dsimp only
  repeat' first | (with_reducible first | assumption | apply setFn_kept) | split
theorem entryStep_kept {s0 s : State} {fn target slot v : Nat} (hk : Kept s0 s) : Kept s0 (entryStep s fn target slot v) := by
  unfold entryStep
  dsimp only
  repeat' first | (with_reducible first | assumption | apply setFn_kept) | split
theorem windowDropStep_kept {s0 s : State} {fn target : Nat} (hk : Kept s0 s) : Kept s0 (windowDropStep s fn target) := by
  unfold windowDropStep
  dsimp only
  repeat' first | (with_reducible first | assumption | apply complete_kept | apply setFn_kept) | split
theorem countDrop_kept {s0 s : State} {fn : Nat} (hk : Kept s0 s) : Kept s0 (countDrop s fn) := by
  unfold countDrop
  dsimp only
  repeat' first | (with_reducible first | assumption | apply setFn_kept)
theorem barForeign_kept {s0 s : State} {fn addr : Nat} (hk : Kept s0 s) : Kept s0 (barForeign s fn addr) := by
  unfold barForeign
  repeat' first | (with_reducible first | assumption | apply countDrop_kept | apply claimFatal_kept) | split
theorem barReadStep_kept {s0 s : State} {fn off n : Nat} (hk : Kept s0 s) : Kept s0 (barReadStep s fn off n) := by
  unfold barReadStep
  dsimp only
  repeat' first
    | (with_reducible first
        | assumption | apply complete_kept | apply countDrop_kept | apply barForeign_kept | apply noteWord_kept
        | apply fold_kept)
    | split | intro _
theorem dirtyFrames_kept {s0 s : State} {c : Nat} {is : List Nat} (hk : Kept s0 s) : Kept s0 (dirtyFrames s c is) := by
  unfold dirtyFrames
  dsimp only
  repeat' first | (with_reducible first | assumption | apply setClaim_kept)
theorem barWriteStep_kept {s0 s : State} {fn off : Nat} {bs : List Byte} {ep : Bool} (hk : Kept s0 s) : Kept s0
    (barWriteStep s fn off bs ep) := by
  unfold barWriteStep
  dsimp only
  repeat' first
    | (with_reducible first
        | assumption | apply countDrop_kept | apply barForeign_kept | apply dirtyFrames_kept | apply putWord_kept
        | apply mergeWord_kept | apply fold_kept)
    | split | intro _
theorem unmask_kept {s0 s : State} {fn vec : Nat} (hk : Kept s0 s) : Kept s0 (unmask s fn vec) := by
  unfold unmask
  dsimp only
  repeat' first
    | (with_reducible first
        | assumption | apply interrupt_kept | apply faces_wf | apply claims_wf | apply rings_wf | apply t1_wf | apply t2_wf
        | apply host_wf | apply streams_wf | apply tallies_wf | apply outqs_wf | apply fns_wf | apply msix_wf | apply shafts_wf
        | apply routes_wf | apply rxctx_wf | apply fabric_wf | apply wf_put)
    | split | intro _ | with_reducible apply mk_kept
theorem unmaskStep_kept {s0 s : State} {fn vec : Nat} (hk : Kept s0 s) : Kept s0 (unmaskStep s fn vec) := by
  unfold unmaskStep
  repeat' first | (with_reducible first | assumption | apply unmask_kept) | split
theorem ringIrqStep_kept {s0 s : State} {r : Nat} (hk : Kept s0 s) : Kept s0 (ringIrqStep s r) := by
  unfold ringIrqStep
  dsimp only
  repeat' first | (with_reducible first | assumption | apply advanceTo_kept | apply interrupt_kept | apply setRing_kept) | split
theorem queueIrqStep_kept {s0 s : State} {q : Nat} (hk : Kept s0 s) : Kept s0 (queueIrqStep s q) := by
  unfold queueIrqStep
  dsimp only
  repeat' first | (with_reducible first | assumption | apply advanceTo_kept | apply interrupt_kept | apply setOutq_kept) | split
theorem coalesceStep_kept {s0 s : State} {src : IrqSource} (hk : Kept s0 s) : Kept s0 (coalesceStep s src) := by
  unfold coalesceStep
  repeat' first | (with_reducible first | assumption | apply ringIrqStep_kept | apply queueIrqStep_kept) | split
theorem commandTimeout_kept {s0 s : State} {r : Nat} {q : W32} (hk : Kept s0 s) : Kept s0 (commandTimeout s r q) := by
  unfold commandTimeout
  dsimp only
  repeat' first
    | (with_reducible first
        | assumption | apply advanceTo_kept | apply endStaging_kept | apply logHost_kept | apply loadBad_kept
        | apply loadFail_kept | apply fold_kept)
    | split | intro _
theorem timeoutStep_kept {s0 s : State} {w : HostReader} (hk : Kept s0 s) : Kept s0 (timeoutStep s w) := by
  unfold timeoutStep
  dsimp only
  repeat' first
    | (with_reducible first
        | assumption | apply logHost_kept | apply modRing_kept | apply setOutq_kept | apply commandTimeout_kept)
    | split
theorem devTimeStep_kept {s0 s : State} {fn : Nat} {h : TimeHalf} (hk : Kept s0 s) : Kept s0 (devTimeStep s fn h) := by
  unfold devTimeStep
  dsimp only
  repeat' first | (with_reducible first | assumption | apply complete_kept | apply setFn_kept) | split
theorem droppedStep_kept {s0 s : State} {fn : Nat} (hk : Kept s0 s) : Kept s0 (droppedStep s fn) := by
  unfold droppedStep
  dsimp only
  repeat' first
    | (with_reducible first
        | assumption | apply complete_kept | apply faces_wf | apply claims_wf | apply rings_wf | apply t1_wf | apply t2_wf
        | apply host_wf | apply streams_wf | apply tallies_wf | apply outqs_wf | apply fns_wf | apply msix_wf | apply shafts_wf
        | apply routes_wf | apply rxctx_wf | apply fabric_wf)
    | split | with_reducible apply mk_kept
theorem ringWrite_kept {s0 s : State} {fn r n off size v : Nat} (hk : Kept s0 s) : Kept s0 (ringWrite s fn r n off size v) := by
  unfold ringWrite
  dsimp only
  repeat' first
    | (with_reducible first
        | assumption | apply ringOnStep_kept | apply ringOffStep_kept | apply modRing_kept | apply setRing_kept)
    | split
theorem msixWrite_kept {s0 s : State} {fn vec off size v : Nat} (hk : Kept s0 s) : Kept s0 (msixWrite s fn vec off size v) := by
  unfold msixWrite
  dsimp only
  repeat' first
    | (with_reducible first
        | assumption | apply unmask_kept | apply faces_wf | apply claims_wf | apply rings_wf | apply t1_wf | apply t2_wf
        | apply host_wf | apply streams_wf | apply tallies_wf | apply outqs_wf | apply fns_wf | apply msix_wf | apply shafts_wf
        | apply routes_wf | apply rxctx_wf | apply fabric_wf | apply wf_put)
    | split | intro _ | with_reducible apply mk_kept
theorem fnBlockWrite_kept {s0 s : State} {fn target off size v : Nat} (hk : Kept s0 s) : Kept s0
    (fnBlockWrite s fn target off size v) := by
  unfold fnBlockWrite
  dsimp only
  repeat' first | (with_reducible first | assumption | apply fnClaimStep_kept | apply entryStep_kept) | split
theorem regWriteStep_kept {s0 s : State} {fn off size v : Nat} (hk : Kept s0 s) : Kept s0 (regWriteStep s fn off size v) := by
  unfold regWriteStep
  dsimp only
  repeat' first
    | (with_reducible first
        | assumption | apply ringWrite_kept | apply sqTailStep_kept | apply cqHeadStep_kept | apply outqHeadStep_kept
        | apply msixWrite_kept | apply fnBlockWrite_kept | apply faces_wf | apply claims_wf | apply rings_wf | apply t1_wf
        | apply t2_wf | apply host_wf | apply streams_wf | apply tallies_wf | apply outqs_wf | apply fns_wf | apply msix_wf
        | apply shafts_wf | apply routes_wf | apply rxctx_wf | apply fabric_wf)
    | split | with_reducible apply mk_kept

end Sys2Proof.Machine
end

