-- ==== Sys2Proof/Laws/KeptCommands.lean ====
section
/-!
SUPPORT. Commands of links and objects, power states, and pins: no operation takes or adds a command, or leaves a table out of canonical form (Kept.lean).
-/
namespace Sys2Proof.Machine
open Sys2Proof

/-! ### LinkCmds.lean -/

theorem addrSetStep_kept {s0 s : State} {r : Nat} (hk : Kept s0 s) : Kept s0 (addrSetStep s r) := by
  unfold addrSetStep
  repeat' first
    | (with_reducible first
        | assumption | apply lervo_kept | apply refuse_kept | apply okay_kept | apply faces_wf | apply claims_wf
        | apply rings_wf | apply t1_wf | apply t2_wf | apply host_wf | apply streams_wf | apply tallies_wf | apply outqs_wf
        | apply fns_wf | apply msix_wf | apply shafts_wf | apply routes_wf | apply rxctx_wf | apply fabric_wf)
    | split | intro _ | with_reducible apply mk_kept
theorem shaftCtlStep_kept {s0 s : State} {r : Nat} (hk : Kept s0 s) : Kept s0 (shaftCtlStep s r) := by
  unfold shaftCtlStep
  repeat' first
    | (with_reducible first
        | assumption | apply lervo_kept | apply okay_kept | apply modShaft_kept | apply shaftOff_kept | apply fold_kept)
    | split | intro _
theorem shaftQueryStep_kept {s0 s : State} {r : Nat} (hk : Kept s0 s) : Kept s0 (shaftQueryStep s r) := by
  unfold shaftQueryStep
  dsimp only
  repeat' first
    | (with_reducible first
        | assumption | apply lervo_kept | apply refuse_kept | apply putHost_kept | apply ans_done)
    | split | intro _
theorem shareSetStep_kept {s0 s : State} {r : Nat} (hk : Kept s0 s) : Kept s0 (shareSetStep s r) := by
  unfold shareSetStep
  dsimp only
  repeat' first
    | (with_reducible first
        | assumption | apply lervo_kept | apply refuse_kept | apply okay_kept | apply setShares_kept)
    | split | intro _
theorem shaftAuthStep_kept {s0 s : State} {r : Nat} (hk : Kept s0 s) : Kept s0 (shaftAuthStep s r) := by
  unfold shaftAuthStep
  dsimp only
  repeat' first
    | (with_reducible first
        | assumption | apply lervo_kept | apply refuse_kept | apply okay_kept | apply startAuth_kept | apply ans_wait)
    | split | intro _
theorem routeSetStep_kept {s0 s : State} {r : Nat} (hk : Kept s0 s) : Kept s0 (routeSetStep s r) := by
  unfold routeSetStep
  dsimp only
  repeat' first
    | (with_reducible first
        | assumption | apply lervo_kept | apply refuse_kept | apply okay_kept | apply faces_wf | apply claims_wf
        | apply rings_wf | apply t1_wf | apply t2_wf | apply host_wf | apply streams_wf | apply tallies_wf | apply outqs_wf
        | apply fns_wf | apply msix_wf | apply shafts_wf | apply routes_wf | apply rxctx_wf | apply fabric_wf | apply wf_put)
    | split | intro _ | with_reducible apply mk_kept
theorem bellJoinStep_kept {s0 s : State} {r : Nat} (hk : Kept s0 s) : Kept s0 (bellJoinStep s r) := by
  unfold bellJoinStep
  repeat' first
    | (with_reducible first
        | assumption | apply lervo_kept | apply refuse_kept | apply modBell_kept | apply ans_wait)
    | split | intro _
theorem bellLeaveStep_kept {s0 s : State} {r : Nat} (hk : Kept s0 s) : Kept s0 (bellLeaveStep s r) := by
  unfold bellLeaveStep
  repeat' first
    | (with_reducible first
        | assumption | apply lervo_kept | apply okay_kept | apply leaveBell_kept | apply modBell_kept)
    | split | intro _
theorem bellClaimStep_kept {s0 s : State} {r : Nat} (hk : Kept s0 s) : Kept s0 (bellClaimStep s r) := by
  unfold bellClaimStep
  dsimp only
  repeat' first
    | (with_reducible first
        | assumption | apply lervo_kept | apply refuse_kept | apply readHost_kept | apply okay_kept | apply setClaim_kept)
    | split | intro _
theorem bellQueryStep_kept {s0 s : State} {r : Nat} (hk : Kept s0 s) : Kept s0 (bellQueryStep s r) := by
  unfold bellQueryStep
  repeat' first | (with_reducible first | assumption | apply lervo_kept | apply putHost_kept | apply ans_done) | intro _

/-! ### ObjCmds.lean -/

theorem objCreateStep_kept {s0 s : State} {r : Nat} (hk : Kept s0 s) : Kept s0 (objCreateStep s r) := by
  unfold objCreateStep
  dsimp only
  repeat' first
    | (with_reducible first
        | assumption | apply lervo_kept | apply refuse_kept | apply readHost_kept | apply okay_kept | apply setClaim_kept)
    | split | intro _
theorem objDestroyStep_kept {s0 s : State} {r : Nat} (hk : Kept s0 s) : Kept s0 (objDestroyStep s r) := by
  unfold objDestroyStep
  dsimp only
  repeat' first
    | (with_reducible first
        | assumption | apply lervo_kept | apply refuse_kept | apply setClaim_kept | apply ans_wait | apply faces_wf
        | apply claims_wf | apply rings_wf | apply t1_wf | apply t2_wf | apply host_wf | apply streams_wf | apply tallies_wf
        | apply outqs_wf | apply fns_wf | apply msix_wf | apply shafts_wf | apply routes_wf | apply rxctx_wf | apply fabric_wf)
    | split | intro _ | with_reducible apply mk_kept
theorem objQueryStep_kept {s0 s : State} {r : Nat} (hk : Kept s0 s) : Kept s0 (objQueryStep s r) := by
  unfold objQueryStep
  dsimp only
  repeat' first | (with_reducible first | assumption | apply lervo_kept | apply ans_done) | intro _
theorem objSetPinStep_kept {s0 s : State} {r : Nat} (hk : Kept s0 s) : Kept s0 (objSetPinStep s r) := by
  unfold objSetPinStep
  dsimp only
  repeat' first
    | (with_reducible first
        | assumption | apply lervo_kept | apply refuse_kept | apply okay_kept | apply setClaim_kept)
    | split | intro _
theorem pageQueryStep_kept {s0 s : State} {r : Nat} (hk : Kept s0 s) : Kept s0 (pageQueryStep s r) := by
  unfold pageQueryStep
  dsimp only
  repeat' first | (with_reducible first | assumption | apply lervo_kept | apply ans_done) | intro _
theorem prefetchStep_kept {s0 s : State} {r : Nat} (hk : Kept s0 s) : Kept s0 (prefetchStep s r) := by
  unfold prefetchStep
  dsimp only
  repeat' first
    | (with_reducible first
        | assumption | apply lervo_kept | apply refuse_kept | apply stallAll_kept | apply ans_done | apply ans_wait
        | apply faces_wf | apply claims_wf | apply rings_wf | apply t1_wf | apply t2_wf | apply host_wf | apply streams_wf
        | apply tallies_wf | apply outqs_wf | apply fns_wf | apply msix_wf | apply shafts_wf | apply routes_wf | apply rxctx_wf
        | apply fabric_wf)
    | split | intro _ | with_reducible apply mk_kept
theorem evictCmdStep_kept {s0 s : State} {r : Nat} (hk : Kept s0 s) : Kept s0 (evictCmdStep s r) := by
  unfold evictCmdStep
  dsimp only
  repeat' first
    | (with_reducible first
        | assumption | apply lervo_kept | apply refuse_kept | apply okay_kept | apply ans_wait | apply faces_wf
        | apply claims_wf | apply rings_wf | apply t1_wf | apply t2_wf | apply host_wf | apply streams_wf | apply tallies_wf
        | apply outqs_wf | apply fns_wf | apply msix_wf | apply shafts_wf | apply routes_wf | apply rxctx_wf | apply fabric_wf)
    | split | intro _ | with_reducible apply mk_kept
theorem addFrames_kept {s0 s : State} {c : Nat} {fs : List Nat} (hk : Kept s0 s) : Kept s0 (addFrames s c fs).1 := by
  unfold addFrames
  repeat' first | (with_reducible first | assumption | apply setClaim_kept | apply fold_kept1) | split | intro _
theorem framesAddStep_kept {s0 s : State} {r : Nat} (hk : Kept s0 s) : Kept s0 (framesAddStep s r) := by
  unfold framesAddStep
  dsimp only
  repeat' first
    | (with_reducible first
        | assumption | apply lervo_kept | apply readHost_kept | apply addFrames_kept | apply assignHoists_kept | apply ans_done)
    | intro _
theorem framesRemoveStep_kept {s0 s : State} {r : Nat} (hk : Kept s0 s) : Kept s0 (framesRemoveStep s r) := by
  unfold framesRemoveStep
  dsimp only
  repeat' first
    | (with_reducible first
        | assumption | apply lervo_kept | apply readHost_kept | apply setClaim_kept | apply ans_done)
    | intro _
theorem deadlineSetStep_kept {s0 s : State} {r : Nat} (hk : Kept s0 s) : Kept s0 (deadlineSetStep s r) := by
  unfold deadlineSetStep
  dsimp only
  repeat' first
    | (with_reducible first
        | assumption | apply lervo_kept | apply refuse_kept | apply okay_kept | apply setClaim_kept)
    | split | intro _
theorem branchLoadStep_kept {s0 s : State} {r : Nat} (hk : Kept s0 s) : Kept s0 (branchLoadStep s r) := by
  unfold branchLoadStep
  dsimp only
  repeat' first
    | (with_reducible first
        | assumption | apply lervo_kept | apply readClaimWords_kept | apply refuse_kept | apply okay_kept | apply setClaim_kept)
    | split | intro _

/-! ### PowerStates.lean -/

theorem beginEntry_kept {s0 s : State} {target : Nat} {cmd : Option (Nat × W32)} {retained : List Byte} (hk : Kept s0 s) : Kept
    s0 (beginEntry s target cmd retained) := by
  unfold beginEntry
  repeat' first
    | (with_reducible first
        | assumption | apply faces_wf | apply claims_wf | apply rings_wf | apply t1_wf | apply t2_wf | apply host_wf
        | apply streams_wf | apply tallies_wf | apply outqs_wf | apply fns_wf | apply msix_wf | apply shafts_wf
        | apply routes_wf | apply rxctx_wf | apply fabric_wf)
    | with_reducible apply mk_kept
theorem powerSetStep_kept {s0 s : State} {r : Nat} (hk : Kept s0 s) : Kept s0 (powerSetStep s r) := by
  unfold powerSetStep
  dsimp only
  repeat' first
    | (with_reducible first
        | assumption | apply lervo_kept | apply refuse_kept | apply readHost_kept | apply beginEntry_kept | apply ans_wait)
    | split | intro _
theorem loseT0_kept {s0 s : State} (hk : Kept s0 s) : Kept s0 (loseT0 s) := by
  unfold loseT0
  dsimp only
  repeat' first
    | (with_reducible first
        | assumption | apply facesWf_put | apply faces_wf | apply claims_wf | apply rings_wf | apply t1_wf | apply t2_wf
        | apply host_wf | apply streams_wf | apply tallies_wf | apply outqs_wf | apply fns_wf | apply msix_wf | apply shafts_wf
        | apply routes_wf | apply rxctx_wf | apply fabric_wf | apply facesWf_fold | apply wf_new)
    | intro _ | with_reducible apply mk_kept
theorem sealDown_kept {s0 s : State} {l : List Byte} {wake : Bool} (hk : Kept s0 s) : Kept s0 (sealDown s l wake) := by
  unfold sealDown
  dsimp only
  repeat' first
    | (with_reducible first
        | assumption | apply warmKeep_kept | apply modWinder_kept | apply faces_wf | apply claims_wf | apply rings_wf
        | apply t1_wf | apply t2_wf | apply host_wf | apply streams_wf | apply tallies_wf | apply outqs_wf | apply fns_wf
        | apply msix_wf | apply shafts_wf | apply routes_wf | apply rxctx_wf | apply fabric_wf | apply wf_keep)
    | intro _ | with_reducible apply mk_kept
theorem heldWakes_kept {s0 s : State} (hk : Kept s0 s) : Kept s0 (heldWakes s) := by
  unfold heldWakes
  repeat' first
    | (with_reducible first
        | assumption | apply faces_wf | apply claims_wf | apply rings_wf | apply t1_wf | apply t2_wf | apply host_wf
        | apply streams_wf | apply tallies_wf | apply outqs_wf | apply fns_wf | apply msix_wf | apply shafts_wf
        | apply routes_wf | apply rxctx_wf | apply fabric_wf)
    | split | with_reducible apply mk_kept
theorem enteredStep_kept {s0 s : State} (hk : Kept s0 s) : Kept s0 (enteredStep s) := by
  unfold enteredStep
  dsimp only
  repeat' first
    | (with_reducible first
        | assumption | apply heldWakes_kept | apply replyTo_kept | apply loseT0_kept | apply sealDown_kept
        | apply abortRings_kept | apply endClaims_kept | apply fundamental_kept | apply saveTrims_kept | apply faces_wf
        | apply claims_wf | apply rings_wf | apply t1_wf | apply t2_wf | apply host_wf | apply streams_wf | apply tallies_wf
        | apply outqs_wf | apply fns_wf | apply msix_wf | apply shafts_wf | apply routes_wf | apply rxctx_wf | apply fabric_wf)
    | split | with_reducible apply mk_kept
theorem exitStep_kept {s0 s : State} {c : WakeCause} (hk : Kept s0 s) : Kept s0 (exitStep s c) := by
  unfold exitStep
  repeat' first
    | (with_reducible first
        | assumption | apply faces_wf | apply claims_wf | apply rings_wf | apply t1_wf | apply t2_wf | apply host_wf
        | apply streams_wf | apply tallies_wf | apply outqs_wf | apply fns_wf | apply msix_wf | apply shafts_wf
        | apply routes_wf | apply rxctx_wf | apply fabric_wf)
    | split | with_reducible apply mk_kept
theorem returnStep_kept {s0 s : State} (hk : Kept s0 s) : Kept s0 (returnStep s) := by
  unfold returnStep
  repeat' first
    | (with_reducible first
        | assumption | apply pumpDescs_kept | apply faces_wf | apply claims_wf | apply rings_wf | apply t1_wf | apply t2_wf
        | apply host_wf | apply streams_wf | apply tallies_wf | apply outqs_wf | apply fns_wf | apply msix_wf | apply shafts_wf
        | apply routes_wf | apply rxctx_wf | apply fabric_wf)
    | with_reducible apply mk_kept
theorem wakeUp_kept {s0 s : State} (hk : Kept s0 s) : Kept s0 (wakeUp s) := by
  unfold wakeUp
  dsimp only
  repeat' first
    | (with_reducible first
        | assumption | apply faces_wf | apply claims_wf | apply rings_wf | apply t1_wf | apply t2_wf | apply host_wf
        | apply streams_wf | apply tallies_wf | apply outqs_wf | apply fns_wf | apply msix_wf | apply shafts_wf
        | apply routes_wf | apply rxctx_wf | apply fabric_wf)
    | split | with_reducible apply mk_kept
theorem inHandOver_kept {s0 s : State} (hk : Kept s0 s) : Kept s0 (inHandOver s).2 := by
  unfold inHandOver
  dsimp only
  repeat' first | (with_reducible first | assumption | apply freeValue_kept) | split
theorem smbusStep_kept {s0 s : State} {addr : Nat} (hk : Kept s0 s) : Kept s0 (smbusStep s addr) := by
  unfold smbusStep
  dsimp only
  repeat' first
    | (with_reducible first
        | assumption | apply inHandOver_kept | apply wakeUp_kept | apply faces_wf | apply claims_wf | apply rings_wf
        | apply t1_wf | apply t2_wf | apply host_wf | apply streams_wf | apply tallies_wf | apply outqs_wf | apply fns_wf
        | apply msix_wf | apply shafts_wf | apply routes_wf | apply rxctx_wf | apply fabric_wf)
    | split | with_reducible apply mk_kept
theorem resumeStep_kept {s0 s : State} {inp : BootInputs} (hk : Kept s0 s) : Kept s0 (resumeStep s inp) := by
  unfold resumeStep
  dsimp only
  repeat' first
    | (with_reducible first
        | assumption | apply bootEnd_kept | apply faces_wf | apply claims_wf | apply rings_wf | apply t1_wf | apply t2_wf
        | apply host_wf | apply streams_wf | apply tallies_wf | apply outqs_wf | apply fns_wf | apply msix_wf | apply shafts_wf
        | apply routes_wf | apply rxctx_wf | apply fabric_wf)
    | split | with_reducible apply mk_kept

/-! ### Pins.lean -/

theorem modPins_kept {s0 s : State} {g : Pins → Pins} (hk : Kept s0 s) : Kept s0 (modPins s g) := by
  unfold modPins
  repeat' first
    | (with_reducible first
        | assumption | apply faces_wf | apply claims_wf | apply rings_wf | apply t1_wf | apply t2_wf | apply host_wf
        | apply streams_wf | apply tallies_wf | apply outqs_wf | apply fns_wf | apply msix_wf | apply shafts_wf
        | apply routes_wf | apply rxctx_wf | apply fabric_wf)
    | with_reducible apply mk_kept
theorem sampleBound_kept {s0 s : State} (hk : Kept s0 s) : Kept s0 (sampleBound s) := by
  unfold sampleBound
  dsimp only
  repeat' first | (with_reducible first | assumption | apply freeValue_kept | apply modPins_kept)
theorem tapStep_kept {s0 s : State} {c : Byte} (hk : Kept s0 s) : Kept s0 (tapStep s c) := by
  unfold tapStep
  dsimp only
  repeat' first | (with_reducible first | assumption | apply sampleBound_kept | apply modPins_kept) | split
theorem deassertStep_kept {s0 s : State} {smb : BitVec 2} {srns : Bool} (hk : Kept s0 s) : Kept s0 (deassertStep s smb srns) :=
    by
  unfold deassertStep
  dsimp only
  repeat' first
    | (with_reducible first
        | assumption | apply modPins_kept | apply faces_wf | apply claims_wf | apply rings_wf | apply t1_wf | apply t2_wf
        | apply host_wf | apply streams_wf | apply tallies_wf | apply outqs_wf | apply fns_wf | apply msix_wf | apply shafts_wf
        | apply routes_wf | apply rxctx_wf | apply fabric_wf)
    | split | with_reducible apply mk_kept
theorem railGoodStep_kept {s0 s : State} {r : Rail} {late : Bool} (hk : Kept s0 s) : Kept s0 (railGoodStep s r late) := by
  unfold railGoodStep
  dsimp only
  repeat' first | (with_reducible first | assumption | apply modPins_kept) | split
theorem dropRail_kept {s0 s : State} {r : Rail} (hk : Kept s0 s) : Kept s0 (dropRail s r) := by
  unfold dropRail
  repeat' first | (with_reducible first | assumption | apply modPins_kept)
theorem railLossStep_kept {s0 s : State} {r : Rail} {aux : Bool} (hk : Kept s0 s) : Kept s0 (railLossStep s r aux) := by
  unfold railLossStep
  dsimp only
  repeat' first
    | (with_reducible first
        | assumption | apply dropRail_kept | apply modPins_kept | apply stopDomains_kept | apply loseSump_kept | apply faces_wf
        | apply claims_wf | apply rings_wf | apply t1_wf | apply t2_wf | apply host_wf | apply streams_wf | apply tallies_wf
        | apply outqs_wf | apply fns_wf | apply msix_wf | apply shafts_wf | apply routes_wf | apply rxctx_wf | apply fabric_wf)
    | split | with_reducible apply mk_kept
theorem shaftDark_kept {s0 s : State} {n : Nat} (hk : Kept s0 s) : Kept s0 (shaftDark s n) := by
  unfold shaftDark
  repeat' first | (with_reducible first | assumption | apply shaftEvent_kept | apply shaftOff_kept) | split
theorem lasOffStep_kept {s0 s : State} (hk : Kept s0 s) : Kept s0 (lasOffStep s) := by
  unfold lasOffStep
  dsimp only
  repeat' first | (with_reducible first | assumption | apply dropRail_kept | apply shaftDark_kept | apply fold_kept) | split
theorem lasGoodStep_kept {s0 s : State} (hk : Kept s0 s) : Kept s0 (lasGoodStep s) := by
  unfold lasGoodStep
  dsimp only
  repeat' first
    | (with_reducible first
        | assumption | apply modPins_kept | apply setShaft_kept | apply fold_kept)
    | split | intro _
theorem auxOffStep_kept {s0 s : State} (hk : Kept s0 s) : Kept s0 (auxOffStep s) := by
  unfold auxOffStep
  dsimp only
  repeat' first
    | (with_reducible first
        | assumption | apply fundamental_kept | apply loseSump_kept | apply dropRail_kept | apply modPins_kept)
    | split

end Sys2Proof.Machine
end

