-- ==== Sys2Proof/Laws/KeptOthers.lean ====
section
/-!
SUPPORT. Scalar instructions, the sideband, SPDM, and the commands of versions, streams, tallies and training: no operation takes or adds a command, or leaves a table out of canonical form (Kept.lean).
-/
namespace Sys2Proof.Machine
open Sys2Proof

/-! ### Scalar.lean -/

theorem scalOp_kept {s0 s : State} {f : Nat} {st : IssueStream} {op : Nat} {fields : List (Nat × Nat)} {names : Ins → List Name}
    {body : State → Ins → State} (hk : Kept s0 s) (h_body : ∀ a0 a1, Kept s0 a0 → Kept s0 (body a0 a1)) : Kept s0
    (scalOp s f st op fields names body) := by
  unfold scalOp
  repeat' first
    | (with_reducible first
        | assumption | apply issue_kept | apply raise_kept | apply withRegs_kept | apply h_body)
    | split | intro _
theorem sBin_kept {s0 s : State} {f : Nat} {st : IssueStream} {op : Nat} {g : W64 → W64 → W64} (hk : Kept s0 s) : Kept s0
    (sBin s f st op g) := by
  unfold sBin
  repeat' first | (with_reducible first | assumption | apply scalOp_kept | apply done_kept | apply setSreg_kept) | intro _
theorem sLiStep_kept {s0 s : State} {f : Nat} {st : IssueStream} (hk : Kept s0 s) : Kept s0 (sLiStep s f st) := by
  unfold sLiStep
  repeat' first
    | (with_reducible first
        | assumption | apply issue_kept | apply raise_kept | apply withRegs_kept | apply done_kept | apply setSreg_kept)
    | split | intro _
theorem putVl_kept {s0 s : State} {i : Ins} {n : Int} (hk : Kept s0 s) : Kept s0 (putVl s i n) := by
  unfold putVl
  repeat' first | (with_reducible first | assumption | apply done_kept | apply modLane_kept | apply raise_kept) | split
theorem branch_kept {s0 s : State} {i : Ins} (hk : Kept s0 s) : Kept s0 (branch s i) := by
  unfold branch
  repeat' first | (with_reducible first | assumption | apply jump_kept)
theorem sCond_kept {s0 s : State} {f : Nat} {st : IssueStream} {op : Nat} {g : W64 → W64 → Bool} (hk : Kept s0 s) : Kept s0
    (sCond s f st op g) := by
  unfold sCond
  repeat' first
    | (with_reducible first
        | assumption | apply scalOp_kept | apply branch_kept | apply done_kept)
    | split | intro _
theorem sEndStep_kept {s0 s : State} {f : Nat} {st : IssueStream} (hk : Kept s0 s) : Kept s0 (sEndStep s f st) := by
  unfold sEndStep
  repeat' first
    | (with_reducible first
        | assumption | apply scalOp_kept | apply stalled_kept | apply modLane_kept)
    | split | intro _

/-! ### Sideband.lean -/

theorem modSide_kept {s0 s : State} {g : Sideband → Sideband} (hk : Kept s0 s) : Kept s0 (modSide s g) := by
  unfold modSide
  repeat' first
    | (with_reducible first
        | assumption | apply faces_wf | apply claims_wf | apply rings_wf | apply t1_wf | apply t2_wf | apply host_wf
        | apply streams_wf | apply tallies_wf | apply outqs_wf | apply fns_wf | apply msix_wf | apply shafts_wf
        | apply routes_wf | apply rxctx_wf | apply fabric_wf)
    | with_reducible apply mk_kept
theorem withPec_kept {s0 s : State} {ok : Bool} {f : State → State} (hk : Kept s0 s) (h_f : ∀ a0, Kept s0 a0 → Kept s0 (f a0)) :
    Kept s0 (withPec s ok f) := by
  unfold withPec
  repeat' first | (with_reducible first | assumption | apply modSide_kept | apply h_f) | split
theorem sendSide_kept {s0 s : State} {bs : List Byte} (hk : Kept s0 s) : Kept s0 (sendSide s bs) := by
  unfold sendSide
  repeat' first | (with_reducible first | assumption | apply modSide_kept)
theorem ifAnswered_kept {s0 s : State} {f : State → State} (hk : Kept s0 s) (h_f : ∀ a0, Kept s0 a0 → Kept s0 (f a0)) : Kept s0
    (ifAnswered s f) := by
  unfold ifAnswered
  dsimp only
  repeat' first | (with_reducible first | assumption | apply freeValue_kept | apply h_f) | split
theorem mctpReply_kept {s0 s : State} {cmd cc : Nat} {data : List Byte} (hk : Kept s0 s) : Kept s0 (mctpReply s cmd cc data) :=
    by
  unfold mctpReply
  dsimp only
  repeat' first | (with_reducible first | assumption | apply freeValue_kept | apply sendSide_kept)
theorem setEid_kept {s0 s : State} {e : Byte} (hk : Kept s0 s) : Kept s0 (setEid s e) := by
  unfold setEid
  repeat' first | (with_reducible first | assumption | apply mctpReply_kept | apply modSide_kept) | split
theorem getEid_kept {s0 s : State} (hk : Kept s0 s) : Kept s0 (getEid s) := by
  unfold getEid
  repeat' first | (with_reducible first | assumption | apply mctpReply_kept)
theorem mctpVersions_kept {s0 s : State} {t : Byte} (hk : Kept s0 s) : Kept s0 (mctpVersions s t) := by
  unfold mctpVersions
  repeat' first | (with_reducible first | assumption | apply mctpReply_kept) | split
theorem mctpTypes_kept {s0 s : State} (hk : Kept s0 s) : Kept s0 (mctpTypes s) := by
  unfold mctpTypes
  repeat' first | (with_reducible first | assumption | apply mctpReply_kept)
theorem vendorTypes_kept {s0 s : State} {sel : Byte} (hk : Kept s0 s) : Kept s0 (vendorTypes s sel) := by
  unfold vendorTypes
  repeat' first | (with_reducible first | assumption | apply mctpReply_kept) | split
theorem vendorReply_kept {s0 s : State} {h : VendorHdr} {cmd status : Nat} {payload : List Byte} (hk : Kept s0 s) : Kept s0
    (vendorReply s h cmd status payload) := by
  unfold vendorReply
  repeat' first | (with_reducible first | assumption | apply sendSide_kept)
theorem vendor_kept {s0 s : State} {h : VendorHdr} {cmd : Nat} {f : State → State} (hk : Kept s0 s)
    (h_f : ∀ a0, Kept s0 a0 → Kept s0 (f a0)) : Kept s0 (vendor s h cmd f) := by
  unfold vendor
  repeat' first | (with_reducible first | assumption | apply vendorReply_kept | apply h_f) | split
theorem telemetryGet_kept {s0 s : State} {h : VendorHdr} (hk : Kept s0 s) : Kept s0 (telemetryGet s h) := by
  unfold telemetryGet
  repeat' first | (with_reducible first | assumption | apply vendor_kept | apply vendorReply_kept) | intro _
theorem sumpExtract_kept {s0 s : State} {h : VendorHdr} {first n : Nat} (hk : Kept s0 s) : Kept s0 (sumpExtract s h first n) :=
    by
  unfold sumpExtract
  dsimp only
  repeat' first | (with_reducible first | assumption | apply vendor_kept | apply vendorReply_kept) | split | intro _
theorem reservedCmd_kept {s0 s : State} {h : VendorHdr} {cmd : Nat} (hk : Kept s0 s) : Kept s0 (reservedCmd s h cmd) := by
  unfold reservedCmd
  repeat' first | (with_reducible first | assumption | apply vendorReply_kept) | split
theorem capSb_kept {s0 s : State} {h : VendorHdr} {cap : Nat} (hk : Kept s0 s) : Kept s0 (capSb s h cap) := by
  unfold capSb
  dsimp only
  repeat' first
    | (with_reducible first
        | assumption | apply vendor_kept | apply stamped_kept | apply vendorReply_kept | apply modWinder_kept)
    | split | intro _
theorem powerReq_kept {s0 s : State} {h : VendorHdr} {target : Nat} (hk : Kept s0 s) : Kept s0 (powerReq s h target) := by
  unfold powerReq
  dsimp only
  repeat' first
    | (with_reducible first
        | assumption | apply vendor_kept | apply stamped_kept | apply vendorReply_kept | apply beginEntry_kept)
    | split | intro _
theorem sideReset_kept {s0 s : State} {h : VendorHdr} (hk : Kept s0 s) : Kept s0 (sideReset s h) := by
  unfold sideReset
  repeat' first
    | (with_reducible first
        | assumption | apply vendor_kept | apply warmReset_kept | apply vendorReply_kept | apply stamped_kept)
    | intro _
theorem holdSide_kept {s0 s : State} {q : MctpReq} (hk : Kept s0 s) : Kept s0 (holdSide s q) := by
  unfold holdSide
  repeat' first | (with_reducible first | assumption | apply modSide_kept)
theorem atReady_kept {s0 s : State} {f : State → State} (hk : Kept s0 s) (h_f : ∀ a0, Kept s0 a0 → Kept s0 (f a0)) : Kept s0
    (atReady s f) := by
  unfold atReady
  repeat' first | (with_reducible first | assumption | apply h_f) | split
theorem processed_kept {s0 s : State} {q : MctpReq} {f : State → State} (hk : Kept s0 s)
    (h_f : ∀ a0, Kept s0 a0 → Kept s0 (f a0)) : Kept s0 (processed s q f) := by
  unfold processed
  repeat' first | (with_reducible first | assumption | apply atReady_kept | apply holdSide_kept | apply h_f) | split | intro _
theorem serveSide_kept {s0 s : State} {q : MctpReq} (hk : Kept s0 s) : Kept s0 (serveSide s q) := by
  unfold serveSide
  repeat' first
    | (with_reducible first
        | assumption | apply setEid_kept | apply ifAnswered_kept | apply getEid_kept | apply mctpVersions_kept
        | apply mctpTypes_kept | apply vendorTypes_kept | apply atReady_kept | apply telemetryGet_kept | apply sumpExtract_kept
        | apply reservedCmd_kept | apply capSb_kept | apply processed_kept | apply powerReq_kept | apply sideReset_kept)
    | split | intro _
theorem takeSide_kept {s0 s : State} {pec : Bool} {q : MctpReq} (hk : Kept s0 s) : Kept s0 (takeSide s pec q) := by
  unfold takeSide
  repeat' first
    | (with_reducible first
        | assumption | apply withPec_kept | apply serveSide_kept | apply holdSide_kept | apply faces_wf | apply claims_wf
        | apply rings_wf | apply t1_wf | apply t2_wf | apply host_wf | apply streams_wf | apply tallies_wf | apply outqs_wf
        | apply fns_wf | apply msix_wf | apply shafts_wf | apply routes_wf | apply rxctx_wf | apply fabric_wf)
    | split | intro _ | with_reducible apply mk_kept
theorem warmResetStep_kept {s0 s : State} {h : VendorHdr} (hk : Kept s0 s) : Kept s0 (warmResetStep s h) := by
  unfold warmResetStep
  dsimp only
  repeat' first
    | (with_reducible first
        | assumption | apply withPec_kept | apply vendorReply_kept | apply warmReset_kept | apply takeSide_kept)
    | split | intro _
theorem s0ReturnStep_kept {s0 s : State} (hk : Kept s0 s) : Kept s0 (s0ReturnStep s) := by
  unfold s0ReturnStep
  dsimp only
  repeat' first
    | (with_reducible first
        | assumption | apply returnStep_kept | apply serveSide_kept | apply modSide_kept | apply fold_kept)
    | split

/-! ### Spdm.lean -/

theorem putDoe_kept {s0 s : State} {o : Option (List Byte)} (hk : Kept s0 s) : Kept s0 (putDoe s o) := by
  unfold putDoe
  dsimp only
  repeat' first
    | (with_reducible first
        | assumption | apply faces_wf | apply claims_wf | apply rings_wf | apply t1_wf | apply t2_wf | apply host_wf
        | apply streams_wf | apply tallies_wf | apply outqs_wf | apply fns_wf | apply msix_wf | apply shafts_wf
        | apply routes_wf | apply rxctx_wf | apply fabric_wf)
    | with_reducible apply mk_kept
theorem discoveryStep_kept {s0 s : State} {i : Nat} (hk : Kept s0 s) : Kept s0 (discoveryStep s i) := by
  unfold discoveryStep
  repeat' first | (with_reducible first | assumption | apply putDoe_kept) | split
theorem unsupportedObjStep_kept {s0 s : State} {vendor typ : Nat} (hk : Kept s0 s) : Kept s0 (unsupportedObjStep s vendor typ)
    := by
  unfold unsupportedObjStep
  repeat' first | (with_reducible first | assumption | apply putDoe_kept) | split
theorem answer_kept {s0 s : State} {resp : List Byte} (hk : Kept s0 s) : Kept s0 (answer s resp) := by
  unfold answer
  repeat' first | (with_reducible first | assumption | apply putDoe_kept)
theorem spdmError_kept {s0 s : State} {msg : List Byte} {code : Nat} (hk : Kept s0 s) : Kept s0 (spdmError s msg code) := by
  unfold spdmError
  repeat' first | (with_reducible first | assumption | apply answer_kept)
theorem clearKept_kept {s0 s : State} (hk : Kept s0 s) : Kept s0 (clearKept s) := by
  unfold clearKept
  dsimp only
  repeat' first
    | (with_reducible first
        | assumption | apply faces_wf | apply claims_wf | apply rings_wf | apply t1_wf | apply t2_wf | apply host_wf
        | apply streams_wf | apply tallies_wf | apply outqs_wf | apply fns_wf | apply msix_wf | apply shafts_wf
        | apply routes_wf | apply rxctx_wf | apply fabric_wf)
    | with_reducible apply mk_kept
theorem spdm_kept {s0 s : State} {msg : List Byte} {ver : List Nat} {ok : Sideband → Bool} {f : State → State} (hk : Kept s0 s)
    (h_f : ∀ a0, Kept s0 a0 → Kept s0 (f a0)) : Kept s0 (spdm s msg ver ok f) := by
  unfold spdm
  dsimp only
  repeat' first
    | (with_reducible first
        | assumption | apply putDoe_kept | apply clearKept_kept | apply spdmError_kept | apply h_f)
    | split
theorem nonce32_kept {s0 s : State} (hk : Kept s0 s) : Kept s0 (nonce32 s).2 := by
  unfold nonce32
  dsimp only
  repeat' first | (with_reducible first | assumption | apply draw_kept)
theorem vca_kept {s0 s : State} {msg resp : List Byte} (hk : Kept s0 s) : Kept s0 (vca s msg resp) := by
  unfold vca
  dsimp only
  repeat' first
    | (with_reducible first
        | assumption | apply answer_kept | apply faces_wf | apply claims_wf | apply rings_wf | apply t1_wf | apply t2_wf
        | apply host_wf | apply streams_wf | apply tallies_wf | apply outqs_wf | apply fns_wf | apply msix_wf | apply shafts_wf
        | apply routes_wf | apply rxctx_wf | apply fabric_wf)
    | with_reducible apply mk_kept
theorem getVersionStep_kept {s0 s : State} {msg : List Byte} (hk : Kept s0 s) : Kept s0 (getVersionStep s msg) := by
  unfold getVersionStep
  dsimp only
  repeat' first
    | (with_reducible first
        | assumption | apply spdm_kept | apply vca_kept | apply faces_wf | apply claims_wf | apply rings_wf | apply t1_wf
        | apply t2_wf | apply host_wf | apply streams_wf | apply tallies_wf | apply outqs_wf | apply fns_wf | apply msix_wf
        | apply shafts_wf | apply routes_wf | apply rxctx_wf | apply fabric_wf)
    | intro _ | with_reducible apply mk_kept
theorem getCapabilitiesStep_kept {s0 s : State} {msg : List Byte} (hk : Kept s0 s) : Kept s0 (getCapabilitiesStep s msg) := by
  unfold getCapabilitiesStep
  dsimp only
  repeat' first
    | (with_reducible first
        | assumption | apply spdm_kept | apply vca_kept | apply faces_wf | apply claims_wf | apply rings_wf | apply t1_wf
        | apply t2_wf | apply host_wf | apply streams_wf | apply tallies_wf | apply outqs_wf | apply fns_wf | apply msix_wf
        | apply shafts_wf | apply routes_wf | apply rxctx_wf | apply fabric_wf)
    | intro _ | with_reducible apply mk_kept
theorem negotiateStep_kept {s0 s : State} {msg : List Byte} (hk : Kept s0 s) : Kept s0 (negotiateStep s msg) := by
  unfold negotiateStep
  dsimp only
  repeat' first
    | (with_reducible first
        | assumption | apply spdm_kept | apply vca_kept | apply spdmError_kept | apply faces_wf | apply claims_wf
        | apply rings_wf | apply t1_wf | apply t2_wf | apply host_wf | apply streams_wf | apply tallies_wf | apply outqs_wf
        | apply fns_wf | apply msix_wf | apply shafts_wf | apply routes_wf | apply rxctx_wf | apply fabric_wf)
    | split | intro _ | with_reducible apply mk_kept
theorem certAnswer_kept {s0 s : State} {msg resp : List Byte} (hk : Kept s0 s) : Kept s0 (certAnswer s msg resp) := by
  unfold certAnswer
  dsimp only
  repeat' first
    | (with_reducible first
        | assumption | apply answer_kept | apply faces_wf | apply claims_wf | apply rings_wf | apply t1_wf | apply t2_wf
        | apply host_wf | apply streams_wf | apply tallies_wf | apply outqs_wf | apply fns_wf | apply msix_wf | apply shafts_wf
        | apply routes_wf | apply rxctx_wf | apply fabric_wf)
    | with_reducible apply mk_kept
theorem getDigestsStep_kept {s0 s : State} {msg : List Byte} (hk : Kept s0 s) : Kept s0 (getDigestsStep s msg) := by
  unfold getDigestsStep
  repeat' first | (with_reducible first | assumption | apply spdm_kept | apply certAnswer_kept) | intro _
theorem getCertificateStep_kept {s0 s : State} {msg : List Byte} {slot off len : Nat} (hk : Kept s0 s) : Kept s0
    (getCertificateStep s msg slot off len) := by
  unfold getCertificateStep
  dsimp only
  repeat' first
    | (with_reducible first
        | assumption | apply spdm_kept | apply spdmError_kept | apply certAnswer_kept)
    | split | intro _
theorem keepM_kept {s0 s : State} {m : List Byte} (hk : Kept s0 s) : Kept s0 (keepM s m) := by
  unfold keepM
  dsimp only
  repeat' first
    | (with_reducible first
        | assumption | apply faces_wf | apply claims_wf | apply rings_wf | apply t1_wf | apply t2_wf | apply host_wf
        | apply streams_wf | apply tallies_wf | apply outqs_wf | apply fns_wf | apply msix_wf | apply shafts_wf
        | apply routes_wf | apply rxctx_wf | apply fabric_wf)
    | with_reducible apply mk_kept
theorem challengeStep_kept {s0 s : State} {msg : List Byte} (hk : Kept s0 s) : Kept s0 (challengeStep s msg) := by
  unfold challengeStep
  dsimp only
  repeat' first
    | (with_reducible first
        | assumption | apply spdm_kept | apply spdmError_kept | apply nonce32_kept | apply answer_kept | apply keepM_kept
        | apply faces_wf | apply claims_wf | apply rings_wf | apply t1_wf | apply t2_wf | apply host_wf | apply streams_wf
        | apply tallies_wf | apply outqs_wf | apply fns_wf | apply msix_wf | apply shafts_wf | apply routes_wf | apply rxctx_wf
        | apply fabric_wf)
    | split | intro _ | with_reducible apply mk_kept
theorem getMeasurementsStep_kept {s0 s : State} {msg : List Byte} {i : Nat} {sign : Bool} (hk : Kept s0 s) : Kept s0
    (getMeasurementsStep s msg i sign) := by
  unfold getMeasurementsStep
  dsimp only
  repeat' first
    | (with_reducible first
        | assumption | apply spdm_kept | apply spdmError_kept | apply nonce32_kept | apply answer_kept | apply keepM_kept
        | apply faces_wf | apply claims_wf | apply rings_wf | apply t1_wf | apply t2_wf | apply host_wf | apply streams_wf
        | apply tallies_wf | apply outqs_wf | apply fns_wf | apply msix_wf | apply shafts_wf | apply routes_wf | apply rxctx_wf
        | apply fabric_wf)
    | split | intro _ | with_reducible apply mk_kept
theorem answerSealed_kept {s0 s : State} {app : Bool} {body : List Byte} (hk : Kept s0 s) : Kept s0 (answerSealed s app body) :=
    by
  unfold answerSealed
  dsimp only
  repeat' first
    | (with_reducible first
        | assumption | apply putDoe_kept | apply faces_wf | apply claims_wf | apply rings_wf | apply t1_wf | apply t2_wf
        | apply host_wf | apply streams_wf | apply tallies_wf | apply outqs_wf | apply fns_wf | apply msix_wf | apply shafts_wf
        | apply routes_wf | apply rxctx_wf | apply fabric_wf)
    | split | with_reducible apply mk_kept
theorem ecdhePrivate_kept {s0 s : State} (hk : Kept s0 s) : Kept s0 (ecdhePrivate s).2 := by
  unfold ecdhePrivate
  dsimp only
  repeat' first | (with_reducible first | assumption | apply draw_kept)
theorem keyExchangeStep_kept {s0 s : State} {msg : List Byte} (hk : Kept s0 s) : Kept s0 (keyExchangeStep s msg) := by
  unfold keyExchangeStep
  dsimp only
  repeat' first
    | (with_reducible first
        | assumption | apply spdm_kept | apply ecdhePrivate_kept | apply spdmError_kept | apply nonce32_kept | apply keepM_kept
        | apply answer_kept | apply faces_wf | apply claims_wf | apply rings_wf | apply t1_wf | apply t2_wf | apply host_wf
        | apply streams_wf | apply tallies_wf | apply outqs_wf | apply fns_wf | apply msix_wf | apply shafts_wf
        | apply routes_wf | apply rxctx_wf | apply fabric_wf)
    | split | intro _ | with_reducible apply mk_kept
theorem finishStep_kept {s0 s : State} {msg : List Byte} (hk : Kept s0 s) : Kept s0 (finishStep s msg) := by
  unfold finishStep
  dsimp only
  repeat' first
    | (with_reducible first
        | assumption | apply spdm_kept | apply answerSealed_kept | apply faces_wf | apply claims_wf | apply rings_wf
        | apply t1_wf | apply t2_wf | apply host_wf | apply streams_wf | apply tallies_wf | apply outqs_wf | apply fns_wf
        | apply msix_wf | apply shafts_wf | apply routes_wf | apply rxctx_wf | apply fabric_wf)
    | split | intro _ | with_reducible apply mk_kept
theorem endSessionStep_kept {s0 s : State} {msg : List Byte} (hk : Kept s0 s) : Kept s0 (endSessionStep s msg) := by
  unfold endSessionStep
  dsimp only
  repeat' first
    | (with_reducible first
        | assumption | apply spdm_kept | apply answerSealed_kept | apply faces_wf | apply claims_wf | apply rings_wf
        | apply t1_wf | apply t2_wf | apply host_wf | apply streams_wf | apply tallies_wf | apply outqs_wf | apply fns_wf
        | apply msix_wf | apply shafts_wf | apply routes_wf | apply rxctx_wf | apply fabric_wf)
    | intro _ | with_reducible apply mk_kept
theorem vendorSpdmStep_kept {s0 s : State} {msg : List Byte} {vendorId payload : Nat} (hk : Kept s0 s) : Kept s0
    (vendorSpdmStep s msg vendorId payload) := by
  unfold vendorSpdmStep
  dsimp only
  repeat' first
    | (with_reducible first
        | assumption | apply putDoe_kept | apply spdmError_kept | apply clearKept_kept | apply nonce32_kept | apply answer_kept)
    | split
theorem setIde_kept {s0 s : State} {n : Nat} {x : Ide} (hk : Kept s0 s) : Kept s0 (setIde s n x) := by
  unfold setIde
  dsimp only
  repeat' first
    | (with_reducible first
        | assumption | apply faces_wf | apply claims_wf | apply rings_wf | apply t1_wf | apply t2_wf | apply host_wf
        | apply streams_wf | apply tallies_wf | apply outqs_wf | apply fns_wf | apply msix_wf | apply shafts_wf
        | apply routes_wf | apply rxctx_wf | apply fabric_wf)
    | split | with_reducible apply mk_kept
theorem ideKmStep_kept {s0 s : State} {n : Nat} (hk : Kept s0 s) : Kept s0 (ideKmStep s n) := by
  unfold ideKmStep
  repeat' first
    | (with_reducible first
        | assumption | apply answerSealed_kept | apply setIde_kept | apply clearKept_kept)
    | split
theorem ideFailStep_kept {s0 s : State} {n : Nat} (hk : Kept s0 s) : Kept s0 (ideFailStep s n) := by
  unfold ideFailStep
  repeat' first | (with_reducible first | assumption | apply postSump_kept | apply setIde_kept) | split

/-! ### VersionCmds.lean -/

theorem versionBuildStep_kept {s0 s : State} {r : Nat} (hk : Kept s0 s) : Kept s0 (versionBuildStep s r) := by
  unfold versionBuildStep
  dsimp only
  repeat' first
    | (with_reducible first
        | assumption | apply lervo_kept | apply refuse_kept | apply readClaimWords_kept | apply okay_kept
        | apply settleSlots_kept | apply setClaim_kept)
    | split | intro _
theorem weightLoadStep_kept {s0 s : State} {r : Nat} (hk : Kept s0 s) : Kept s0 (weightLoadStep s r) := by
  unfold weightLoadStep
  dsimp only
  repeat' first
    | (with_reducible first
        | assumption | apply lervo_kept | apply refuse_kept | apply setClaim_kept | apply ans_wait)
    | split | intro _
theorem versionCancelStep_kept {s0 s : State} {r : Nat} (hk : Kept s0 s) : Kept s0 (versionCancelStep s r) := by
  unfold versionCancelStep
  dsimp only
  repeat' first
    | (with_reducible first
        | assumption | apply lervo_kept | apply refuse_kept | apply okay_kept | apply setClaim_kept)
    | split | intro _
theorem versionSwitchStep_kept {s0 s : State} {r : Nat} (hk : Kept s0 s) : Kept s0 (versionSwitchStep s r) := by
  unfold versionSwitchStep
  dsimp only
  repeat' first
    | (with_reducible first
        | assumption | apply lervo_kept | apply refuse_kept | apply setClaim_kept | apply ans_wait)
    | split | intro _
theorem versionQueryStep_kept {s0 s : State} {r : Nat} (hk : Kept s0 s) : Kept s0 (versionQueryStep s r) := by
  unfold versionQueryStep
  dsimp only
  repeat' first | (with_reducible first | assumption | apply lervo_kept | apply putHost_kept | apply ans_done) | intro _
theorem auditSetStep_kept {s0 s : State} {r : Nat} (hk : Kept s0 s) : Kept s0 (auditSetStep s r) := by
  unfold auditSetStep
  dsimp only
  repeat' first | (with_reducible first | assumption | apply lervo_kept | apply okay_kept | apply setClaim_kept) | intro _

/-! ### Turns.lean -/

theorem judgePeer_kept {s0 : State} {a : Assay} {c : Nat} {gathered : List (Nat × List (BitVec 256))} {acc : State × Nat × Nat} {dev : Nat}
    (h : Kept s0 acc.1) : Kept s0 (judgePeer a c gathered acc dev).1 := by
  unfold judgePeer
  refine fold_kept (fun t e h => mismatchEvent_kept h) ?_
  split
  · exact h
  · exact fold_kept (fun t e h => mismatchEvent_kept h) h
theorem dropRequests_kept {s0 s : State} {c : Nat} (hk : Kept s0 s) : Kept s0 (dropRequests s c) := by
  unfold dropRequests
  dsimp only
  repeat' first
    | (with_reducible first
        | assumption | apply failRequest_kept | apply closeRequest_kept | apply fold_kept)
    | split | intro _
theorem dropStreams_kept {s0 s : State} {c : Nat} (hk : Kept s0 s) : Kept s0 (dropStreams s c) := by
  unfold dropStreams
  dsimp only
  repeat' first
    | (with_reducible first
        | assumption | apply endStream_kept | apply setClaim_kept | apply clearTubs_kept | apply fold_kept | apply faces_wf
        | apply claims_wf | apply rings_wf | apply t1_wf | apply t2_wf | apply host_wf | apply streams_wf | apply tallies_wf
        | apply outqs_wf | apply fns_wf | apply msix_wf | apply shafts_wf | apply routes_wf | apply rxctx_wf | apply fabric_wf)
    | split | intro _ | with_reducible apply mk_kept
theorem dropVersions_kept {s0 s : State} {c : Nat} (hk : Kept s0 s) : Kept s0 (dropVersions s c) := by
  unfold dropVersions
  dsimp only
  repeat' first
    | (with_reducible first
        | assumption | apply reply_kept | apply setClaim_kept | apply fold_kept)
    | split | intro _
theorem issueTurn_kept {s0 s : State} {c : Nat} {u : Turn} (hk : Kept s0 s) : Kept s0 (issueTurn s c u) := by
  unfold issueTurn
  dsimp only
  repeat' first
    | (with_reducible first
        | assumption | apply issueColl_kept | apply setClaim_kept | apply fold_kept)
    | split | intro _
theorem turnEffectStep_kept {s0 s : State} {c : Nat} (hk : Kept s0 s) : Kept s0 (turnEffectStep s c) := by
  unfold turnEffectStep
  dsimp only
  repeat' first
    | (with_reducible first
        | assumption | apply reply_kept | apply setClaim_kept | apply dropStreams_kept | apply dropRequests_kept
        | apply dropVersions_kept | apply issueTurn_kept)
    | split
theorem applyServe_kept {s0 s : State} {c : Nat} {u : Turn} (hk : Kept s0 s) : Kept s0 (applyServe s c u) := by
  unfold applyServe
  dsimp only
  repeat' first | (with_reducible first | assumption | apply clearTubs_kept | apply setClaim_kept) | split
theorem dropPrograms_kept {s0 s : State} {c : Nat} (hk : Kept s0 s) : Kept s0 (dropPrograms s c) := by
  unfold dropPrograms
  dsimp only
  repeat' first | (with_reducible first | assumption | apply setClaim_kept)
theorem turnFinishStep_kept {s0 s : State} {c : Nat} (hk : Kept s0 s) : Kept s0 (turnFinishStep s c) := by
  unfold turnFinishStep
  dsimp only
  repeat' first
    | (with_reducible first
        | assumption | apply reply_kept | apply setClaim_kept | apply dropPrograms_kept | apply applyServe_kept)
    | split
theorem assayStartStep_kept {s0 s : State} {c : Nat} {id : W32} (hk : Kept s0 s) : Kept s0 (assayStartStep s c id) := by
  unfold assayStartStep
  repeat' first | (with_reducible first | assumption | apply assayTry_kept | apply setAssay_kept) | split
theorem assayDoneStep_kept {s0 s : State} {c : Nat} {id : W32} {gathered : List (Nat × List (BitVec 256))} (hk : Kept s0 s) :
    Kept s0 (assayDoneStep s c id gathered) := by
  unfold assayDoneStep
  split
  · exact hk
  · split
    · exact hk
    · split
      · exact stallAll_kept hk
      · exact failAssay_kept hk
      · rename_i a _ _ _ _
        have h : ∀ g t, Kept s0 t → ∀ l : List Nat, Kept s0 (l.foldl (judgePeer a c g) (t, 0, 0)).1 :=
          fun g t ht l => fold_kept1 (fun acc e h => judgePeer_kept h) ht
        refine reply_kept (setClaim_kept (h _ _ (vaStore_kept ?_) _))
        repeat' split
        all_goals first
          | exact advanceTo_kept hk
          | exact hk

/-! ### StreamCmds.lean -/

theorem noteServe_kept {s0 s : State} {c va : Nat} (hk : Kept s0 s) : Kept s0 (noteServe s c va) := by
  unfold noteServe
  dsimp only
  repeat' first
    | (with_reducible first
        | assumption | apply noteRead_kept | apply noteImage_kept | apply fold_kept)
    | split | intro _
theorem serveSetStep_kept {s0 s : State} {r : Nat} (hk : Kept s0 s) : Kept s0 (serveSetStep s r) := by
  unfold serveSetStep
  dsimp only
  repeat' first
    | (with_reducible first
        | assumption | apply lervo_kept | apply refuse_kept | apply noted_kept | apply noteServe_kept | apply gotAns_kept
        | apply okay_kept | apply clearTubs_kept | apply setClaim_kept)
    | split | intro _
theorem admitSetStep_kept {s0 s : State} {r : Nat} (hk : Kept s0 s) : Kept s0 (admitSetStep s r) := by
  unfold admitSetStep
  dsimp only
  repeat' first
    | (with_reducible first
        | assumption | apply lervo_kept | apply refuse_kept | apply setClaim_kept | apply ans_done)
    | split | intro _
theorem openStream_kept {s0 s : State} {c n : Nat} {x : Stream} {toks : List Nat} (hk : Kept s0 s) : Kept s0
    (openStream s c n x toks) := by
  unfold openStream
  dsimp only
  repeat' first | (with_reducible first | assumption | apply storeLater_kept | apply setStream_kept)
theorem openStep_kept {s0 s : State} {r : Nat} (hk : Kept s0 s) : Kept s0 (openStep s r) := by
  unfold openStep
  dsimp only
  repeat' first
    | (with_reducible first
        | assumption | apply lervo_kept | apply refuse_kept | apply readClaimWords_kept | apply readClaim_kept
        | apply openStream_kept | apply ans_done)
    | split | intro _
theorem maskStream_kept {s0 s : State} {n : Nat} (hk : Kept s0 s) : Kept s0 (maskStream s n) := by
  unfold maskStream
  repeat' first | (with_reducible first | assumption | apply modBatch_kept) | split
theorem cancelStep_kept {s0 s : State} {r : Nat} (hk : Kept s0 s) : Kept s0 (cancelStep s r) := by
  unfold cancelStep
  dsimp only
  repeat' first
    | (with_reducible first
        | assumption | apply lervo_kept | apply refuse_kept | apply maskStream_kept | apply setStream_kept | apply ans_done
        | apply faces_wf | apply claims_wf | apply rings_wf | apply t1_wf | apply t2_wf | apply host_wf | apply streams_wf
        | apply tallies_wf | apply outqs_wf | apply fns_wf | apply msix_wf | apply shafts_wf | apply routes_wf | apply rxctx_wf
        | apply fabric_wf)
    | split | intro _ | with_reducible apply mk_kept
theorem parkCmdStep_kept {s0 s : State} {r : Nat} (hk : Kept s0 s) : Kept s0 (parkCmdStep s r) := by
  unfold parkCmdStep
  dsimp only
  repeat' first
    | (with_reducible first
        | assumption | apply lervo_kept | apply refuse_kept | apply setStream_kept | apply ans_wait)
    | split | intro _
theorem releaseStep_kept {s0 s : State} {r : Nat} (hk : Kept s0 s) : Kept s0 (releaseStep s r) := by
  unfold releaseStep
  dsimp only
  repeat' first
    | (with_reducible first
        | assumption | apply lervo_kept | apply refuse_kept | apply okay_kept | apply setStream_kept)
    | split | intro _
theorem streamQueryStep_kept {s0 s : State} {r : Nat} (hk : Kept s0 s) : Kept s0 (streamQueryStep s r) := by
  unfold streamQueryStep
  dsimp only
  repeat' first
    | (with_reducible first
        | assumption | apply lervo_kept | apply refuse_kept | apply putHost_kept | apply ans_done)
    | split | intro _

/-! ### Sync.lean -/

theorem semOp_kept {s0 s : State} {f : Nat} {st : IssueStream} {op : Nat} {body : State → Ins → State} (hk : Kept s0 s)
    (h_body : ∀ a0 a1, Kept s0 a0 → Kept s0 (body a0 a1)) : Kept s0 (semOp s f st op body) := by
  unfold semOp
  repeat' first | (with_reducible first | assumption | apply issue_kept | apply raise_kept | apply h_body) | split | intro _
theorem semWaitStep_kept {s0 s : State} {f : Nat} {st : IssueStream} (hk : Kept s0 s) : Kept s0 (semWaitStep s f st) := by
  unfold semWaitStep
  dsimp only
  repeat' first
    | (with_reducible first
        | assumption | apply semOp_kept | apply done_kept | apply semPut_kept | apply stalled_kept)
    | split | intro _
theorem semReleaseStep_kept {s0 s : State} {f : Nat} {st : IssueStream} (hk : Kept s0 s) : Kept s0 (semReleaseStep s f st) := by
  unfold semReleaseStep
  repeat' first | (with_reducible first | assumption | apply modLane_kept | apply semPut_kept) | split
theorem semSignalStep_kept {s0 s : State} {f : Nat} {st : IssueStream} (hk : Kept s0 s) : Kept s0 (semSignalStep s f st) := by
  unfold semSignalStep
  repeat' first
    | (with_reducible first
        | assumption | apply semOp_kept | apply stalled_kept | apply done_kept | apply modLane_kept)
    | split | intro _
theorem semApplyStep_kept {s0 s : State} {f : Nat} {st : IssueStream} (hk : Kept s0 s) : Kept s0 (semApplyStep s f st) := by
  unfold semApplyStep
  dsimp only
  repeat' first | (with_reducible first | assumption | apply semAdd_kept | apply modLane_kept) | split
theorem tickFenceStep_kept {s0 s : State} {f : Nat} {st : IssueStream} (hk : Kept s0 s) : Kept s0 (tickFenceStep s f st) := by
  unfold tickFenceStep
  repeat' first
    | (with_reducible first
        | assumption | apply issue_kept | apply raise_kept | apply stalled_kept | apply modLane_kept)
    | split | intro _
theorem flagClrStep_kept {s0 s : State} {f : Nat} {st : IssueStream} (hk : Kept s0 s) : Kept s0 (flagClrStep s f st) := by
  unfold flagClrStep
  repeat' first
    | (with_reducible first
        | assumption | apply issue_kept | apply raise_kept | apply done_kept | apply modLane_kept)
    | split | intro _
theorem postStep_kept {s0 s : State} {f : Nat} {st : IssueStream} (hk : Kept s0 s) : Kept s0 (postStep s f st) := by
  unfold postStep
  dsimp only
  repeat' first
    | (with_reducible first
        | assumption | apply issue_kept | apply raise_kept | apply withRegs_kept | apply stalled_kept | apply done_kept
        | apply setFace_kept | apply t0_wf)
    | split | intro _
theorem postAnswerStep_kept {s0 s : State} {f : Nat} (hk : Kept s0 s) : Kept s0 (postAnswerStep s f) := by
  unfold postAnswerStep
  dsimp only
  repeat' first | (with_reducible first | assumption | apply failRequest_kept | apply setFace_kept | apply t0_wf) | split
theorem awaitStep_kept {s0 s : State} {f : Nat} {st : IssueStream} (hk : Kept s0 s) : Kept s0 (awaitStep s f st) := by
  unfold awaitStep
  dsimp only
  repeat' first
    | (with_reducible first
        | assumption | apply issue_kept | apply raise_kept | apply stalled_kept | apply jump_kept | apply setFace_kept
        | apply t0_wf)
    | split | intro _
theorem overrunStep_kept {s0 s : State} {f : Nat} {st : IssueStream} (hk : Kept s0 s) : Kept s0 (overrunStep s f st) := by
  unfold overrunStep
  dsimp only
  repeat' first | (with_reducible first | assumption | apply failRequest_kept) | split
theorem flushCounts_kept {s0 s : State} {f : Nat} {st : IssueStream} (hk : Kept s0 s) : Kept s0 (flushCounts s f st) := by
  unfold flushCounts
  dsimp only
  repeat' first | (with_reducible first | assumption | apply countsAdd_kept | apply modLane_kept | apply fold_kept) | intro _
theorem faceTime_kept {s0 s : State} {q : Req} {ns : Nat} (hk : Kept s0 s) : Kept s0 (faceTime s q ns) := by
  unfold faceTime
  dsimp only
  repeat' first | (with_reducible first | assumption | apply modBatch_kept | apply rollDue_kept | apply setClaim_kept) | split
theorem sliceRecord_kept {s0 s : State} {q : Req} {n : Nat} {ws : List W64} (hk : Kept s0 s) : Kept s0 (sliceRecord s q n ws) :=
    by
  unfold sliceRecord
  repeat' first | (with_reducible first | assumption | apply putRecord_kept | apply putLater_kept) | split
theorem sliceCompleteStep_kept {s0 s : State} {f : Nat} {st : IssueStream} (hk : Kept s0 s) : Kept s0 (sliceCompleteStep s f st)
    := by
  unfold sliceCompleteStep
  dsimp only
  repeat' first
    | (with_reducible first
        | assumption | apply flushCounts_kept | apply modLane_kept | apply freeValue_kept | apply faceTime_kept
        | apply modReq_kept | apply sliceRecord_kept)
    | split
theorem requestEndStep_kept {s0 s : State} {id : Nat} (hk : Kept s0 s) : Kept s0 (requestEndStep s id) := by
  unfold requestEndStep
  dsimp only
  repeat' first
    | (with_reducible first
        | assumption | apply closeRequest_kept | apply stallAll_kept | apply modBatch_kept | apply failBatch_kept)
    | split

/-! ### TallyCmds.lean -/

theorem tallySetStep_kept {s0 s : State} {r : Nat} (hk : Kept s0 s) : Kept s0 (tallySetStep s r) := by
  unfold tallySetStep
  dsimp only
  repeat' first
    | (with_reducible first
        | assumption | apply lervo_kept | apply refuse_kept | apply okay_kept | apply setTally_kept)
    | split | intro _
theorem tallyQueryStep_kept {s0 s : State} {r : Nat} (hk : Kept s0 s) : Kept s0 (tallyQueryStep s r) := by
  unfold tallyQueryStep
  dsimp only
  repeat' first
    | (with_reducible first
        | assumption | apply lervo_kept | apply refuse_kept | apply putHost_kept | apply okay_kept)
    | split | intro _
theorem windowSetStep_kept {s0 s : State} {r : Nat} (hk : Kept s0 s) : Kept s0 (windowSetStep s r) := by
  unfold windowSetStep
  dsimp only
  repeat' first
    | (with_reducible first
        | assumption | apply lervo_kept | apply refuse_kept | apply okay_kept | apply setClaim_kept)
    | split | intro _
theorem tickSetStep_kept {s0 s : State} {r : Nat} (hk : Kept s0 s) : Kept s0 (tickSetStep s r) := by
  unfold tickSetStep
  dsimp only
  repeat' first
    | (with_reducible first
        | assumption | apply lervo_kept | apply refuse_kept | apply okay_kept | apply queueTick_kept | apply setClaim_kept)
    | split | intro _
theorem basisStep_kept {s0 s : State} {r : Nat} (hk : Kept s0 s) : Kept s0 (basisStep s r) := by
  unfold basisStep
  dsimp only
  repeat' first
    | (with_reducible first
        | assumption | apply lervo_kept | apply refuse_kept | apply readHost_kept | apply putClaim_kept | apply okay_kept)
    | split | intro _
theorem steerSetStep_kept {s0 s : State} {r : Nat} (hk : Kept s0 s) : Kept s0 (steerSetStep s r) := by
  unfold steerSetStep
  dsimp only
  repeat' first
    | (with_reducible first
        | assumption | apply lervo_kept | apply refuse_kept | apply readHost_kept | apply putClaim_kept | apply okay_kept)
    | split | intro _

/-! ### TrainCmds.lean -/

theorem notePass_kept {s0 s : State} {k : Call} (hk : Kept s0 s) : Kept s0 (notePass s k) := by
  unfold notePass
  dsimp only
  repeat' first | (with_reducible first | assumption | apply setRing_kept)
theorem passStartStep_kept {s0 s : State} {r : Nat} (hk : Kept s0 s) : Kept s0 (passStartStep s r) := by
  unfold passStartStep
  dsimp only
  repeat' first
    | (with_reducible first
        | assumption | apply lervo_kept | apply notePass_kept | apply refuse_kept | apply noted_kept | apply noteRead_kept
        | apply gotAns_kept | apply freshId_kept | apply ans_wait | apply faces_wf | apply claims_wf | apply rings_wf
        | apply t1_wf | apply t2_wf | apply host_wf | apply streams_wf | apply tallies_wf | apply outqs_wf | apply fns_wf
        | apply msix_wf | apply shafts_wf | apply routes_wf | apply rxctx_wf | apply fabric_wf)
    | split | intro _ | with_reducible apply mk_kept
theorem passAbortStep_kept {s0 s : State} {r : Nat} (hk : Kept s0 s) : Kept s0 (passAbortStep s r) := by
  unfold passAbortStep
  dsimp only
  repeat' first
    | (with_reducible first
        | assumption | apply lervo_kept | apply okay_kept | apply failRequest_kept | apply refuse_kept)
    | split | intro _
theorem sweepStep_kept {s0 s : State} {r : Nat} (hk : Kept s0 s) : Kept s0 (sweepStep s r) := by
  unfold sweepStep
  dsimp only
  repeat' first
    | (with_reducible first
        | assumption | apply lervo_kept | apply refuse_kept | apply readClaimWords_kept | apply setClaim_kept | apply ans_wait)
    | split | intro _
theorem stepSetStep_kept {s0 s : State} {r : Nat} (hk : Kept s0 s) : Kept s0 (stepSetStep s r) := by
  unfold stepSetStep
  dsimp only
  repeat' first
    | (with_reducible first
        | assumption | apply lervo_kept | apply refuse_kept | apply okay_kept | apply setClaim_kept)
    | split | intro _
theorem noteTurn_kept {s0 s : State} {k : Call} (hk : Kept s0 s) : Kept s0 (noteTurn s k) := by
  unfold noteTurn
  dsimp only
  repeat' first
    | (with_reducible first
        | assumption | apply noteRead_kept | apply noteServe_kept | apply fold_kept)
    | split | intro _
theorem turnStep_kept {s0 s : State} {r : Nat} (hk : Kept s0 s) : Kept s0 (turnStep s r) := by
  unfold turnStep
  dsimp only
  repeat' first
    | (with_reducible first
        | assumption | apply lervo_kept | apply noted_kept | apply noteTurn_kept | apply gotAns_kept | apply setClaim_kept
        | apply ans_wait)
    | intro _
theorem assayStep_kept {s0 s : State} {r : Nat} (hk : Kept s0 s) : Kept s0 (assayStep s r) := by
  unfold assayStep
  dsimp only
  repeat' first
    | (with_reducible first
        | assumption | apply lervo_kept | apply refuse_kept | apply noted_kept | apply noteAll_kept | apply gotAns_kept
        | apply setClaim_kept | apply ans_wait)
    | split | intro _
theorem groupSetStep_kept {s0 s : State} {r : Nat} (hk : Kept s0 s) : Kept s0 (groupSetStep s r) := by
  unfold groupSetStep
  dsimp only
  repeat' first
    | (with_reducible first
        | assumption | apply lervo_kept | apply refuse_kept | apply readClaim_kept | apply okay_kept | apply setClaim_kept)
    | split | intro _
theorem collIssueStep_kept {s0 s : State} {r : Nat} (hk : Kept s0 s) : Kept s0 (collIssueStep s r) := by
  unfold collIssueStep
  dsimp only
  repeat' first
    | (with_reducible first
        | assumption | apply lervo_kept | apply readClaimWords_kept | apply refuse_kept | apply okay_kept
        | apply acceptColl_kept)
    | split | intro _
theorem canarySetStep_kept {s0 s : State} {r : Nat} (hk : Kept s0 s) : Kept s0 (canarySetStep s r) := by
  unfold canarySetStep
  dsimp only
  repeat' first
    | (with_reducible first
        | assumption | apply lervo_kept | apply refuse_kept | apply okay_kept | apply setClaim_kept)
    | split | intro _
theorem canaryQueryStep_kept {s0 s : State} {r : Nat} (hk : Kept s0 s) : Kept s0 (canaryQueryStep s r) := by
  unfold canaryQueryStep
  dsimp only
  repeat' first | (with_reducible first | assumption | apply lervo_kept | apply putHost_kept | apply ans_done) | intro _
theorem canaryClearStep_kept {s0 s : State} {r : Nat} (hk : Kept s0 s) : Kept s0 (canaryClearStep s r) := by
  unfold canaryClearStep
  repeat' first
    | (with_reducible first
        | assumption | apply lervo_kept | apply okay_kept | apply zeroTable_kept)
    | split | intro _
theorem ledgerStep_kept {s0 s : State} {r : Nat} (hk : Kept s0 s) : Kept s0 (ledgerStep s r) := by
  unfold ledgerStep
  dsimp only
  repeat' first
    | (with_reducible first
        | assumption | apply lervo_kept | apply ledgerTry_kept | apply setClaim_kept | apply ans_wait)
    | intro _

end Sys2Proof.Machine
end

