-- ==== Sys2Proof/Laws/Memory.lean ====
section
/-!
SUPPORT. Words of memory: what a word reads as after a write to one (R145, R157, R175, R466).
-/
namespace Sys2Proof.Machine
open Sys2Proof

theorem canonical_faces_table {s : State} (h : s.canonical = true) : Tab.wf {} s.faces = true := by
  have := faces_wf (Kept.refl s) h
  simp only [facesWf, Bool.and_eq_true] at this
  exact this.1
/-- A tier written anew; every other tier as before. -/
theorem memTab_setMem {s : State} (h : s.canonical = true) (l m : Loc) (t : Tab W80) :
    memTab (setMem s l t) m = if m = l then t else memTab s m := by
  have hw := canonical_faces_table h
  cases l with
  | t0 f =>
    cases m with
    | t0 g =>
      show (face (setFace s f _) g).t0 = _
      rw [face_setFace hw]
      by_cases hgf : g = f
      · subst hgf; simp
      · rw [if_neg hgf, if_neg (by intro e; cases e; exact hgf rfl)]; rfl
    | t1 => rfl
    | t2 => rfl
  | t1 => cases m <;> rfl
  | t2 => cases m <;> rfl
/-- What T0 has lost stays lost. -/
theorem lostBits_setMem {s : State} (h : s.canonical = true) (l m : Loc) (t : Tab W80) (i : Nat) : lostBits (setMem s l t) m i = lostBits s m i := by
  have hw := canonical_faces_table h
  cases l <;> cases m <;> try rfl
  rename_i f g
  simp only [lostBits, setMem, face_setFace hw]
  by_cases hgf : g = f
  · subst hgf; simp
  · simp [hgf]
theorem isFenced_setMem (s : State) (l m : Loc) (t : Tab W80) (i : Nat) : isFenced (setMem s l t) m i = isFenced s m i := by
  cases l <;> cases m <;> rfl
/-- A word of memory reads what was last written to it, and every other word as before; a word on a fenced controller
of T2 stays poisoned. -/
theorem memWord_setWord {s : State} (h : s.canonical = true) (l m : Loc) (i j : Nat) (w : W80) :
    memWord (setWord s l i w) m j = if isFenced s m j then storeP ⟨0, true⟩ else if m = l ∧ j = i then w else memWord s m j := by
  have hm : Tab.wf 0 (memTab s l) = true := memTab_wf (Kept.refl s) h
  unfold memWord setWord
  rw [isFenced_setMem, memTab_setMem h, lostBits_setMem h]
  split
  · rfl
  · by_cases hl : m = l
    · subst hl
      rw [if_pos rfl, Tab.get_set_wf hm]
      by_cases hj : j = i
      · subst hj; simp [BitVec.xor_assoc]
      · simp [hj]
    · simp [hl]

/-- Memory in canonical form stays so, whichever word is written. -/
theorem Memory.wf_setWord {s : State} (h : s.canonical = true) (l : Loc) (i : Nat) (w : W80) : Memory.wf (setWord s l i w) = true := by
  have := (setWord_kept (Kept.refl s) (l := l) (i := i) (w := w)).canon h
  simp only [State.canonical, Bool.and_eq_true] at this
  simp only [this]
/-- Memory in canonical form stays so, whichever bytes of host memory are written. -/
theorem Memory.wf_hostWrite {s : State} (h : s.canonical = true) (a : Nat) (bs : List Byte) : Memory.wf (hostWrite s a bs) = true := by
  have := (hostWrite_kept (Kept.refl s) (a := a) (bs := bs)).canon h
  simp only [State.canonical, Bool.and_eq_true] at this
  simp only [this]
theorem Memory.wf_reset : Memory.wf State.reset = true := by decide

/-! ### Reads, and a chunk that lands, as the claims see them (R174, R167) -/

theorem interrupt_claims (s : State) (fn vec : Nat) : (interrupt s fn vec).claims = s.claims := by
  unfold interrupt
  dsimp only
  split <;> rfl
theorem postSump_claims (s : State) (r : SumpRec) : (postSump s r).claims = s.claims := by
  have key (v : Sump) : (if 2 ≤ r.cls ∧ v.svEn = true then interrupt { s with sump := v } 0 v.svVec else { s with sump := v }).claims = s.claims := by
    split
    · exact interrupt_claims ..
    · rfl
  unfold postSump
  dsimp only
  split
  · rfl
  · exact key _
theorem countT2_claims (s : State) (l : Loc) (i : Nat) (d : Option Nat) : (countT2 s l i d).claims = s.claims := by
  unfold countT2
  split <;> rfl
theorem noteWord_claims (s : State) (l : Loc) (i : Nat) : (noteWord s l i).claims = s.claims := by
  unfold noteWord
  split
  · rfl
  · dsimp only
    cases l <;> dsimp only
    · rw [postSump_claims, setWord_claims, countT2_claims]
    all_goals
      split
      · rw [postSump_claims]; dsimp only; rw [postSump_claims, setWord_claims, countT2_claims]
      · dsimp only; rw [postSump_claims, setWord_claims, countT2_claims]
  · dsimp only
    split <;> rw [postSump_claims]
    · rw [putWord_claims, countT2_claims]
    · dsimp only; rw [putWord_claims, countT2_claims]
theorem noteRun_claims (s : State) (l : Loc) (i n : Nat) : (noteRun s l i n).claims = s.claims := by
  unfold noteRun
  generalize List.range n = ks
  induction ks generalizing s with
  | nil => rfl
  | cons k ks ih => rw [List.foldl_cons, ih, noteWord_claims]
/-- A chunk that lands in an object that is no weight changes no claim. -/
theorem landChunk_claims (s : State) (h : Hoist) (e : Pte) (n : Nat) (head : Bool) (hw : isWeight (claim s h.claim) e.obj = false) :
    (landChunk s h e n head).1.claims = s.claims := by
  unfold landChunk
  dsimp only
  rw [hw]
  simp only [Bool.false_and, Bool.false_eq_true, if_false]
  split
  · rw [postSump_claims]; exact noteRun_claims ..
  · exact noteRun_claims ..

end Sys2Proof.Machine
end

