-- ==== Sys2Proof/Laws/Packets.lean ====
section
/-!
SUPPORT. What a Lervo packet comes to, once for all commands: left alone, answered by a failed check, or handed to the
command's own work and replied to (R359 to R365).
-/
namespace Sys2Proof.Machine
open Sys2Proof

/-- A ring that is not served next is left alone. -/
theorem lervo_idle {s : State} {r op : Nat} {used : List Nat} {body : Call → State → Ans}
    (h : cmdsRun s = false ∨ nextRing s ≠ some r) : lervo s r op used body = s := by
  unfold lervo serveRing
  rw [if_pos]
  rcases h with h | h
  · exact Or.inl (by rw [h]; rfl)
  · exact Or.inr h
/-- The packet served next is run. -/
theorem lervo_run {s : State} {r : Fin 256} {op : Nat} {used : List Nat} {body : Call → State → Ans} (h : Taken s r op) :
    lervo s r op used body = runPacket s r (packet s r) used body := by
  have h1 := h.runs
  have h2 := h.next
  have h3 := h.read
  have h4 := h.opcode
  simp only [packetOp, packet] at h4
  simp only [lervo, serveRing, h1, h2, h3, packet, h4]
  simp
/-- A packet with another opcode is left alone. -/
theorem lervo_other {s : State} {r : Fin 256} {op n : Nat} {used : List Nat} {body : Call → State → Ans} (h : Taken s r n)
    (hn : n ≠ op) : lervo s r op used body = s := by
  have h1 := h.runs
  have h2 := h.next
  have h3 := h.read
  have h4 := h.opcode
  simp only [packetOp, packet] at h4
  simp only [lervo, serveRing, h1, h2, h3, h4]
  simp [hn]
theorem takePacket_rings_wf {s : State} (h : Tab.wf {} s.rings = true) (r : Nat) : Tab.wf {} (takePacket s r).rings = true :=
  Tab.wf_set h _ _
/-- A packet that passes every check of R360 is the command's own work, and its reply. -/
theorem lervo_served {s : State} {r : Fin 256} {op : Nat} {used : List Nat} {body : Call → State → Ans} (h : Served s r op used) :
    lervo s r op used body = (match body (callOf s r) (consumed s r) with
      | .done t st a b => replied s r t st a b
      | .wait t => putShadow t r) := by
  rw [lervo_run h.toTaken]
  have hs := h.seq
  have hp := h.passes
  simp only [packetSeq] at hs
  unfold runPacket
  dsimp only
  rw [if_neg (by simpa using hs), if_neg (by simpa [gate, noClaim, setRing, claim] using hp)]
  rfl
theorem lervo_done {s t : State} {r : Fin 256} {op st a b : Nat} {used : List Nat} {body : Call → State → Ans}
    (h : Served s r op used) (hb : body (callOf s r) (consumed s r) = .done t st a b) : lervo s r op used body = replied s r t st a b := by
  rw [lervo_served h, hb]
theorem lervo_wait {s t : State} {r : Fin 256} {op : Nat} {used : List Nat} {body : Call → State → Ans} (h : Served s r op used)
    (hb : body (callOf s r) (consumed s r) = .wait t) : lervo s r op used body = putShadow t r := by
  rw [lervo_served h, hb]
/-- The work of a served command, with the call and the consumed state left general. -/
theorem lervo_cases {s x : State} {r : Fin 256} {op : Nat} {used : List Nat} {body : Call → State → Ans} (h : Served s r op used)
    (hx : ∀ (t : State) (k : Call), t = consumed s r → k = callOf s r → k.r = r.val →
      (match body k t with
        | .done t st a b => replied s r t st a b
        | .wait t => putShadow t r) = x) : lervo s r op used body = x := by
  rw [lervo_served h]
  exact hx _ _ rfl rfl rfl
theorem consumed_rings_wf {s : State} (h : Tab.wf {} s.rings = true) (r : Fin 256) : Tab.wf {} (consumed s r).rings = true :=
  Tab.wf_set (takePacket_rings_wf h r) _ _
/-- Bytes of claim memory that may be read go to the command's work, and are noted as read. -/
theorem readClaim_reads {t : State} {c va n : Nat} {bs : List Byte} {f : State → List Byte → Ans} (h : Reads t c va n bs) :
    readClaim t c va n f = f (noteVa t c va n) bs := by
  simp only [readClaim, h.may, h.hold]
theorem readHost_ok {s : State} {k : Call} {a n : Nat} {f : List Byte → Ans} (h : hostOk s a n = true) :
    readHost s k a n f = f (hostRead s a n) := by
  unfold readHost; rw [if_pos (Or.inr h)]
theorem putHost_ok {s : State} {k : Call} {a : Nat} {bs : List Byte} {f : State → Ans} (h : hostOk s a bs.length = true) :
    putHost s k a bs f = f (hostWrite s a bs) := by
  unfold putHost; rw [if_pos (Or.inr h)]
theorem putClaim_ok {s : State} {c va : Nat} {bs : List Byte} {f : State → Ans} (h : access (claim s c) (.request none) va bs.length = .ok) :
    putClaim s c va bs f = f (vaStore s c va bs) := by
  simp only [putClaim, h]

end Sys2Proof.Machine
end

