-- ==== Sys2Proof/WellFormed.lean ====
section
/-!
DEFINITION. Commands that can arrive: an operand of unbounded type lies in the range that the manual
gives the thing it stands for. The meanings are total; an ill-formed command names nothing that exists.
-/
namespace Sys2Proof

/-- Page numbers have 27 bits (R147). -/
def pageOk (p : Nat) : Bool := decide (p < 2 ^ 27)
/-- A bell frame has eight words and arrives in one of 80 slots (R290, R291). -/
def bellOk (rx : BellRx) : Bool := decide (rx.slot < 80) && decide (rx.words.length = 8)
/-- Words of a tier (R145). -/
def tierWords : Tier → Nat | .t0 => 2 ^ 20 | .t1 => 768 * 2 ^ 27 | .t2 => 2 ^ 38

/-- The ranges of each command's operands. -/
def wellFormed (i : Instr) : Bool :=
  match i with
  | .hoistDone _ p => pageOk p
  | .writebackDone _ p => pageOk p
  | .hoistEvictEffect _ p => pageOk p
  | .patrolScrub t _ a => decide (a < tierWords t)
  | .weightRepair _ _ leaf _ => decide (leaf < 2 ^ 36)
  | .data _ _ payload _ _ => decide (payload.length = 244)
  | .collision rx _ => bellOk rx
  | .presence rx => bellOk rx
  | .join rx => bellOk rx
  | .tick rx => bellOk rx
  | .barrier rx => bellOk rx
  | .lag rx => bellOk rx
  | .gossip rx => bellOk rx
  | .replica rx => bellOk rx
  | .peerWeightRequest _ peer _ _ e => decide (peer < 4096) && decide (e < 1024)
  | .bar2Read _ off len => decide (off + len ≤ 2 ^ 36)
  | .bar2Write _ off bs _ => decide (off + bs.length ≤ 2 ^ 36)
  | .registerWrite _ off size _ => decide (off + size ≤ 2 ^ 25) && (size == 4 || size == 8)
  | .getCertificate _ slot _ _ => decide (slot < 2)
  | .tapInstructionLoad _ => true
  | _ => true

end Sys2Proof
end

