-- ==== Sys2Proof/Tests/Slice0.lean ====
section
/-!
SUPPORT. Tests of the model: small steps on small states with expected values from the manual, and for every statement
with hypotheses a state that meets them.
-/
namespace Sys2Proof.Tests
open Sys2Proof Sys2Proof.Machine

/- The tests are checked one after another, so that few threads are alive at once. -/
set_option Elab.async false

/-! ### Ill-formed commands, one for each check -/

theorem test_wf_refuses_page : wellFormed (.hoistDone 0 (2 ^ 27)) = false := by decide
theorem test_wf_refuses_writeback_page : wellFormed (.writebackDone 0 (2 ^ 27)) = false := by decide
theorem test_wf_refuses_evict_page : wellFormed (.hoistEvictEffect 0 (2 ^ 27)) = false := by decide
theorem test_wf_refuses_scrub_address : wellFormed (.patrolScrub .t0 0 (2 ^ 20)) = false := by decide
theorem test_wf_refuses_leaf : wellFormed (.weightRepair 0 0 (2 ^ 36) (.ends 0)) = false := by decide
theorem test_wf_refuses_payload : wellFormed (.data 0 0 [0] 0 []) = false := by decide
theorem test_wf_refuses_bell_slot : wellFormed (.join ⟨80, [], [0, 0, 0, 0, 0, 0, 0, 0]⟩) = false := by decide
theorem test_wf_refuses_bell_words : wellFormed (.tick ⟨0, [], []⟩) = false := by decide
theorem test_wf_refuses_peer : wellFormed (.peerWeightRequest 0 4096 0 0 0) = false := by decide
theorem test_wf_refuses_bar2_read : wellFormed (.bar2Read 0 (2 ^ 36) 8) = false := by decide
theorem test_wf_refuses_bar2_write : wellFormed (.bar2Write 0 (2 ^ 36) [0] false) = false := by decide
theorem test_wf_refuses_register_size : wellFormed (.registerWrite 0 0 3 0) = false := by decide
theorem test_wf_refuses_slot : wellFormed (.getCertificate [] 2 0 0) = false := by decide
/-! ### Small states -/

/-- The device in S0 after boot, every rail within tolerance, claim 0 in service on every face unit. -/
def up : State := { State.reset with
  time := 1000
  boot := { State.reset.boot with stage := .ready, t1init := 0xFFF, t2init := true }
  pins := { State.reset.pins with perst := false, good := [.vinB0, .vinB1, .vinB2, .vinB3, .vinM, .vddIo, .vddAna, .vddAux, .vddLas] }
  claims := [(0, { live := true, units := 0xFFFF, ctag := 0x7A7A, t1g := 1, t2g := 1, sblk := 1, tblk := 1, sys := [1], free := [11, 12]
                   objs := [(1, { live := true, base := 3, pages := 4 })]
                   pages := [(3, { state := .t1, obj := 1, t1f := 5 }), (4, { state := .clean, obj := 1, t1f := 6, t2f := 1 }),
                             (5, { state := .dirty, obj := 1, t1f := 7, t2f := 2 }), (6, { state := .t2, obj := 1, t2f := 3 })] })] }
/-- The claim address of the first page of object 1. -/
def va3 : Nat := 3 * 2097152
/-- An instruction word or an extension word from its fields, each a value at its low bit. -/
def word (fs : List (Nat × Nat)) : W64 := w64 ((fs.map fun p => p.1 * 2 ^ p.2).foldl (· + ·) 0)
/-- Stream F at the first of its code's words, with every register and semaphore its own, and vl = 5. -/
def laneF (code : List W64) : Lane :=
  { busy := true, live := true, req := 7, code := code, vl := 5, vown := BitVec.allOnes 32, sown := BitVec.allOnes 16
    mown := BitVec.allOnes 8, aown := BitVec.allOnes 8, bown := BitVec.allOnes 4, semown := BitVec.allOnes 64, bounds := [100, 200] }
/-- The program that runs there; it has declared every semaphore. -/
def progF : Prog := { addr := 0x1000, face := 9, stream := .f, regs := [], semown := BitVec.allOnes 64, started := true, ended := false, record := [] }
/-- Face 9 of `up`, as given but for its stream F. -/
def onFace (x : Face) (code : List W64) : State := { up with
  faces := [(9, { x with f := laneF code })]
  reqs := [{ id := 7, claim := 0, tenant := none, progs := [progF], cmd := none, area := (true, 0x9000)
             stamp := 0, started := true, failed := 0, batch := none }] }
/-- The instruction that stream F issues there. -/
def insOf (code : List W64) : Ins :=
  ⟨9, .f, laneF code, (code.getD 0 0).toNat, (code.getD 1 0).toNat, bit (code.getD 0 0) 51⟩
/-- Registers s1 = 7, s2 = 65, v1 = 3, 1.0 in FP32, m1 = 0b10110, with semaphore 4 at 9. -/
def regs : Face :=
  { s := [(1, 7), (2, 65)], v := [(1024, 0x3F800000), (1025, 3), (2048, 0x40000000), (2050, 0xC0000000)], m := [(1, 0x16)], sem := [(4, 9)] }
/-- The tests of `Issuing`, and of the encoding and the names. -/
def canIssue (s : State) (op : Nat) (i : Ins) : Bool :=
  s.canonical && issues s 9 .f && fetch s 9 .f == some i && i.w / 2 ^ 52 == op && !i.l.badCode.contains i.l.pc &&
  (!i.ext || (!i.l.badCode.contains (i.l.pc + 1) && decide (i.l.pc + 1 < i.l.code.length)))
theorem issuing_of {s : State} {op : Nat} {i : Ins} (h : canIssue s op i = true) : Issuing s 9 .f op i := by
  simp only [canIssue, Bool.and_eq_true, beq_iff_eq, Bool.not_eq_true', Bool.or_eq_true, decide_eq_true_eq] at h
  have x := fun e : i.ext = true => h.2.resolve_left (by simp [e])
  exact ⟨h.1.1.1.1.1, h.1.1.1.1.2, h.1.1.1.2, h.1.1.2, ⟨h.1.2, fun e => (x e).1⟩, fun e => (x e).2⟩
def canName (s : State) (i : Ins) (ns : List Name) : Bool := ns.all (ownsName i.l) && !badParity (face s i.f) ns
theorem named_of {s : State} {i : Ins} {ns : List Name} (h : canName s i ns = true) : Named s i ns := by
  simp only [canName, Bool.and_eq_true, Bool.not_eq_true'] at h
  exact ⟨h.1, h.2⟩

/-- What a statement on a face instruction asks of the instruction that is next, and of the registers it names. -/
def Ready (s : State) (op : Nat) (i : Ins) (fields : List (Nat × Nat)) (use : ExtUse) (ext : List (Nat × Nat)) (ns : List Name) : Prop :=
  Issuing s 9 .f op i ∧ encodingOk i fields use ext = true ∧ Named s i ns
def isReady (s : State) (op : Nat) (i : Ins) (fields : List (Nat × Nat)) (use : ExtUse) (ext : List (Nat × Nat)) (ns : List Name) : Bool :=
  canIssue s op i && encodingOk i fields use ext && canName s i ns
theorem ready_of {s : State} {op : Nat} {i : Ins} {fields ext : List (Nat × Nat)} {use : ExtUse} {ns : List Name}
    (h : isReady s op i fields use ext ns = true) : Ready s op i fields use ext ns := by
  simp only [isReady, Bool.and_eq_true] at h
  exact ⟨issuing_of h.1.1, h.1.2, named_of h.2⟩

/-! ### Face instructions that issue -/

theorem test_front_command : ({ up with pending := [Instr.bellNoSignal] } : State).pending = Instr.bellNoSignal :: [] := rfl

/-- SD = s3, SA = s1, SB = s2. -/
def scalarCode (op : Nat) : List W64 := [word [(op, 52), (3, 47), (1, 43), (2, 39)]]
def sNames (i : Ins) : List Name := [.sd (bits i.w 50 47), .s (bits i.w 46 43), .s (bits i.w 42 39)]
theorem test_scalar_ready : ∀ e ∈ scalarTable, isReady (onFace regs (scalarCode e.2.1)) e.2.1 (insOf (scalarCode e.2.1))
    [(50, 47), (46, 43), (42, 39)] .no [] (sNames (insOf (scalarCode e.2.1))) = true := by decide +kernel
def nopCode : List W64 := [word [(0x200, 52)]]
theorem test_sNop_ready : Ready (onFace regs nopCode) 0x200 (insOf nopCode) [] .no [] [] := ready_of (by decide +kernel)
/-- S_ADDI s3, s1, -1. -/
def addiCode : List W64 := [word [(0x20A, 52), (3, 47), (1, 43), (0xFFFFFFFF, 0)]]
theorem test_sAddi_ready : Ready (onFace regs addiCode) 0x20A (insOf addiCode) [(50, 47), (46, 43), (31, 0)] .no [] [.sd 3, .s 1] :=
  ready_of (by decide +kernel)
/-- S_LI s3 with an extension word. -/
def liCode : List W64 := [word [(0x20B, 52), (1, 51), (3, 47)], 0x8000000000000001]
theorem test_sLi_ready : Ready (onFace regs liCode) 0x20B (insOf liCode) [(50, 47), (31, 0)] .opt [(63, 0)] [.sd 3] :=
  ready_of (by decide +kernel)
/-- S_SETVL s1, with s1 = 7, and S_SETVLI at both ends of its range and beyond. -/
def setvlCode : List W64 := [word [(0x210, 52), (1, 43)]]
def setvliCode (n : Nat) : List W64 := [word [(0x211, 52), (n, 0)]]
theorem test_sSetvl_ready : Ready (onFace regs setvlCode) 0x210 (insOf setvlCode) [(46, 43)] .no [] [.s 1] ∧
    ((sreg (onFace regs setvlCode) 9 1).toNat : Int) = 7 := ⟨ready_of (by decide +kernel), by decide +kernel⟩
theorem test_sSetvli_ready : ∀ e ∈ [(1, (1 : Int)), (1024, 1024), (0, 0), (1025, 1025), (0xFFFFFFFF, -1)],
    isReady (onFace regs (setvliCode e.1)) 0x211 (insOf (setvliCode e.1)) [(31, 0)] .no [] [] = true ∧
    sext (bits (insOf (setvliCode e.1)).w 31 0) 32 = e.2 := by decide +kernel

/-- A branch of two words forward over two S_NOPs, and one to the word of an extension. -/
def branchCode (op : Nat) : List W64 := [word [(op, 52), (if op = 0x218 then 0 else 1, 43), (if 0x219 ≤ op ∧ op ≤ 0x21C then 2 else 0, 39), (2, 0)],
  word [(0x200, 52)], word [(0x200, 52)]]
def badBranch : List W64 := [word [(0x218, 52), (2, 0)], word [(0x20B, 52), (1, 51)], 0]
theorem test_branch_target : ∀ op ∈ [0x218, 0x219, 0x21A, 0x21B, 0x21C, 0x21D], targetIs (insOf (branchCode op)) 2 := by
  unfold targetIs
  decide +kernel
theorem test_branches_ready : ∀ e ∈ branchTable, isReady (onFace regs (branchCode e.2.1)) e.2.1 (insOf (branchCode e.2.1))
    [(46, 43), (42, 39), (31, 0)] .no [] [.s (bits (insOf (branchCode e.2.1)).w 46 43), .s (bits (insOf (branchCode e.2.1)).w 42 39)] = true := by
  decide +kernel
theorem test_sBr_ready : Ready (onFace regs (branchCode 0x218)) 0x218 (insOf (branchCode 0x218)) [(31, 0)] .no [] [] := ready_of (by decide +kernel)
theorem test_sLoop_ready : Ready (onFace regs (branchCode 0x21D)) 0x21D (insOf (branchCode 0x21D)) [(46, 43), (31, 0)] .no [] [.s 1] :=
  ready_of (by decide +kernel)
theorem test_sBr_off_target : Ready (onFace regs badBranch) 0x218 (insOf badBranch) [(31, 0)] .no [] [] ∧
    ∀ n, ¬ targetIs (insOf badBranch) n := by
  refine ⟨ready_of (by decide +kernel), fun n ⟨h, hn⟩ => absurd hn ?_⟩
  have e : ((insOf badBranch).l.pc : Int) + sext (bits (insOf badBranch).w 31 0) 32 = 2 := by decide +kernel
  have : n = 2 := by omega
  subst this
  decide +kernel

/-- The three forms of a second operand: v2, the immediate 2.0, and s1; the first with mask register m1. -/
def formFields : Nat → List (Nat × Nat)
  | 0 => [(2, 36), (1, 27), (1, 28)]
  | 1 => [(1, 51), (1, 7)]
  | _ => [(1, 19), (2, 7)]
def vecCode (op form : Nat) (more : List (Nat × Nat)) : List W64 :=
  word ((op, 52) :: more ++ formFields form) :: (if form = 1 then [0x4000000000000000] else [])
/-- VD = v3, VA = v1. -/
def vv : List (Nat × Nat) := [(3, 46), (1, 41)]
def vNames (i : Ins) : List Name := [.vd (bits i.w 50 46), .v (bits i.w 45 41)] ++ secondNames i ++ maskNames i
theorem test_binary_ready : ∀ form ∈ [0, 1, 2], ∀ e ∈ binaryTable,
    isReady (onFace regs (vecCode e.2.1 form vv)) e.2.1 (insOf (vecCode e.2.1 form vv))
      [(50, 46), (45, 41), (30, 28), (27, 27), (40, 36), (22, 19), (8, 7)] .opt [(63, 32)] (vNames (insOf (vecCode e.2.1 form vv))) = true ∧
    secondOk (insOf (vecCode e.2.1 form vv)) := by
  unfold secondOk
  decide +kernel
/-- VD = v3, VA = v1, under mask register m1. -/
def unaryCode (op : Nat) (more : List (Nat × Nat)) : List W64 := [word ((op, 52) :: (1, 27) :: (1, 28) :: vv ++ more)]
def uNames (i : Ins) : List Name := [.vd (bits i.w 50 46), .v (bits i.w 45 41)] ++ maskNames i
theorem test_unary_ready : ∀ e ∈ unaryTable, isReady (onFace regs (unaryCode e.2.1 [])) e.2.1 (insOf (unaryCode e.2.1 []))
    [(50, 46), (45, 41), (30, 28), (27, 27)] .no [] (uNames (insOf (unaryCode e.2.1 []))) = true := by decide +kernel
def fmaCode : List W64 := vecCode 0x104 0 ((4, 31) :: vv)
theorem test_vFma_ready : Ready (onFace regs fmaCode) 0x104 (insOf fmaCode)
    [(50, 46), (45, 41), (35, 31), (30, 28), (27, 27), (40, 36), (22, 19), (8, 7)] .opt [(63, 32)]
    ([.vd 3, .v 1, .v 4] ++ secondNames (insOf fmaCode) ++ maskNames (insOf fmaCode)) ∧ secondOk (insOf fmaCode) :=
  ⟨ready_of (by decide +kernel), by unfold secondOk; decide +kernel⟩
/-- V_SEL v3, v1, v2 by m1. -/
def selCode : List W64 := [word ([(0x109, 52), (2, 36), (1, 28), (1, 27)] ++ vv)]
theorem test_vSel_ready : Ready (onFace regs selCode) 0x109 (insOf selCode)
    [(50, 46), (45, 41), (30, 28), (27, 27), (40, 36), (22, 19), (8, 7)] .opt [(63, 32)] ([.vd 3, .v 1, .m 1] ++ secondNames (insOf selCode)) ∧
    secondOk (insOf selCode) := ⟨ready_of (by decide +kernel), by unfold secondOk; decide +kernel⟩
def movCode : List W64 := vecCode 0x10A 1 [(3, 46)]
theorem test_vMov_ready : Ready (onFace regs movCode) 0x10A (insOf movCode)
    [(50, 46), (30, 28), (27, 27), (40, 36), (22, 19), (8, 7)] .opt [(63, 32)]
    ([.vd 3] ++ secondNames (insOf movCode) ++ maskNames (insOf movCode)) ∧ secondOk (insOf movCode) :=
  ⟨ready_of (by decide +kernel), by unfold secondOk; decide +kernel⟩
def iotaCode : List W64 := [word [(0x124, 52), (3, 46), (1, 28), (1, 27)]]
theorem test_vIota_ready : Ready (onFace regs iotaCode) 0x124 (insOf iotaCode) [(50, 46), (30, 28), (27, 27)] .no []
    ([.vd 3] ++ maskNames (insOf iotaCode)) := ready_of (by decide +kernel)
theorem test_vCvtF2i_ready : Ready (onFace regs (unaryCode 0x121 [])) 0x121 (insOf (unaryCode 0x121 []))
    [(50, 46), (45, 41), (30, 28), (27, 27)] .no [] (uNames (insOf (unaryCode 0x121 []))) := ready_of (by decide +kernel)
/-- V_ROUND to FP16 by nearest, and to BF16 stochastically with its tensor id in the extension word. -/
def roundCode (sr : Bool) : List W64 :=
  if sr then [word ([(0x122, 52), (1, 51), (1, 19), (1, 17), (2, 12)] ++ vv), 0x1234567800000000] else unaryCode 0x122 [(1, 12)]
theorem test_vRound_ready : ∀ sr ∈ [false, true], isReady (onFace regs (roundCode sr)) 0x122 (insOf (roundCode sr))
    [(50, 46), (45, 41), (30, 28), (27, 27), (22, 19), (18, 17), (16, 16), (15, 12)] .opt [(63, 32)]
    ([.vd 3, .v 1] ++ maskNames (insOf (roundCode sr)) ++ (if sr then [.s 1] else [])) = true ∧ (insOf (roundCode sr)).ext = sr ∧
    (roundKind (bits (insOf (roundCode sr)).w 15 12)).isSome = true ∧
    bits (insOf (roundCode sr)).w 18 17 < 2 ∧ bits (insOf (roundCode sr)).w 15 12 < 8 := by decide +kernel
/-- VA = v1, MD = m2. -/
def cmpFields : List (Nat × Nat) := [(1, 41), (2, 9)]
theorem test_compare_ready : ∀ form ∈ [0, 1, 2], ∀ e ∈ compareTable,
    isReady (onFace regs (vecCode e.2.1 form cmpFields)) e.2.1 (insOf (vecCode e.2.1 form cmpFields))
      [(45, 41), (30, 28), (27, 27), (11, 9), (40, 36), (22, 19), (8, 7)] .opt [(63, 32)]
      ([.v 1, .md 2] ++ secondNames (insOf (vecCode e.2.1 form cmpFields)) ++ maskNames (insOf (vecCode e.2.1 form cmpFields))) = true ∧
    secondOk (insOf (vecCode e.2.1 form cmpFields)) := by
  unfold secondOk
  decide +kernel
/-- m2 from m1 and m7, and from m1 alone. -/
def maskCode (op : Nat) : List W64 := [word [(op, 52), (1, 41), (if op = 0x16B then 0 else 7, 36), (2, 9)]]
theorem test_masks_ready : ∀ op ∈ [0x168, 0x169, 0x16A], isReady (onFace regs (maskCode op)) op (insOf (maskCode op))
    [(45, 41), (11, 9), (40, 36)] .no [] [.m 1, .md 2, .m 7] = true := by decide +kernel
theorem test_mNot_ready : Ready (onFace regs (maskCode 0x16B)) 0x16B (insOf (maskCode 0x16B)) [(45, 41), (11, 9)] .no [] [.m 1, .md 2] :=
  ready_of (by decide +kernel)

/-- Reductions of v1 into v3, under m1. -/
def reduceCode (op : Nat) : List W64 := [word ((op, 52) :: (1, 27) :: (1, 28) :: vv)]
theorem test_reduce_ready : ∀ e ∈ reduceTable, isReady (onFace regs (reduceCode e.2.1)) e.2.1 (insOf (reduceCode e.2.1))
    [(50, 46), (45, 41), (30, 28), (27, 27)] .no [] (uNames (insOf (reduceCode e.2.1))) = true := by decide +kernel
def dotCode : List W64 := vecCode 0x142 0 vv
theorem test_vRdot_ready : Ready (onFace regs dotCode) 0x142 (insOf dotCode)
    [(50, 46), (45, 41), (30, 28), (27, 27), (40, 36), (22, 19), (8, 7)] .opt [(63, 32)] (vNames (insOf dotCode)) ∧ secondOk (insOf dotCode) :=
  ⟨ready_of (by decide +kernel), by unfold secondOk; decide +kernel⟩
/-- A row of five elements at the end of a register: s1 = 1,019, s2 = 1,023. -/
def rowRegs : Face := { regs with s := [(1, 1019), (2, 1023)] }
def softCode (op : Nat) : List W64 := [word ([(op, 52), (1, 28), (1, 27), (1, 23), (2, 19), (2, 9)] ++ vv)]
theorem test_soft_ready : ∀ op ∈ [0x150, 0x151], isReady (onFace rowRegs (softCode op)) op (insOf (softCode op))
    [(50, 46), (45, 41), (30, 28), (27, 27), (26, 23), (22, 19), (11, 9)] .no []
    ([.vd 3, .v 1, .s 1, .s 2, .md 2] ++ maskNames (insOf (softCode op))) = true := by decide +kernel
theorem test_row_fits : (sreg (onFace rowRegs (softCode 0x150)) 9 1).toNat + (lane (face (onFace rowRegs (softCode 0x150)) 9) .f).vl ≤ 1024 ∧
    (sreg (onFace rowRegs (softCode 0x150)) 9 2).toNat ≤ 1023 := by decide +kernel
def normCode (op : Nat) : List W64 :=
  [word ([(op, 52), (1, 51), (2, 36), (1, 28), (1, 27), (1, 23), (if op = 0x153 then 5 else 0, 31)] ++ vv), 0x3E4CCCCD3727C5AC]
theorem test_vRmsnorm_ready : Ready (onFace rowRegs (normCode 0x152)) 0x152 (insOf (normCode 0x152))
    [(50, 46), (45, 41), (40, 36), (30, 28), (27, 27), (26, 23)] .need [(63, 0)]
    ([.vd 3, .v 1, .v 2, .s 1] ++ maskNames (insOf (normCode 0x152))) := ready_of (by decide +kernel)
theorem test_vLayernorm_ready : Ready (onFace rowRegs (normCode 0x153)) 0x153 (insOf (normCode 0x153))
    [(50, 46), (45, 41), (40, 36), (30, 28), (27, 27), (26, 23), (35, 31)] .need [(63, 0)]
    ([.vd 3, .v 1, .v 2, .s 1, .v 5] ++ maskNames (insOf (normCode 0x153))) := ready_of (by decide +kernel)

/-! ### T0, the matrix engine, DMA -/

/-- V_LD v3 under m1 of FP32 that ends at the last byte of T0, and of V8 from slot 7 of its group. -/
def ldRegs : Face := { regs with s := [(1, 8388588), (2, 1024)], t0 := [(128, storeP ⟨0x0102030405060708, false⟩), (145, storeP ⟨0x80, false⟩)] }
def ldCode (fm b a : Nat) : List W64 := [word [(0x160, 52), (3, 46), (1, 28), (1, 27), (a, 23), (fm, 12), (b, 9)]]
theorem test_vLd_ready : ∀ e ∈ [((0, 0, 1), (Fmt.fp32, 8388588)), ((5, 7, 2), (Fmt.v8, 1024))],
    let i := insOf (ldCode e.1.1 e.1.2.1 e.1.2.2)
    let s := onFace ldRegs (ldCode e.1.1 e.1.2.1 e.1.2.2)
    let spans := (rowSpans e.2.1 (bits i.w 11 9) 5).map fun p => (e.2.2 + p.1, p.2)
    isReady s 0x160 i [(50, 46), (30, 28), (27, 27), (26, 23), (15, 12), (11, 9)] .no [] ([.vd 3, .s (bits i.w 26 23)] ++ maskNames i) = true ∧
    fmtOf (bits i.w 15 12) = some e.2.1 ∧ (e.2.1.isBlock = true ∨ bits i.w 11 9 = 0) ∧ (sreg s 9 (bits i.w 26 23)).toNat = e.2.2 ∧
    (∀ p ∈ spans, p.1 + p.2 ≤ 8388608) ∧ e.2.2 % fmtAlign e.2.1 = 0 ∧ t0Poison s 9 spans = false := by decide +kernel
def mRegs : Face := { regs with s := [(1, 8388607)] }
def mldCode : List W64 := [word [(0x162, 52), (1, 23), (2, 9)]]
theorem test_mLd_ready : Ready (onFace mRegs mldCode) 0x162 (insOf mldCode) [(26, 23), (11, 9)] .no [] [.md 2, .s 1] ∧
    (sreg (onFace mRegs mldCode) 9 1).toNat + (5 + 7) / 8 ≤ 8388608 ∧ t0Poison (onFace mRegs mldCode) 9 [(8388607, 1)] = false :=
  ⟨ready_of (by decide +kernel), by decide +kernel, by decide +kernel⟩
/-- V_ST of v1 under m1: FP32 at the end of T0, INT32, and V4 rounded stochastically from slot 1. -/
def stRegs : Face := { ldRegs with s := [(1, 8388588), (2, 1024), (4, 32)] }
def stCode : Nat → List W64
  | 4 => [word [(0x161, 52), (1, 51), (1, 41), (1, 28), (1, 27), (2, 23), (4, 19), (1, 17), (6, 12), (1, 9)], 0x0000001100000000]
  | fm => [word [(0x161, 52), (1, 41), (1, 28), (1, 27), (1, 23), (fm, 12)]]
theorem test_vSt_ready : ∀ e ∈ [(0, Fmt.fp32), (7, Fmt.int32), (4, Fmt.v4)], StoreOk (onFace stRegs (stCode e.1)) 9 .f (insOf (stCode e.1)) e.2 := by
  have h : ∀ e ∈ [(0, Fmt.fp32), (7, Fmt.int32), (4, Fmt.v4)],
    let i := insOf (stCode e.1)
    let s := onFace stRegs (stCode e.1)
    (canIssue s 0x161 i = true ∧
      encodingOk i [(45, 41), (30, 28), (27, 27), (26, 23), (22, 19), (18, 17), (16, 16), (15, 12), (11, 9)] .opt [(63, 32)] = true ∧
      bits i.w 18 17 < 2 ∧ (bits i.w 18 17 = 1 ∨ bits i.w 16 16 = 1 → i.ext = true) ∧ fmtOf (bits i.w 15 12) = some e.2 ∧ e.2.isInt = false) ∧
    canName s i ([.v (bits i.w 45 41), .s (bits i.w 26 23)] ++ (if bits i.w 18 17 == 1 || bits i.w 16 16 == 1 || e.2.isBlock then [.s (bits i.w 22 19)] else []) ++ maskNames i) = true ∧
    (e.2.isBlock = true → (sreg s 9 (bits i.w 22 19)).toNat % 16 = 0) ∧
    (∀ p ∈ rowSpans e.2 (bits i.w 11 9) (lane (face s 9) .f).vl, (sreg s 9 (bits i.w 26 23)).toNat + p.1 + p.2 ≤ 8388608) ∧
    (sreg s 9 (bits i.w 26 23)).toNat % fmtAlign e.2 = 0 := by decide +kernel
  exact fun e he => have ⟨⟨a, b, c, d, x, y⟩, u, v, w, q⟩ := h e he
    ⟨issuing_of a, b, c, d, x, y, named_of u, v, w, q⟩
def mstCode : List W64 := [word [(0x163, 52), (1, 23), (1, 9)]]
theorem test_mSt_ready : Ready (onFace mRegs mstCode) 0x163 (insOf mstCode) [(26, 23), (11, 9)] .no [] [.m 1, .s 1] ∧
    (sreg (onFace mRegs mstCode) 9 1).toNat + (5 + 7) / 8 ≤ 8388608 := ⟨ready_of (by decide +kernel), by decide +kernel⟩

/-- A buffer of V4 with one row that holds 1.0 in group 0, and an accumulator that waits for group 6. -/
def fullBuf : OpBuf := { fmt := .v4, full := true, rows := [List.replicate 1024 (.ofInt 1)] }
def mmaRegs (x : Acc) : Face := { regs with buf := [(1, fullBuf), (2, fullBuf)], acc := if x = {} then [] else [(7, x)] }
/-- MMA a7, A1, B0 from group 31, one group, with index 6: the last group that the buffer holds. -/
def mmaCode : List W64 := [word [(0x002, 52), (7, 48), (1, 47), (31, 39), (6, 0)]]
theorem test_mma_ready : ∀ x ∈ [({} : Acc), { full := true, fmt := .v4, next := 6, count := 4095 }],
    isReady (onFace (mmaRegs x) mmaCode) 0x002 (insOf mmaCode) [(50, 33), (23, 0)] .no [] [.a 7, .b 1, .b 2] = true ∧
    (Tab.get {} (face (onFace (mmaRegs x) mmaCode) 9).acc 7 : Acc) = x ∧
    (Tab.get {} (face (onFace (mmaRegs x) mmaCode) 9).buf 1 : OpBuf) = fullBuf ∧ (Tab.get {} (face (onFace (mmaRegs x) mmaCode) 9).buf 2 : OpBuf) = fullBuf ∧
    31 + 1 ≤ Fmt.v4.capacity ∧ (x.full = true → x.fmt = .v4 ∧ x.im = false ∧ x.next = 6) ∧ x.count + 1 ≤ 4096 := by decide +kernel
/-- TLOAD of two rows of 32 FP16 into B1 from s1 + 16, at a stride of s2, and of one row of V8 from slot 3. -/
def tlRegs : Face := { regs with s := [(1, 1000), (2, 64), (3, 6291456 + 8)], t0 := [(127, storeP ⟨0x3C00, false⟩)] }
def tlCode : Nat → List W64
  | 1 => [word [(0x001, 52), (3, 49), (1, 45), (1, 40), (2, 36), (1, 16), (2, 0)]]
  | 5 => [word [(0x001, 52), (3, 49), (5, 45), (1, 40), (2, 36), (3, 23), (0, 16), (2, 0)]]
  | _ => [word [(0x001, 52), (3, 49), (3, 45), (1, 40), (2, 36), (3, 32), (3, 26), (1, 16)]]
theorem test_tload_ready : ∀ e ∈ [(1, Fmt.fp16, 2), (5, Fmt.v8, 1)],
    let i := insOf (tlCode e.1)
    let s := onFace tlRegs (tlCode e.1)
    let spans := tileSpans i e.2.1 1016 64 32 e.2.2
    isReady s 0x001 i [(50, 23), (21, 0)] .no [] [.b 3, .s 1, .s 2] = true ∧ fmtOf (bits i.w 48 45) = some e.2.1 ∧
    bits i.w 35 32 = 0 ∧ (e.2.1.isBlock = true ∨ bits i.w 25 23 = 0) ∧ bits i.w 31 26 + 1 ≤ e.2.1.capacity ∧
    (e.2.1.isBlock = true → bits i.w 44 44 = 0) ∧ (∀ p ∈ spans, p.1 + p.2 ≤ 8388608) ∧ 1016 % fmtAlign e.2.1 = 0 ∧ t0Poison s 9 spans = false := by
  decide +kernel
/-- Page 3 holds two valid scale entries, of exponents 0 and 1, from its second word on. -/
def scaled (s : State) : State := { s with t1 := [(5 * 262144 + 1, storeP ⟨0x3F80000000000000, false⟩), (5 * 262144 + 2, storeP ⟨0x4000000000000000, false⟩)] }
/-- TLOAD of two rows of 128 INT8 with the scales at s3. -/
theorem test_tload_int_ready :
    let i := insOf (tlCode 3)
    let s := scaled (onFace tlRegs (tlCode 3))
    let r := sliceWords (noteVa s 0 6291464 (8 * 2)) 0 6291464 (vaWords s 0 6291464 2)
    let spans := tileSpans i .int8 1000 64 128 2
    Ready s 0x001 i [(50, 23), (21, 0)] .no [] [.b 3, .s 1, .s 2, .s 3] ∧ fmtOf (bits i.w 48 45) = some .int8 ∧ bits i.w 25 23 = 0 ∧
    (∀ p ∈ spans, p.1 + p.2 ≤ 8388608) ∧ (sreg s 9 3).toNat = 6291464 ∧ touchesMarked (claim s 0) [(6291464, 8 * 2)] = false ∧
    access (claim s 0) (whoOf s i) 6291464 (8 * 2) = .ok ∧ r.2.any (·.poison) = false ∧ r.2.all (fun w => scaleValid w.data) = true ∧
    r.2.map (fun w => Xr.fin 1 (scaleExp w.data)) = [.fin 1 0, .fin 1 1] ∧ t0Poison r.1 9 spans = false :=
  And.imp_left ready_of (by decide +kernel)
/-- An accumulator of one group whose elements are all 2.0. -/
def oneAcc : Acc := { full := true, fmt := .v4, next := 1, count := 1, nodes := [(List.replicate 4096 0x40000000, 1)] }
def drRegs (b st : W64) : Face := { regs with s := [(1, b), (2, st), (4, 32), (5, 16)], acc := [(2, oneAcc)] }
def clrCode : List W64 := [word [(0x004, 52), (2, 48)]]
theorem test_accClear_ready : Ready (onFace (drRegs 0 64) clrCode) 0x004 (insOf clrCode) [(50, 48)] .no [] [.a 2] := ready_of (by decide +kernel)
theorem drainOk_of {s : State} {i : Ins} {fm : Fmt} (h : canIssue s 0x003 i = true)
    (q : encodingOk i [(50, 17), (15, 0)] .opt [(63, 32), (13, 8), (5, 0)] = true ∧ bits i.w 42 41 < 2 ∧
      (bits i.w 42 41 = 1 ∨ bits i.w 40 40 = 1 → i.ext = true) ∧ fmtOf (bits i.w 46 43) = some fm ∧
      (fm.isInt = true ∨ bits i.w 23 20 = 0))
    (n : canName s i (drainNames i fm) = true) : DrainOk s 9 .f i fm :=
  ⟨issuing_of h, q.1, q.2.1, q.2.2.1, q.2.2.2.1, q.2.2.2.2, named_of n⟩
/-- DRAIN of a2 into the last four vector registers: the element (63, 63) is the last of the file. -/
def drvCode : List W64 := [word [(0x003, 52), (2, 48), (1, 47), (1, 36), (2, 32)]]
theorem test_drain_vec_ready :
    let i := insOf drvCode
    let s := onFace (drRegs 28672 64) drvCode
    DrainOk s 9 .f i .fp32 ∧ bits i.w 47 47 = 1 ∧ (Tab.get {} (face s 9).acc 2 : Acc) = oneAcc ∧ oneAcc.im = false ∧
    ((sreg s 9 1).toNat, (sreg s 9 2).toNat) = (28672, 64) ∧ i.ext = false ∧
    (∀ r < 64, ∀ c < 64, 28672 + r * 64 + c < 32768 ∧ i.l.vown.getLsbD ((28672 + r * 64 + c) / 1024) = true) :=
  ⟨drainOk_of (by decide +kernel) (by decide +kernel) (by decide +kernel), by decide +kernel, rfl, rfl, by decide +kernel, by decide +kernel, by decide +kernel⟩
/-- DRAIN of a2 to T0: two rows of three as FP16, and one row of sixteen as V8 with stochastic rounding and the seam at slot 2. -/
def drCode : Nat → List W64
  | 1 => [word [(0x003, 52), (1, 51), (2, 48), (1, 43), (1, 36), (2, 32)], word [(1, 8), (2, 0)]]
  | _ => [word [(0x003, 52), (1, 51), (2, 48), (5, 43), (1, 41), (1, 36), (2, 32), (4, 28), (5, 24), (2, 17)], word [(17, 32), (0, 8), (15, 0)]]
theorem test_drain_ready : ∀ e ∈ [(1, Fmt.fp16), (5, Fmt.v8)],
    let i := insOf (drCode e.1)
    let s := onFace (drRegs 4096 64) (drCode e.1)
    DrainOk s 9 .f i e.2 ∧ e.2.isInt = false ∧ bits i.w 47 47 = 0 ∧
    (Tab.get {} (face s 9).acc (bits i.w 50 48) : Acc).im = false ∧
    (e.2.isBlock = true → (sreg s 9 (bits i.w 31 28)).toNat % 16 = 0 ∧ (sreg s 9 (bits i.w 27 24)).toNat % 16 = 0) ∧
    (∀ r < drNr i, ∀ p ∈ rowSpans e.2 (bits i.w 19 17) (drNc i), 4096 + r * 64 + p.1 + p.2 ≤ 8388608) ∧
    4096 % fmtAlign e.2 = 0 ∧ 64 % fmtAlign e.2 = 0 := by
  intro e he
  simp only [List.mem_cons, List.not_mem_nil, or_false] at he
  obtain rfl | rfl := he
  all_goals exact ⟨drainOk_of (by decide +kernel) (by decide +kernel) (by decide +kernel), by decide +kernel⟩
/-- DRAIN of a2 to INT8, two rows of three at s1, with a scale entry of exponent 0 at s3 in page 3: 2.0 saturates nowhere. -/
def driCode : List W64 := [word [(0x003, 52), (1, 51), (2, 48), (3, 43), (1, 36), (2, 32), (4, 28), (5, 24), (3, 20)], word [(17, 32), (1, 8), (2, 0)]]
def driRegs : Face := { drRegs 4096 64 with s := [(1, 4096), (2, 64), (3, 6291464), (4, 32), (5, 16)] }
theorem test_drain_scaled_ready :
    let i := insOf driCode
    let s := scaled (onFace driRegs driCode)
    let r := sliceWords (noteVa s 0 6291464 8) 0 6291464 [vaWord s 0 (6291464 / 8)]
    let w := r.2.headD ⟨0, false⟩
    DrainOk s 9 .f i .int8 ∧ bits i.w 47 47 = 0 ∧ (Tab.get {} (face s 9).acc 2 : Acc) = oneAcc ∧
    ((sreg s 9 1).toNat, (sreg s 9 2).toNat, (sreg s 9 3).toNat) = (4096, 64, 6291464) ∧
    (∀ r < drNr i, ∀ p ∈ rowSpans .int8 (bits i.w 19 17) (drNc i), 4096 + r * 64 + p.1 + p.2 ≤ 8388608) ∧
    touchesMarked (claim s 0) [(6291464, 8)] = false ∧ access (claim s 0) (whoOf s i) 6291464 8 = .ok ∧ w.poison = false ∧ scaleValid w.data = true ∧
    (intRow .int8 (scaleExp w.data) (List.replicate 3 (.ofInt 2)) (fun _ => none)).ints.any (fun c => c.ovf || c.nonfin) = false :=
  ⟨drainOk_of (by decide +kernel) (by decide +kernel) (by decide +kernel), by decide +kernel, rfl, by decide +kernel,
    by decide +kernel, by decide +kernel, (by decide +kernel : _ ∧ _)⟩

/-- A DMA instruction between page 3 and T0 address 64, 16 bytes long, that signals semaphore 4. -/
def dmaRegs (busy : Bool) : Face := { regs with
  s := [(1, 6291456), (2, 64), (3, 16), (4, 128)]
  dma := if busy then (List.range 16).map fun n => (n, ({ busy := true, len := 8, count := 1 } : Dma)) else [] }
def dmaCode (op : Nat) : List W64 :=
  [word [(op, 52), (if op = 0x301 then 1 else if op = 0x302 then 2 else 4, 47), (if op = 0x302 then 1 else 2, 43), (3, 39),
         (if op = 0x303 then 9 else 0, 32), (1, 31), (4, 25)]]
theorem test_dma_ready : ∀ busy ∈ [false, true], ∀ e ∈ [(0x301, DmaKind.t1t0), (0x302, .t0t1), (0x303, .t0t0)],
    let i := insOf (dmaCode e.1)
    let s := onFace (dmaRegs busy) (dmaCode e.1)
    let d := descriptorOf s 9 i e.2
    isReady s e.1 i [(50, 24)] .no [] [.s (bits i.w 50 47), .s (bits i.w 46 43), .s (bits i.w 42 39)] = true ∧
    (e.2 = .t0t0 ∨ (bits i.w 38 32 = 0 ∧ bits i.w 24 24 = 0)) ∧ (∀ p ∈ dmaT0 d, p.1 + p.2 ≤ 8388608) ∧
    d.src % 8 = 0 ∧ d.dst % 8 = 0 ∧ d.len % 8 = 0 ∧ 8 ≤ d.len ∧ d.len ≤ 8388608 ∧
    declares s (if d.remote then d.face else 9) i.l.req d.sem = true ∧ (e.2 = .t0t0 → faceClaim s d.face = some i.l.claim) ∧
    freeSlot s 9 = (if busy then none else some 0) ∧ dmaAccess s d = .ok := by decide +kernel
/-- Gather and scatter of two rows named by a list at T0 address 128: rows 0 and 1. -/
def rowsRegs : Face := { dmaRegs false with t0 := [(16, storeP ⟨0x0000000100000000, false⟩)] }
def rowsCode (op : Nat) : List W64 :=
  [word [(op, 52), (1, 51), (if op = 0x304 then 1 else 2, 47), (if op = 0x304 then 2 else 1, 43), (3, 39), (1, 31), (4, 25)], word [(2, 16), (4, 0)]]
theorem test_dma_rows_ready : ∀ e ∈ [(0x304, DmaKind.gather), (0x305, .scatter)],
    let i := insOf (rowsCode e.1)
    let s := onFace rowsRegs (rowsCode e.1)
    let t := t0Note s 9 [(128, 4 * 2)]
    let d : Dma := { descriptorOf s 9 i e.2 with count := 2, index := rowList t 9 128 2 }
    isReady s e.1 i [(50, 24)] .need [(31, 16), (3, 0)] [.s (bits i.w 50 47), .s (bits i.w 46 43), .s (bits i.w 42 39), .s (bits i.x 3 0)] = true ∧
    bits i.w 38 32 = 0 ∧ bits i.w 24 24 = 0 ∧ bits i.x 31 16 = 2 ∧ (sreg s 9 (bits i.x 3 0)).toNat = 128 ∧
    (∀ p ∈ dmaT0 d ++ [(128, 4 * 2)], p.1 + p.2 ≤ 8388608) ∧ d.src % 8 = 0 ∧ d.dst % 8 = 0 ∧ d.len % 8 = 0 ∧ 8 ≤ d.len ∧ d.len ≤ 8388608 ∧
    declares s 9 i.l.req d.sem = true ∧ t0Poison s 9 [(128, 4 * 2)] = false ∧ freeSlot t 9 = some 0 ∧ dmaAccess t d = .ok ∧ d.index = [0, 1] := by
  decide +kernel
def lastDma : Dma := { busy := true, src := 6291456, dst := 8388600, len := 8, count := 1, signal := true, sem := 4, req := 7 }
/-- Slot 15 of face 9 holds a transfer from page 3 to T0, with its signal. -/
def moving : State := onFace { regs with dma := [(15, lastDma)] } nopCode
theorem test_dmaDone_ready :
    let d : Dma := Tab.get {} (face moving 9).dma 15
    running moving = true ∧ d.busy = true ∧ moving.waits.any (fun w => w.who == .dma 9 15) = false ∧ dmaAccess moving d = .ok ∧
    touchesMarked (claim moving d.claim) (dmaReads d) = false ∧ badLeaves moving d.claim (dmaReads d) = [] := by decide +kernel

/-! ### Semaphores, POST, the ends of slices and requests -/

/-- Any state with stream F of face 9 changed, and the instruction it issues then. -/
def lanes (s : State) (g : Lane → Lane) : State := modLane s 9 .f g
def insAt (s : State) : Ins := (fetch s 9 .f).getD ⟨9, .f, {}, 0, 0, false⟩
/-- Semaphore 4 stands at 9: a wait for 9 and for 10, and a signal behind three and behind four. -/
def semCode (op n : Nat) : List W64 := [word [(op, 52), (4, 45), (n, 0)]]
theorem test_semWait_ready : ∀ n ∈ [9, 10], isReady (onFace regs (semCode 0x401 n)) 0x401 (insOf (semCode 0x401 n)) [(50, 45), (15, 0)] .no [] [] = true ∧
    bits (insOf (semCode 0x401 n)).w 15 0 = n ∧ declares (onFace regs (semCode 0x401 n)) 9 7 4 = true ∧ semGet (onFace regs (semCode 0x401 n)) 9 4 = 9 := by
  decide +kernel
def queued (n : Nat) : State := lanes (onFace regs (semCode 0x402 1)) fun l => { l with signals := List.replicate n (4, 1) }
theorem test_semSignal_ready : ∀ n ∈ [3, 4], isReady (queued n) 0x402 (insAt (queued n)) [(50, 45), (15, 0)] .no [] [] = true ∧
    declares (queued n) 9 7 4 = true ∧ (lane (face (queued n) 9) .f).signals.length = n := by decide +kernel
/-- A wait for all 9 of semaphore 4. -/
def semHeld : State := lanes (onFace regs nopCode) fun l => { l with stall := .sem 4 9 }
theorem test_semWaitRelease_ready : semHeld.canonical = true ∧ running semHeld = true ∧ (lane (face semHeld 9) .f).busy = true ∧
    (lane (face semHeld 9) .f).live = true ∧ (lane (face semHeld 9) .f).stall = .sem 4 9 ∧ 9 ≤ semGet semHeld 9 4 ∧
    (∀ e ∈ earlierStreams .f, waitReady semHeld 9 e = none) := by decide +kernel
/-- A pending signal that brings the counter to 65,535, and one that would take it above. -/
def pendingSignal (n : Nat) : State := lanes (onFace regs nopCode) fun l => { l with signals := [(4, n)] }
theorem test_semSignalApply_ready : ∀ n ∈ [65526, 65527], running (pendingSignal n) = true ∧ (lane (face (pendingSignal n) 9) .f).signals = [(4, n)] ∧
    semGet (pendingSignal n) 9 4 = 9 := by decide +kernel
def clrFlags : List W64 := [word [(0x404, 52), (0xFF, 0)]]
theorem test_flagClr_ready : Ready (onFace regs clrFlags) 0x404 (insOf clrFlags) [(7, 0)] .no [] [] := ready_of (by decide +kernel)
/-- POST of each summary of v1, with m1 for the count of mask bits, and branch table 5. -/
def postCode (r : Nat) : List W64 := [word [(0x501, 52), (1, 46), (r, 43), (1, 40), (5, 32)]]
theorem test_post_ready : ∀ r ∈ List.range 7, isReady (onFace regs (postCode r)) 0x501 (insOf (postCode r))
    [(50, 46), (45, 43), (42, 40), (39, 32)] .no [] (.v 1 :: (if bits (insOf (postCode r)).w 45 43 = 3 then [.m 1] else [])) = true ∧
    bits (insOf (postCode r)).w 45 43 ≠ 7 ∧ (face (onFace regs (postCode r)) 9).post = none := by decide +kernel
/-- A branch table whose entry 1 jumps to word 2 for a summary below 0, and whose entry 0 jumps to word 1. -/
def table5 : List (W64 × W64) := [(0, 1), (0, word [(2, 61), (2, 0)])]
def awaiting (x : Option Nat) : State :=
  let s := onFace { regs with post := some ⟨.f, 7, 0, 0xFFFFFFFFFFFFFFFF, 5, x⟩ } (word [(0x502, 52)] :: List.replicate 2 (word [(0x200, 52)]))
  setClaim s 0 { claim s 0 with branch := [(5, table5)] }
theorem test_postAnswer_ready : running (awaiting none) = true ∧ (face (awaiting none) 9).post = some ⟨.f, 7, 0, 0xFFFFFFFFFFFFFFFF, 5, none⟩ ∧
    Tab.get [] (claim (awaiting none) ((faceClaim (awaiting none) 9).getD 0)).branch 5 = table5 ∧
    branchHolds 0xFFFFFFFFFFFFFFFF (0, word [(2, 61), (2, 0)]) = true ∧ branchTarget table5 0xFFFFFFFFFFFFFFFF = 2 ∧ branchTarget table5 5 = 1 := by
  decide +kernel
theorem test_await_ready : ∀ x ∈ [some 2, none], isReady (awaiting x) 0x502 (insAt (awaiting x)) [] .no [] [] = true ∧
    (face (awaiting x) 9).post = some ⟨.f, 7, 0, 0xFFFFFFFFFFFFFFFF, 5, x⟩ ∧ 2 ∈ starts (insAt (awaiting x)).l.code := by decide +kernel
def endCode : List W64 := [word [(0x21F, 52)]]
/-- TICK_FENCE to the last of the two entries that the program has. -/
def fenceCode : List W64 := [word [(0x403, 52), (1, 0)]]
theorem test_sEnd_ready : Ready (onFace regs endCode) 0x21F (insOf endCode) [] .no [] [] ∧ (lane (face (onFace regs endCode) 9) .f).signals = [] :=
  ⟨ready_of (by decide +kernel), by decide +kernel⟩
theorem test_tickFence_ready : Ready (onFace regs fenceCode) 0x403 (insOf fenceCode) [(11, 0)] .no [] [] ∧
    (lane (face (onFace regs fenceCode) 9) .f).signals = [] ∧ bits (insOf fenceCode).w 11 0 < (insOf fenceCode).l.bounds.length :=
  ⟨ready_of (by decide +kernel), by decide +kernel, by decide +kernel⟩
theorem test_sliceOverrun_ready : running (onFace regs nopCode) = true ∧ (lane (face (onFace regs nopCode) 9) .f).busy = true ∧
    (lane (face (onFace regs nopCode) 9) .f).live = true := by decide +kernel
/-- A slice end on its way, and a request whose only program has ended. -/
def reporting : State := lanes (onFace regs nopCode) fun l => { l with live := false, ended := true, report := true }
theorem test_sliceComplete_ready : running reporting = true ∧ (lane (face reporting 9) .f).report = true ∧
    (findReq (modLane (flushCounts reporting 9 .f) 9 .f fun l => { l with report := false }) 7).isSome = true := by decide +kernel
def overReq : Req := { id := 7, claim := 0, tenant := none, progs := [{ progF with ended := true }], cmd := none, area := (true, 0x9000)
                       stamp := 0, started := true, failed := 0, batch := none }
def finished : State := { lanes (onFace regs nopCode) fun l => { l with live := false, ended := true } with reqs := [overReq] }
theorem test_requestEnd_ready : findReq finished 7 = some overReq ∧ running finished = true ∧ overReq.started = true ∧ overReq.progs.all (·.ended) = true ∧
    reportsOf finished overReq = false ∧ recordWaits finished overReq = false ∧ areaAbsent finished overReq = [] := by decide +kernel
/-- Requests that can fail, and that has failed. -/
theorem test_failRequest_ready : ∀ n ∈ [0, 0x0116], findReq { finished with reqs := [{ overReq with failed := n }] } 7 = some { overReq with failed := n } := by
  decide +kernel
theorem test_reserved_ready : ∀ op ∈ [0x000, 0x005, 0x100, 0xFFF], isReady (onFace regs [word [(op, 52)]]) op (insOf [word [(op, 52)]]) [] .no [] [] = true ∧
    definedOp op = false := by decide +kernel
theorem test_branchTable : table5 = (0, 1) :: table5.drop 1 ∧ (∀ e ∈ table5.drop 1, branchHolds 5 e = false) ∧
    table5.drop 1 = [] ++ (0, word [(2, 61), (2, 0)]) :: [] ∧ branchHolds 0xFFFFFFFFFFFFFFFF (0, word [(2, 61), (2, 0)]) = true := by
  have h : ((table5.drop 1).all fun e => !branchHolds 5 e) = true := by decide +kernel
  exact ⟨rfl, fun e he => by simpa using List.all_eq_true.1 h e he, rfl, by decide +kernel⟩

/-! ### Ticks, steps, sweeps, hoists -/

theorem test_tick_runs : ticksRun up (claim up 0) = true ∧ ticksRun up (claim up 1) = false := by decide +kernel
/-- Boundary 4,000 comes next and begins a window; a period change and a version switch are due there. -/
def atWindow : State := setClaim up 0 { claim up 0 with
  ticking := true, tick := 3999, tickPend := some (100, 5, 0, 4000), switch := some (2, 4000, 1, 5)
  vers := [(1, { state := .current, vid := 8 }), (2, { state := .ready, vid := 9, switchAt := 4000 })] }
theorem test_boundary_events : ticksRun atWindow (claim atWindow 0) = true ∧ nextTick (claim atWindow 0) = 4000 ∧
    isWindow (claim atWindow 0) 4000 = true ∧ (claim atWindow 0).rolled = false ∧ (claim atWindow 0).tickPend = some (100, 5, 0, 4000) ∧
    (claim atWindow 0).switch = some (2, 4000, 1, 5) ∧ switchDue atWindow 0 4000 = true := by decide +kernel
/-- A step of one row with one draft, over a vocabulary of four, and a stream that is to be parked. -/
def serve4 : Serve := { vocab := 4, batchRows := 8, chunk := 16, tubBytes := 8192, pool := 1, tags := 1, vein := 1, veinLog2 := 0, counts := 1
                        steerTab := 1, steerBuf := 1, steerBase := 1, batchTab := 1, pre := [], dec := [], maxBound := 100 }
def row5 (past : Bool) : Row :=
  { stream := 5, tenant := 2, depth := 1, pos := 10, count := 2, tubs := [0, 1], masked := false, sampled := past
    tokens := if past then [(3, false, 0, 0)] else [], accepted := 0, failed := 0 }
def batch40 (past : Bool) : Batch :=
  { id := 40, claim := 0, prefill := false, slot := 1, vid := 8, rows := [row5 past], formed := 100, ticks := 1, req := 7, ready := true
    swept := true, place := 0, faceNs := 1001, failed := 0, skip := [] }
def serving (past : Bool) : State := { setClaim up 0 { claim up 0 with serve := some serve4, ticking := true, tick := 100 } with
  streams := [(5, { state := .decode, tenant := 2, depth := 1, pos := 10, prompt := 3, limit := 200, tmap := 6291456 + 4096, hist := 6291456 + 8192
                    temp := 0x3F800000, topP := 0x3F800000, topK := 4, batch := some 40 }),
              (6, { state := .held, tenant := 2, pos := 3, prompt := 3, limit := 200, tmap := 6291456 + 4352, hist := 6291456 + 12288
                    park := some (1, 5, 0x40000) })]
  batches := [batch40 past] }
def logits : List W32 := [0x3F800000, 0, 0, 0]
theorem test_sampler_row : running (serving false) = true ∧ findBatch (serving false) 40 = some (batch40 false) ∧
    (batch40 false).rows.find? (fun r => !rowOver (serving false) (batch40 false) r) = some (row5 false) ∧
    (claim (serving false) 0).serve = some serve4 ∧ sampleTick (serving false) (batch40 false) = true ∧ [logits, logits].length = (row5 false).depth + 1 ∧ [logits].length = (row5 false).depth ∧
    (∀ z ∈ [logits, logits] ++ [logits], z.length = serve4.vocab) := by decide +kernel
theorem test_retire_point : findBatch (serving true) 40 = some (batch40 true) ∧ (batch40 true).swept = true ∧
    (batch40 true).rows.all (rowOver (serving true) (batch40 true)) = true ∧ retireAbsent (serving true) (batch40 true) = [] ∧
    (afterStamp (serving true)).time < boundaryTime (claim (serving true) 0) (nextTick (claim (serving true) 0)) := by decide +kernel
theorem test_retire_words :
    let b := batch40 true
    let s := serving true
    let commit := fun (s : State) => faceCharge (b.rows.foldl (fun s r => retireRow s b serve4 r) s) b
    let u := readSpans (afterStamp s) 0 (commitReads s b serve4)
    let veins := bucketsRead u (commit u) b serve4
    (claim s 0).turn.any (·.due) = false ∧ spansPoison u 0 (commitReads u b serve4) = false ∧
      spansPoison (readSpans u 0 veins) 0 veins = false := by decide +kernel
theorem test_park_effect : (stream (serving true) 6).park.isSome = true ∧ isLive (stream (serving true) 6) = true ∧
    (stream (serving true) 6).batch = none := by decide +kernel

/-- A sweep of two blocks of 16 parameters on page 3 under rule 0: block 1 names a parameter index that is no multiple of 128. -/
def blkAt (first : Nat) : List W64 :=
  [word [(15, 40), (first, 0)], word [(1, 56), (2, 48), (6291456 + 4096, 0)], w64 (6291456 + 8192), w64 (6291456 + 12288), 0, 0, 0, word [(5, 32)]]
def sweep0 (due started : Bool) (done : List Nat) : Sweep :=
  { descs := [blkAt 128, blkAt 129], hyper := 6291456 + 16384, fails := 6291456 + 20480, flen := 4, ring := 1, seq := 5, stamp := 10, due := due
    started := started, recs := if started then [⟨1, 0, List.replicate 8 0⟩] else [], done := done, updated := 0, failed := 0, sums := [], near := [], dropped := 0 }
def sweeping (due started : Bool) (done : List Nat) : State := setClaim up 0 { claim up 0 with
  pages := (claim up 0).pages.take 3, shift := .learning, step := 2 ^ 64 - 1, sweep := some (sweep0 due started done), canPend := some (0x00007FFF80000002, 6291456 + 65536) }
theorem test_sweepStart : running (sweeping true false []) = true ∧ (claim (sweeping true false []) 0).sweep = some (sweep0 true false []) := by
  decide +kernel
theorem test_blockUpdate : ∀ i ∈ [0, 1],
    let s := sweeping true true (if i = 0 then [] else [0])
    let w := sweep0 true true (if i = 0 then [] else [0])
    running s = true ∧ (claim s 0).sweep = some w ∧ i < w.descs.length ∧ allRead w = true ∧ w.done.contains i = false ∧
    (∀ j < i, w.done.contains j = true) ∧ homeOf s 0 w i = some 0 ∧ (blkStatus s 0 w i = 0 ↔ i = 0) ∧
    blkAbsent s 0 (blkOf w i) (blkRule w i) = [] ∧
    (∀ p ∈ blkSpans (claim s 0).extended (blkOf w i) (blkRule w i), access (claim s 0) (.request none) p.1 p.2 ≠ .bad stOwnerFault) := by decide +kernel
/-- Where every page is resident or unmapped, no access waits for a page. -/
theorem access_not_absent {k : Claim} {w : Who} {a n : Nat} {l : List Nat} (h : ∀ p, (pte k p).state = .unmapped ∨ resident (pte k p) = true) :
    access k w a n ≠ .absent l := by
  have one (p : Nat) (l : List Nat) : pageCheck k w p ≠ .absent l := by
    intro e
    unfold pageCheck at e
    rcases h p with u | u
    · simp [u] at e
    · dsimp only at e
      repeat' split at e
      all_goals simp_all
  suffices ∀ (ps : List Nat) (x : Reach), (∀ l, x ≠ .absent l) → ∀ l, ps.foldl (fun a p => match a, pageCheck k w p with
      | .bad x, _ => Reach.bad x
      | _, .bad x => .bad x
      | .absent l, .absent m => .absent (l ++ m)
      | .absent l, .ok => .absent l
      | .ok, b => b) x ≠ .absent l from this _ _ (by simp) l
  intro ps
  induction ps with
  | nil => exact fun x hx => hx
  | cons p ps ih =>
    intro x hx
    refine ih _ fun l => ?_
    have := one p
    cases x <;> cases e : pageCheck k w p <;> simp_all
theorem test_sweepEnd :
    let w := sweep0 true true [0, 1]
    let s := sweeping true true [0, 1]
    s.canonical = true ∧ (claim s 0).sweep = some w ∧ allRead w = true ∧ w.descs.length ≤ w.done.length ∧ entryWaits s 0 w = false ∧
    (claim s 0).step = 2 ^ 64 - 1 := by decide +kernel
theorem test_sweepEnd_pages : scaleAbsent 0 (claim (sweeping true true [0, 1]) 0) (sweep0 true true [0, 1]) = [] := by
  have pg (p : Nat) : (pte (claim (sweeping true true [0, 1]) 0) p).state = .unmapped ∨ resident (pte (claim (sweeping true true [0, 1]) 0) p) = true := by
    have : (claim (sweeping true true [0, 1]) 0).pages = (claim up 0).pages.take 3 := rfl
    unfold pte
    rw [this]
    by_cases a : p = 3
    · subst a; decide +kernel
    by_cases b : p = 4
    · subst b; decide +kernel
    by_cases c : p = 5
    · subst c; decide +kernel
    left
    have z : (claim up 0).pages.take 3 = [(3, { state := .t1, obj := 1, t1f := 5 }), (4, { state := .clean, obj := 1, t1f := 6, t2f := 1 }),
      (5, { state := .dirty, obj := 1, t1f := 7, t2f := 2 })] := rfl
    rw [z]
    simp [Tab.get, Ne.symm a, Ne.symm b, Ne.symm c]
  unfold scaleAbsent
  rw [List.filterMap_eq_nil_iff.2]
  · rfl
  · intro e _
    split
    · rename_i h
      exact absurd h (access_not_absent pg)
    · rfl
/-- Assay 3 of one range, at its start and with its digest. -/
def assay3 (going : Bool) : Assay :=
  { id := 3, ranges := [(6291456, 16)], compare := 0, peers := [], timeout := 100, out := 6291456 + 4096, ring := 1, seq := 5, stamp := 3, since := 0
    running := going, digests := if going then [0xABC] else [], heard := [] }
def assaying (going : Bool) : State := setClaim up 0 { claim up 0 with assays := [assay3 going] }
theorem test_assays : ∀ b ∈ [false, true], running (assaying b) = true ∧ assayOf (assaying b) 0 3 = some (assay3 b) ∧
    assayFree (claim (assaying b) 0) (assay3 b) = true ∧ access (claim (assaying b) 0) (.request none) (assay3 b).out (32 * (assay3 b).ranges.length) = .ok := by
  decide +kernel

/-- The range of the assay can be read. -/
theorem test_assay_digests :
    let a1 := { assay3 false with running := true, since := (assaying false).time }
    (match rangeDigests (noteAll (setAssay (assaying false) 0 a1) 0 a1.ranges) 0 a1 with | .ok _ => true | _ => false) = true := by decide +kernel
/-- Page 6 is being hoisted into frame 11, and page 5 written back from frame 7; the access of request 7 waits; page 4 is to be evicted. -/
def hoist6 : Hoist := { claim := 0, page := 6, back := false, near := false, engine := some 0, frame := some 11, bench := none, quarter := none
                        doomed := false, again := false, cmd := none }
def back5 : Hoist := { claim := 0, page := 5, back := true, near := false, engine := some 1, frame := some 7, bench := none, quarter := none
                       doomed := false, again := false, cmd := some (1, 5) }
def hoisting : State := { setClaim (onFace regs nopCode) 0 { setPte (setPte (claim up 0) 6 { state := .hoisting, obj := 1, t2f := 3, t1f := 11 }) 5
      { state := .writeback, obj := 1, t1f := 7, t2f := 2 } with free := [12] } with
  hoists := [hoist6, back5], waits := [⟨3, 0, 6, 400, .request 7⟩], evicts := [(0, 4, 1, 6)] }
theorem test_writebackDone : running hoisting = true ∧ theHoist hoisting 0 5 true = some back5 ∧ back5.doomed = false ∧ back5.again = false := by decide +kernel
theorem test_hoistDone : theHoist hoisting 0 6 false = some hoist6 ∧ hoist6.landed = false ∧ (claim hoisting 0).repairs = [] := by decide +kernel
/-- No leaf is under repair once the page's chunks have landed. -/
theorem test_hoistDone_landed :
    let e := pte (claim hoisting 0) 6
    let heads := (List.range 32).map (headBad hoisting e)
    let r := (List.range 32).foldl (fun (acc : State × Nat) n =>
      let x := landChunk acc.1 hoist6 e n (heads.getD n false)
      (x.1, if acc.2 = 0 then x.2 else acc.2)) ((List.range 32).foldl (fun s n => noteRun s .t2 (chunkT2 e n) 8) hoisting, 0)
    pageRepairs (claim r.1 0) e.obj 6 = false := by
  intro e heads
  have note (l : List Nat) (s : State) : (l.foldl (fun s n => noteRun s .t2 (chunkT2 e n) 8) s).claims = s.claims := by
    induction l generalizing s with
    | nil => rfl
    | cons n l ih => exact (ih _).trans (noteRun_claims ..)
  have key (l : List Nat) (acc : State × Nat) (h : acc.1.claims = hoisting.claims) :
      (l.foldl (fun (acc : State × Nat) n =>
        let x := landChunk acc.1 hoist6 e n (heads.getD n false)
        (x.1, if acc.2 = 0 then x.2 else acc.2)) acc).1.claims = hoisting.claims := by
    induction l generalizing acc with
    | nil => exact h
    | cons n l ih =>
      refine ih _ ((landChunk_claims _ _ _ _ _ ?_).trans h)
      have : claim acc.1 hoist6.claim = claim hoisting 0 := by simp only [claim, h]; rfl
      rw [this]
      decide +kernel
  intro r
  have : claim r.1 0 = claim hoisting 0 := congrArg (fun t => (Tab.get {} t 0 : Claim)) (key (List.range 32) (_, 0) (note _ _))
  rw [this]
  decide +kernel
/-- Pages whose frames lie in no granule of the claim. -/
def hoistingFar : State := setClaim hoisting 0 { claim hoisting 0 with t1g := 0, t2g := 0 }
theorem test_hoist_owned : hoistOwns (claim hoisting 0) (pte (claim hoisting 0) 6) = true ∧ hoistOwns (claim hoisting 0) (pte (claim hoisting 0) 5) = true ∧
    running hoistingFar = true ∧ theHoist hoistingFar 0 6 false = some hoist6 ∧ hoistOwns (claim hoistingFar 0) (pte (claim hoistingFar 0) 6) = false ∧
    theHoist hoistingFar 0 5 true = some back5 ∧ back5.landed = false ∧ hoistOwns (claim hoistingFar 0) (pte (claim hoistingFar 0) 5) = false := by
  decide +kernel
theorem test_fetchDeadline : timeRuns hoisting = true ∧ hoisting.waits.find? (fun w => w.id == 3) = some ⟨3, 0, 6, 400, .request 7⟩ := by decide +kernel
theorem test_hoistEvictEffect : hoisting.evicts.find? (fun e => e.1 == 0 && e.2.1 == 4) = some (0, 4, 1, 6) ∧ pageInUse hoisting 0 4 = false := by
  decide +kernel
def dying : State := setClaim up 0 (setObj (claim up 0) 1 { obj (claim up 0) 1 with dying := some (1, 5) })
theorem test_objDestroyEffect : (obj (claim dying 0) 1).dying.isSome = true := by decide +kernel
/-- The last line of T0 of a face in gating; a leaf under repair on page 4 and another on the same page. -/
def repairing : State := setClaim up 0 { claim up 0 with repairs := [(1, 33), (1, 34)] }
theorem test_scrub : running up = true ∧ 8388480 % (8 * scrubWords .t0) = 0 ∧ 8388480 / 8 + scrubWords .t0 ≤ tierWords .t0 ∧ faceGated up 9 = true ∧
    faceGated (onFace regs nopCode) 9 = false ∧ isRetired up .t0 (8388480 / 8 / pageWords) = false := by decide +kernel
theorem test_weightRepair : running repairing = true ∧ (claim repairing 0).repairs.contains (1, 33) = true ∧
    (obj (claim repairing 0) 1).base + 33 / 32 = 4 ∧
    (hasFrame (pte (claim repairing 0) 4) = true → ownsT1 (claim repairing 0) ((pte (claim repairing 0) 4).t1f / 512) = true) ∧
    ((obj (claim repairing 0) 1).t2home = true → ownsT2 (claim repairing 0) ((pte (claim repairing 0) 4).t2f / 512) = true) := by decide +kernel

/-! ### Collectives and PERMUTE sets -/

/-- Words stored from a claim address of page 3 on. -/
def stored (s : State) (va : Nat) (ws : List W64) : State :=
  { s with t1 := Tab.setRun 0 s.t1 (5 * 262144 + (va - 6291456) / 8) (ws.map fun w => storeP ⟨w, false⟩) }
/-- Device 0x040 with shaft 0 up to device 0x105, all of its frame and an open channel for claim 0; bell addresses 3 and 4. -/
def upShaft : Shaft := { state := .up, peer := 0x105, peerS := 3, auth := 1, share := [(0, 64)] }
def linked (k : Claim) : State := { setClaim up 0 { k with
    members := [(3, 0x040), (4, 0x105)], groups := [(2, some { ranks := [0x040, 0x105], self := 0, issued := 1 })] } with
  devAddr := 0x040, routes := [(0x105, 0x8000000000000001)], shafts := [(0, upShaft)] }
/-- SEND of 4 bytes to rank 1, before its start, and in its first phase. -/
def coll50 (phase : Nat) : Coll :=
  { id := 50, issue := 1, desc := [word [(0, 60), (2, 42), (1, 30)], 0, 1, w64 6291456, 0, 0, 0, 0, w64 (6291456 + 4096)], op := .send, group := 2, epoch := 0
    stamp := 7, started := phase != 0, sig := [], sigs := [], phase := phase, sends := [], got := [], progress := 900, heard := [], waitNs := 0, waitAt := 900, bytes := 0
    poison := false, lvar := false, lost := false, overcap := 0, ending := false }
def sending (phase : Nat) : State := linked { claim up 0 with colls := [coll50 phase] }
theorem test_collStart : findColl (sending 0) 0 50 = some (coll50 0) ∧ running (sending 0) = true ∧ inService (claim (sending 0) 0) = true ∧
    startWaits (sending 0) 0 (coll50 0) = .ok false ∧
    (claim (sending 0) 0).aborts.find? (fun a => a.group == (coll50 0).group && a.issue == (coll50 0).issue) = none ∧
    (coll50 0).epoch = (claim (sending 0) 0).epoch ∧ sigOf (noteTables (sending 0) 0 (coll50 0)) 0 (coll50 0) = .ok [0, 0, 0, 0, 0, 0, 1] := by decide +kernel
theorem test_collRetire : running (sending 1) = true ∧ findColl (sending 1) 0 50 = some (coll50 1) ∧ collQuiet (sending 1) 0 (coll50 1) = .ok true ∧
    land (sending 1) 0 (coll50 1) = .ok (sending 1, coll50 1) := ⟨by decide +kernel, by decide +kernel, by decide +kernel, rfl⟩
/-- A RECV that has started and has not received its word. -/
def late50 : Coll := { coll50 1 with op := .recv }
def waiting : State := linked { claim up 0 with colls := [late50] }
theorem test_collTimeout : findColl waiting 0 50 = some late50 ∧ timeRuns waiting = true ∧ late50.started = true ∧ (claim waiting 0).pset = none ∧
    awaited waiting 0 late50 = [1] := by decide +kernel
/-- A layout of four FP32 elements, two at each of two ranks, in both places of a PERMUTE. -/
def layoutVa : Nat := 6291456 + 0x3000
def layout2 : List W64 := [2, word [(4, 32)], 0, 0, w64 (6291456 + 0x100), 0, 0, word [(2, 32)], 0,
  word [(1, 52), (6291456 + 0x100, 0)], word [(2, 32)], 0, word [(2, 32)], 0]
def coll60 (phase : Nat) (started : Bool) : Coll :=
  { coll50 phase with id := 60, epoch := 1, desc := [word [(8, 60), (2, 42)], word [(1, 32)], 0, 0, 0, 0, w64 layoutVa, w64 layoutVa, w64 (6291456 + 4096)], op := .permute
                      started := started, sigs := if started then [0x105] else [] }
def set60 (phase : Nat) : Sys2Proof.Machine.PSet :=
  { epoch := 1, setm := 0, group := 2, timeout := 10000000, members := [60], issue := 1, since := 900, stamp := 7, phase := phase
    tokens := [(3 + 64 * phase, 0), (4 + 64 * phase, 0)], passed := 0, gone := [], turn := false, objs := [] }
def permuting (phase : Nat) (started : Bool) : State :=
  stored (linked { claim up 0 with colls := [coll60 phase started], pset := some (set60 phase) }) layoutVa layout2
theorem test_permute_start : findColl (permuting 0 false) 0 60 = some (coll60 0 false) ∧ startWaits (permuting 0 false) 0 (coll60 0 false) = .ok false ∧
    (∀ a ∈ groupRanks (claim (permuting 0 false) 0) (coll60 0 false), (memberBell (claim (permuting 0 false) 0) a).isSome = true) ∧
    (match sigOf (noteTables (permuting 0 false) 0 (coll60 0 false)) 0 (coll60 0 false) with | .ok fs => fs.length == 15 | _ => false) = true := by decide +kernel
theorem test_permuteFenceClear :
    let s := permuting 0 true
    let u := (setMembers s 0 (set60 0)).foldl (fun s x => noteReads (noteTables s 0 x) 0 x 1) (waitSet s 0)
    (claim s 0).pset = some (set60 0) ∧ running s = true ∧ barReached s 0 (set60 0) 0 = true ∧ barHeld (claim s 0) (set60 0) 0 = true ∧
    (match permuteGo u 0 (setMembers u 0 (set60 0)) with | .ok _ => true | _ => false) = true := by decide +kernel
theorem test_permuteStaged :
    let s := permuting 1 true
    let u := waitSet s 0
    (claim s 0).pset = some (set60 1) ∧ barReached s 0 (set60 1) 1 = true ∧ barHeld (claim s 0) (set60 1) 1 = true ∧
    (match (setMembers u 0 (set60 1)).foldl (fun acc x => bindGot acc fun s => copyIn s 0 x) (.ok u) with
      | .ok _ => true | _ => false) = true := by decide +kernel
theorem test_permuteComplete : running (permuting 2 true) = true ∧ (claim (permuting 2 true) 0).pset = some (set60 2) ∧
    barHeld (claim (permuting 2 true) 0) (set60 2) 2 = true := by decide +kernel
/-- A member past the second barrier, and one that waits at it: the token of rank 1 has not come. -/
def set60' : Sys2Proof.Machine.PSet := { set60 1 with tokens := [(3 + 64, 0)] }
def atBarrier : State := stored (linked { claim up 0 with colls := [coll60 1 true], pset := some set60' }) layoutVa layout2
theorem test_permute_timeout : findColl (permuting 2 true) 0 60 = some (coll60 2 true) ∧ timeRuns (permuting 2 true) = true ∧
    findColl atBarrier 0 60 = some (coll60 1 true) ∧ timeRuns atBarrier = true ∧ (claim atBarrier 0).pset = some set60' ∧
    setPast atBarrier 0 set60' = false ∧ silentRanks atBarrier 0 (coll60 1 true) = [1] := by decide +kernel
theorem test_epochFenceTimeout : timeRuns (permuting 0 true) = true ∧ (set60 0).phase = 0 := by decide +kernel

/-! ### Turns and versions -/

/-- A turn to the generation shift that is due, one whose set has completed, and one whose set has failed. -/
def turn1 (learning begun : Bool) (failed : Nat) : Turn :=
  { epoch := 3, learning := learning, permutes := [], serve := none, slot := 1, vid := 9, root := 6291456, entries := [], ring := 1, seq := 5
    stamp := 7, due := !begun, begun := begun, failed := failed, dropped := 0 }
def turning (u : Turn) : State := setClaim up 0 { claim up 0 with shift := if u.learning then .generation else .learning, turn := some u }
theorem test_turns : ∀ u ∈ [turn1 true false 0, turn1 false false 0, turn1 true true 0, turn1 false true 0, turn1 false true 0x50C],
    running (turning u) = true ∧ (claim (turning u) 0).turn = some u ∧ turnSlot (claim (turning u) 0) u = 0 ∧ (claim (turning u) 0).pset = none ∧
    (claim (turning u) 0).colls = [] := by
  decide +kernel
/-- A turn whose version slot has been taken since it was accepted. -/
theorem test_turn_slot_taken :
    let u := turn1 false false 0
    let s := setClaim (turning u) 0 (setVer (claim (turning u) 0) 1 { state := .building, vid := 8 })
    running s = true ∧ (claim s 0).turn = some u ∧ turnSlot (claim s 0) u ≠ 0 := by decide +kernel
/-- An entry of eight bytes on object 1, its digest that of eight bytes of 0, in a slot in a given state. -/
def entry8 (ok : Bool) : VEntry := { obj := 1, bytes := 8, digest := treeDigest (List.replicate 8 0), loaded := ok }
def versioned (st : VerState) (ok : Bool) (g : Claim → Claim) : State :=
  let k := { claim up 0 with vers := [(1, { state := st, vid := 9, entries := [entry8 ok] })], tick := 512, ticking := true, auditInt := 256 }
  linked (g k)
def load8 : Load := { slot := 1, entry := 0, source := 0, arg := 0x8000, ring := 1, seq := 5, reload := false, ent := entry8 false, since := 0 }
def loading : State := versioned .building false fun k => { k with loads := [load8] }
theorem test_weightLoadDone : theLoad loading 0 1 0 = some load8 ∧ running loading = true ∧
    access (claim loading 0) (.request none) (objBase (claim loading 0) 1) 8 = .ok ∧
    loadWords loading 0 load8 8 (.ends 0) = .ok (some [⟨0, false⟩]) ∧ treeDigest (shardBytes [⟨0, false⟩] 8) = load8.ent.digest := by
  refine ⟨rfl, by decide +kernel, by decide +kernel, by decide +kernel, congrArg treeDigest ?_⟩
  decide +kernel
def auditing (on : Bool) : State := versioned .ready true fun k => { k with audit := if on then some (1, 0, entry8 true) else none }
theorem test_versionAudit : (auditList (claim (auditing false) 0)) = [(1, 0, entry8 true)] ∧ running (auditing false) = true ∧
    inService (claim (auditing false) 0) = true ∧
    (claim (auditing false) 0).auditInt ≠ 0 ∧ (claim (auditing false) 0).ticking = true ∧
    (claim (auditing false) 0).tick % (claim (auditing false) 0).auditInt = 0 ∧ (claim (auditing false) 0).auditAt ≠ (claim (auditing false) 0).tick + 1 ∧
    (claim (auditing false) 0).audit = none :=
  ⟨rfl, by decide +kernel⟩
theorem test_versionAuditDone : running (auditing true) = true ∧ (claim (auditing true) 0).audit = some (1, 0, entry8 true) ∧
    mendPages (claim (auditing true) 0) [(objBase (claim (auditing true) 0) 1, 8)] = [] ∧ auditName (claim (auditing true) 0) 1 0 (entry8 true) = some (1, 0) :=
  by
  refine ⟨by decide +kernel, rfl, rfl, List.find?_cons_of_pos ?_⟩
  have e : verEntry (claim (auditing true) 0) 1 0 = some (entry8 true) := rfl
  have v : (ver (claim (auditing true) 0) 1).state = .ready := rfl
  simp [e, v, sameEntry]
theorem test_peerWeightRequest : shaftUp (shaft (auditing false) 0) = true ∧ tagClaim (auditing false) 0x7A7A = some 0 ∧
    tagShare (auditing false) 0 0x7A7A ≠ 0 ∧ carries (auditing false) 0 0 = true ∧ mendPages (claim (auditing false) 0) [(objBase (claim (auditing false) 0) 1, 8)] = [] ∧ (entry8 true).loaded = true ∧ slotOf (claim (auditing false) 0) 9 = some 1 ∧
    verEntry (claim (auditing false) 0) 1 0 = some (entry8 true) ∧ access (claim (auditing false) 0) (.request none) (objBase (claim (auditing false) 0) 1) 8 = .ok :=
  ⟨by decide +kernel, by decide +kernel, by decide +kernel, by decide +kernel, rfl, rfl, by decide +kernel, rfl, by decide +kernel⟩

/-! ### Shafts -/

/-- A flit of claim 0 for this device with the next SEQ, which wraps to 0. -/
def nextHdr : W64 := mkHdr 1 0x040 0x7A7A 3
def links : State := linked (claim up 0)
def flitTaken (s : State) (hdr : W64) (wrong : List Nat) : State :=
  let t := takeAck (setShaft s 0 (fecTake (shaft s 0) wrong).1) 0 hdr
  setShaft t 0 { shaft t 0 with good := fld hdr 19 10, gap := false }
/-- A shaft whose next flit ends a codeword. -/
def atCodeword : State := { links with shafts := [(0, { upShaft with rxBit := 4096 })] }
theorem test_flit_in : FlitIn links 0 nextHdr [] false (flitTaken links nextHdr []) ∧
    FlitIn atCodeword 0 nextHdr (List.range 15) false (flitTaken atCodeword nextHdr (List.range 15)) :=
  ⟨⟨by decide +kernel, by decide +kernel, by decide +kernel, by decide +kernel, by decide +kernel, rfl⟩,
   ⟨by decide +kernel, by decide +kernel, by decide +kernel, by decide +kernel, by decide +kernel, rfl⟩⟩
theorem test_codeword : cwEnds (shaft atCodeword 0) = true ∧ (wrongSymbols 544 (List.range 15)).length = 15 ∧
    (wrongSymbols 544 (List.range 16)).length = 16 := by decide +kernel
theorem test_flit_claim : ForClaim (flitTaken links nextHdr []) 0 nextHdr 0 ∧ (List.replicate 244 (0 : Byte)).length = 244 :=
  ⟨⟨by decide +kernel, by decide +kernel, by decide +kernel, by decide +kernel⟩, by decide +kernel⟩
/-- A flit for device 0x200, over shaft 1; one to which no route leads; one of a tag without a share. -/
def relaying : State := { links with routes := [(0x200, 0x8000000000000002)], shafts := [(0, upShaft), (1, { upShaft with peer := 0x200 })] }
def hdrTo (dst tag : Nat) : W64 := mkHdr 1 dst tag 3
theorem test_flit_relayed : ∀ e ∈ [((0x200, 0x7A7A), ([1], true)), ((0x201, 0x7A7A), ([], true)), ((0x200, 0x1111), ([1], false))],
    let hdr := hdrTo e.1.1 e.1.2
    let t := flitTaken relaying hdr []
    linksCarry t = true ∧ hdrDst hdr ≠ t.devAddr ∧ routeShafts t (hdrDst hdr) = e.2.1 ∧ (tagShare t 0 (hdrTag hdr) != 0) = e.2.2 := by
  decide +kernel
theorem test_flit_relayed_in : FlitIn relaying 0 (hdrTo 0x200 0x7A7A) [] false (flitTaken relaying (hdrTo 0x200 0x7A7A) []) :=
  ⟨by decide +kernel, by decide +kernel, by decide +kernel, by decide +kernel, by decide +kernel, rfl⟩
/-- A hop-scoped flit over a shaft in training that has lock, with both nonces of claim 0's authentication. -/
def locking : State := { links with shafts := [(0, { upShaft with state := .train, locked := true, toHalf := true, auth := 0, auths := [(0, { mine := some 5, peer := some 6 })] })] }
def hopHdr : W64 := mkHdr 7 0 0x7A7A 0
theorem test_hop_in : FlitIn locking 0 hopHdr [] true (flitTaken locking hopHdr []) :=
  ⟨by decide +kernel, by decide +kernel, by decide +kernel, by decide +kernel, by decide +kernel, rfl⟩
theorem test_hop_claim :
    let t := flitTaken locking hopHdr []
    0x105 ≠ t.devAddr ∧ (shaft t 0).peer = 0x105 ∧ (shaft t 0).peerS = 3 ∧ shaftUp (shaft t 0) = false ∧ hopClaim t 0 hopHdr = some 0 ∧
    (Tab.get {} (shaft t 0).auths 0 : Auth).mine = some 5 ∧ (Tab.get {} (shaft t 0).auths 0 : Auth).peer = some 6 := by decide +kernel
theorem test_flit_errors : linksRun links = true ∧ links.fatal = false ∧ shaftUp (shaft links 0) = true ∧ flitCrc nextHdr [] ≠ 0 ∧
    (∀ q ∈ [5, 0x3FF], fld (nextHdr + w64 (q * 1024)) 19 10 = q ∧
      q ≠ ((shaft (takeAck links 0 (nextHdr + w64 (q * 1024))) 0).good + 1) % 1024) ∧
    ((shaft links 0).good + 1024 - 0x3FF) % 1024 < 512 ∧ 512 ≤ ((shaft links 0).good + 1024 - 5) % 1024 := by decide +kernel
/-- Shaft 0 in any state, and with what its next slot is to send. -/
def shaftIn (st : ShaftState) : State := { links with shafts := [(0, { upShaft with state := st })] }
def hopFlit : Flit := ⟨mkHdr 7 0 0x7A7A 0, .xoff⟩
def ownFlit : Flit := ⟨mkHdr 7 0x105 0x7A7A 3, .xdone⟩
def shaftWith (hop own again : Bool) : State := { links with
  shafts := [(0, { upShaft with slot := 63, ctrl := if hop then [hopFlit] else [], queue := if own then [(0x7A7A, ownFlit, none)] else []
                                resend := if again then [(2, ownFlit)] else [] })] }
theorem test_flitSlot : ∀ e ∈ [((false, false, false), Pick.idle), ((true, true, false), .hop hopFlit), ((false, true, false), .own (0x7A7A, ownFlit, none)),
      ((false, false, true), .again)],
    let s := shaftWith e.1.1 e.1.2.1 e.1.2.2
    (shaft s 0).pend = none ∧ linksCarry s = true ∧ shaftUp (shaft s 0) = true ∧ bubbleAt s 0 < 100 ∧
      pickOf s 0 { shaft s 0 with slot := 0, bubble := bubbleAt s 0 % 100 } 63 = e.2 := by decide +kernel
theorem test_shaft_states : ∀ st ∈ [ShaftState.off, .laser, .tune, .train, .down, .up], linksRun (shaftIn st) = true ∧ (shaft (shaftIn st) 0).state = st ∧
    (shaft (shaftIn st) 0).peer ≠ 0xFFF ∧ (shaft (shaftIn st) 0).enabled = true ∧ (shaftIn st).fatal = false ∧ lasersOn (shaftIn st) = true ∧
    (shaft (shaftIn st) 0).retrains = false ∧ trained 0x0F = some (true, false) ∧ trained 0xFF = some (false, false) := by decide +kernel
/-- A shaft that retrains, with lock; a HALF shaft that uses lanes 4 to 7. -/
def retraining : State := { links with shafts := [(0, { upShaft with state := .train, locked := true, retrains := true, toHalf := true })] }
def halved : State := { links with shafts := [(0, { upShaft with state := .half, halfSel := true })] }
theorem test_shaft_retrain : linksRun retraining = true ∧ (shaft retraining 0).state = .train ∧ (shaft retraining 0).retrains = true ∧
    (shaft retraining 0).peer ≠ 0xFFF ∧ (shaft retraining 0).locked = true ∧ linksRun halved = true ∧ (shaft halved 0).state = .half ∧
    (shaft halved 0).halfSel = decide (4 ≤ 7) := by decide +kernel

/-! ### The bell -/

/-- The device at bell address 3, joined; a frame of claim 0 from address 4 with count 1 in slot 4. -/
def belling : State := { links with bell := { state := .joined, addr := 3, seen := [(4, 9), (5, 9)], master := 1 } }
def frameHead (typ : Nat) : W64 := word [(typ, 60), (4, 54), (0x7A7A, 32), (1, 0)]
@[irreducible] def frameMac (typ : Nat) : Nat := bellMac 0 0x7A7A 4 1 [frameHead typ, 0, 0, 0, 0, 0]
@[irreducible] def frameCrc (typ : Nat) : BitVec 32 :=
  crc32c (wordsBytes [frameHead typ, 0, 0, 0, 0, 0, w64 (frameMac typ)] ++ [0, 0, 0, 0])
def frame (typ : Nat) : BellRx := ⟨4, [], [frameHead typ, 0, 0, 0, 0, 0, w64 (frameMac typ), w64 ((frameCrc typ).toNat * 2 ^ 32)]⟩
theorem frame_tail (typ : Nat) : (w64 ((frameCrc typ).toNat * 2 ^ 32)).toNat = (frameCrc typ).toNat * 2 ^ 32 := by
  have h : (frameCrc typ).toNat < 2 ^ 32 := (frameCrc typ).isLt
  rw [w64, BitVec.toNat_ofNat]
  omega
theorem tail_bytes (l : List W64) (hl : l.length = 7) (c : Nat) (hc : c < 2 ^ 32) :
    (wordsBytes (l ++ [w64 (c * 2 ^ 32)])).take 60 = wordsBytes l ++ [0, 0, 0, 0] := by
  have hw : (w64 (c * 2 ^ 32)).toNat = c * 2 ^ 32 := by rw [w64, BitVec.toNat_ofNat]; omega
  have e : ∀ n, n % 256 = 0 → byte n = 0 := fun n hn => BitVec.eq_of_toNat_eq (by simpa [byte] using hn)
  have hz : (leBytes 8 (c * 2 ^ 32)).take 4 = [0, 0, 0, 0] := by
    simp only [leBytes, List.take]
    rw [e, e, e, e] <;> omega
  have ha : wordsBytes (l ++ [w64 (c * 2 ^ 32)]) = wordsBytes l ++ leBytes 8 (c * 2 ^ 32) := by
    simp only [wordsBytes, List.flatMap_append, List.flatMap_cons, List.flatMap_nil, List.append_nil, hw]
  have hn : (wordsBytes l).length = 56 := by rw [wordsBytes_length, hl]
  rw [ha, List.take_append, List.take_of_length_le (by omega), hn, hz]
theorem frame_good (typ : Nat) : rxGood (frame typ) = true := by
  have h : (frameCrc typ).toNat < 2 ^ 32 := (frameCrc typ).isLt
  have hf : fld (w64 ((frameCrc typ).toNat * 2 ^ 32)) 63 32 = (frameCrc typ).toNat := by
    rw [fld, bits, frame_tail, Nat.shiftRight_eq_div_pow]
    omega
  have hb : bellCrc (frame typ).words = (frameCrc typ).toNat := by
    have := tail_bytes [frameHead typ, 0, 0, 0, 0, 0, w64 (frameMac typ)] rfl _ h
    rw [bellCrc]
    show (crc32c ((wordsBytes ([frameHead typ, 0, 0, 0, 0, 0, w64 (frameMac typ)] ++ [w64 ((frameCrc typ).toNat * 2 ^ 32)])).take 60)).toNat = _
    rw [this, ← frameCrc]
  have hw : bellFec (frame typ) = true := by show rsGood 66 7 [] = true; decide +kernel
  simp only [rxGood, hb, hw]
  simp only [frame, List.getD_cons_succ, List.getD_cons_zero, hf]
  simp
/-- The count of the frame's claim is 1, and its tag is right. -/
theorem frame_count (typ : Nat) (h : fld (frameHead typ) 31 0 = 1) : fcount (frame typ).words = 1 := by
  have : fld (w64 ((frameCrc typ).toNat * 2 ^ 32)) 31 0 = 0 := by
    rw [fld, bits, frame_tail, Nat.shiftRight_eq_div_pow]
    omega
  simp only [fcount, frame, List.getD_cons_succ, List.getD_cons_zero, h, this]
  rfl
theorem frame_tagged (typ : Nat) (hc : fcount (frame typ).words = 1) (hs : fsrc (frame typ).words = 4) (ht : ftag (frame typ).words = 0x7A7A) :
    ((frame typ).words.getD 6 0).toNat = bellMac 0 (ftag (frame typ).words) (fsrc (frame typ).words) (fcount (frame typ).words) (frame typ).words := by
  have e : bellMac 0 0x7A7A 4 1 (frame typ).words = frameMac typ := by rw [frameMac]; rfl
  have l : frameMac typ < 2 ^ 64 := by
    rw [frameMac, bellMac]
    refine Nat.lt_of_lt_of_le (leNat_lt _) ?_
    simp [beBytes]
  rw [hc, hs, ht, e]
  show (w64 (frameMac typ)).toNat = _
  rw [w64, BitVec.toNat_ofNat, Nat.mod_eq_of_lt l]
def heard (_ : Nat) : State := noteBusy belling 4
theorem frame_other (typ : Nat) : isEcho (noteBusy belling (frame typ).slot).bell (frame typ) = false := by
  have h : (noteBusy belling 4).bell.sent = [] := by decide +kernel
  show ((_ || _) && ((frame typ).words == (if 64 ≤ 4 then _ else (noteBusy belling 4).bell.sent))) = false
  rw [h]
  simp [frame]
theorem test_frame_in : FrameIn belling 0 (frame 0) (heard 0) ∧ FrameIn belling 1 (frame 1) (heard 1) ∧ FrameIn belling 2 (frame 2) (heard 2) ∧
    FrameIn belling 3 (frame 3) (heard 3) ∧ FrameIn belling 4 (frame 4) (heard 4) ∧ FrameIn belling 5 (frame 5) (heard 5) ∧
    FrameIn belling 6 (frame 6) (heard 6) :=
  ⟨⟨by decide +kernel, by decide +kernel, frame_good 0, by decide +kernel, frame_other 0, rfl⟩,
   ⟨by decide +kernel, by decide +kernel, frame_good 1, by decide +kernel, frame_other 1, rfl⟩,
   ⟨by decide +kernel, by decide +kernel, frame_good 2, by decide +kernel, frame_other 2, rfl⟩,
   ⟨by decide +kernel, by decide +kernel, frame_good 3, by decide +kernel, frame_other 3, rfl⟩,
   ⟨by decide +kernel, by decide +kernel, frame_good 4, by decide +kernel, frame_other 4, rfl⟩,
   ⟨by decide +kernel, by decide +kernel, frame_good 5, by decide +kernel, frame_other 5, rfl⟩,
   ⟨by decide +kernel, by decide +kernel, frame_good 6, by decide +kernel, frame_other 6, rfl⟩⟩
theorem test_frame_auth : ∀ typ ∈ [2, 3, 4, 5, 6], FrameAuth (heard typ) (frame typ) 0 ∧ tagClaim (noteBusy belling 4) (ftag (frame typ).words) = some 0 := by
  intro typ h
  have e : ∀ n ∈ [2, 3, 4, 5, 6], fld (frameHead n) 31 0 = 1 ∧ fld (frameHead n) 59 54 = 4 ∧ BitVec.ofNat 16 (fld (frameHead n) 47 32) = (0x7A7A : W16) ∧
    tagClaim (noteBusy belling 4) (BitVec.ofNat 16 (fld (frameHead n) 47 32)) = some 0 ∧
    tagClaim (heard n) (BitVec.ofNat 16 (fld (frameHead n) 47 32)) = some 0 ∧ Tab.get 0 (claim (heard n) 0).fseen 4 < 1 ∧
    (claim (heard n) 0).key = 0 := by decide +kernel
  obtain ⟨a, b, c, d, f, g, k⟩ := e typ h
  have hc := frame_count typ a
  refine ⟨⟨f, ?_, ?_⟩, d⟩
  · rw [hc]; exact (congrArg (fun n => Tab.get 0 (claim (heard typ) 0).fseen n < 1) b).mpr g
  · rw [k]; exact frame_tagged typ hc b c
theorem test_join_sent : belling.bell.state ≠ .measure := by decide +kernel
/-- A device that measures its loop, and hears its own JOIN frame, after the samples `l` and `n` spreads. -/
def measuring (l : List Nat) (n : Nat) : State :=
  { links with bell := { state := .measure, addr := 3, samples := l, spreads := n, sent := (frame 1).words } }
theorem test_own_join : rxGood (frame 1) = true ∧ (∀ l n, (frame 1).words = (measuring l n).bell.sent) ∧
    ∀ e ∈ [(0, links.time), (7, links.time), (7, links.time + 1), (7, links.time + 2)], ∀ n ∈ [0, 3],
    let s := measuring (List.replicate e.1 e.2) n
    let d := s.time - fbody (frame 1).words 1
    let l := s.bell.samples ++ [d]
    bellRuns s = true ∧ s.bell.state = .measure ∧ s.bell.samples.length < 8 ∧ ftyp (frame 1).words = 1 ∧ l.length = e.1 + 1 ∧
      l.foldl max 0 - l.foldl min d = (if e.1 = 0 then 0 else e.2 - links.time) ∧ s.bell.spreads = n :=
  ⟨frame_good 1, fun _ _ => rfl, by decide +kernel⟩
/-- A TICK frame whose count is 0, the last one accepted. -/
def staleFrame : BellRx := ⟨4, [], [word [(2, 60), (4, 54), (0x7A7A, 32)], 0, 0, 0, 0, 0, 0, w64 (4034940821 * 2 ^ 32)]⟩
def overheard : State := noteBusy belling 4
theorem test_stale_frame : FrameIn belling 2 staleFrame overheard ∧ tagClaim (noteBusy belling 4) (ftag staleFrame.words) = some 0 ∧
    fcount staleFrame.words ≤ Tab.get 0 (claim overheard 0).fseen (fsrc staleFrame.words) :=
  ⟨⟨by decide +kernel, by decide +kernel, by decide +kernel, by decide +kernel, by decide +kernel, rfl⟩, by decide +kernel, by decide +kernel⟩
/-- The bell port at the steps of joining; a frame of its own in flight that has met 14 collisions; four bad echoes. -/
def locks : State := { links with bell := { state := .lock, addr := 3 } }
def flying : BellQ := { prio := 2, claim := 0, words := [word [(2, 60)]], hits := 14, skip := 0 }
def collided : State := { belling with bell := { belling.bell with flying := some flying, bad := 4 } }
theorem test_bell_events : bellRuns locks = true ∧ locks.bell.state = .lock ∧ locks.bell.cycles = 0 ∧ bellRuns collided = true ∧
    collided.bell.state = .joined ∧ rxGood ⟨64, [], []⟩ = false ∧ (badBurst (noteBusy collided 64) 64 true).bell.flying = some flying ∧
    flying.hits + 1 ≠ 16 ∧ 4 ≤ collided.bell.bad ∧ collided.bell.isMaster = false := by decide +kernel
/-- The tick master's own claim, a claim that hears another's, and a claim with a lag episode. -/
def mastering (m : Nat) : State := setClaim belling 0 { claim belling 0 with master := m, lag := some ⟨500, 900⟩ }
def sympathised : State := { mastering 4 with winder := { up.winder with symp := [⟨0, 5, 3, some 5000, 900⟩] } }
theorem test_bell_sends : ∀ m ∈ [3, 4], inService (claim (mastering m) 0) = true ∧ (claim (mastering m) 0).members ≠ [] ∧
    isTickMaster (mastering m) (claim (mastering m) 0) = (m == 3) ∧ bellRuns (mastering m) = true ∧ timeRuns (mastering m) = true ∧
    (mastering m).bell.queue = [] ∧ (claim (mastering m) 0).tickLost = false ∧ 2 ≤ (claim (mastering m) 0).members.length ∧
    (mastering m).bell.state = .joined ∧ (claim (mastering m) 0).lag = some ⟨500, 900⟩ ∧ lagReasons (mastering m).winder = [] := by decide +kernel
/-- A reason that a lag notice announces, in no episode yet and in one; 32 cycles since the last TICK frame. -/
def lagging (l : Option LagEpisode) : State := setClaim { belling with winder := { up.winder with reasons := [(0, { on := true, start := 600 })] } } 0
  { claim belling 0 with master := 3, lag := l, tickCyc := 32 }
theorem test_bell_lag : ∀ l ∈ [none, some ⟨500, 900⟩], lagReasons (lagging l).winder = [0] ∧ (claim (lagging l) 0).lag = l ∧
    inService (claim (lagging l) 0) = true ∧ bellRuns (lagging l) = true ∧ timeRuns (lagging l) = true ∧ 32 ≤ (claim (lagging l) 0).tickCyc ∧
    isTickMaster (lagging l) (claim (lagging l) 0) = true ∧ (lagging l).bell.queue = [] ∧ (lagging l).bell.state = .joined := by decide +kernel
theorem test_tick_unjoined :
    let s := { lagging none with bell := { (lagging none).bell with state := .lock } }
    inService (claim s 0) = true ∧ (claim s 0).members ≠ [] ∧ isTickMaster s (claim s 0) = true ∧ bellRuns s = true ∧ 32 ≤ (claim s 0).tickCyc ∧
      s.bell.state ≠ .joined := by decide +kernel
/-- The cycle master's slot has been empty for 8 cycles. -/
theorem test_takeover :
    let s := { belling with bell := { belling.bell with quiet := 8 } }
    bellRuns s = true ∧ s.bell.state = .joined ∧ s.bell.isMaster = false ∧ 8 ≤ s.bell.quiet ∧ s.bell.next = none := by decide +kernel
theorem test_sympathy : timeRuns sympathised = true ∧
    sympathised.winder.symp.find? (fun x => x.claim == 0 && x.src == 5) = some ⟨0, 5, 3, some 5000, 900⟩ := by decide +kernel

/-! ### The winder, errors, boot, power and pins -/

/-- The device at operating point 12, with a raise under way, and bench 2 trimmed to 40 mV. -/
def wound : State := { up with winder := { up.winder with op := 12, raise := some 13, trim := [(2, 80)] } }
theorem test_winder : winderRuns wound = true ∧ wound.winder.raise = some 13 ∧ wound.power = .s0 ∧ ([Rail.vinB0].any feedsBench) = true ∧
    trimOf wound.winder 1 < 80 ∧ 80 ≤ trimOf wound.winder 2 := by decide +kernel
/-- The hottest sample at both ends of the loop's band, and recovery with and without a cool interval under way. -/
def warm (h : Int) (rec : Bool) (cool : Option Nat) : State := { up with winder := { up.winder with hottest := h, recovery := rec, cool := cool } }
theorem test_thermal : (∀ h ∈ [(352 : Int), 353, 360], winderRuns (warm h false none) = true ∧ (warm h false none).winder.hottest = h) ∧
    (∀ c ∈ [none, some 0], winderRuns (warm 390 true c) = true ∧ (warm 390 true c).winder.recovery = true ∧ (warm 390 true c).winder.cool = c) ∧
    up.pins.trip = false ∧ up.pins.good.contains .vddAux = true := by decide +kernel
theorem test_errors : headframeRuns up = true ∧ up.fatal = false ∧ up.fenced.contains 3 = false ∧ up.pins.perst = false ∧
    (Tab.get 0 { up with fabric := [(2, 15)] }.fabric 2) + 1 = 16 ∧
    fenceDue { up with t2Errs := List.replicate 16 (3, 2, 500) } 3 = true := by decide +kernel
/-- The device held, and at each stage of its boot. -/
def booting (st : Machine.Boot) (perst : Bool) : State := { up with boot := { up.boot with stage := st }, pins := { up.pins with perst := perst } }
theorem test_boot : aditUp up = true ∧ (booting .held true).pins.perst = true ∧ (booting .held true).pins.good.contains .vddAux = true ∧
    (∀ st ∈ [Boot.straps, .adit], (booting st false).pins.perst = false ∧ (booting st false).pins.stopped = false ∧ (booting st false).power = .s0 ∧
      (booting st false).boot.stage = st) ∧ firmwareRuns up = true := by decide +kernel
/-- Four virtual functions are enabled. -/
theorem test_flr : aditUp { up with vfs := 4 } = true ∧ (4 : Fin 33).val ≤ { up with vfs := 4 }.vfs ∧ { up with vfs := 4 }.vfs < (5 : Fin 33).val := by
  decide +kernel
def entering (p : Power) : State := { up with entry := some { target := p, cmd := none, retained := [], wake := false } }
def asleep (x : Option WakeCause) : State := { up with power := .s1, exit := x }
theorem test_power : (∀ p ∈ [Power.s1, .s2, .s3, .s4], running (entering p) = true ∧ (entering p).entry.map (·.target) = some p) ∧
    (asleep none).fatal = false ∧ inS1S2 (asleep none) = true ∧ (asleep none).exit = none := by decide +kernel
theorem test_wake : (∀ c ∈ [WakeCause.bar2, .mctp], wakes (asleep none) c = true ∧ inS1S2 (asleep (some c)) = true ∧ (asleep (some c)).exit = some c) ∧
    { up with power := .s3, boot := { up.boot with waking := true } }.power = .s3 := by decide +kernel
theorem test_rails :
    let s := { up with pins := { up.pins with good := [.vddIo, .vddAux, .vinB0], perst := true } }
    s.pins.good.contains .vinB1 = false ∧ feedsBench .vinB0 = true ∧ up.pins.good.contains .vinB0 = true ∧ up.pins.perst = false ∧
    up.pins.stopped = false ∧ up.power ≠ .s4 ∧ up.pins.good.contains .vddLas = true ∧ tapWorks s = true ∧ linksRun up = true ∧ lasersOn up = true ∧ ioRail .vddIo = true ∧
    up.pins.good.contains .vddIo = true := by
  decide +kernel
theorem test_tap : ∀ c ∈ [(0x02 : Byte), 0x03, 0x06, 0x07],
    let s := { up with pins := { up.pins with perst := true, tap := c } }
    tapLoaded true c = c ∧ tapWorks s = true ∧ s.pins.trip = false ∧ tapRegister s = (96, s.pins.bound.toNat) := by decide +kernel
/-- The word of the identification register, from the manual. -/
theorem test_idRegister : idRegister.toNat = 0x0961278B := by decide +kernel

/-! ### The host -/

/-- Ring 1 bound to function 3 for claim 0, out of use and in use; window entry 0 of function 3 on frame 0's granule. -/
def hostState (en : Bool) : State := { up with
  rings := [(1, { bound := true, cls := .claim, fn := 3, claim := 0, enable := en, w3 := word [(4, 56), (4, 51)], unsig := 1, unsigAt := 5 })]
  fns := [(3, { fcValid := true, fcClaim := 0, window := [(0, 0x8000000000000000)] }), (4, { window := [(0, 0x8000000000000000)] })]
  outqs := [(1, { conf := true, fn := 3, log2 := 4, unsig := 1, unsigAt := 5 })] }
theorem test_hostRings :
    let s := hostState false
    let e := hostState true
    aditUp s = true ∧ (ring s 1).bound = true ∧ (ring s 1).fn = 3 ∧ (ring s 1).enable = false ∧ (ring s 1).out = [] ∧ s.fatal = false ∧
    (ring e 1).enable = true ∧ (ring e 1).err = 0 ∧ ringState (ring e 1) = 2 ∧ (ring e 1).unsig ≠ 0 ∧
    (∀ off ∈ [ringOff 1 3, bellOff 1 0, bellOff 1 1, outqOff 1], tlpTaken s false 3 off = true ∧ tlpTaken { s with vfs := 2 } false 3 off = false) ∧
    (outq s 1).conf = true ∧ (outq s 1).fn = 3 ∧ 15 < 2 ^ (outq s 1).log2 ∧ (outq s 1).unsig ≠ 0 := by decide +kernel
/-- The last granule that there is, one that the claim does not own, and one out of range. -/
theorem test_hostWindows :
    let s := hostState false
    (fnOf s 3).fcValid = true ∧ ownsT1 (claim s 0) 0 = true ∧ ownsT1 (claim s 0) 767 = false ∧ ¬ (768 ≤ 767) ∧
    (∀ off ∈ [fnOff 3 0, fnOff 3 1, fnOff 3 (64 + 63)], tlpTaken s false 0 off = true) ∧ tlpTaken s false 3 (fnOff 3 1) = true := by decide +kernel
/-- Function 3 reads eight bytes of its window, an entry without a granule, and function 4's entry, whose function has no claim. -/
theorem test_hostMemory :
    let s := hostState false
    aditUp s = true ∧ s.power = .s0 ∧ (∀ off ∈ [4, 0x40000000], tlpTaken s true 3 off = true) ∧ barCheck s 3 4 8 = .words [0, 1] ∧ barCheck s 3 0x40000000 8 = .unmapped ∧
    barCheck { s with claims := [] } 3 4 8 = .foreign 0 ∧ (fnOf s 3).fcValid = true := by decide +kernel
theorem test_hostVector : (47 : Nat) < vectors 3 ∧ tlpTaken (hostState false) false 3 (vecOff 47) = true ∧ aditUp (hostState false) = true := by decide +kernel
theorem test_registerReads :
    let s := hostState false
    ringSeen s 3 1 = true ∧ ringSeen s 4 1 = false ∧ (0x2018 % 8 = 0) ∧ 0x2001 % 4 ≠ 0 ∧
    (∀ off ∈ [0x28, 0x2001, 0x2018, 0x10000 + 64 * 1], hostOn s false 3 off = true) ∧ hostOn { s with power := .s3 } false 3 0 = false ∧
    tlpTaken s false 0 0x2008 = true ∧ tlpTaken s false 0 0x2018 = true ∧ (3 : Fin 33).val ≤ s.vfs ∧
    (booting .straps false).pins.perst = false ∧ (booting .straps false).pins.stopped = false ∧ timeRuns (booting .straps false) = true := by decide +kernel
/-- The connection at each of its stages; a session, an exchange, a kept message. -/
def spdm (n : Nat) (session exch : Bool) (kept : Option (List Byte)) : State :=
  { up with side := { up.side with stage := n, session := session, exchange := exch, kept := kept } }
theorem test_spdm : ∀ n ∈ [1, 2, 3], ∀ b ∈ [false, true], doeRuns (spdm n b b none) = true ∧ (spdm n b b none).side.stage = n ∧
    (spdm n b b none).side.session = b ∧ (spdm n b b none).side.exchange = b ∧ (spdm n b b (some [])).side.kept = some [] ∧
    (spdm n b b none).side.ver = 0x12 := by decide +kernel
/-- The request of version 1.2 with slot and summary 0, and with the base point of the curve as the peer's public value; the
standard id 3 of a vendor-defined one. -/
def kexMsg : List Byte := [0x12, 0xE4, 0, 0] ++ List.replicate 36 0 ++ beBytesB 48 p384G.1 ++ beBytesB 48 p384G.2
theorem test_spdm_messages : (kexMsg.headD 0).toNat = 0x12 ∧ kexMsg.length ≤ 16376 ∧ dsc kexMsg 2 1 = 0 ∧ dsc kexMsg 3 1 = 0 ∧
    measureSummaryOk (dsc kexMsg 2 1) = true ∧ measureSummaryOk (dsc kexMsg 3 1) = true ∧ dsc [0x12, 0xFE, 0, 0, 3, 0] 4 2 = 3 ∧
    (([0x10] : List Byte).headD 0).toNat = 0x10 ∧ (([0x13] : List Byte).headD 0).toNat = 0x13 := by decide +kernel
theorem test_spdm_long : 16376 < (List.replicate 16377 (0 : Byte)).length ∧ (spdm 0 false false none).side.stage ≠ 1 := by
  rw [List.length_replicate]; decide
theorem test_keyExchange (d : Nat) : ∃ z, ecdheShared d ((kexMsg.drop 40).take 96) = some z := by
  have h : ¬ (((kexMsg.drop 40).take 96).length ≠ 96 ∨
      (!p384On (beNatB (((kexMsg.drop 40).take 96).take 48), beNatB (((kexMsg.drop 40).take 96).drop 48))) = true) := by decide +kernel
  unfold ecdheShared
  dsimp only
  rw [if_neg h]
  exact ⟨_, rfl⟩
theorem test_certChain : 0 < (certChain up 0).length ∧ 0 < (certChain up 1).length := by constructor <;> simp [certChain] <;> omega
theorem keccakRound_length (a : List Nat) (rc : Nat) : (keccakRound a rc).length = 25 := by
  unfold keccakRound
  dsimp only
  split
  · rename_i h; have := congrArg List.length h; simpa using this.symm
  · rename_i h; have := congrArg List.length h; simp at this
theorem keccakF_length (a : List Nat) : (keccakF a).length = 25 := by
  rw [keccakF, List.range_succ, List.foldl_append, List.foldl_cons, List.foldl_nil]
  exact keccakRound_length ..
theorem fold25 (g : List Nat → List Byte → List Nat) (hg : ∀ s b, (g s b).length = 25) (l : List (List Byte)) (s : List Nat) (h : s.length = 25) :
    (l.foldl g s).length = 25 := by
  induction l generalizing s with
  | nil => exact h
  | cons b l ih => exact ih _ (hg s b)
theorem words8 (l : List Nat) : (l.flatMap (leBytes 8)).length = 8 * l.length := by
  induction l with
  | nil => rfl
  | cons x l ih => rw [List.flatMap_cons, List.length_append, ih, leBytes_length, List.length_cons]; omega
theorem sha3Bytes_length (m : List Byte) : (sha3Bytes m).length = 32 := by
  have take4 (l : List Nat) (h : l.length = 25) : ((l.take 4).flatMap (leBytes 8)).length = 32 := by
    rw [words8, List.length_take, h]; rfl
  unfold sha3Bytes
  exact take4 _ (fold25 _ (fun _ _ => keccakF_length _) _ _ (List.length_replicate ..))
theorem hmac_length (k m : List Byte) : (hmac k m).length = 32 := sha3Bytes_length _
def finishMsg (k : Session) : List Byte := [0x12, 0xE5, 0, 0] ++ hmac (finishedKey k "req") (sha3Bytes (k.thKex ++ [0x12, 0xE5, 0, 0]))
theorem test_finish (k : Session) : finishGood k (finishMsg k) = true ∧ (finishMsg k).length = 36 ∧ (finishMsg k).headD 0 = 0x12 := by
  have l : (finishMsg k).length = 36 := by rw [finishMsg, List.length_append, hmac_length]; rfl
  have h1 : (finishMsg k).take (36 - 32) = [0x12, 0xE5, 0, 0] := by rw [finishMsg]; exact List.take_left' rfl
  have h2 : (finishMsg k).drop (36 - 32) = hmac (finishedKey k "req") (sha3Bytes (k.thKex ++ [0x12, 0xE5, 0, 0])) := by
    rw [finishMsg]; exact List.drop_left' rfl
  exact ⟨by rw [finishGood, l, h1, h2]; exact beq_self_eq_true _, l, rfl⟩
theorem test_finish_state (k : Session) :
    let s := { spdm 3 false true none with side := { (spdm 3 false true none).side with keys := some k } }
    doeRuns s = true ∧ s.side.exchange = true ∧ s.side.keys = some k ∧ s.side.ver = 0x12 := (⟨rfl, rfl, rfl, rfl⟩)
/-- The check value of CRC-8 with polynomial 0x07 over the digits 1 to 9. -/
theorem test_crc8 : crc8 ([0x31, 0x32, 0x33, 0x34, 0x35, 0x36, 0x37, 0x38, 0x39].map byte) = 0xF4 := by decide +kernel
theorem test_ide : ∀ n ∈ [Ide.secure], aditUp { up with side := { up.side with ide0 := n, ide1 := n } } = true := by decide +kernel
/-- Vendor headers, and the sideband in S0. -/
def vHdr : VendorHdr := { inst := 0, reserved := 0, pecOk := true }
theorem test_vendor : portRuns up = true ∧ up.power = .s0 ∧ up.boot.stage = .ready ∧ up.fatal = false ∧ vHdr.pecOk = true ∧ vHdr.reserved = 0 ∧
    up.entry = none ∧ (entering .s2).entry ≠ none ∧ portRuns (asleep none) = true ∧ (asleep none).power = .s1 ∧ (asleep none).fatal = false := by
  decide +kernel
/-- A state of canonical form in which a word of T2 is fenced and one is not. -/
theorem test_canonical :
    let s := { up with fenced := [0] }
    s.canonical = true ∧ isFenced s .t2 0 = true ∧ isFenced s .t1 0 = false := by decide +kernel

/-! ### Lervo commands -/

/-- Ring 1 of a class holds one packet of that opcode with these words, for claim 0; its queues and shadow lie in host memory. -/
def sent (cls : RingClass) (op : Nat) (ps : List W64) (s : State) : State :=
  hostWrite (setRing s 1 { bound := true, cls := cls, claim := 0, enable := true, w0 := 0x1000000, w1 := 0x2000000, w2 := 0x3000000
                           w3 := word [(4, 56), (4, 51)], sqTail := 1, last := 4 })
    0x1000000 (wordsBytes (word [(op, 52), (1, 40), (5, 0)] :: ps ++ List.replicate (7 - ps.length) 0))
/-- The tests of `Served`. -/
def isServed (s : State) (op : Nat) (used : List Nat) : Bool :=
  s.canonical && cmdsRun s && nextRing s == some 1 && hostOk s (packetAt (ring s 1)) 64 && packetOp s 1 == op &&
  packetSeq s 1 == (ring (takePacket s 1) 1).last + 1 && gate (takePacket s 1) 1 (ring (takePacket s 1) 1) (packet s 1) used == 0
theorem served_of {s : State} {op : Nat} {used : List Nat} (h : isServed s op used = true) : Served s 1 op used := by
  simp only [isServed, Bool.and_eq_true, beq_iff_eq] at h
  exact ⟨⟨h.1.1.1.1.1.1, h.1.1.1.1.1.2, h.1.1.1.1.2, h.1.1.1.2, h.1.1.2⟩, h.1.2, h.2⟩
/-- The packet is served, and what else a statement asks of the state and of its call holds. -/
def meets (cls : RingClass) (op : Nat) (ps : List W64) (used : List Nat) (s : State) (p : State → Call → Bool) : Bool :=
  isServed (sent cls op ps s) op used && p (consumed (sent cls op ps s) 1) (callOf (sent cls op ps s) 1)
def free (_ : State) (_ : Call) : Bool := true
theorem test_ringCommands :
    meets .management 0x001 [0x5000] [whole] up (fun t _ => hostOk t 0x5000 16384) = true ∧
    meets .management 0x002 [word [(1, 39), (0, 36), (5, 0)], 0x6000, 0x7000] [span 39 0, whole, whole] up (fun t k => decide (par k 1 17 7 < vectors (ring t 1).fn)) = true ∧
    meets .claim 0x002 [word [(1, 0)], 0x6000, 0x7000] [span 39 0, whole, whole] up (fun _ k => par k 1 38 36 == k.c) = true ∧
    meets .management 0x003 [word [(0, 16), (3, 10), (1, 8), (9, 0)]] [span 18 0] up (fun t _ => !(ring t 9).bound && claimThere (claim t 0)) = true ∧
    meets .management 0x004 [9] [span 7 0] (setRing up 9 { bound := true }) (fun t _ => (ring t 9).bound && ringState (ring t 9) == 1 && (ring t 9).out.isEmpty) = true := by decide +kernel
theorem test_wrong_seq :
    let s := sent .management 0x001 [0x5000] up
    let u := setRing s 1 { ring s 1 with last := 7 }
    Taken u 1 0x001 ∧ packetSeq u 1 ≠ (ring (takePacket u 1) 1).last + 1 :=
  ⟨⟨by decide +kernel, by decide +kernel, by decide +kernel, by decide +kernel, by decide +kernel⟩, by decide +kernel⟩
theorem test_gate :
    let s := sent .claim 0x003 [9] up
    gate (takePacket s 1) 1 (ring (takePacket s 1) 1) (packet s 1) [span 18 0] ≠ 0 ∧
    meets .management 0x0FF [] (List.replicate 7 whole) up (fun _ _ => !lervoOps.contains 0x0FF) = true := by decide +kernel

/-- Words in host memory. -/
def withHost (a : Nat) (ws : List W64) (s : State) : State := hostWrite s a (wordsBytes ws)
/-- Words in claim memory, from an offset in page 3. -/
def withVa (o : Nat) (ws : List W64) (s : State) : State := stored s (6291456 + o) ws
def cl (g : Claim → Claim) (s : State) : State := setClaim s 0 (g (claim s 0))
def va (o : Nat) : W64 := w64 (6291456 + o)
def readsOk (t : State) (c a n : Nat) : Bool := access (claim t c) (.request none) a n == .ok && (match goodBytes t c a n with | .ok _ => true | _ => false)
theorem test_claimDestroy : ∀ op ∈ [0x011, 0x012], meets .management op [0] [span 2 0] up (fun t _ => (claim t 0).live && (claim t 0).creating.isNone && (claim t 0).clearing.isNone) = true := by
  decide +kernel
theorem test_claimQuery : meets .management 0x013 [0, 0x8000] [span 2 0, whole] up (fun t _ => (claim t 0).live && hostOk t 0x8000 768) = true := by decide +kernel
theorem test_claimClearDone :
    let s := cl (fun k => { k with clearing := some (1, 5, true) }) up
    running s = true ∧ s.boot.stage = .ready ∧ (claim s 0).clearing = some (1, 5, true) ∧ 1 % 256 = 1 := by decide +kernel
theorem test_regionRetire : ∀ l ∈ [[], [(false, 900)]], meets .management 0x020 [0, 900] [span 0 0, span 19 0] { up with retired := l } (fun t _ =>
    decide (900 < frameLimit false) && !t1Used t 900 && t.retired.contains (false, 900) == !l.isEmpty) = true := by decide +kernel
theorem test_regionRetire_used : meets .management 0x020 [0, 5] [span 0 0, span 19 0] up (fun t _ => t1Used t 5) = true := by decide +kernel
theorem test_regionRestore : meets .management 0x021 [0, 900] [span 0 0, span 19 0] { up with retired := [(false, 900)] } (fun t _ =>
    t.retired.contains (false, 900)) = true := by decide +kernel
theorem test_regionList : meets .management 0x022 [0x8000] [whole] up (fun t _ => hostOk t 0x8000 16384) = true := by decide +kernel
theorem test_shaftAddrSet : meets .management 0x030 [0xFFF] [span 11 0] up (fun t _ => (List.range 52).all fun i => (shaft t i).state == .off) = true := by
  decide +kernel
theorem test_shaftCtl : meets .management 0x031 [1] [span 51 0] links free = true := by decide +kernel
theorem test_shaftQuery : meets .management 0x032 [51, 0x8000] [span 5 0, whole] links (fun t _ => hostOk t 0x8000 128) = true := by decide +kernel
/-- Shaft 0's whole frame: 32 to claim 0 and 32 to a relayed tag. -/
theorem test_shaftShareSet :
    let bits := span 63 48 + span 39 32 + span 31 16 + span 7 0
    meets .management 0x033 [0, 32, word [(0x1111, 48), (32, 32)]] [span 5 0, whole, bits, bits, bits, bits] links (fun t _ =>
      (claim t 0).live && shareHeld t 0 0 == 0) = true ∧
    meets .management 0x033 [1, 32, word [(0x1111, 48), (32, 32)]] [span 5 0, whole, bits, bits, bits, bits] links (fun t _ =>
      (List.range 8).all fun c => shareHeld t 1 c == 0 && Tab.get 0 (nextShares (shaft t 1)).1 c == 0) = true := by decide +kernel
theorem test_shaftAuth : meets .management 0x034 [0] [span 5 0 + span 10 8] links (fun t _ =>
    inService (claim t 0) && Tab.get 0 (shaft t 0).share 0 != 0 && shaftUp (shaft t 0)) = true := by decide +kernel
theorem test_routeSet : ∀ v ∈ [0x8000000000000001, (0 : Nat)], meets .management 0x035 [0x105, w64 v] [span 11 0, span 63 63 + span 51 0] links (fun t _ =>
    shaftUp (shaft t 0) && t.devAddr != 0x105) = true := by decide +kernel
theorem test_bellJoin : meets .management 0x040 [63] [span 5 0] up (fun t _ => t.bell.state == .off) = true ∧
    meets .management 0x040 [63] [span 5 0] belling (fun t _ => t.bell.state != .off) = true ∧ (∀ s ∈ [up, locks, belling], meets .management 0x041 [] [] s free = true) := by decide +kernel
theorem test_bellClaimSet : meets .management 0x042 [word [(1, 24), (3, 8)], 0x8000] [span 2 0 + span 13 8 + span 16 16 + span 30 24, whole]
    (withHost 0x8000 [word [(0x040, 16), (3, 0)]] links) (fun t _ => inService (claim t 0) && (claim t 0).pset.isNone && hostOk t 0x8000 4 &&
      (chunks 4 (hostRead t 0x8000 4)).map leNat == [0x00400003] && t.devAddr == 0x040) = true := by decide +kernel
theorem test_bellQuery : meets .management 0x043 [0x8000] [whole] belling (fun t _ => hostOk t 0x8000 72) = true := by decide +kernel
theorem test_objDestroy : meets .claim 0x102 [1] [span 11 0] up (fun t _ => (obj (claim t 0) 1).live && (obj (claim t 0) 1).dying.isNone && !objHeld (claim t 0) 1) = true ∧
    meets .claim 0x102 [1] [span 11 0] (cl (fun k => { k with serve := some serve4 }) up) (fun t _ => objHeld (claim t 0) 1) = true := by decide +kernel
theorem test_objQuery : meets .claim 0x103 [0xFFF] [span 11 0] up free = true ∧ meets .claim 0x104 [word [(1, 12), (1, 0)]] [span 12 0] up free = true ∧
    meets .claim 0x105 [va 0] [vaBits] up free = true := by decide +kernel
/-- Pages 3 to 5 of claim 0 are resident, and page 6 is not. -/
theorem test_hoistPrefetch : ∀ n ∈ [(3, 0), (4, 1)], meets .claim 0x106 [va 0, w64 n.1] [vaBits, span 23 0] up (fun t k =>
    let ps := (List.range (par k 2 23 0)).map (par k 1 47 21 + ·)
    (ps.all fun p => (pte (claim t 0) p).state != .unmapped) && (ps.filter fun p => !resident (pte (claim t 0) p)).length == n.2) = true := by decide +kernel
theorem test_hoistEvict : ∀ e ∈ [(9, PageState.unmapped), (3, .t1), (6, .t2), (4, .clean), (5, .dirty)],
    meets .claim 0x107 [w64 (e.1 * 2097152)] [vaBits] up (fun t _ => (pte (claim t 0) e.1).state == e.2) = true := by decide +kernel
theorem test_hoistFrames : ∀ op ∈ [0x108, 0x109], meets .claim op [0x8000, 1] [whole, span 18 0] (withHost 0x8000 [13] up) (fun t _ => hostOk t 0x8000 4) = true := by
  decide +kernel
theorem test_fetchDeadlineSet : ∀ n ∈ [100, (100000 : Nat)], meets .claim 0x10A [w64 n] [span 16 0] up free = true := by decide +kernel
theorem test_branchTableLoad : meets .claim 0x10B [5, va 0] [span 7 0, vaBits] up (fun t k => readsOk t 0 6291456 256 && k.c == 0) = true := by decide +kernel
/-- A claim's descriptor: claim 2, tag 0x1234, units 8 to 15, the second granules and blocks, and system frame 512. -/
def desc2 : List Byte :=
  leBytes 2 2 ++ leBytes 2 0x1234 ++ leBytes 4 0xFF00 ++ leBytes 8 0 ++ leBytes 16 1 ++ leBytes 96 2 ++ leBytes 256 2 ++ leBytes 16 2 ++ leBytes 16 2
    ++ leBytes 52 0 ++ leBytes 4 1 ++ leBytes 4 512 ++ List.replicate 292 0
theorem test_claimCreate : ∀ b ∈ [false, true],
    meets .management 0x010 [0x8000] [whole] (hostWrite (cl (fun k => { k with units := 0xFF }) { up with boot := { up.boot with t1init := if b then 0xFFF else 0 } }) 0x8000 desc2) (fun t _ =>
      let d := hostRead t 0x8000 768
      createStatus t d == 0 && granulesReady (draw t).2 (newClaim d (draw t).1 (draw t).2.time) == b) = true := by decide +kernel
theorem test_objCreate : meets .claim 0x101 [word [(20, 37), (2, 13)], word [(3, 52)], 2, 0x8000] [span 63 13, span 63 52 + span 7 4 + span 2 2, span 11 0, whole]
    (withHost 0x8000 [word [(13, 0), (14, 32)]] up) (fun t k =>
      let o := objOf (k.ws.getD 1 0) (k.ws.getD 2 0)
      o.pages == 2 && objStatus (claim t 0) 2 o == 0 && frameStatus t 0 o (words32 (hostRead t 0x8000 8)) == 0) = true := by decide +kernel

/-- An entry of the root, and a version slot with it. -/
def rootWords : List W64 := [word [(1, 52), (8, 0)], 0, 0, 0, 0, 0, 0, 0]
theorem test_versionBuild : meets .claim 0x201 [word [(1, 32), (9, 16), (1, 0)], va 0x800, 0] [span 1 0 + span 31 16 + span 42 32, vaBits, span 12 0]
    (withVa 0x800 rootWords up) (fun t k => slotStatus (claim t 0) 1 9 1 == 0 && readsOk t 0 (6291456 + 0x800) 64 && k.c == 0 &&
      rootReserved rootWords == false && entriesStatus (claim t 0) (rootEntries rootWords) == 0) = true := by decide +kernel
/-- A version in any state, whose entry has the digest 0. -/
def verIn (st : VerState) (s : State) : State :=
  cl (fun k => { k with vers := [(1, { state := st, vid := 9, entries := [{ obj := 1, bytes := 8, digest := 0, loaded := false }] })], ticking := true }) s
theorem test_weightLoad : meets .claim 0x202 [word [(1, 18), (1, 0)], 0] [span 1 0 + span 19 8, whole] (verIn .building up) (fun t k =>
    par k 1 19 18 != 3 && (ver (claim t 0) 1).state == .building && (verEntry (claim t 0) 1 0).isSome &&
    !loadBusy (claim t 0) (ver (claim t 0) 1) { obj := 1, bytes := 8, digest := 0, loaded := false }) = true := by decide +kernel
theorem test_versionCancel : meets .claim 0x203 [1] [span 1 0] (verIn .ready up) (fun t _ =>
    (ver (claim t 0) 1).state == .ready && (claim t 0).loads.isEmpty && !switchTo (claim t 0) 1) = true := by decide +kernel
theorem test_versionSwitch : meets .claim 0x204 [1, 0] [span 1 0, span 47 0] (verIn .ready up) (fun t _ =>
    shiftNow (claim t 0) == .generation && (ver (claim t 0) 1).state == .ready && (claim t 0).switch.isNone) = true := by decide +kernel
theorem test_versionQuery : meets .claim 0x205 [1, 0x8000] [span 1 0, whole] (verIn .ready up) (fun t _ => hostOk t 0x8000 24) = true ∧
    meets .claim 0x206 [0xFFFFFFFF] [span 31 0] up free = true := by decide +kernel

/-- A serving descriptor whose seven objects are object 1, and one program list for both steps: an image of one S_END with a bound of 100. -/
def serveWords : List W64 := [word [(64, 43), (8, 30), (64, 13)], word [(8192, 32), (1, 20), (1, 8)], word [(1, 52), (10, 47), (1, 35), (1, 23), (1, 11)],
  word [(1, 52)], word [(1, 56), (6291456 + 64, 0)], word [(1, 56), (6291456 + 64, 0)], 0, 0, va 128, 9]
def imageWords : List W64 := [word [(1, 48), (1, 20)], 0, 0, 0, 0, 0, 0, 0, 100, word [(0x21F, 52)]]
def servable : State := withVa 0 (serveWords ++ List.replicate 6 0 ++ imageWords) up
theorem test_serveSet : meets .serving 0x301 [va 0] [vaBits] servable (fun t k => shiftNow (claim t 0) == .generation && (liveStreams t 0).isEmpty &&
    (match readServe t k.c (par k 1 47 0) with | .ok v => v.maxBound == 100 | _ => false)) = true := by decide +kernel
theorem test_admitSet : meets .serving 0x302 [word [(15, 24), (64, 16), (1, 8), (2, 0)]] [span 31 0] (cl (fun k => { k with serve := some serve4 }) up) (fun t _ =>
    shiftNow (claim t 0) == .generation && (liveStreams t 0).isEmpty && admitRange ⟨2, 1, 64, 15⟩ &&
    decide (max (decBound serve4) (preBound serve4) ≤ samplerCycles (periodAt (claim t 0) (claim t 0).tick))) = true := by decide +kernel
/-- An entry image of a stream with a prompt of two tokens, 1 and 2. -/
def entryImage : List W64 := [word [(3, 45)], word [(2, 40), (9, 16)], 0, word [(0x3F800000, 32), (0x3F800000, 0)], word [(4, 21)], word [(0x3F800000, 32)], 0,
  va 0x1000, va 0x2000, 0, 0, 0]
def openable : State := withVa 0 (entryImage ++ [word [(1, 0), (2, 32)]])
  { (cl (fun k => { k with serve := some { serve4 with vocab := 64 }, admission := some ⟨2, 1, 2, 1⟩ }) up) with tallies := [(3, { active := true })] }
theorem test_streamOpen : meets .serving 0x303 [7, va 0, va 96] [span 16 0, vaBits, vaBits] openable (fun t _ =>
    shiftNow (claim t 0) == .generation && (claim t 0).turn.isNone && ownsStream (claim t 0) 7 && (stream t 7).state == .free &&
    readsOk t 0 6291456 96 && readsOk t 0 (6291456 + 96) 8 && !entryReserved entryImage && goodBytes t 0 6291456 96 == .ok (wordsBytes entryImage) &&
    openStatus t 0 { serve4 with vocab := 64 } ⟨2, 1, 2, 1⟩ (imageStream entryImage) [1, 2] == 0) = true := by decide +kernel
def streamed (st : StreamState) : State := { up with streams := [(7, { state := st, tenant := 3, pos := 5, prompt := 3, limit := 9 })] }
theorem test_streamCancel : ∀ st ∈ [StreamState.decode, .done], meets .serving 0x304 [7] [span 16 0] (streamed st) (fun t _ =>
    ownsStream (claim t 0) 7 && isLive (stream t 7) == (st == .decode)) = true := by decide +kernel
theorem test_streamPark : meets .serving 0x305 [7, va 0] [span 16 0, whole] (streamed .decode) (fun t _ => isLive (stream t 7) && (stream t 7).park.isNone) = true ∧
    meets .serving 0x306 [7] [span 16 0] (streamed .done) (fun t _ => !isLive (stream t 7) && (stream t 7).state == .done) = true ∧
    meets .serving 0x307 [7, 0x8000] [span 16 0, whole] (streamed .decode) (fun t _ => ownsStream (claim t 0) 7 && hostOk t 0x8000 96) = true := by decide +kernel
/-- The last tally slot of the claim's block, and the first of another. -/
theorem test_tallySet : ∀ e ∈ [(31, true), (32, false)], meets .serving 0x401 [w64 e.1, 0, 1] [span 11 0, whole, span 1 0] up (fun t _ => ownsTally (claim t 0) e.1 == e.2) = true ∧
    meets .serving 0x402 [w64 e.1, 0x8000] [span 11 0, whole] up (fun t _ => ownsTally (claim t 0) e.1 == e.2 && hostOk t 0x8000 96) = true := by decide +kernel
theorem test_tallyWindowSet : meets .serving 0x403 [0xFFFF] [span 15 0] up free = true := by decide +kernel
theorem test_tickSet : meets .serving 0x404 [20, 400] [span 13 0, span 47 0] (cl (fun k => { k with ticking := true }) up) (fun t k =>
    tickSetStatus t 0 20 400 k.stamp == 0) = true := by decide +kernel
theorem test_steerBasisLoad : meets .serving 0x405 [1, 0x8000, 16] [span 11 0, whole, span 31 0] up (fun t _ => objThere (claim t 0) 1 &&
    !(obj (claim t 0) 1).t2home && decide (8192 * 16 ≤ objBytes (claim t 0) 1) && (liveStreams t 0).isEmpty && hostOk t 0x8000 131072 &&
    access (claim t 0) (.request none) (objBase (claim t 0) 1) 131072 == .ok) = true := by decide +kernel
theorem test_steerSet : meets .serving 0x406 [3, 0x8000] [span 11 0, whole] (cl (fun k => { k with serve := some serve4 }) up) (fun t _ => ownsTally (claim t 0) 3 &&
    hostOk t 0x8000 8192 && access (claim t 0) (.request none) (objBase (claim t 0) 1 + 8192 * 3) 8192 == .ok) = true := by decide +kernel
def learn (k : Claim) : Claim := { k with shift := .learning }
/-- A list of one program for face 9. -/
theorem test_passStart : meets .training 0x501 [word [(1, 56), (6291456 + 64, 0)], 0, va 0] [span 63 56 + vaBits, whole, span 63 56 + vaBits]
    (cl learn servable) (fun t k => mixedGood 0 && shiftNow (claim t 0) == .learning && (claim t 0).units.getLsbD (9 / 8) &&
      (match progList t 0 (par k 1 47 0) 1 with | .ok l => l.map (·.face) == [9] | _ => false)) = true := by decide +kernel
theorem test_passAbort : meets .training 0x502 [4] [span 31 0] { up with reqs := [{ overReq with cmd := some (1, 4) }] } (fun t _ =>
    (t.reqs.find? fun q => q.cmd == some (1, 4)).isSome) = true := by decide +kernel
theorem test_sweep : meets .training 0x503 [va 0, 1, va 0x4000, va 0x5000, 4] [vaBits, span 20 0, vaBits, vaBits, span 31 0] (cl learn up) (fun t _ =>
    shiftNow (claim t 0) == .learning && (claim t 0).turn.isNone && (claim t 0).sweep.isNone && readsOk t 0 6291456 64) = true := by decide +kernel
theorem test_stepSet : meets .training 0x504 [0xFFFFFFFFFFFFFFFF] [whole] up (fun t _ => (claim t 0).sweep.isNone) = true := by decide +kernel
/-- A list of one PERMUTE descriptor of epoch 3, over the layouts of two ranks. -/
def permuteWords : List W64 := [word [(8, 60), (2, 42)], word [(3, 32)], 0, 0, 0, 0, w64 layoutVa, w64 layoutVa, w64 (6291456 + 4096)]
def turnable (sh : Shift) : State := stored (stored (linked { claim up 0 with shift := sh }) layoutVa layout2) 6291456 (va 64 :: List.replicate 7 0 ++ permuteWords)
theorem test_turn : meets .training 0x505 [word [(1, 32), (3, 0)], word [(1, 56), (6291456, 0)]]
    [span 32 0, span 63 56 + vaBits, vaBits, span 1 0 + span 31 16 + span 41 32, vaBits] (turnable .generation) (fun t k =>
      match readTurn t k with | .ok u => u.learning && u.epoch == 3 | _ => false) = true := by decide +kernel
theorem test_replicaAssay : meets .training 0x506 [va 0, word [(1, 32)], va 0, 100, va 0x1000]
    [span 63 54 + vaBits, span 33 0, span 63 52 + vaBits, span 31 0, vaBits] up (fun t k => match assayLists t k with | .ok _ => true | _ => false) = true := by
  decide +kernel
theorem test_collGroupSet : meets .training 0x601 [word [(2, 16), (5, 0)], va 0] [span 5 0 + span 28 16, vaBits]
    (stored links 6291456 [word [(0x040, 0), (0x105, 16)]]) (fun t _ => readsOk t 0 6291456 4 && t.devAddr == 0x040 && (claim t 0).colls.isEmpty) = true := by
  decide +kernel
theorem test_collIssue : meets .training 0x602 [va 0] [vaBits] (stored links 6291456 (coll50 0).desc) (fun t _ => readsOk t 0 6291456 72 &&
    descStatus (claim t 0) (coll50 0).desc == 0) = true := by decide +kernel
theorem test_canary : meets .training 0x701 [2, va 0] [span 63 16 + span 1 0, vaBits] up free = true ∧
    meets .training 0x702 [0x8000] [whole] up (fun t _ => hostOk t 0x8000 520) = true ∧ meets .training 0x703 [] [] up free = true ∧
    meets .training 0x704 [va 0, va 0x1000, word [(3, 48), (2, 0)]] [vaBits, vaBits, span 32 0 + span 63 48] up free = true := by decide +kernel
theorem test_capSet : ∀ n ∈ [1, (3600 : Nat)], meets .management 0x801 [w64 n] [span 12 0] up free = true := by decide +kernel
theorem test_winderCommands : meets .management 0x802 [] [] up free = true ∧
    meets .management 0x803 [word [(2, 4), (1, 2)]] [span 5 0] up (fun _ k => [par k 1 5 4, par k 1 3 2, par k 1 1 0] == [2, 1, 0]) = true ∧
    meets .management 0x804 [word [(1, 8), (11, 0)]] [span 4 0 + span 8 8] up free = true ∧ meets .management 0x805 [18] [span 4 0] up free = true ∧
    meets .management 0x806 [0x8000] [whole] up (fun t _ => hostOk t 0x8000 256) = true ∧ meets .management 0x808 [0xF] [span 3 0] up free = true := by
  decide +kernel
theorem test_powerStateSet : ∀ m ∈ [1, 2, (4 : Nat)], meets .management 0x807 [w64 m, 0] [span 2 0, whole] up (fun t _ => !powerBusy t) = true := by decide +kernel
theorem test_powerStateSet_s3 : meets .management 0x807 [3, 0x8000] [span 2 0, whole] up (fun t _ => !powerBusy t && hostOk t 0x8000 128 &&
    !someSet ((hostRead t 0x8000 128).drop 97)) = true := by decide +kernel
theorem test_fwStage : meets .management 0x901 [0x8000, 64] [whole, span 31 0] up free = true ∧ meets .management 0x903 [] [] up free = true ∧
    meets .management 0x902 [] [] { up with boot := setInactive up.boot (some ⟨1, 0, 0⟩) } (fun t _ => (staged t.boot).isSome) = true := by decide +kernel
theorem test_fwStageDone :
    let s := { up with boot := { up.boot with staging := [(1, 5, 0x8000, 64)] } }
    firmwareRuns s = true ∧ s.boot.staging = (1, 5, 0x8000, 64) :: [] ∧ hostOk s 0x8000 64 = true := by decide +kernel
theorem test_sumpRead : meets .management 0xA01 [0x8000, word [(1, 12)]] [whole, span 24 0] up (fun t k =>
    hostOk t 0x8000 ((sumpRecords t.sump (par k 2 11 0) 1).map recordBytes).flatten.length) = true := by decide +kernel
/-- A turn that is running, and the learning shift. -/
theorem test_turnRefusals : meets .training 0x505 [word [(1, 32), (3, 0)], word [(1, 56), (6291456, 0)]]
    [span 32 0, span 63 56 + vaBits, vaBits, span 1 0 + span 31 16 + span 41 32, vaBits]
    (cl (fun k => { k with turn := some (turn1 true false 0) }) up) (fun t _ => (claim t 0).turn.isSome) = true ∧
    meets .serving 0x303 [7, va 0, va 96] [span 16 0, vaBits, vaBits] (cl learn up) (fun t _ => (claim t 0).shift == .learning) = true := by decide +kernel
/-- A packet with FENCE set, with nothing outstanding on its ring. -/
theorem test_fence :
    let s := hostWrite (sent .management 0x802 [] up) 0x1000000 (wordsBytes [word [(0x802, 52), (1, 51), (1, 40), (5, 0)]])
    nextRing s = some 1 ∧ hostOk s (packetAt (ring s 1)) 64 = true ∧ bit (hostWord s (packetAt (ring s 1))) 51 = true := by decide +kernel
end Sys2Proof.Tests
end

section
/-!
PROOFS. The shifts of a claim: how a new claim starts (R30), and what is refused during a turn and in the learning shift (R33).
-/
namespace Sys2Proof.Machine
open Sys2Proof

/-! ### Replies, and work on a shaft, as the claims see them -/

theorem foldl_claims {β : Type} {g : State → β → State} (hg : ∀ t e, (g t e).claims = t.claims) (l : List β) (s : State) :
    (l.foldl g s).claims = s.claims :=
  List.foldlRecOn (motive := fun t => t.claims = s.claims) l g rfl fun t ht e _ => (hg t e).trans ht
theorem logHost_claims (s : State) (k : Option Nat) (c : Option (Nat × W32)) (status : Nat) : (logHost s k c status).claims = s.claims :=
  postSump_claims _ _
theorem interruptIf_claims (s : State) (now : Bool) (fn vec : Nat) : (if now = true then interrupt s fn vec else s).claims = s.claims := by
  split
  · exact interrupt_claims ..
  · rfl
theorem sendReply_claims (s : State) (r : Nat) (c : Cmd) (status r0 r1 : Nat) : (sendReply s r c status r0 r1).claims = s.claims := by
  unfold sendReply
  dsimp only
  split
  · rfl
  · split
    · rfl
    · split
      · exact logHost_claims ..
      · rw [interruptIf_claims, hostWrite_claims, hostWrite_claims, setRing_claims]
theorem reply_claims (s : State) (r : Nat) (seq : W32) (status r0 r1 : Nat) : (reply s r seq status r0 r1).claims = s.claims := by
  unfold reply
  dsimp only
  split
  · rfl
  · split
    · rfl
    · exact sendReply_claims ..
theorem replyTo_claims (s : State) (c : Option (Nat × W32)) (status r0 r1 : Nat) : (replyTo s c status r0 r1).claims = s.claims := by
  cases c with
  | none => rfl
  | some p => exact reply_claims ..
theorem startAuth_claims (s : State) (n c : Nat) (cmd : Option (Nat × W32)) : (startAuth s n c cmd).claims = s.claims :=
  replyTo_claims _ _ _ _ _
theorem takeShares_claims (s : State) (n : Nat) (share : Tab Nat) (relay : List (W16 × Nat)) :
    (takeShares s n share relay).claims = s.claims := by
  refine foldl_claims (fun t c => ?_) _ _
  dsimp only
  split
  · exact startAuth_claims ..
  · split
    · exact replyTo_claims ..
    · rfl
theorem setShares_claims (s : State) (n : Nat) (share : Tab Nat) (relay : List (W16 × Nat)) :
    (setShares s n share relay).claims = s.claims := by
  unfold setShares
  dsimp only
  split
  · rfl
  · exact takeShares_claims ..

/-! ### A new claim (R30) -/

/-- Its shaft shares leave every claim as it is, so only the claim's own entry is new. -/
theorem startClaim_claims (s : State) (c : Nat) (d : List Byte) (salt : BitVec 128) (now : Nat) :
    (startClaim s c d salt now).claims = (setClaim s c (afterClaim (claim s c) (newClaim d salt now))).claims := by
  refine foldl_claims (fun t p => ?_) _ _
  dsimp only
  split
  · rfl
  · exact setShares_claims ..
theorem claim_startClaim_self {s : State} (hs : s.canonical = true) (c : Nat) (d : List Byte) (salt : BitVec 128) (now : Nat) :
    claim (startClaim s c d salt now) c = afterClaim (claim s c) (newClaim d salt now) := by
  have hw : Tab.wf {} s.claims = true := claims_wf (Kept.refl s) hs
  unfold claim
  rw [startClaim_claims]
  exact (claim_setClaim hw c c _).trans (if_pos rfl)

/-! ### Refusals (R33) -/

theorem exec_turn (r : Fin 256) (s : State) : exec (.turn r) s = .next (turnStep s r) := rfl
theorem exec_streamOpen (r : Fin 256) (s : State) : exec (.streamOpen r) s = .next (settleFoul (openStep s r)) := rfl
/-- A turn to the learning shift names nothing in words 3 to 5 (R386); past that check, a turn of the claim refuses another. -/
theorem readTurn_of_turning {s : State} {k : Call} (ht : (claim s k.c).turn ≠ none)
    (hz : par k 1 32 32 = 1 → ∀ i, 3 ≤ i → i ≤ 5 → k.ws.getD i 0 = 0) : readTurn s k = .bad stTurnInProgress := by
  have hres : ¬ ((par k 1 32 32 == 1 && (List.range 3).any fun i => k.ws.getD (3 + i) 0 != 0) = true) := by
    intro h
    obtain ⟨hl, hany⟩ := Bool.and_eq_true_iff.1 h
    obtain ⟨i, hi, hne⟩ := List.any_eq_true.1 hany
    have hlt : i < 3 := List.mem_range.1 hi
    exact bne_iff_ne.1 hne (hz (beq_iff_eq.1 hl) (3 + i) (by omega) (by omega))
  unfold readTurn
  dsimp only
  rw [if_neg hres, if_pos (Option.isSome_iff_ne_none.2 ht)]
/-- A refusal that does not come from the memory read notes no word as read, and its status is the answer. -/
theorem gotAns_noted_bad {α : Type} {s : State} {c st : Nat} {note : State → State} {f : α → Ans} (hp : st ≠ stPoisonRead)
    (hw : st ≠ stWeightPoisoned) (ho : st ≠ stOwnerFault) : gotAns (noted (.bad st : Got α) note s) c (.bad st) f = refuse s st := by
  simp only [noted, gotAns, badReach, hp, hw, ho, or_self, if_false]
theorem turnStep_of_turning {s : State} {r : Fin 256}
    (h : Served s r 0x505 [span 32 0, span 63 56 + vaBits, vaBits, span 1 0 + span 31 16 + span 41 32, vaBits])
    (ht : (claim (consumed s r) (callOf s r).c).turn ≠ none)
    (hz : par (callOf s r) 1 32 32 = 1 → ∀ i, 3 ≤ i → i ≤ 5 → (callOf s r).ws.getD i 0 = 0) :
    turnStep s r = replied s r (consumed s r) stTurnInProgress 0 0 := by
  refine lervo_done h ?_
  dsimp only
  rw [readTurn_of_turning ht hz]
  exact gotAns_noted_bad (by decide) (by decide) (by decide)
/-- A claim in the learning shift is never in the generation shift, whether or not a turn has begun. -/
theorem shiftNow_ne_generation {k : Claim} (h : k.shift = .learning) : shiftNow k ≠ .generation := by
  unfold shiftNow
  split
  · decide
  · rw [h]; decide
theorem openStep_of_wrong_shift {s : State} {r : Fin 256} (h : Served s r 0x303 [span 16 0, vaBits, vaBits])
    (hx : (claim (consumed s r) (callOf s r).c).shift = .learning ∨ (claim (consumed s r) (callOf s r).c).turn ≠ none) :
    openStep s r = replied s r (consumed s r) stWrongShift 0 0 :=
  lervo_done h (if_pos (hx.imp shiftNow_ne_generation Option.isSome_iff_ne_none.2))

end Sys2Proof.Machine

open Sys2Proof Sys2Proof.Machine

/-- Settles O58: once the checks of R360 pass and the unused words are 0, that of a turn under way is the next check of TURN, and the
shift is the first check of STREAM_OPEN (R509). -/
theorem turnRefusals : Obligations.TurnRefusals := by
  intro s r
  dsimp only
  refine ⟨fun h ht hz => ?_, fun h hx => ?_⟩
  · rw [exec_turn, turnStep_of_turning h ht hz]
  · rw [exec_streamOpen, openStep_of_wrong_shift h hx]

/-- Settles O57: the entry of the claim is the one its descriptor makes, since setting its shaft shares changes no claim. -/
theorem newClaimStarts : Obligations.NewClaimStarts := by
  intro s d salt now hs
  dsimp only
  rw [claim_startClaim_self hs]
  exact ⟨rfl, rfl, rfl, rfl, rfl⟩
end

section
/-!
PROOFS. Tally slots: what TALLY_SET and TALLY_QUERY do to a slot of the claim and to one of another (R347).
-/
namespace Sys2Proof.Machine
open Sys2Proof

theorem exec_tallySet (r : Fin 256) (s : State) : exec (.tallySet r) s = .next (tallySetStep s r) := rfl
theorem exec_tallyQuery (r : Fin 256) (s : State) : exec (.tallyQuery r) s = .next (tallyQueryStep s r) := rfl

/-! ### The words of a slot -/

/-- The two 32-bit halves of a word, each placed where it stood, are the word. -/
theorem w64_halves (w : W64) : w64 (at' (fld w 63 32) 32 + fld w 31 0) = w := by
  have hw : w.toNat < 2 ^ 64 := w.isLt
  have hsum : at' (fld w 63 32) 32 + fld w 31 0 = w.toNat := by
    simp only [at', fld, bits, Nat.shiftLeft_eq, Nat.shiftRight_eq_div_pow]
    omega
  rw [hsum, w64, BitVec.ofNat_toNat, BitVec.setWidth_eq]
/-- A field of one bit is the number of its truth value. -/
theorem b2n_bit_field (w : W64) (n : Nat) : b2n (fld w n n == 1) = fld w n n := by
  have hmod : fld w n n = w.toNat >>> n % 2 := by rw [fld, bits, Nat.add_sub_cancel_left, Nat.pow_one]
  obtain h | h := Nat.mod_two_eq_zero_or_one (w.toNat >>> n)
  · rw [hmod, h]; rfl
  · rw [hmod, h]; rfl
/-- A slot's budgets and ACTIVE, as a TALLY_SET with slot words `a` and `b` leaves them. -/
def Tally.written (x : Tally) (a b : W64) : Tally :=
  { x with genBudget := fld a 63 32, promptBudget := fld a 31 0, active := fld b 0 0 == 1 }
theorem slotWords_length (x : Tally) : (slotWords x).length = 12 := rfl
theorem slotWords_written_word0 (x : Tally) (a b : W64) : (slotWords (x.written a b)).take 1 = [a] :=
  congrArg (fun w => [w]) (w64_halves a)
/-- Word 1 keeps HELD in bit 1, and takes ACTIVE from bit 0 of what is written. -/
theorem slotWords_written_word1 (x : Tally) (a b : W64) :
    (slotWords (x.written a b)).getD 1 0 = w64 (2 * b2n x.held + fld b 0 0) := by
  have hheld : at' (b2n x.held) 1 = 2 * b2n x.held := by rw [at', Nat.shiftLeft_eq]; omega
  change w64 (at' (b2n x.held) 1 + b2n (fld b 0 0 == 1)) = _
  rw [hheld, b2n_bit_field]
/-- Words 2 to 11 hold the eight counters and the two of the open window. -/
theorem slotWords_drop_two (x : Tally) :
    (slotWords x).drop 2 = (tallyWords x).map w64 ++ [w64 x.winGen, w64 x.winPrompt] := by
  rw [slotWords, List.append_assoc]
  exact List.drop_left' rfl
theorem slotWords_written_rest (x : Tally) (a b : W64) : (slotWords (x.written a b)).drop 2 = (slotWords x).drop 2 := by
  have hcounters : tallyWords (x.written a b) = tallyWords x := rfl
  rw [slotWords_drop_two, slotWords_drop_two, hcounters]
  rfl

/-! ### The commands -/

theorem tallySetStep_of_owned {s : State} {r : Fin 256} (h : Served s r 0x401 [span 11 0, whole, span 1 0])
    (ho : ownsTally (claim (consumed s r) (callOf s r).c) (par (callOf s r) 1 11 0) = true) :
    tallySetStep s r = replied s r (setTally (consumed s r) (par (callOf s r) 1 11 0)
      ((tally (consumed s r) (par (callOf s r) 1 11 0)).written ((callOf s r).ws.getD 2 0) ((callOf s r).ws.getD 3 0))) stOk 0 0 := by
  refine lervo_done h ?_
  dsimp only
  rw [ho]
  rfl
theorem tallySetStep_of_foreign {s : State} {r : Fin 256} (h : Served s r 0x401 [span 11 0, whole, span 1 0])
    (ho : ownsTally (claim (consumed s r) (callOf s r).c) (par (callOf s r) 1 11 0) = false) :
    tallySetStep s r = replied s r (consumed s r) stTenantNotOwned 0 0 :=
  lervo_done h (if_pos (by rw [ho]; rfl))
theorem tallyQueryStep_of_owned {s : State} {r : Fin 256} (h : Served s r 0x402 [span 11 0, whole])
    (ho : ownsTally (claim (consumed s r) (callOf s r).c) (par (callOf s r) 1 11 0) = true)
    (hh : hostOk (consumed s r) (par (callOf s r) 2 63 0) 96 = true) :
    tallyQueryStep s r = replied s r (hostWrite (consumed s r) (par (callOf s r) 2 63 0)
      (wordsBytes (slotWords (tally (consumed s r) (par (callOf s r) 1 11 0))))) stOk 0 0 := by
  refine lervo_done h ?_
  dsimp only
  rw [if_neg (by rw [ho]; decide), putHost_ok (by rw [wordsBytes_length, slotWords_length]; exact hh)]
  rfl
theorem tallyQueryStep_of_foreign {s : State} {r : Fin 256} (h : Served s r 0x402 [span 11 0, whole])
    (ho : ownsTally (claim (consumed s r) (callOf s r).c) (par (callOf s r) 1 11 0) = false) :
    tallyQueryStep s r = replied s r (consumed s r) stTenantNotOwned 0 0 :=
  lervo_done h (if_pos (by rw [ho]; rfl))

end Sys2Proof.Machine

open Sys2Proof Sys2Proof.Machine

/-- Settles O59: of a slot's words, the budgets are the two halves of word 0 and ACTIVE is bit 0 of word 1; a TALLY_SET writes these
and leaves HELD and words 2 to 11, and the owner of the slot is the first check of both commands. -/
theorem tallySlots : Obligations.TallySlots := by
  intro s r
  dsimp only
  refine ⟨fun h => ⟨fun ho => ?_, fun ho => ?_⟩, fun h => ⟨fun ho hh => ?_, fun ho => ?_⟩⟩
  · refine ⟨_, ?_, slotWords_written_word0 _ _ _, slotWords_written_word1 _ _ _, slotWords_written_rest _ _ _⟩
    rw [exec_tallySet, tallySetStep_of_owned h ho]
  · rw [exec_tallySet, tallySetStep_of_foreign h ho]
  · rw [exec_tallyQuery, tallyQueryStep_of_owned h ho hh]
  · rw [exec_tallyQuery, tallyQueryStep_of_foreign h ho]
end

section
/-!
PROOFS. FENCE: a fenced packet waits for the replies of its own ring (R364).
-/
namespace Sys2Proof.Machine
open Sys2Proof

/-- In either class the ring served next is one that is ready (R363). -/
theorem ringReady_of_nextRing {s : State} {r : Nat} (h : nextRing s = some r) : ringReady s (ring s r) = true := by
  unfold nextRing at h
  dsimp only at h
  split at h
  next n hmanagement =>
    obtain rfl : n = r := Option.some.inj h
    have hmeets := List.find?_some hmanagement
    exact (Bool.and_eq_true_iff.1 hmeets).2
  next =>
    have hmeets := List.find?_some h
    exact (Bool.and_eq_true_iff.1 hmeets).2
/-- The last condition of readiness is the fence's: no command of the ring is outstanding. -/
theorem out_eq_nil_of_fenced {s : State} {x : Ring} (h : ringReady s x = true) (hread : hostOk s (packetAt x) 64 = true)
    (hfence : bit (hostWord s (packetAt x)) 51 = true) : x.out = [] := by
  have hwaits := (Bool.and_eq_true_iff.1 h).2
  rw [hread, hfence] at hwaits
  simpa using hwaits
/-- Readiness reads the ring itself and host memory, and no ring of the state. -/
theorem ringReady_with_rings (s : State) (rs : Tab Ring) (x : Ring) : ringReady { s with rings := rs } x = ringReady s x := rfl

end Sys2Proof.Machine

open Sys2Proof Sys2Proof.Machine

/-- Settles O60: the ring served next is ready, readiness of a fenced packet asks that nothing of its ring is outstanding, and no
other ring is asked. -/
theorem fenceOrdersItsRing : Obligations.FenceOrdersItsRing := by
  intro s r hnext hread hfence
  have hready := ringReady_of_nextRing hnext
  exact ⟨out_eq_nil_of_fenced hready hread hfence, fun rs => (ringReady_with_rings s rs _).trans hready⟩
end

section
/-!
PROOFS. Every command ends in a next state, with the queue's rest still waiting and every table in canonical form.
-/
namespace Sys2Proof.Machine
open Sys2Proof

theorem ite_kept {s t u : State} {p : Prop} [Decidable p] (ht : Kept s t) (hu : Kept s u) : Kept s (if p then t else u) := by
  split
  · exact ht
  · exact hu
theorem descs_kept {s t : State} {ds : List (Nat × W64 × DescBody)} (h : Kept s t) : Kept s { t with descs := ds } :=
  same_kept h rfl rfl rfl rfl rfl rfl rfl rfl rfl rfl rfl rfl rfl rfl rfl rfl
theorem next_kept {s t : State} (h : Kept s t) : ∃ u, (.next t : Res) = .next u ∧ Kept s u := ⟨t, rfl, h⟩
/-- A command is its own step, and its law says that the step keeps what waits and the canonical form. -/
theorem exec_kept (i : Instr) (s : State) : ∃ t, exec i s = .next t ∧ Kept s t := by
  have k := Kept.refl s
  cases i with
  | tload => exact next_kept (tloadStep_kept k)
  | mma => exact next_kept (mmaStep_kept k)
  | drain => exact next_kept (drainStep_kept k)
  | accClear => exact next_kept (accClearStep_kept k)
  | vAdd | vSub | vMul | vMax | vMin | vIadd | vIsub | vImul | vAnd | vOr | vXor | vShl | vShr | vDiv =>
    exact next_kept (binOp_kept k)
  | vFma => exact next_kept (vFmaStep_kept k)
  | vNeg | vAbs | vCvtI2f | vExp2 | vExp | vLog2 | vLog | vRecip | vRsqrt => exact next_kept (unOp_kept k)
  | vSel => exact next_kept (vSelStep_kept k)
  | vMov => exact next_kept (vMovStep_kept k)
  | vCmpeq | vCmplt | vCmple | vIcmpeq | vIcmplt => exact next_kept (cmpOp_kept k)
  | vCvtF2i => exact next_kept (vCvtF2iStep_kept k)
  | vRound => exact next_kept (vRoundStep_kept k)
  | vIota => exact next_kept (vIotaStep_kept k)
  | vRsum | vRsumsq | vRmax | vRmin => exact next_kept (redOp_kept k)
  | vRdot => exact next_kept (vRdotStep_kept k)
  | vSoftmax | vLogsoftmax => exact next_kept (softOp_kept k)
  | vRmsnorm | vLayernorm => exact next_kept (normOp_kept k)
  | vLd => exact next_kept (vLdStep_kept k)
  | vSt => exact next_kept (vStStep_kept k)
  | mLd => exact next_kept (mLdStep_kept k)
  | mSt => exact next_kept (mStStep_kept k)
  | mAnd | mOr | mXor | mNot => exact next_kept (maskOp_kept k)
  | sNop => exact next_kept (scalOp_kept k fun _ _ h => done_kept h)
  | sAddi => exact next_kept (scalOp_kept k fun _ _ h => done_kept (setSreg_kept h))
  | sSetvl | sSetvli => exact next_kept (scalOp_kept k fun _ _ h => putVl_kept h)
  | sBr => exact next_kept (scalOp_kept k fun _ _ h => branch_kept h)
  | sLoop => exact next_kept (scalOp_kept k fun _ _ h => ite_kept (done_kept (setSreg_kept h)) (branch_kept (setSreg_kept h)))
  | sAdd | sSub | sMul | sAnd | sOr | sXor | sShl | sShr | sShrl => exact next_kept (sBin_kept k)
  | sLi => exact next_kept (sLiStep_kept k)
  | sBeq | sBne | sBlt | sBge => exact next_kept (sCond_kept k)
  | sEnd => exact next_kept (sEndStep_kept k)
  | dmaT1T0 | dmaT0T1 | dmaT0T0 | dmaGather | dmaScatter => exact next_kept (dmaStep_kept k)
  | dmaDone => exact next_kept (dmaDoneStep_kept k)
  | semWait => exact next_kept (semWaitStep_kept k)
  | semWaitRelease => exact next_kept (semReleaseStep_kept k)
  | semSignal => exact next_kept (semSignalStep_kept k)
  | semSignalApply => exact next_kept (semApplyStep_kept k)
  | tickFence => exact next_kept (tickFenceStep_kept k)
  | flagClr => exact next_kept (flagClrStep_kept k)
  | post => exact next_kept (postStep_kept k)
  | postAnswer => exact next_kept (postAnswerStep_kept k)
  | await => exact next_kept (awaitStep_kept k)
  | sliceOverrun => exact next_kept (overrunStep_kept k)
  | sliceComplete => exact next_kept (settleFoul_kept (sliceCompleteStep_kept k))
  | requestEnd => exact next_kept (requestEndStep_kept k)
  | tickBoundary => exact next_kept (settleFoul_kept (tickStep_kept k))
  | windowBoundary => exact next_kept (windowStep_kept k)
  | tickPeriodChange => exact next_kept (periodStep_kept k)
  | samplerRow => exact next_kept (settleFoul_kept (samplerStep_kept k))
  | retirePoint => exact next_kept (settleFoul_kept (retireStep_kept k))
  | parkEffect => exact next_kept (settleFoul_kept (parkStep_kept k))
  | turnEffect => exact next_kept (turnEffectStep_kept k)
  | turnFinish => exact next_kept (turnFinishStep_kept k)
  | sweepStart => exact next_kept (sweepStartStep_kept k)
  | blockUpdate => exact next_kept (blockStep_kept k)
  | sweepEnd => exact next_kept (settleFoul_kept (sweepEndStep_kept k))
  | replicaAssayStart => exact next_kept (assayStartStep_kept k)
  | replicaAssayDone => exact next_kept (assayDoneStep_kept k)
  | hoistDone => exact next_kept (settleFoul_kept (hoistStep_kept k))
  | writebackDone => exact next_kept (settleFoul_kept (backStep_kept k))
  | fetchDeadline => exact next_kept (deadlineStep_kept k)
  | patrolScrub => exact next_kept (settleFoul_kept (scrubStep_kept k))
  | objDestroyEffect => exact next_kept (destroyStep_kept k)
  | hoistEvictEffect => exact next_kept (evictStep_kept k)
  | weightRepair => exact next_kept (settleFoul_kept (repairStep_kept k))
  | collStart => exact next_kept (collStartStep_kept k)
  | collRetire => exact next_kept (settleFoul_kept (collRetireStep_kept k))
  | collTimeout => exact next_kept (collTimeoutStep_kept k)
  | permuteFenceClear => exact next_kept (settleFoul_kept (fenceStep_kept k))
  | epochFenceTimeout => exact next_kept (fenceTimeoutStep_kept k)
  | permuteStaged => exact next_kept (settleFoul_kept (stagedStep_kept k))
  | permuteComplete => exact next_kept (settleFoul_kept (permuteEnd_kept k))
  | data => exact next_kept (settleFoul_kept (onFlit_kept k fun _ _ h => deliverData_kept h))
  | close => exact next_kept (settleFoul_kept (onFlit_kept k fun _ _ h => deliverClose_kept h))
  | idle => exact next_kept (idleStep_kept k)
  | desc =>
    exact next_kept (onFlit_kept k fun _ _ h => ite_kept (deliverDesc_kept h) (descs_kept h))
  | grant => exact next_kept (onFlit_kept k fun _ _ h => deliverGrant_kept h)
  | xdone => exact next_kept (onFlit_kept k fun _ _ h => deliverXdone_kept h)
  | sig => exact next_kept (onFlit_kept k fun _ _ h => deliverSig_kept h)
  | abort => exact next_kept (onFlit_kept k fun _ _ h => deliverAbort_kept h)
  | xoff => exact next_kept (xoffStep_kept k)
  | xon => exact next_kept (xonStep_kept k)
  | ident => exact next_kept (identStep_kept k)
  | nonce => exact next_kept (nonceStep_kept k)
  | tag => exact next_kept (tagStep_kept k)
  | replayTimeout => exact next_kept (replayStep_kept k)
  | shaftRetrain => exact next_kept (retrainStep_kept k)
  | shaftBringupStep => exact next_kept (bringupStep_kept k)
  | laneFail => exact next_kept (laneStep_kept k)
  | lossOfSignal => exact next_kept (lossStep_kept k)
  | bellSlot => exact next_kept (bellSlotStep_kept k)
  | presence => exact next_kept (onBell_kept k fun _ _ _ h => h)
  | tick => exact next_kept (onBell_kept k fun _ _ _ h => takeTick_kept h)
  | barrier => exact next_kept (onBell_kept k fun _ _ _ h => takeBarrier_kept h)
  | lag => exact next_kept (onBell_kept k fun _ _ _ h => takeLag_kept h)
  | gossip => exact next_kept (onBell_kept k fun _ _ _ h => takeGossip_kept h)
  | replica => exact next_kept (onBell_kept k fun _ _ _ h => takeReplica_kept h)
  | join => exact next_kept (joinStep_kept k)
  | tickFrameSend => exact next_kept (tickSendStep_kept k)
  | tickMasterLost => exact next_kept (lostStep_kept k)
  | cycleMasterTakeover => exact next_kept (takeoverStep_kept k)
  | addrConflict => exact next_kept (conflictStep_kept k)
  | bellNoSignal => exact next_kept (noSignalStep_kept k)
  | lagNoticeSend => exact next_kept (lagStep_kept k)
  | sympathyExpire => exact next_kept (expireStep_kept k)
  | weightLoadDone => exact next_kept (loadStep_kept k)
  | versionSwitchEffect => exact next_kept (switchStep_kept k)
  | versionAudit => exact next_kept (auditStep_kept k)
  | versionAuditDone => exact next_kept (auditDoneStep_kept k)
  | coreWatchdog => exact next_kept (watchdogStep_kept k)
  | fabricCrcFail => exact next_kept (fabricStep_kept k)
  | t2Fence => exact next_kept (fenceT2Step_kept k)
  | sumpFlashWrite => exact next_kept (flashWriteStep_kept k)
  | controlPeriod => exact next_kept (controlStep_kept k)
  | opRaiseSettled => exact next_kept (settledStep_kept k)
  | thermalLoop => exact next_kept (thermalStep_kept k)
  | temperatureSample => exact next_kept (temperatureStep_kept k)
  | thermtrip => exact next_kept (thermtripStep_kept k)
  | lampCanaryFail => exact next_kept (canaryFailStep_kept k)
  | lampTrimLower => exact next_kept (trimLowerStep_kept k)
  | trimSave => exact next_kept (trimSaveStep_kept k)
  | droopDetect => exact next_kept (droopStep_kept k)
  | railCurrentSample => exact next_kept (currentStep_kept k)
  | interruptCoalesceTimeout => exact next_kept (coalesceStep_kept k)
  | hostReadTimeout => exact next_kept (timeoutStep_kept k)
  | perstNAssert => exact next_kept (fundamental_kept k)
  | perstNDeassert => exact next_kept (deassertStep_kept k)
  | aditReady => exact next_kept (aditStep_kept k)
  | firmwareReady => exact next_kept (readyStep_kept k)
  | memoryInitDone => exact next_kept (memInitStep_kept k)
  | hotReset => exact next_kept (hotStep_kept k)
  | functionLevelReset => exact next_kept (flrStep_kept k)
  | powerStateEntered => exact next_kept (enteredStep_kept k)
  | powerExitEvent => exact next_kept (exitStep_kept k)
  | s0Return => exact next_kept (s0ReturnStep_kept k)
  | wakeN => exact next_kept (ite_kept k (wakeUp_kept k))
  | doeAbort => exact next_kept (ite_kept (putDoe_kept k) k)
  | unsupportedRequest => exact next_kept (ite_kept (complete_kept k) k)
  | smbusAddressMatch => exact next_kept (smbusStep_kept k)
  | s3Resume => exact next_kept (resumeStep_kept k)
  | railLoss => exact next_kept (railLossStep_kept k)
  | vddLasRemoved => exact next_kept (lasOffStep_kept k)
  | vddLasGood => exact next_kept (lasGoodStep_kept k)
  | tapInstructionLoad => exact next_kept (tapStep_kept k)
  | tapReset => exact next_kept (modPins_kept k)
  | ideIntegrityFail => exact next_kept (ideFailStep_kept k)
  | ideKm => exact next_kept (ideKmStep_kept k)
  | doeDiscovery => exact next_kept (discoveryStep_kept k)
  | getVersion => exact next_kept (getVersionStep_kept k)
  | getCapabilities => exact next_kept (getCapabilitiesStep_kept k)
  | negotiateAlgorithms => exact next_kept (negotiateStep_kept k)
  | getDigests => exact next_kept (getDigestsStep_kept k)
  | getCertificate => exact next_kept (getCertificateStep_kept k)
  | challenge => exact next_kept (challengeStep_kept k)
  | getMeasurements => exact next_kept (getMeasurementsStep_kept k)
  | keyExchange => exact next_kept (keyExchangeStep_kept k)
  | finish => exact next_kept (finishStep_kept k)
  | endSession => exact next_kept (endSessionStep_kept k)
  | vendorDefinedRequest => exact next_kept (vendorSpdmStep_kept k)
  | setEndpointId | getEndpointId | getMctpVersionSupport | getMessageTypeSupport | getVendorMessageSupport
  | telemetryGet | capSbSet | powerReq | sumpExtract | reservedVendorCommand => exact next_kept (takeSide_kept k)
  | warmReset => exact next_kept (warmResetStep_kept k)
  | bar2Read => exact next_kept (onHost_kept k fun _ h => barReadStep_kept h)
  | bar2Write => exact next_kept (onHost_kept k fun _ h => barWriteStep_kept h)
  | sqTail => exact next_kept (onHost_kept k fun _ h => sqTailStep_kept h)
  | cqHead => exact next_kept (onHost_kept k fun _ h => cqHeadStep_kept h)
  | outqHead => exact next_kept (onHost_kept k fun _ h => outqHeadStep_kept h)
  | ringEnable => exact next_kept (onHost_kept k fun _ h => ringOnStep_kept h)
  | ringDisable => exact next_kept (onHost_kept k fun _ h => ringOffStep_kept h)
  | fnClaimWrite => exact next_kept (onHost_kept k fun _ h => fnClaimStep_kept h)
  | windowEntryWrite => exact next_kept (onHost_kept k fun _ h => entryStep_kept h)
  | sumpDroppedRead => exact next_kept (onHost_kept k fun _ h => droppedStep_kept h)
  | windowDropRead => exact next_kept (onHost_kept k fun _ h => windowDropStep_kept h)
  | devTimeRead => exact next_kept (onHost_kept k fun _ h => devTimeStep_kept h)
  | msixUnmask => exact next_kept (onHost_kept k fun _ h => unmaskStep_kept h)
  | registerWrite => exact next_kept (onHost_kept k fun _ h => regWriteStep_kept h)
  | muster => exact next_kept (musterStep_kept k)
  | outqSet => exact next_kept (outqSetStep_kept k)
  | ringGrant => exact next_kept (ringGrantStep_kept k)
  | ringRevoke => exact next_kept (ringRevokeStep_kept k)
  | claimCreate => exact next_kept (claimCreateStep_kept k)
  | claimDestroy => exact next_kept (claimDestroyStep_kept k)
  | claimReset => exact next_kept (claimResetStep_kept k)
  | claimClearDone => exact next_kept (clearDoneStep_kept k)
  | claimQuery => exact next_kept (claimQueryStep_kept k)
  | regionRetire => exact next_kept (regionRetireStep_kept k)
  | regionRestore => exact next_kept (regionRestoreStep_kept k)
  | regionList => exact next_kept (regionListStep_kept k)
  | shaftAddrSet => exact next_kept (addrSetStep_kept k)
  | shaftCtl => exact next_kept (shaftCtlStep_kept k)
  | shaftQuery => exact next_kept (shaftQueryStep_kept k)
  | shaftShareSet => exact next_kept (shareSetStep_kept k)
  | shaftAuth => exact next_kept (shaftAuthStep_kept k)
  | routeSet => exact next_kept (routeSetStep_kept k)
  | bellJoin => exact next_kept (bellJoinStep_kept k)
  | bellLeave => exact next_kept (bellLeaveStep_kept k)
  | bellClaimSet => exact next_kept (bellClaimStep_kept k)
  | bellQuery => exact next_kept (bellQueryStep_kept k)
  | objCreate => exact next_kept (objCreateStep_kept k)
  | objDestroy => exact next_kept (objDestroyStep_kept k)
  | objQuery => exact next_kept (objQueryStep_kept k)
  | objSetPin => exact next_kept (objSetPinStep_kept k)
  | pageQuery => exact next_kept (pageQueryStep_kept k)
  | hoistPrefetch => exact next_kept (prefetchStep_kept k)
  | hoistEvict => exact next_kept (evictCmdStep_kept k)
  | hoistFramesAdd => exact next_kept (framesAddStep_kept k)
  | hoistFramesRemove => exact next_kept (framesRemoveStep_kept k)
  | fetchDeadlineSet => exact next_kept (deadlineSetStep_kept k)
  | branchTableLoad => exact next_kept (branchLoadStep_kept k)
  | versionBuild => exact next_kept (versionBuildStep_kept k)
  | weightLoad => exact next_kept (weightLoadStep_kept k)
  | versionCancel => exact next_kept (versionCancelStep_kept k)
  | versionSwitch => exact next_kept (versionSwitchStep_kept k)
  | versionQuery => exact next_kept (versionQueryStep_kept k)
  | versionAuditSet => exact next_kept (auditSetStep_kept k)
  | serveSet => exact next_kept (serveSetStep_kept k)
  | admitSet => exact next_kept (admitSetStep_kept k)
  | streamOpen => exact next_kept (settleFoul_kept (openStep_kept k))
  | streamCancel => exact next_kept (cancelStep_kept k)
  | streamPark => exact next_kept (parkCmdStep_kept k)
  | streamRelease => exact next_kept (releaseStep_kept k)
  | streamQuery => exact next_kept (streamQueryStep_kept k)
  | tallySet => exact next_kept (tallySetStep_kept k)
  | tallyQuery => exact next_kept (tallyQueryStep_kept k)
  | tallyWindowSet => exact next_kept (windowSetStep_kept k)
  | tickSet => exact next_kept (tickSetStep_kept k)
  | steerBasisLoad => exact next_kept (basisStep_kept k)
  | steerSet => exact next_kept (steerSetStep_kept k)
  | passStart => exact next_kept (passStartStep_kept k)
  | passAbort => exact next_kept (passAbortStep_kept k)
  | sweep => exact next_kept (sweepStep_kept k)
  | stepSet => exact next_kept (stepSetStep_kept k)
  | turn => exact next_kept (turnStep_kept k)
  | replicaAssay => exact next_kept (assayStep_kept k)
  | collGroupSet => exact next_kept (groupSetStep_kept k)
  | collIssue => exact next_kept (collIssueStep_kept k)
  | canarySet => exact next_kept (canarySetStep_kept k)
  | canaryQuery => exact next_kept (canaryQueryStep_kept k)
  | canaryClear => exact next_kept (canaryClearStep_kept k)
  | ledgerCheck => exact next_kept (ledgerStep_kept k)
  | capSet => exact next_kept (capSetStep_kept k)
  | capFloor => exact next_kept (capFloorStep_kept k)
  | winderPrioritySet => exact next_kept (prioritySetStep_kept k)
  | opFix => exact next_kept (opFixStep_kept k)
  | opLimit => exact next_kept (opLimitStep_kept k)
  | winderQuery => exact next_kept (winderQueryStep_kept k)
  | powerStateSet => exact next_kept (powerSetStep_kept k)
  | marginClear => exact next_kept (marginClearStep_kept k)
  | fwStage => exact next_kept (fwStageStep_kept k)
  | fwStageDone => exact next_kept (stageDoneStep_kept k)
  | fwActivate => exact next_kept (fwActivateStep_kept k)
  | fwQuery => exact next_kept (fwQueryStep_kept k)
  | sumpRead => exact next_kept (sumpReadStep_kept k)
  | flitSlot => exact next_kept (slotStep_kept k)
  | collision => exact next_kept (collisionStep_kept k)
  | bellReceiverLock => exact next_kept (lockStep_kept k)
  | peerWeightRequest => exact next_kept (serveStep_kept k)
  | railWithinTolerance => exact next_kept (railGoodStep_kept k)
  | vddAuxRemoved => exact next_kept (auxOffStep_kept k)
  | reservedOpcode => exact next_kept (reservedOpStep_kept k)
  | reservedInstruction => exact next_kept (issueIf_kept k fun _ _ h => raise_kept h)
  | unsupportedDataObject => exact next_kept (unsupportedObjStep_kept k)
/-- The command taken leaves the queue; its tables are those of the state that it was taken from. -/
theorem step_of_cons {s : State} {c : Instr} {rest : List Instr} (h : s.pending = c :: rest) :
    step s = exec c { s with pending := rest } := by
  unfold step
  rw [h]
theorem step_of_nil {s : State} (h : s.pending = []) : step s = .next (clockEdge s) := by
  unfold step
  rw [h]
theorem timeRuns_iff (s : State) : timeRuns s = true ↔ s.power = .s0 ∨ s.power = .s1 ∨ s.power = .s2 := by
  unfold timeRuns
  cases s.power <;> decide
theorem clockEdge_eq (s : State) : clockEdge s =
    if (s.power = .s0 ∨ s.power = .s1 ∨ s.power = .s2) ∧ s.pins.perst = false
      then { s with time := (s.time / 40 * 40 + 40) % 2 ^ 64, elapsed := 0 } else s := by
  unfold clockEdge
  simp only [Bool.and_eq_true, Bool.not_eq_true', timeRuns_iff]
theorem canonical_pending (s : State) (q : List Instr) : State.canonical { s with pending := q } = s.canonical := rfl
/-- A step ends in a next state, which has lost the front command alone and is canonical where the state before was. -/
theorem step_takes_front (s : State) :
    ∃ t, step s = .next t ∧ t.pending = s.pending.drop 1 ∧ (s.canonical = true → t.canonical = true) := by
  cases hq : s.pending with
  | nil =>
    have hk : Kept s (clockEdge s) := clockEdge_kept (Kept.refl s)
    exact ⟨_, step_of_nil hq, hk.queue.trans hq, hk.canon⟩
  | cons c rest =>
    obtain ⟨t, ht, hk⟩ := exec_kept c { s with pending := rest }
    exact ⟨t, (step_of_cons hq).trans ht, hk.queue, fun hs => hk.canon ((canonical_pending s rest).trans hs)⟩

end Sys2Proof.Machine

open Sys2Proof Sys2Proof.Machine

/-- Settles O52: a step is the front command's own meaning or an edge of the clock, and each keeps every table canonical. -/
theorem stepKeepsCanonicalForm : Obligations.StepKeepsCanonicalForm := by
  intro s t hs ht
  obtain ⟨u, hu, -, hcanon⟩ := step_takes_front s
  obtain rfl : u = t := by injection hu.symm.trans ht
  exact hcanon hs

/-- Settles O1: the queue's front decides which arm of the step runs. -/
theorem stepRunsFrontCommand : Obligations.StepRunsFrontCommand := fun _ _ _ h => step_of_cons h

/-- Settles O53: every command answers a next state and takes nothing but itself; the clock's edge is all that an empty queue does. -/
theorem stepTakesOneCommand : Obligations.StepTakesOneCommand := by
  intro s
  obtain ⟨u, hu, hqueue, -⟩ := step_takes_front s
  refine ⟨⟨u, hu⟩, fun t ht => ?_, fun hq => ?_⟩
  · obtain rfl : u = t := by injection hu.symm.trans ht
    exact hqueue
  · rw [step_of_nil hq, clockEdge_eq]
end

section
/-!
PROOFS. The memory code (R171 to R173): the syndrome and the parity of a word are linear, a stored word has both 0, and no two
patterns of at most two wrong positions share a syndrome.
-/
namespace Sys2Proof.Machine
open Sys2Proof

/-! ### Remainder and parity are linear -/

/-- One step of the division by g(x). -/
def reduceAt (n v : Nat) : Nat := if v.testBit (14 + n) then v ^^^ (0x4377 <<< n) else v
theorem polyRem_succ (n v : Nat) : polyRem (n + 1) v = polyRem n (reduceAt n v) := rfl
theorem reduceAt_xor (n a b : Nat) : reduceAt n (a ^^^ b) = reduceAt n a ^^^ reduceAt n b := by
  have hcancel (g : Nat) : a ^^^ b = (a ^^^ g) ^^^ (b ^^^ g) := by
    rw [Nat.xor_assoc, Nat.xor_comm b g, ← Nat.xor_assoc g, Nat.xor_self, Nat.zero_xor]
  have hswap (g : Nat) : (a ^^^ b) ^^^ g = (a ^^^ g) ^^^ b := by rw [Nat.xor_assoc, Nat.xor_comm b g, Nat.xor_assoc]
  unfold reduceAt
  rw [Nat.testBit_xor]
  cases a.testBit (14 + n) <;> cases b.testBit (14 + n)
  · rfl
  · exact Nat.xor_assoc ..
  · exact hswap _
  · exact hcancel _
theorem polyRem_xor (n a b : Nat) : polyRem n (a ^^^ b) = polyRem n a ^^^ polyRem n b := by
  induction n generalizing a b with
  | zero => rfl
  | succ n ih => rw [polyRem_succ, reduceAt_xor, ih]; rfl
theorem polyRem_of_lt {v : Nat} (h : v < 2 ^ 14) (n : Nat) : polyRem n v = v := by
  induction n with
  | zero => rfl
  | succ n ih =>
    have hbit : v.testBit (14 + n) = false := Nat.testBit_lt_two_pow (Nat.lt_of_lt_of_le h (Nat.pow_le_pow_right (by decide) (by omega)))
    rw [polyRem_succ, reduceAt, if_neg (by rw [hbit]; decide), ih]
/-- A step clears the highest bit, which g(x) has too. -/
theorem reduceAt_lt {n v : Nat} (h : v < 2 ^ (14 + (n + 1))) : reduceAt n v < 2 ^ (14 + n) := by
  refine Nat.lt_pow_two_of_testBit _ fun i hi => ?_
  have hg (hlt : 14 + n < i) : (0x4377 <<< n).testBit i = false := by
    rw [Nat.testBit_shiftLeft, Nat.testBit_lt_two_pow (Nat.lt_of_lt_of_le (by decide : 0x4377 < 2 ^ 15) (Nat.pow_le_pow_right (by decide) (by omega)))]
    exact Bool.and_false _
  have hv (hlt : 14 + n < i) : v.testBit i = false := Nat.testBit_lt_two_pow (Nat.lt_of_lt_of_le h (Nat.pow_le_pow_right (by decide) (by omega)))
  obtain heq | hlt := Nat.eq_or_lt_of_le hi
  · subst heq
    unfold reduceAt
    split
    next hbit =>
      have htop : (0x4377 <<< n).testBit (14 + n) = true := by
        rw [Nat.testBit_shiftLeft, Nat.add_sub_cancel]
        simp
        decide
      rw [Nat.testBit_xor, hbit, htop]
      rfl
    next hbit => exact eq_false_of_ne_true hbit
  · unfold reduceAt
    split
    · rw [Nat.testBit_xor, hv hlt, hg hlt]; rfl
    · exact hv hlt
theorem polyRem_lt {n v : Nat} (h : v < 2 ^ (14 + n)) : polyRem n v < 2 ^ 14 := by
  induction n generalizing v with
  | zero => exact h
  | succ n ih => exact ih (reduceAt_lt h)
theorem parityF_xor (n a b : Nat) : parityF n (a ^^^ b) = (parityF n a + parityF n b) % 2 := by
  induction n generalizing a b with
  | zero => rfl
  | succ n ih =>
    rw [parityF, Nat.xor_div_two, ih, parityF, parityF]
    have hlow := Nat.xor_mod_two_eq_one (a := a) (b := b)
    omega
theorem parityF_lt_two (n v : Nat) : parityF n v < 2 := by
  cases n with
  | zero => exact Nat.zero_lt_two
  | succ n => exact Nat.mod_lt _ Nat.zero_lt_two
theorem parityF_succ_of_lt {n v : Nat} (h : v < 2 ^ n) : parityF (n + 1) v = parityF n v := by
  induction n generalizing v with
  | zero =>
    obtain rfl : v = 0 := by omega
    rfl
  | succ n ih => rw [parityF, ih (by rw [Nat.pow_succ] at h; omega)]; rfl

/-! ### The code word that a stored word spells (R173) -/

/-- Its polynomial: the check bits below the data and P. -/
def codePoly (n : Nat) : Nat := (n % 2 ^ 65) * 2 ^ 14 + n / 2 ^ 65 % 2 ^ 14
theorem codePoly_eq (n : Nat) : codePoly n = (n % 2 ^ 65) <<< 14 ||| n >>> 65 % 2 ^ 14 := by
  rw [← Nat.shiftLeft_add_eq_or_of_lt (Nat.mod_lt _ (by decide)), Nat.shiftLeft_eq, Nat.shiftRight_eq_div_pow]
  rfl
theorem codePoly_xor (a b : Nat) : codePoly (a ^^^ b) = codePoly a ^^^ codePoly b := by
  refine Nat.eq_of_testBit_eq fun k => ?_
  simp only [codePoly_eq, Nat.testBit_xor, Nat.testBit_or, Nat.testBit_shiftLeft, Nat.testBit_mod_two_pow, Nat.testBit_shiftRight]
  by_cases hk : k < 14
  · simp [hk, Nat.not_le.2 hk]
  · simp only [hk, decide_false, Bool.false_and, Bool.or_false, ← Bool.and_xor_distrib_left]
/-- The syndrome and the total parity of a word. -/
def syndromeOf (w : W80) : Nat := polyRem 65 (codePoly w.toNat)
def parityOf (w : W80) : Nat := parityF 80 w.toNat
theorem decode80_eq (w : W80) : decode80 w =
    if syndromeOf w = 0 then (if parityOf w = 0 then (w, .clean) else (flip w 79, .fixed 1))
    else if parityOf w = 1 then
      match (List.range 79).find? fun i => xpow i == syndromeOf w with
      | some i => (flip w (codeBit i), .fixed 1)
      | none => (w, .bad)
    else match pairFor (syndromeOf w) with
      | some (i, j) => (flip (flip w (codeBit i)) (codeBit j), .fixed 2)
      | none => match (List.range 79).find? fun i => xpow i == syndromeOf w with
        | some i => (flip (flip w (codeBit i)) 79, .fixed 2)
        | none => (w, .bad) := by
  unfold decode80 syndromeOf parityOf codePoly
  dsimp only <;>
    (generalize polyRem 65 _ = s
     generalize parityF 80 _ = t
     generalize pairFor s = q
     generalize List.find? _ _ = o
     rfl)
theorem flip_toNat (w : W80) {n : Nat} (h : n < 80) : (flip w n).toNat = w.toNat ^^^ 2 ^ n := by
  rw [flip, BitVec.toNat_xor, BitVec.toNat_ofNat, Nat.mod_eq_of_lt (Nat.pow_lt_pow_right (by decide) h)]
theorem flip_flip (w : W80) (n : Nat) : flip (flip w n) n = w := by
  rw [flip, flip, BitVec.xor_assoc, BitVec.xor_self, BitVec.xor_zero]
theorem flip_comm (w : W80) (m n : Nat) : flip (flip w m) n = flip (flip w n) m := by
  simp only [flip, BitVec.xor_assoc, BitVec.xor_comm (BitVec.ofNat 80 (2 ^ m))]
theorem parityF_two_pow : ∀ n < 80, parityF 80 (2 ^ n) = 1 := by decide +kernel
theorem parityOf_flip (w : W80) {n : Nat} (h : n < 80) : parityOf (flip w n) = (parityOf w + 1) % 2 := by
  rw [parityOf, flip_toNat w h, parityF_xor, parityF_two_pow n h]; rfl
theorem codePoly_codeBit : ∀ k < 79, codePoly (2 ^ codeBit k) = 2 ^ k := by decide +kernel
theorem codeBit_lt : ∀ k < 79, codeBit k < 79 := by decide
theorem syndromeOf_flip_codeBit (w : W80) {k : Nat} (h : k < 79) : syndromeOf (flip w (codeBit k)) = syndromeOf w ^^^ xpow k := by
  rw [syndromeOf, flip_toNat w (by have := codeBit_lt k h; omega), codePoly_xor, polyRem_xor, codePoly_codeBit k h]; rfl
/-- The total parity bit is in no code word. -/
theorem syndromeOf_flip_parity (w : W80) : syndromeOf (flip w 79) = syndromeOf w := by
  have h0 : polyRem 65 (codePoly (2 ^ 79)) = 0 := by decide +kernel
  rw [syndromeOf, flip_toNat w (by decide), codePoly_xor, polyRem_xor, h0, Nat.xor_zero]; rfl
/-- Each bit of a word but the parity bit is one position of the code. -/
theorem exists_codeBit : ∀ n < 79, ∃ k < 79, codeBit k = n := by decide +kernel

/-! ### No two patterns of at most two positions share a syndrome -/

/-- The patterns: none, one, or two of the 79 positions. -/
def patterns : List (List Nat) :=
  [] :: ((List.range 79).map fun i => [i]) ++ (List.range 79).flatMap fun j => (List.range j).map fun i => [i, j]
def patternSyndrome (l : List Nat) : Nat := l.foldl (fun a i => a ^^^ xpow i) 0
/-- The numbers differ from each other, and from those whose bits are set in `seen`. -/
def distinctF : Nat → List Nat → Bool
  | _, [] => true
  | seen, x :: xs => !seen.testBit x && distinctF (seen ||| 2 ^ x) xs
theorem distinctF_sound {seen : Nat} {l : List Nat} (h : distinctF seen l = true) :
    l.Nodup ∧ ∀ x ∈ l, seen.testBit x = false := by
  induction l generalizing seen with
  | nil => exact ⟨List.nodup_nil, by simp⟩
  | cons x xs ih =>
    simp only [distinctF, Bool.and_eq_true, Bool.not_eq_true'] at h
    obtain ⟨hx, hxs⟩ := h
    obtain ⟨hnodup, hseen⟩ := ih hxs
    simp only [Nat.testBit_or, Bool.or_eq_false_iff] at hseen
    refine ⟨List.nodup_cons.2 ⟨fun hmem => ?_, hnodup⟩, fun y hy => ?_⟩
    · have hself := (hseen x hmem).2
      rw [Nat.testBit_two_pow_self] at hself
      cases hself
    · obtain rfl | hy := List.mem_cons.1 hy
      · exact hx
      · exact (hseen y hy).1
theorem patternSyndrome_distinct : distinctF 0 (patterns.map patternSyndrome) = true := by decide +kernel
theorem patternSyndrome_nodup : (patterns.map patternSyndrome).Nodup := (distinctF_sound patternSyndrome_distinct).1
/-- A list whose images do not repeat holds no two with one image. -/
theorem eq_of_nodup_map {α β : Type} {f : α → β} {l : List α} (h : (l.map f).Nodup) {a b : α} (ha : a ∈ l) (hb : b ∈ l) (hab : f a = f b) :
    a = b := by
  induction l with
  | nil => cases ha
  | cons x xs ih =>
    obtain ⟨hx, hxs⟩ := List.nodup_cons.1 h
    have hnew {y : α} (hy : y ∈ xs) : f x ≠ f y := fun he => hx (he ▸ List.mem_map_of_mem hy)
    obtain hax | hay := List.mem_cons.1 ha <;> obtain hbx | hby := List.mem_cons.1 hb
    · exact hax.trans hbx.symm
    · exact absurd (hax ▸ hab) (hnew hby)
    · exact absurd (hbx ▸ hab).symm (hnew hay)
    · exact ih hxs hay hby
theorem patternSyndrome_inj {l m : List Nat} (hl : l ∈ patterns) (hm : m ∈ patterns) (h : patternSyndrome l = patternSyndrome m) : l = m :=
  eq_of_nodup_map patternSyndrome_nodup hl hm h
theorem none_mem_patterns : [] ∈ patterns := List.mem_cons_self
theorem one_mem_patterns {i : Nat} (hi : i < 79) : [i] ∈ patterns := by
  refine List.mem_append_left _ (List.mem_cons_of_mem _ ?_)
  exact List.mem_map.2 ⟨i, List.mem_range.2 hi, rfl⟩
theorem two_mem_patterns {i j : Nat} (hij : i < j) (hj : j < 79) : [i, j] ∈ patterns := by
  refine List.mem_append_right _ (List.mem_flatMap.2 ⟨j, List.mem_range.2 hj, ?_⟩)
  exact List.mem_map.2 ⟨i, List.mem_range.2 hij, rfl⟩
theorem patternSyndrome_one (i : Nat) : patternSyndrome [i] = xpow i := Nat.zero_xor _
theorem patternSyndrome_two (i j : Nat) : patternSyndrome [i, j] = xpow i ^^^ xpow j := congrArg (· ^^^ xpow j) (Nat.zero_xor _)
theorem xpow_ne_zero {i : Nat} (hi : i < 79) : xpow i ≠ 0 := by
  intro h
  have := patternSyndrome_inj (one_mem_patterns hi) none_mem_patterns ((patternSyndrome_one i).trans h)
  cases this
theorem xpow_inj {i j : Nat} (hi : i < 79) (hj : j < 79) (h : xpow i = xpow j) : i = j := by
  have := patternSyndrome_inj (one_mem_patterns hi) (one_mem_patterns hj) (by rw [patternSyndrome_one, patternSyndrome_one, h])
  exact List.head_eq_of_cons_eq this
theorem pair_ne_zero {i j : Nat} (hij : i < j) (hj : j < 79) : xpow i ^^^ xpow j ≠ 0 := by
  intro h
  have := patternSyndrome_inj (two_mem_patterns hij hj) none_mem_patterns ((patternSyndrome_two i j).trans h)
  cases this
theorem pair_ne_one {i j k : Nat} (hij : i < j) (hj : j < 79) (hk : k < 79) : xpow i ^^^ xpow j ≠ xpow k := by
  intro h
  have := patternSyndrome_inj (two_mem_patterns hij hj) (one_mem_patterns hk) (by rw [patternSyndrome_one, patternSyndrome_two, h])
  cases this
theorem pair_inj {i j k l : Nat} (hij : i < j) (hj : j < 79) (hkl : k < l) (hl : l < 79) (h : xpow i ^^^ xpow j = xpow k ^^^ xpow l) :
    i = k ∧ j = l := by
  have := patternSyndrome_inj (two_mem_patterns hij hj) (two_mem_patterns hkl hl) (by rw [patternSyndrome_two, patternSyndrome_two, h])
  simpa using this

/-! ### What the decoder finds -/

theorem find_xpow {k : Nat} (hk : k < 79) : ((List.range 79).find? fun i => xpow i == xpow k) = some k := by
  cases hf : (List.range 79).find? fun i => xpow i == xpow k with
  | none =>
    have := List.find?_eq_none.1 hf k (List.mem_range.2 hk)
    simp at this
  | some i =>
    have hi := List.mem_range.1 (List.mem_of_find?_eq_some hf)
    have hmeets := List.find?_some hf
    rw [beq_iff_eq] at hmeets
    rw [xpow_inj hi hk hmeets]
theorem pairFor_some {s : Nat} {p : Nat × Nat} (h : pairFor s = some p) : p.1 < p.2 ∧ p.2 < 79 ∧ xpow p.1 ^^^ xpow p.2 = s := by
  obtain ⟨i, -, hi⟩ := List.exists_of_findSome?_eq_some h
  obtain ⟨j, hj, rfl⟩ := Option.map_eq_some_iff.1 hi
  have hlt := List.mem_range.1 (List.mem_of_find?_eq_some hj)
  have hmeets := List.find?_some hj
  simp only [Bool.and_eq_true, decide_eq_true_eq, beq_iff_eq] at hmeets
  exact ⟨hmeets.1, hlt, hmeets.2⟩
theorem pairFor_none {s : Nat} (h : pairFor s = none) {i j : Nat} (hij : i < j) (hj : j < 79) : xpow i ^^^ xpow j ≠ s := by
  have hrow := List.findSome?_eq_none_iff.1 h i (List.mem_range.2 (Nat.lt_trans hij hj))
  have hcell := List.find?_eq_none.1 (Option.map_eq_none_iff.1 hrow) j (List.mem_range.2 hj)
  simpa [hij] using hcell
theorem pairFor_pair {i j : Nat} (hij : i < j) (hj : j < 79) : pairFor (xpow i ^^^ xpow j) = some (i, j) := by
  cases hp : pairFor (xpow i ^^^ xpow j) with
  | none => exact absurd rfl (pairFor_none hp hij hj)
  | some p =>
    obtain ⟨hlt, hp2, hsum⟩ := pairFor_some hp
    obtain ⟨h1, h2⟩ := pair_inj hlt hp2 hij hj hsum
    rw [← h1, ← h2]
theorem pairFor_one {k : Nat} (hk : k < 79) : pairFor (xpow k) = none := by
  cases hp : pairFor (xpow k) with
  | none => rfl
  | some p =>
    obtain ⟨hlt, hp2, hsum⟩ := pairFor_some hp
    exact absurd hsum (pair_ne_one hlt hp2 hk)

section
variable {w : W80}

theorem parityOf_flip_one (hp : parityOf w = 0) {n : Nat} (hn : n < 80) : parityOf (flip w n) = 1 := by rw [parityOf_flip w hn, hp]
theorem parityOf_flip_two (hp : parityOf w = 0) {m n : Nat} (hm : m < 80) (hn : n < 80) : parityOf (flip (flip w m) n) = 0 := by
  rw [parityOf_flip _ hn, parityOf_flip_one hp hm]

variable (hs : syndromeOf w = 0) (hp : parityOf w = 0)
include hs hp

theorem decode80_clean : decode80 w = (w, .clean) := by
  rw [decode80_eq, if_pos hs, if_pos hp]
theorem decode80_flip_parity : decode80 (flip w 79) = (w, .fixed 1) := by
  rw [decode80_eq, syndromeOf_flip_parity, if_pos hs, parityOf_flip_one hp (by decide), if_neg (by decide), flip_flip]
theorem decode80_flip_codeBit {k : Nat} (hk : k < 79) : decode80 (flip w (codeBit k)) = (w, .fixed 1) := by
  have hbit := codeBit_lt k hk
  rw [decode80_eq, syndromeOf_flip_codeBit w hk, hs, Nat.zero_xor, if_neg (xpow_ne_zero hk), parityOf_flip_one hp (by omega), if_pos rfl,
    find_xpow hk]
  exact congrArg (·, Ecc.fixed 1) (flip_flip _ _)
theorem decode80_flip_codeBit_parity {k : Nat} (hk : k < 79) : decode80 (flip (flip w (codeBit k)) 79) = (w, .fixed 2) := by
  have hbit := codeBit_lt k hk
  rw [decode80_eq, syndromeOf_flip_parity, syndromeOf_flip_codeBit w hk, hs, Nat.zero_xor, if_neg (xpow_ne_zero hk),
    parityOf_flip_two hp (by omega) (by decide), if_neg (by decide), pairFor_one hk, find_xpow hk]
  dsimp only
  rw [flip_comm w, flip_flip, flip_flip]
theorem decode80_flip_codeBits {i j : Nat} (hij : i < j) (hj : j < 79) :
    decode80 (flip (flip w (codeBit i)) (codeBit j)) = (w, .fixed 2) := by
  have hi := Nat.lt_trans hij hj
  have hbi := codeBit_lt i hi
  have hbj := codeBit_lt j hj
  rw [decode80_eq, syndromeOf_flip_codeBit _ hj, syndromeOf_flip_codeBit w hi, hs, Nat.zero_xor, if_neg (pair_ne_zero hij hj),
    parityOf_flip_two hp (by omega) (by omega), if_neg (by decide), pairFor_pair hij hj]
  dsimp only
  rw [flip_comm w, flip_flip, flip_flip]
theorem decode80_flip {n : Nat} (hn : n < 80) : decode80 (flip w n) = (w, .fixed 1) := by
  obtain rfl | hlt : n = 79 ∨ n < 79 := by omega
  · exact decode80_flip_parity hs hp
  · obtain ⟨k, hk, rfl⟩ := exists_codeBit n hlt
    exact decode80_flip_codeBit hs hp hk
theorem decode80_flip_two {m n : Nat} (hmn : m < n) (hn : n < 80) : decode80 (flip (flip w m) n) = (w, .fixed 2) := by
  obtain ⟨i, hi, rfl⟩ := exists_codeBit m (by omega)
  obtain rfl | hlt : n = 79 ∨ n < 79 := by omega
  · exact decode80_flip_codeBit_parity hs hp hi
  · obtain ⟨j, hj, rfl⟩ := exists_codeBit n hlt
    rcases Nat.lt_trichotomy i j with hij | hij | hij
    · exact decode80_flip_codeBits hs hp hij hj
    · exact absurd (congrArg codeBit hij) (Nat.ne_of_lt hmn)
    · rw [flip_comm]
      exact decode80_flip_codeBits hs hp hij hi
end

/-! ### A stored word -/

/-- Numbers whose bits do not meet add as they do without carry. -/
theorem add_eq_xor_of_lt {b n : Nat} (h : b < 2 ^ n) (a : Nat) : a * 2 ^ n + b = a * 2 ^ n ^^^ b := by
  refine Nat.eq_of_testBit_eq fun k => ?_
  rw [Nat.testBit_xor, Nat.mul_comm, Nat.testBit_two_pow_mul_add _ h, Nat.testBit_two_pow_mul]
  by_cases hk : k < n
  · simp [hk, Nat.not_le.2 hk]
  · simp [hk, Nat.not_lt.1 hk, Nat.testBit_lt_two_pow (Nat.lt_of_lt_of_le h (Nat.pow_le_pow_right (by decide) (Nat.not_lt.1 hk)))]

/-- Data and P, as the code word has them. -/
def lowBits (d : W64) (p : Bool) : Nat := b2n p * 2 ^ 64 + d.toNat
def checkBits (d : W64) (p : Bool) : Nat := polyRem 65 (lowBits d p * 2 ^ 14)
theorem lowBits_lt (d : W64) (p : Bool) : lowBits d p < 2 ^ 65 := by
  have hd : d.toNat < 2 ^ 64 := d.isLt
  cases p <;> simp only [lowBits, b2n, if_true, if_false, Bool.false_eq_true] <;> omega
theorem checkBits_lt (d : W64) (p : Bool) : checkBits d p < 2 ^ 14 := by
  have hlow := lowBits_lt d p
  exact polyRem_lt (by omega)
theorem encode80_toNat (d : W64) (p : Bool) : (encode80 d p).toNat =
    parityF 79 (checkBits d p * 2 ^ 65 + lowBits d p) * 2 ^ 79 + (checkBits d p * 2 ^ 65 + lowBits d p) := by
  have hlow := lowBits_lt d p
  have hcheck := checkBits_lt d p
  have hpar := parityF_lt_two 79 (checkBits d p * 2 ^ 65 + lowBits d p)
  have hmod : (encode80 d p).toNat = (parityF 79 (checkBits d p * 2 ^ 65 + lowBits d p) * 2 ^ 79 + (checkBits d p * 2 ^ 65 + lowBits d p)) % 2 ^ 80 :=
    BitVec.toNat_ofNat _ _
  rw [hmod, Nat.mod_eq_of_lt (by omega)]
theorem codePoly_encode80 (d : W64) (p : Bool) : codePoly (encode80 d p).toNat = lowBits d p * 2 ^ 14 ^^^ checkBits d p := by
  have hlow := lowBits_lt d p
  have hcheck := checkBits_lt d p
  rw [← add_eq_xor_of_lt hcheck (lowBits d p), encode80_toNat, codePoly]
  generalize parityF 79 _ = q
  omega
/-- The check bits are the remainder of the rest, so that the whole leaves none. -/
theorem syndromeOf_encode80 (d : W64) (p : Bool) : syndromeOf (encode80 d p) = 0 := by
  rw [syndromeOf, codePoly_encode80, polyRem_xor, polyRem_of_lt (checkBits_lt d p)]
  exact Nat.xor_self _
theorem parityOf_encode80 (d : W64) (p : Bool) : parityOf (encode80 d p) = 0 := by
  have hlow := lowBits_lt d p
  have hcheck := checkBits_lt d p
  have hx : checkBits d p * 2 ^ 65 + lowBits d p < 2 ^ 79 := by omega
  have htop : ∀ q < 2, parityF 80 (q * 2 ^ 79) = q := by decide +kernel
  have hq := parityF_lt_two 79 (checkBits d p * 2 ^ 65 + lowBits d p)
  rw [parityOf, encode80_toNat, add_eq_xor_of_lt hx, parityF_xor, htop _ hq, parityF_succ_of_lt hx]
  omega
theorem syndromeOf_storeP (w : PWord) : syndromeOf (storeP w) = 0 := by
  unfold storeP
  split <;> exact syndromeOf_encode80 ..
theorem parityOf_storeP (w : PWord) : parityOf (storeP w) = 0 := by
  unfold storeP
  split <;> exact parityOf_encode80 ..
theorem decode80_storeP (w : PWord) : decode80 (storeP w) = (storeP w, .clean) :=
  decode80_clean (syndromeOf_storeP w) (parityOf_storeP w)
theorem encode80_data (d : W64) (p : Bool) : BitVec.ofNat 64 ((encode80 d p).toNat % 2 ^ 64) = d := by
  have hmod : (encode80 d p).toNat % 2 ^ 64 = d.toNat := by
    have hd : d.toNat < 2 ^ 64 := d.isLt
    rw [encode80_toNat, lowBits]
    omega
  rw [hmod, BitVec.ofNat_toNat, BitVec.setWidth_eq]
theorem encode80_poison (d : W64) (p : Bool) : (encode80 d p).toNat.testBit 64 = p := by
  have hd : d.toNat < 2 ^ 64 := d.isLt
  rw [Nat.testBit_eq_decide_div_mod_eq, encode80_toNat, lowBits]
  cases p <;> simp only [b2n, if_true, if_false, Bool.false_eq_true, decide_eq_true_eq, decide_eq_false_iff_not] <;> omega
/-- What is stored reads back, with data 0 where it is poisoned (R175). -/
theorem readP_storeP (w : PWord) : readP (storeP w) = if w.poison then ⟨0, true⟩ else w := by
  have hread : readP (storeP w) = if (storeP w).toNat.testBit 64 then ⟨0, true⟩ else ⟨BitVec.ofNat 64 ((storeP w).toNat % 2 ^ 64), false⟩ := by
    rw [readP, decode80_storeP]
  obtain ⟨d, p⟩ := w
  cases p with
  | true =>
    have hstore : storeP ⟨d, true⟩ = encode80 0 true := rfl
    rw [hread, hstore, encode80_poison, if_pos rfl, if_pos rfl]
  | false =>
    have hstore : storeP ⟨d, false⟩ = encode80 d false := rfl
    rw [hread, hstore, encode80_poison, encode80_data, if_neg Bool.false_ne_true]

end Sys2Proof.Machine

open Sys2Proof Sys2Proof.Machine

/-- Settles O55: a stored word has syndrome and parity 0, and every pattern of one or two flipped bits its own pair of the two. -/
theorem memoryCodeCorrects : Obligations.MemoryCodeCorrects := by
  intro d p
  have hs := syndromeOf_storeP ⟨d, p⟩
  have hp := parityOf_storeP ⟨d, p⟩
  refine ⟨decode80_storeP _, (readP_storeP _).trans ?_, fun i => decode80_flip hs hp i.isLt, fun i j hij => decode80_flip_two hs hp hij j.isLt⟩
  cases p <;> rfl
end

section
/-!
PROOFS. The scalar unit: results, immediates, the vector length and branches (R130, R135).
-/
namespace Sys2Proof.Machine
open Sys2Proof

/-- The instruction that issues, with its face, stream and lane written out. -/
theorem issuing_eq {s : State} {f : Fin 128} {st : IssueStream} {op : Nat} {i : Ins} (h : Issuing s f st op i) :
    ∃ w x e, i = ⟨f.val, st, lane (face s f) st, w, x, e⟩ := by
  obtain ⟨hf, hst, hl⟩ := issuing_ins h
  exact ⟨i.w, i.x, i.ext, by rw [← hl, ← hst, ← hf]⟩
theorem named_nil (s : State) (i : Ins) : Named s i [] := ⟨rfl, rfl⟩
theorem not_true_ne_true : ¬ ((!true) = true) := by decide
/-- A register written, and on to the next word. -/
theorem done_setSreg {s : State} {i : Ins} (h : s.canonical = true) (n : Nat) (v : W64) :
    done (setSreg s i.f n v) i = goesOn s i { face s i.f with s := Tab.set 0 (face s i.f).s n v } := done_setFace h _
theorem done_modLane {s : State} {i : Ins} (h : s.canonical = true) (g : Lane → Lane) :
    done (modLane s i.f i.st g) i = goesOn s i (setLane (face s i.f) i.st (g (lane (face s i.f) i.st))) := done_setFace h _
theorem putVl_in {s : State} {i : Ins} {n : Int} (h : s.canonical = true) (hn : 1 ≤ n ∧ n ≤ 1024) :
    putVl s i n = goesOn s i (setLane (face s i.f) i.st { lane (face s i.f) i.st with vl := n.toNat }) :=
  (if_pos hn).trans (done_modLane h _)
theorem putVl_out {s : State} {i : Ins} {n : Int} (hn : ¬ (1 ≤ n ∧ n ≤ 1024)) : putVl s i n = fails s i stVlRange := if_neg hn
theorem branch_to {s : State} {i : Ins} {n : Nat} (h : targetIs i n) : branch s i = goesTo s i (face s i.f) n := jump_to h.1 h.2
theorem branch_bad {s : State} {i : Ins} (h : ∀ n, ¬ targetIs i n) : branch s i = fails s i stBranchRange :=
  jump_bad fun n ht hn => h n ⟨ht, hn⟩
/-- After its count is written, a branch of S_LOOP goes where it would have gone before. -/
theorem goesTo_setFace {s : State} {i : Ins} (h : s.canonical = true) (x : Face) (n : Nat) :
    goesTo (setFace s i.f x) i (face (setFace s i.f x) i.f) n = goesTo s i x n := by
  have hw := canonical_faces h
  simp only [goesTo, face_setFace hw, if_true, setFace_setFace hw]

/-! ### What each form comes to once it issues -/

section
variable {s : State} {f : Fin 128} {st : IssueStream} {i : Ins}

/-- A scalar instruction that issues, well coded and with its registers in order, is its effect. -/
theorem scalOp_runs {op : Nat} {fields : List (Nat × Nat)} {names : Ins → List Name} {body : State → Ins → State} (h : Issuing s f st op i)
    (he : encodingOk i fields .no [] = true) (hn : Named s i (names i)) : scalOp s f st op fields names body = body s i := by
  unfold scalOp
  rw [issue_runs h, he, if_neg not_true_ne_true, withRegs_runs hn]
theorem sBin_runs {op : Nat} {g : W64 → W64 → W64} (h : Issuing s f st op i) (he : encodingOk i [fSD, fSA, fSB] .no [] = true)
    (hn : Named s i [.sd (ssd i), .s (ssa i), .s (ssb i)]) : sBin s f st op g =
      goesOn s i { face s i.f with s := Tab.set 0 (face s i.f).s (ssd i) (g (sreg s i.f (ssa i)) (sreg s i.f (ssb i))) } :=
  (scalOp_runs h he hn).trans (done_setSreg h.canon _ _)
theorem sCond_taken {op : Nat} {g : W64 → W64 → Bool} (h : Issuing s f st op i) (he : encodingOk i [fSA, fSB, fIMM] .no [] = true)
    (hn : Named s i [.s (ssa i), .s (ssb i)]) (hg : g (sreg s i.f (ssa i)) (sreg s i.f (ssb i)) = true) :
    sCond s f st op g = branch s i := (scalOp_runs h he hn).trans (if_pos hg)
theorem sCond_untaken {op : Nat} {g : W64 → W64 → Bool} (h : Issuing s f st op i) (he : encodingOk i [fSA, fSB, fIMM] .no [] = true)
    (hn : Named s i [.s (ssa i), .s (ssb i)]) (hg : g (sreg s i.f (ssa i)) (sreg s i.f (ssb i)) = false) :
    sCond s f st op g = done s i := (scalOp_runs h he hn).trans (if_neg (ne_true_of_eq_false hg))
theorem exec_scalarTable (s : State) (f : Fin 128) (st : IssueStream) :
    ∀ e ∈ scalarTable, exec (e.1 f st) s = .next (sBin s f st e.2.1 e.2.2) := by
  simp only [scalarTable, List.forall_mem_cons]
  exact ⟨rfl, rfl, rfl, rfl, rfl, rfl, rfl, rfl, rfl, fun _ h => nomatch h⟩
theorem exec_branchTable (s : State) (f : Fin 128) (st : IssueStream) :
    ∀ e ∈ branchTable, exec (e.1 f st) s = .next (sCond s f st e.2.1 e.2.2) := by
  simp only [branchTable, List.forall_mem_cons]
  exact ⟨rfl, rfl, rfl, rfl, fun _ h => nomatch h⟩
theorem exec_sNop (h : Issuing s f st 0x200 i) (he : encodingOk i [] .no [] = true) :
    exec (.sNop f st) s = .next (goesOn s i (face s i.f)) := congrArg _ (scalOp_runs h he (named_nil s i))
theorem exec_sAddi (h : Issuing s f st 0x20A i) (he : encodingOk i [fSD, fSA, fIMM] .no [] = true) (hn : Named s i [.sd (ssd i), .s (ssa i)]) :
    exec (.sAddi f st) s = .next (goesOn s i { face s i.f with
      s := Tab.set 0 (face s i.f).s (ssd i) (sreg s i.f (ssa i) + ofI64 (simm i)) }) :=
  congrArg _ ((scalOp_runs h he hn).trans (done_setSreg h.canon _ _))
theorem exec_sLi (h : Issuing s f st 0x20B i) (he : encodingOk i [fSD, fIMM] .opt [(63, 0)] = true) (hn : Named s i [.sd (ssd i)]) :
    exec (.sLi f st) s = .next (goesOn s i { face s i.f with
      s := Tab.set 0 (face s i.f).s (ssd i) (if i.ext then w64 i.x else ofI64 (simm i)) }) := by
  have hrun : sLiStep s f st = done (setSreg s i.f (ssd i) (if i.ext then w64 i.x else ofI64 (simm i))) i := by
    unfold sLiStep
    rw [issue_runs h, he, if_neg not_true_ne_true, withRegs_runs hn]
  exact congrArg _ (hrun.trans (done_setSreg h.canon _ _))
theorem exec_sSetvl (h : Issuing s f st 0x210 i) (he : encodingOk i [fSA] .no [] = true) (hn : Named s i [.s (ssa i)]) :
    exec (.sSetvl f st) s = .next (putVl s i ((sreg s i.f (ssa i)).toNat : Int)) := congrArg _ (scalOp_runs h he hn)
theorem exec_sSetvli (h : Issuing s f st 0x211 i) (he : encodingOk i [fIMM] .no [] = true) :
    exec (.sSetvli f st) s = .next (putVl s i (simm i)) := congrArg _ (scalOp_runs h he (named_nil s i))
theorem exec_sBr (h : Issuing s f st 0x218 i) (he : encodingOk i [fIMM] .no [] = true) : exec (.sBr f st) s = .next (branch s i) :=
  congrArg _ (scalOp_runs h he (named_nil s i))
theorem exec_sLoop (h : Issuing s f st 0x21D i) (he : encodingOk i [fSA, fIMM] .no [] = true) (hn : Named s i [.s (ssa i)]) :
    exec (.sLoop f st) s = .next (if loopCount s i = 0 then done (setFace s i.f (looped s i)) i else branch (setFace s i.f (looped s i)) i) :=
  congrArg _ (scalOp_runs h he hn)
end

end Sys2Proof.Machine

open Sys2Proof Sys2Proof.Machine

/-- Settles O2: past its checks a scalar instruction is its effect on its own face, and a vector length outside 1 to 1,024 is refused. -/
theorem scalarUnit : Obligations.ScalarUnit := by
  refine ⟨fun s f st i e hmem h he hn => ?_, fun s f st i => ⟨fun h he => ?_, fun h he hn => ?_, fun h he hn => ?_⟩,
    fun s f st i n => ⟨fun ⟨h, he, hn, hval⟩ => ?_, fun ⟨h, he, hval⟩ => ?_⟩⟩ <;> obtain ⟨w, x, ext, rfl⟩ := issuing_eq h
  · rw [exec_scalarTable s f st e hmem]
    exact congrArg _ (sBin_runs h he hn)
  · exact exec_sNop h he
  · exact exec_sAddi h he hn
  · exact exec_sLi h he hn
  · rw [exec_sSetvl h he hn]
    subst hval
    exact ⟨fun hin => congrArg _ (putVl_in h.canon hin), fun hout => congrArg _ (putVl_out hout)⟩
  · rw [exec_sSetvli h he]
    subst hval
    exact ⟨fun hin => congrArg _ (putVl_in h.canon hin), fun hout => congrArg _ (putVl_out hout)⟩

/-- Settles O3: a branch is a jump where it is taken and the next word where it is not; S_LOOP jumps on the state that its count has left. -/
theorem branches : Obligations.Branches := by
  refine ⟨fun s f st i => ⟨fun h he n ht => ?_, fun e hmem h he hn => ?_, fun h he hn => ⟨fun hzero => ?_, fun hcount n ht => ?_⟩⟩,
    fun s f st i hbad => ⟨fun h he => ?_, fun e hmem h he hn htaken => ?_, fun h he hn hcount => ?_⟩⟩ <;>
    obtain ⟨w, x, ext, rfl⟩ := issuing_eq h
  · rw [exec_sBr h he, branch_to ht]
  · rw [exec_branchTable s f st e hmem]
    exact ⟨fun hnot => congrArg _ (sCond_untaken h he hn hnot), fun htaken n ht => congrArg _ ((sCond_taken h he hn htaken).trans (branch_to ht))⟩
  · rw [exec_sLoop h he hn, if_pos hzero, done_setFace h.canon]
  · rw [exec_sLoop h he hn, if_neg hcount, branch_to ht, goesTo_setFace h.canon]
  · rw [exec_sBr h he, branch_bad hbad]
  · rw [exec_branchTable s f st e hmem, sCond_taken h he hn htaken, branch_bad hbad]
  · rw [exec_sLoop h he hn, if_neg hcount, branch_bad hbad]
end

section
/-!
PROOFS. The vector unit, element by element: arithmetic, moves, conversions, comparisons and masks (R98, R130, R131).
-/
namespace Sys2Proof.Machine
open Sys2Proof

/-! ### The fields of the class, as the statements name them -/

theorem bNames_eq (i : Ins) : bNames i = secondNames i := by
  unfold bNames secondNames bsrcF fw
  split
  next h => rw [h]; rfl
  next h0 =>
    split
    next h => rw [h]; rfl
    next h2 =>
      split
      next h => exact absurd h h0
      next h => exact absurd h h2
      next => rfl
theorem bElem_eq (s : State) (i : Ins) : bElem s i = second s i := by
  funext k
  unfold bElem second bsrcF fw
  split
  next h => rw [h]; rfl
  next h0 =>
    split
    next h => rw [h]; rfl
    next h1 =>
      split
      next h => exact absurd h h0
      next h => exact absurd h h1
      next => rfl
theorem mNames_eq (i : Ins) : mNames i = maskNames i := by
  simp only [mNames, meF, fw, beq_iff_eq, maskNames, mF]
theorem writable_eq (s : State) (i : Ins) : writable s i = fun k => !masked s i k := by
  funext k
  simp only [writable, masked, meF, mF, fw, Bool.not_and, Bool.not_not]
theorem bOk_of_secondOk {i : Ins} (h : secondOk i) : bOk i = true := by
  obtain ⟨h3, h1⟩ := h
  simp only [bOk, bsrcF, fw, Bool.and_eq_true, bne_iff_ne, Bool.or_eq_true, ne_eq, h3, not_false_eq_true, true_and]
  exact (Classical.em _).symm.imp_right h1

/-- A field that an opcode does not use holds 0 in a word that is well coded (R121). -/
theorem unused_field_zero {i : Ins} {fields x : List (Nat × Nat)} {use : ExtUse} {hi lo : Nat} (he : encodingOk i fields use x = true)
    (hm : ∀ k, k < hi + 1 - lo → lo + k < 51 ∧ (2 ^ 51 - 1 - fieldsMask fields).testBit (lo + k) = true) : bits i.w hi lo = 0 := by
  simp only [encodingOk, Bool.and_eq_true, beq_iff_eq] at he
  obtain ⟨⟨hzero, -⟩, -⟩ := he
  refine Nat.eq_of_testBit_eq fun k => ?_
  rw [bits, Nat.testBit_mod_two_pow, Nat.testBit_shiftRight, Nat.zero_testBit]
  by_cases hk : k < hi + 1 - lo
  · obtain ⟨hlt, hset⟩ := hm k hk
    have hbit := congrArg (·.testBit (lo + k)) hzero
    simpa only [Nat.testBit_and, Nat.testBit_mod_two_pow, hlt, hset, decide_true, Bool.true_and, Bool.and_true, Nat.zero_testBit, hk] using hbit
  · rw [decide_eq_false hk, Bool.false_and]

/-! ### Elements and mask bits written -/

theorem mapElems_eq (s : State) (i : Ins) (g : Nat → W32) : mapElems s i g = setFace s i.f (vdWritten s i g) := by
  unfold mapElems
  rw [setVelems_map, writable_eq]
  simp only [Nat.zero_add, Nat.add_zero]
  rfl
theorem done_mapElems {s : State} {i : Ins} (h : s.canonical = true) (g : Nat → W32) : done (mapElems s i g) i = goesOn s i (vdWritten s i g) := by
  rw [mapElems_eq, done_setFace h]
theorem flagIf_false (fl : BitVec 8) (n : Nat) : flagIf fl n false = fl := rfl
/-- A flag raised, where it is, on the face that an instruction leaves. -/
theorem done_setFlag {s : State} {i : Ins} (h : s.canonical = true) (x : Face) (n : Nat) (on : Bool)
    (hx : lane x i.st = lane (face s i.f) i.st) : done (setFlag (setFace s i.f x) i n on) i =
      goesOn s i (setLane x i.st { lane (face s i.f) i.st with flags := flagIf (lane (face s i.f) i.st).flags n on }) := by
  cases on with
  | false =>
    rw [setFlag, if_neg Bool.false_ne_true, done_setFace h, flagIf_false, ← hx, setLane_lane]
  | true =>
    have hw := canonical_faces h
    rw [setFlag, if_pos rfl, modLane]
    simp only [face_setFace hw, if_true, setFace_setFace hw, hx]
    exact done_setFace h _
/-- A bit of a mask after some, or other, bits from `lo` on. -/
theorem getLsbD_putBit (m : BitVec 1024) (p : Nat) (b : Bool) {k : Nat} (hk : k < 1024) :
    (if b then m ||| BitVec.ofNat 1024 (2 ^ p) else m &&& ~~~BitVec.ofNat 1024 (2 ^ p)).getLsbD k = if k = p then b else m.getLsbD k := by
  cases b <;> simp only [if_true, if_false, Bool.false_eq_true, BitVec.getLsbD_or, BitVec.getLsbD_and, BitVec.getLsbD_not, BitVec.getLsbD_ofNat,
    Nat.testBit_two_pow, hk, decide_true, Bool.true_and] <;> by_cases hp : k = p <;> simp [hp, eq_comm (a := p)]
theorem getLsbD_putBitsFrom (lo : Nat) (bs : List Bool) (n : Nat) (m : BitVec 1024) {k : Nat} (hk : k < 1024) :
    ((bs.zipIdx n).foldl (fun m p => if p.1 then m ||| BitVec.ofNat 1024 (2 ^ (lo + p.2)) else m &&& ~~~BitVec.ofNat 1024 (2 ^ (lo + p.2))) m).getLsbD k =
      if lo + n ≤ k ∧ k < lo + n + bs.length then bs.getD (k - (lo + n)) false else m.getLsbD k := by
  induction bs generalizing n m with
  | nil => rw [if_neg (by simp only [List.length_nil]; omega)]; rfl
  | cons b bs ih =>
    rw [List.zipIdx_cons, List.foldl_cons, ih, getLsbD_putBit m _ b hk]
    simp only [List.length_cons]
    by_cases hp : k = lo + n
    · rw [if_neg (by omega), if_pos hp, if_pos (by omega), hp, Nat.sub_self]; rfl
    · by_cases hin : lo + n < k ∧ k < lo + n + (bs.length + 1)
      · have hsub : k - (lo + n) = (k - (lo + (n + 1))) + 1 := by omega
        rw [if_pos (by omega), if_pos (by omega), hsub, List.getD_cons_succ]
      · rw [if_neg (by omega), if_neg hp, if_neg (by omega)]
theorem getLsbD_putBits (m : BitVec 1024) (lo : Nat) (bs : List Bool) {k : Nat} (hk : k < 1024) :
    (putBits m lo bs).getLsbD k = if lo ≤ k ∧ k < lo + bs.length then bs.getD (k - lo) false else m.getLsbD k :=
  getLsbD_putBitsFrom lo bs 0 m hk
/-- The first `n` bits of a mask register made from their index. -/
theorem maskWritten_putBits (s : State) (i : Ins) (r n : Nat) (g : Nat → Bool) :
    maskWritten s i r n g { face s i.f with m := Tab.set 0 (face s i.f).m r (putBits (mget s i.f r) 0 ((List.range n).map g)) } := by
  refine ⟨_, fun k hk => ?_, rfl⟩
  rw [getLsbD_putBits _ _ _ hk, List.length_map, List.length_range, Nat.zero_add, Nat.sub_zero]
  by_cases hn : k < n
  · rw [if_pos ⟨Nat.zero_le k, hn⟩, if_pos hn, List.getD_eq_getElem?_getD, List.getElem?_map, List.getElem?_range hn]; rfl
  · rw [if_neg fun h => hn h.2, if_neg hn]
theorem done_setMreg {s : State} {i : Ins} (h : s.canonical = true) (r : Nat) (w : BitVec 1024) :
    done (setMreg s i.f r w) i = goesOn s i { face s i.f with m := Tab.set 0 (face s i.f).m r w } := done_setFace h _

/-! ### What each form comes to once it issues -/

section
variable {s : State} {f : Fin 128} {st : IssueStream} {i : Ins}

/-- A vector instruction that issues, well coded and with its registers in order, is its effect. -/
theorem vecOp_runs {op : Nat} {fields : List (Nat × Nat)} {use : ExtUse} {ok : Ins → Bool} {names : Ins → List Name} {body : State → Ins → State}
    (h : Issuing s f st op i) (he : encodingOk i fields use [(63, 32)] = true) (hok : ok i = true) (hn : Named s i (names i)) :
    vecOp s f st op fields use ok names body = done (body s i) i := by
  unfold vecOp
  rw [issue_runs h, he, hok, if_neg (by decide), withRegs_runs hn]
theorem binOp_runs {op : Nat} {g : W32 → W32 → W32} (h : Issuing s f st op i)
    (he : encodingOk i ([fVD, fVA, fM, fME] ++ bFields) .opt [(63, 32)] = true) (hb : secondOk i)
    (hn : Named s i ([.vd (vdF i), .v (vaF i)] ++ secondNames i ++ maskNames i)) :
    binOp s f st op g = goesOn s i (vdWritten s i fun k => g (vget (face s i.f) (vaF i) k) (second s i k)) := by
  rw [← bNames_eq, ← mNames_eq] at hn
  unfold binOp
  rw [vecOp_runs h he (bOk_of_secondOk hb) hn, bElem_eq, done_mapElems h.canon]
theorem unOp_runs {op : Nat} {g : W32 → W32} (h : Issuing s f st op i) (he : encodingOk i [fVD, fVA, fM, fME] .no [] = true)
    (hn : Named s i ([.vd (vdF i), .v (vaF i)] ++ maskNames i)) :
    unOp s f st op g = goesOn s i (vdWritten s i fun k => g (vget (face s i.f) (vaF i) k)) := by
  rw [← mNames_eq] at hn
  unfold unOp
  rw [vecOp_runs h (encodingOk_no he) rfl hn, done_mapElems h.canon]
theorem cmpOp_runs {op : Nat} {g : W32 → W32 → Bool} (h : Issuing s f st op i)
    (he : encodingOk i ([fVA, fM, fME, fMD] ++ bFields) .opt [(63, 32)] = true) (hb : secondOk i)
    (hn : Named s i ([.v (vaF i), .md (mdF i)] ++ secondNames i ++ maskNames i)) :
    ∃ x, cmpOp s f st op g = goesOn s i x ∧ maskWritten s i (mdF i) (lane (face s i.f) i.st).vl
      (fun k => if masked s i k then (mget s i.f (mdF i)).getLsbD k else g (vget (face s i.f) (vaF i) k) (second s i k)) x := by
  rw [← bNames_eq, ← mNames_eq] at hn
  have hswap (k : Nat) (a b : Bool) : (if (!masked s i k) = true then a else b) = if masked s i k = true then b else a := by
    cases masked s i k <;> rfl
  refine ⟨_, ?_, maskWritten_putBits s i _ _ _⟩
  unfold cmpOp
  rw [vecOp_runs h he (bOk_of_secondOk hb) hn, bElem_eq, writable_eq, ← done_setMreg h.canon]
  simp only [hswap]
  rfl
theorem maskOp_runs {op : Nat} {two : Bool} {g : Bool → Bool → Bool} (h : Issuing s f st op i)
    (he : encodingOk i ([fVA, fMD] ++ if two then [fVB] else []) .no [] = true) (ha : vaF i < 8) (hb : vbF i < 8)
    (hn : Named s i ([.m (vaF i), .md (mdF i)] ++ if two then [.m (vbF i)] else [])) :
    ∃ x, maskOp s f st op two g = goesOn s i x ∧ maskWritten s i (mdF i) (lane (face s i.f) i.st).vl
      (fun k => g ((mget s i.f (vaF i)).getLsbD k) ((mget s i.f (vbF i)).getLsbD k)) x := by
  refine ⟨_, ?_, maskWritten_putBits s i _ _ _⟩
  unfold maskOp
  rw [vecOp_runs h (encodingOk_no he) (by rw [decide_eq_true ha, decide_eq_true hb]; rfl) hn, ← done_setMreg h.canon]
  rfl
theorem exec_binaryTable (s : State) (f : Fin 128) (st : IssueStream) :
    ∀ e ∈ binaryTable, exec (e.1 f st) s = .next (binOp s f st e.2.1 e.2.2) := by
  simp only [binaryTable, List.forall_mem_cons]
  exact ⟨rfl, rfl, rfl, rfl, rfl, rfl, rfl, rfl, rfl, rfl, rfl, rfl, rfl, rfl, fun _ h => nomatch h⟩
theorem exec_unaryTable (s : State) (f : Fin 128) (st : IssueStream) :
    ∀ e ∈ unaryTable, exec (e.1 f st) s = .next (unOp s f st e.2.1 e.2.2) := by
  simp only [unaryTable, List.forall_mem_cons]
  exact ⟨rfl, rfl, rfl, rfl, rfl, rfl, rfl, rfl, rfl, fun _ h => nomatch h⟩
theorem exec_compareTable (s : State) (f : Fin 128) (st : IssueStream) :
    ∀ e ∈ compareTable, exec (e.1 f st) s = .next (cmpOp s f st e.2.1 e.2.2) := by
  simp only [compareTable, List.forall_mem_cons]
  exact ⟨rfl, rfl, rfl, rfl, rfl, fun _ h => nomatch h⟩

/-- Two-operand mask operations. -/
def maskTable : List ((Fin 128 → IssueStream → Instr) × Nat × (Bool → Bool → Bool)) :=
  [(.mAnd, 0x168, fun p q => p && q), (.mOr, 0x169, fun p q => p || q), (.mXor, 0x16A, fun p q => xor p q)]
theorem exec_maskTable (s : State) (f : Fin 128) (st : IssueStream) :
    ∀ e ∈ maskTable, exec (e.1 f st) s = .next (maskOp s f st e.2.1 true e.2.2) := by
  simp only [maskTable, List.forall_mem_cons]
  exact ⟨rfl, rfl, rfl, fun _ h => nomatch h⟩

/-! ### Moves and conversions -/

theorem exec_vFma (h : Issuing s f st 0x104 i) (he : encodingOk i ([fVD, fVA, fVC, fM, fME] ++ bFields) .opt [(63, 32)] = true) (hb : secondOk i)
    (hn : Named s i ([.vd (vdF i), .v (vaF i), .v (vcF i)] ++ secondNames i ++ maskNames i)) :
    exec (.vFma f st) s = .next (goesOn s i (vdWritten s i fun k =>
      r32 (((x32 (vget (face s i.f) (vaF i) k)).mul (x32 (second s i k))).add (x32 (vget (face s i.f) (vcF i) k))))) := by
  rw [← bNames_eq, ← mNames_eq] at hn
  rw [← bElem_eq, ← done_mapElems h.canon]
  exact congrArg _ (vecOp_runs h he (bOk_of_secondOk hb) hn)
theorem exec_vSel (h : Issuing s f st 0x109 i) (he : encodingOk i ([fVD, fVA, fM, fME] ++ bFields) .opt [(63, 32)] = true) (hb : secondOk i)
    (hn : Named s i ([.vd (vdF i), .v (vaF i), .m (mF i)] ++ secondNames i)) :
    exec (.vSel f st) s = .next (goesOn s i (vdWritten s i fun k =>
      if (mget s i.f (mF i)).getLsbD k then vget (face s i.f) (vaF i) k else second s i k)) := by
  rw [← bNames_eq] at hn
  rw [← bElem_eq, ← done_mapElems h.canon]
  exact congrArg _ (vecOp_runs h he (bOk_of_secondOk hb) hn)
theorem exec_vMov (h : Issuing s f st 0x10A i) (he : encodingOk i ([fVD, fM, fME] ++ bFields) .opt [(63, 32)] = true) (hb : secondOk i)
    (hn : Named s i ([.vd (vdF i)] ++ secondNames i ++ maskNames i)) : exec (.vMov f st) s = .next (goesOn s i (vdWritten s i (second s i))) := by
  rw [← bNames_eq, ← mNames_eq] at hn
  rw [← bElem_eq, ← done_mapElems h.canon]
  exact congrArg _ (vecOp_runs h he (bOk_of_secondOk hb) hn)
theorem exec_vIota (h : Issuing s f st 0x124 i) (he : encodingOk i [fVD, fM, fME] .no [] = true) (hn : Named s i ([.vd (vdF i)] ++ maskNames i)) :
    exec (.vIota f st) s = .next (goesOn s i (vdWritten s i w32)) := by
  rw [← mNames_eq] at hn
  rw [← done_mapElems h.canon]
  exact congrArg _ (vecOp_runs h (encodingOk_no he) rfl hn)
theorem any_filter_writable (s : State) (i : Ins) (l : List Nat) (q : Nat → Bool) :
    (l.filter (writable s i)).any q = l.any fun k => !masked s i k && q k := by
  rw [List.any_filter, writable_eq]
theorem lane_vdWritten (s : State) (i : Ins) (g : Nat → W32) : lane (vdWritten s i g) i.st = lane (face s i.f) i.st := by
  cases i.st <;> rfl
theorem exec_vCvtF2i (h : Issuing s f st 0x121 i) (he : encodingOk i [fVD, fVA, fM, fME] .no [] = true)
    (hn : Named s i ([.vd (vdF i), .v (vaF i)] ++ maskNames i)) :
    exec (.vCvtF2i f st) s = .next (goesOn s i (setLane (vdWritten s i fun k => (f2i (vget (face s i.f) (vaF i) k)).1) i.st
      { lane (face s i.f) i.st with
        flags := flagIf (lane (face s i.f) i.st).flags flSat
          ((List.range (lane (face s i.f) i.st).vl).any fun k => !masked s i k && (f2i (vget (face s i.f) (vaF i) k)).2) })) := by
  rw [← mNames_eq] at hn
  rw [← done_setFlag h.canon _ _ _ (lane_vdWritten s i _), ← mapElems_eq, ← any_filter_writable]
  exact congrArg _ (vecOp_runs h (encodingOk_no he) rfl hn)
theorem exec_vRound {kind : FpKind} (hk : roundKind (fmtF i) = some kind) (h : Issuing s f st 0x122 i) (hr : rndF i < 2) (hf : fmtF i < 8)
    (hx : srUsed (rndF i) (gF i) = true → i.ext = true) (he : encodingOk i [fVD, fVA, fM, fME, fS2, fRND, fG, fFMT] .opt [(63, 32)] = true)
    (hn : Named s i ([.vd (vdF i), .v (vaF i)] ++ maskNames i ++ if srUsed (rndF i) (gF i) then [.s (s2F i)] else [])) :
    exec (.vRound f st) s = .next (goesOn s i (vdWritten s i fun k => w32 (encodeFp fpk32 (convertFp kind
      (drawFor (claim s i.l.claim) (srUsed (rndF i) (gF i)) (fx i 63 32) ((sreg s i.f (s2F i)).toNat + k))
      (x32 (vget (face s i.f) (vaF i) k)))))) := by
  rw [← mNames_eq] at hn
  have hword : (i.ext || !srUsed (rndF i) (gF i)) = true := by
    cases hs : srUsed (rndF i) (gF i) with
    | false => exact Bool.or_true _
    | true => rw [hx hs]; rfl
  have hrun : vRoundStep s f st = done (mapElems s i fun k => w32 (encodeFp fpk32 (convertFp kind
      (drawFor (claim s i.l.claim) (srUsed (rndF i) (gF i)) (fx i 63 32) ((sreg s i.f (s2F i)).toNat + k))
      (x32 (vget (face s i.f) (vaF i) k))))) i := by
    unfold vRoundStep
    rw [issue_runs h]
    dsimp only
    rw [he, hword, decide_eq_true hr, decide_eq_true hf, if_neg (by decide), withRegs_runs hn, hk]
  rw [← done_mapElems h.canon]
  exact congrArg _ hrun
end

end Sys2Proof.Machine

open Sys2Proof Sys2Proof.Machine

/-- Settles O4: an element-wise instruction writes VD, under its mask, and nothing else of the face. -/
theorem vectorArithmetic : Obligations.VectorArithmetic := by
  refine ⟨fun s f st i e hmem h he hb hn => ?_, fun s f st i e hmem h he hn => ?_⟩ <;> obtain ⟨w, x, ext, rfl⟩ := issuing_eq h
  · rw [exec_binaryTable s f st e hmem]
    exact congrArg _ (binOp_runs h he hb hn)
  · rw [exec_unaryTable s f st e hmem]
    exact congrArg _ (unOp_runs h he hn)

/-- Settles O5: each move and conversion is an element-wise write of VD; V_CVT_F2I raises its flag from the elements that it writes. -/
theorem vectorMovesAndConversions : Obligations.VectorMovesAndConversions := by
  refine ⟨fun s f st i => ⟨fun h he hb hn => ?_, fun h he hb hn => ?_, fun h he hb hn => ?_, fun h he hn => ?_⟩,
    fun s f st i => ⟨fun h he hn => ?_, fun kind hk h hr hfm hx he hn => ?_⟩⟩ <;> obtain ⟨w, x, ext, rfl⟩ := issuing_eq h
  · exact exec_vFma h he hb hn
  · exact exec_vSel h he hb hn
  · exact exec_vMov h he hb hn
  · exact exec_vIota h he hn
  · exact exec_vCvtF2i h he hn
  · exact exec_vRound hk h hr hfm hx he hn

/-- Settles O6: the bits of MD below vl are made from their index, and `putBits` leaves the others. -/
theorem vectorCompareAndMasks : Obligations.VectorCompareAndMasks := by
  refine ⟨fun s f st i e hmem h he hb hn => ?_, fun s f st i ha => ⟨fun e hmem h he hb hn => ?_, fun h he hn => ?_⟩⟩ <;>
    obtain ⟨w, x, ext, rfl⟩ := issuing_eq h
  · rw [exec_compareTable s f st e hmem]
    obtain ⟨y, hy, hw⟩ := cmpOp_runs (g := e.2.2) h he hb hn
    exact ⟨y, congrArg _ hy, hw⟩
  · rw [exec_maskTable s f st e hmem]
    obtain ⟨y, hy, hw⟩ := maskOp_runs (two := true) (g := e.2.2) h he ha hb hn
    exact ⟨y, congrArg _ hy, hw⟩
  · have hb : bits w 40 36 = 0 := unused_field_zero he (by decide +kernel)
    obtain ⟨y, hy, hw⟩ := maskOp_runs (two := false) (g := fun a _ => !a) h he ha (Nat.lt_of_le_of_lt (Nat.le_of_eq hb) (by decide)) hn
    exact ⟨y, congrArg _ hy, hw⟩
end

section
/-!
PROOFS. Reductions into element 0, the soft maximum, and the norms of rows (R132, R133).
-/
namespace Sys2Proof.Machine
open Sys2Proof

/-! ### Elements as lists -/

theorem map_eq_range_map {α β : Type} (l : List α) (g : α → β) (d : α) : l.map g = (List.range l.length).map fun k => g (l.getD k d) := by
  refine List.ext_getElem (by simp) fun n h _ => ?_
  have hn : n < l.length := by simpa using h
  simp [List.getD_eq_getElem?_getD, List.getElem?_eq_getElem hn]
theorem zipIdx_range_map {α : Type} (g : Nat → α) (n : Nat) : ((List.range n).map g).zipIdx = (List.range n).map fun k => (g k, k) := by
  induction n with
  | zero => rfl
  | succ n ih => simp [List.range_succ, List.zipIdx_append, ih]
theorem rowVals_eq (s : State) (f n lo cnt : Nat) :
    (velems s f n lo cnt).map x32 = (List.range cnt).map fun k => x32 (vget (face s f) n (lo + k)) := by
  rw [velems, List.map_map]; rfl
theorem vaVals_eq (s : State) (i : Ins) :
    vaVals s i = (List.range (lane (face s i.f) i.st).vl).map fun k => x32 (vget (face s i.f) (vaF i) k) := by
  rw [vaVals, rowVals_eq]
  simp only [Nat.zero_add]
  rfl
/-- A row of values written from element `lo` on. -/
theorem setVelems_row (s : State) (f n lo : Nat) (l : List Xr) (g : Xr → W32) (on : Nat → Bool) : setVelems s f n lo (l.map g) on =
    setFace s f { face s f with v := wrote (face s f).v (1024 * n + lo) l.length (fun k => on (lo + k)) fun k => g (l.getD k .zero) } := by
  rw [map_eq_range_map l g .zero, setVelems_map]
  rfl
/-- The face after element 0 of VD has become a value, unless ME leaves it out. -/
def firstWritten (s : State) (i : Ins) (r : Xr) : Face :=
  { face s i.f with v := wrote (face s i.f).v (1024 * vdF i) 1 (fun k => !masked s i k) fun _ => r32 r }
theorem done_setFirst {s : State} {i : Ins} (h : s.canonical = true) (r : Xr) : done (setFirst s i r) i = goesOn s i (firstWritten s i r) := by
  have hset : setFirst s i r = setFace s i.f (firstWritten s i r) := by
    unfold setFirst
    rw [writable_eq]
    rfl
  rw [hset, done_setFace h]
/-- A bit of a mask register put in place, after the vector file was written. -/
theorem setMreg_setFace {s : State} {f : Nat} (h : s.canonical = true) (v : Tab W32) (r : Nat) (w : BitVec 1024) :
    setMreg (setFace s f { face s f with v := v }) f r w = setFace s f { face s f with v := v, m := Tab.set 0 (face s f).m r w } := by
  have hw := canonical_faces h
  simp only [setMreg, face_setFace hw, if_true, setFace_setFace hw]
theorem mget_setFace_v {s : State} {f : Nat} (h : s.canonical = true) (v : Tab W32) (r : Nat) :
    mget (setFace s f { face s f with v := v }) f r = mget s f r := by
  have hw := canonical_faces h
  simp only [mget, face_setFace hw, if_true]
theorem getLsbD_putBits_one (m : BitVec 1024) (n : Nat) (b : Bool) {k : Nat} (hk : k < 1024) :
    (putBits m n [b]).getLsbD k = if k = n then b else m.getLsbD k := by
  rw [getLsbD_putBits m n [b] hk]
  simp only [List.length_singleton]
  by_cases h : k = n
  · rw [if_pos (by omega), if_pos h, h, Nat.sub_self]; rfl
  · rw [if_neg (by omega), if_neg h]

/-! ### What each form comes to once it issues -/

section
variable {s : State} {f : Fin 128} {st : IssueStream} {i : Ins}

theorem exec_reduceTable (s : State) (f : Fin 128) (st : IssueStream) :
    ∀ e ∈ reduceTable, exec (e.1 f st) s = .next (redOp s f st e.2.1 e.2.2) := by
  simp only [reduceTable, List.forall_mem_cons]
  exact ⟨rfl, rfl, rfl, rfl, fun _ h => nomatch h⟩
theorem redOp_runs {op : Nat} {g : List Xr → Xr} (h : Issuing s f st op i) (he : encodingOk i [fVD, fVA, fM, fME] .no [] = true)
    (hn : Named s i ([.vd (vdF i), .v (vaF i)] ++ maskNames i)) :
    redOp s f st op g = goesOn s i (firstWritten s i (g (vaVals s i))) := by
  rw [← mNames_eq] at hn
  unfold redOp
  rw [vecOp_runs h (encodingOk_no he) rfl hn, done_setFirst h.canon]
theorem exec_vRdot (h : Issuing s f st 0x142 i) (he : encodingOk i ([fVD, fVA, fM, fME] ++ bFields) .opt [(63, 32)] = true) (hb : secondOk i)
    (hn : Named s i ([.vd (vdF i), .v (vaF i)] ++ secondNames i ++ maskNames i)) :
    exec (.vRdot f st) s = .next (goesOn s i (firstWritten s i (treeSum ((List.range (lane (face s i.f) i.st).vl).map fun k =>
      mulX (x32 (vget (face s i.f) (vaF i) k)) (x32 (second s i k)))))) := by
  rw [← bNames_eq, ← mNames_eq] at hn
  have hrun : vRdotStep s f st = done (setFirst s i (treeSum ((vaVals s i).zipIdx.map fun p => mulX p.1 (x32 (bElem s i p.2))))) i :=
    vecOp_runs h he (bOk_of_secondOk hb) hn
  rw [vaVals_eq, zipIdx_range_map, List.map_map, bElem_eq, done_setFirst h.canon] at hrun
  exact congrArg _ hrun
/-- The soft maximum: its row, and bit s[S2] of MD and FLAGS, which tell an empty row. -/
theorem softOp_runs {op : Nat} {g : List Xr → List Bool → List Xr × Bool} (h : Issuing s f st op i)
    (he : encodingOk i [fVD, fVA, fM, fME, fS1, fS2, fMD] .no [] = true)
    (hn : Named s i ([.vd (vdF i), .v (vaF i), .s (s1F i), .s (s2F i), .md (mdF i)] ++ maskNames i))
    (ho : rowOff s i + vlOf s i ≤ 1024) (hbit : (sreg s i.f (s2F i)).toNat ≤ 1023) :
    let mask := if meF i then (List.range (vlOf s i)).map fun k => (mget s i.f (mF i)).getLsbD (rowOff s i + k) else []
    let r := g (rowOf s i (vaF i)) mask
    softOp s f st op g = goesOn s i (setLane { face s i.f with
        v := wrote (face s i.f).v (1024 * vdF i + rowOff s i) r.1.length (fun _ => true) fun k => r32 (r.1.getD k .zero)
        m := Tab.set 0 (face s i.f).m (mdF i) (putBits (mget s i.f (mdF i)) (sreg s i.f (s2F i)).toNat [r.2]) } i.st
      { lane (face s i.f) i.st with flags := flagIf (lane (face s i.f) i.st).flags flEmpty r.2 }) := by
  rw [← mNames_eq] at hn
  intro mask r
  unfold softOp
  rw [issue_runs h]
  dsimp only
  rw [he, if_neg not_true_ne_true, withRegs_runs hn, if_neg (by omega), setVelems_row, mget_setFace_v h.canon, setMreg_setFace h.canon]
  exact done_setFlag h.canon _ _ _ (by cases i.st <;> rfl)
/-- A norm: the unmasked elements of its row. -/
theorem normOp_runs {op : Nat} {fields : List (Nat × Nat)} {names : Ins → List Name} {g : State → Ins → List Xr} (h : Issuing s f st op i)
    (he : encodingOk i ([fVD, fVA, fVB, fM, fME, fS1] ++ fields) .need [(63, 0)] = true)
    (hn : Named s i ([.vd (vdF i), .v (vaF i), .v (vbF i), .s (s1F i)] ++ names i ++ maskNames i)) (ho : rowOff s i + vlOf s i ≤ 1024) :
    normOp s f st op fields names g = goesOn s i { face s i.f with
      v := wrote (face s i.f).v (1024 * vdF i + rowOff s i) (g s i).length (fun k => !masked s i (rowOff s i + k))
        fun k => r32 ((g s i).getD k .zero) } := by
  rw [← mNames_eq] at hn
  unfold normOp
  rw [issue_runs h, he, if_neg not_true_ne_true, withRegs_runs hn, if_neg (by omega), setVelems_row, writable_eq, done_setFace h.canon]
/-- A row, in the terms of the instruction that issues. -/
theorem rowOf_issued (s : State) (f : Fin 128) (st : IssueStream) (l : Lane) (w x : Nat) (ext : Bool) (r : Nat) :
    rowOf s ⟨f, st, l, w, x, ext⟩ r =
      (List.range (lane (face s f) st).vl).map fun k => x32 (vget (face s f) r ((sreg s f (bits w 26 23)).toNat + k)) := rowVals_eq ..
theorem exec_vRmsnorm (h : Issuing s f st 0x152 i) (he : encodingOk i [fVD, fVA, fVB, fM, fME, fS1] .need [(63, 0)] = true)
    (hn : Named s i ([.vd (vdF i), .v (vaF i), .v (vbF i), .s (s1F i)] ++ maskNames i)) (ho : rowOff s i + vlOf s i ≤ 1024) :
    let out := rmsNorm (rowOf s i (vaF i)) (rowOf s i (vbF i)) (invNF i) (epsF i)
    exec (.vRmsnorm f st) s = .next (goesOn s i { face s i.f with
      v := wrote (face s i.f).v (1024 * vdF i + rowOff s i) out.length (fun k => !masked s i (rowOff s i + k)) fun k => r32 (out.getD k .zero) }) :=
  congrArg _ (normOp_runs h he hn ho)
theorem exec_vLayernorm (h : Issuing s f st 0x153 i) (he : encodingOk i [fVD, fVA, fVB, fM, fME, fS1, fVC] .need [(63, 0)] = true)
    (hn : Named s i ([.vd (vdF i), .v (vaF i), .v (vbF i), .s (s1F i), .v (vcF i)] ++ maskNames i)) (ho : rowOff s i + vlOf s i ≤ 1024) :
    let out := layerNorm (rowOf s i (vaF i)) (rowOf s i (vbF i)) (rowOf s i (vcF i)) (invNF i) (epsF i)
    exec (.vLayernorm f st) s = .next (goesOn s i { face s i.f with
      v := wrote (face s i.f).v (1024 * vdF i + rowOff s i) out.length (fun k => !masked s i (rowOff s i + k)) fun k => r32 (out.getD k .zero) }) :=
  congrArg _ (normOp_runs h he hn ho)
/-- The soft maxima. -/
def softTable : List ((Fin 128 → IssueStream → Instr) × Nat × (List Xr → List Bool → List Xr × Bool)) :=
  [(.vSoftmax, 0x150, softMax), (.vLogsoftmax, 0x151, logSoftMax)]
theorem exec_softTable (s : State) (f : Fin 128) (st : IssueStream) :
    ∀ e ∈ softTable, exec (e.1 f st) s = .next (softOp s f st e.2.1 e.2.2) := by
  simp only [softTable, List.forall_mem_cons]
  exact ⟨rfl, rfl, fun _ h => nomatch h⟩
end

end Sys2Proof.Machine

open Sys2Proof Sys2Proof.Machine

/-- Settles O7: a reduction is a write of element 0, a soft maximum of its whole row, a norm of the row's unmasked elements. -/
theorem vectorReductionsAndRows : Obligations.VectorReductionsAndRows := by
  refine ⟨fun s f st i => ⟨fun e hmem h he hn => ?_, fun h he hb hn => ?_⟩, fun s f st i e hmem => ?_, fun s f st i => ?_⟩
  · obtain ⟨w, x, ext, rfl⟩ := issuing_eq h
    rw [exec_reduceTable s f st e hmem, redOp_runs h he hn, vaVals_eq]
    rfl
  · obtain ⟨w, x, ext, rfl⟩ := issuing_eq h
    exact exec_vRdot h he hb hn
  · intro o n vl row mask h he hn ho hbit
    obtain ⟨w, x, ext, rfl⟩ := issuing_eq h
    have hrun := softOp_runs (g := e.2.2) h he hn ho hbit
    rw [rowOf_issued] at hrun
    have hmask : mask = if bits w 27 27 == 1 then (List.range vl).map fun k => (mget s f (bits w 30 28)).getLsbD (o + k) else [] := by
      simp only [beq_iff_eq]
      rfl
    refine ⟨putBits (mget s f (bits w 11 9)) n [(e.2.2 row mask).2], fun k hk => getLsbD_putBits_one _ _ _ hk, ?_⟩
    rw [exec_softTable s f st e hmem, hmask]
    exact congrArg _ hrun
  · intro o vl row invn eps after ho
    refine ⟨fun h he hn => ?_, fun h he hn => ?_⟩ <;> obtain ⟨w, x, ext, rfl⟩ := issuing_eq h
    · have hrun := exec_vRmsnorm h he hn ho
      rw [rowOf_issued, rowOf_issued] at hrun
      exact hrun
    · have hrun := exec_vLayernorm h he hn ho
      rw [rowOf_issued, rowOf_issued, rowOf_issued] at hrun
      exact hrun
end

section
/-!
PROOFS. Vector loads: T0 into VD and MD (R134, R174).
-/
namespace Sys2Proof.Machine
open Sys2Proof

theorem t0Note_canonical {s : State} (h : s.canonical = true) (f : Nat) (spans : List (Nat × Nat)) : (t0Note s f spans).canonical = true :=
  (t0Note_kept (Kept.refl s)).canon h
theorem inT0_eq_true {a n : Nat} (h : a + n ≤ 8388608) : inT0 a n = true := decide_eq_true h
theorem all_inT0 {spans : List (Nat × Nat)} (h : ∀ p ∈ spans, p.1 + p.2 ≤ 8388608) : (spans.all fun p => inT0 p.1 p.2) = true :=
  List.all_eq_true.2 fun p hp => inT0_eq_true (h p hp)

section
variable {s : State} {f : Fin 128} {st : IssueStream} {i : Ins}

theorem vLdStep_runs {fm : Fmt} (hfm : fmtOf (fmtF i) = some fm) (h : Issuing s f st 0x160 i)
    (he : encodingOk i [fVD, fM, fME, fS1, fFMT, fMD] .no [] = true) (hn : Named s i ([.vd (vdF i), .s (s1F i)] ++ maskNames i)) :
    let a := (sreg s i.f (s1F i)).toNat
    let spans := (rowSpans fm (mdF i) (vlOf s i)).map fun p => (a + p.1, p.2)
    (∀ p ∈ spans, p.1 + p.2 ≤ 8388608) → a % fmtAlign fm = 0 → t0Poison s i.f spans = false →
    let t := t0Note s i.f spans
    let vals := rowVals fm (t0Bytes s i.f) a (mdF i) (vlOf s i)
    vLdStep s f st = goesOn t i { face t i.f with
      v := wrote (face t i.f).v (1024 * vdF i) vals.length (fun k => !masked t i k) fun k => loadElem fm (vals.getD k .zero) } := by
  rw [← mNames_eq] at hn
  intro a spans hin halign hpoison t vals
  unfold vLdStep
  rw [issue_runs h]
  dsimp only
  rw [he, hfm]
  dsimp only
  rw [withRegs_runs hn, all_inT0 hin, if_neg not_true_ne_true, if_neg (by rw [halign]; decide), if_neg (by rw [hpoison]; decide), setVelems_row,
    writable_eq, done_setFace (t0Note_canonical h.canon _ _)]
  simp only [Nat.zero_add, Nat.add_zero]
  rfl
theorem mLdStep_runs (h : Issuing s f st 0x162 i) (he : encodingOk i [fS1, fMD] .no [] = true) (hn : Named s i [.md (mdF i), .s (s1F i)]) :
    let a := (sreg s i.f (s1F i)).toNat
    let n := ceilDiv (vlOf s i) 8
    a + n ≤ 8388608 → t0Poison s i.f [(a, n)] = false →
    let t := t0Note s i.f [(a, n)]
    mLdStep s f st = goesOn t i { face t i.f with
      m := Tab.set 0 (face t i.f).m (mdF i)
        (putBits (mget t i.f (mdF i)) 0 ((List.range (vlOf s i)).map (leNat (t0Bytes s i.f a n)).testBit)) } := by
  intro a n hin hpoison t
  unfold mLdStep
  rw [issue_runs h]
  dsimp only
  rw [he, if_neg not_true_ne_true, withRegs_runs hn, inT0_eq_true hin, if_neg not_true_ne_true, if_neg (by rw [hpoison]; decide),
    done_setMreg (t0Note_canonical h.canon _ _)]
end

end Sys2Proof.Machine

open Sys2Proof Sys2Proof.Machine

/-- Settles O8: a load notes the words that it reads, so that they are corrected, and writes its register on the state so left. -/
theorem vectorLoads : Obligations.VectorLoads := by
  intro s f st i a vl
  refine ⟨?_, ?_⟩
  · intro fm hfm spans t h he hn hin halign hpoison vals
    obtain ⟨w, x, e, rfl⟩ := issuing_eq h
    exact congrArg _ (vLdStep_runs hfm h he hn hin halign hpoison)
  · intro n t h he hn hin hpoison
    obtain ⟨w, x, e, rfl⟩ := issuing_eq h
    exact ⟨_, congrArg _ (mLdStep_runs h he hn hin hpoison), maskWritten_putBits t _ _ _ _⟩
end

section
/-!
PROOFS. Memory as it is read: words of every tier (R171, R174, R466), bytes of host memory, the state that reset leaves, and the
branch table of a claim (R113).
-/
namespace Sys2Proof.Machine
open Sys2Proof

theorem memWord_fenced {s : State} {l : Loc} {i : Nat} (h : isFenced s l i = true) : memWord s l i = storeP ⟨0, true⟩ := if_pos h
theorem readWord_fenced {s : State} {l : Loc} {i : Nat} (h : isFenced s l i = true) : readWord s l i = ⟨0, true⟩ := by
  rw [readWord, memWord_fenced h, readP_storeP]; rfl
theorem memWord_setWord_self {s : State} (h : s.canonical = true) {l : Loc} {i : Nat} (hf : isFenced s l i = false) (w : W80) :
    memWord (setWord s l i w) l i = w := by
  rw [memWord_setWord h, if_neg (by rw [hf]; decide), if_pos ⟨rfl, rfl⟩]
theorem memWord_setWord_other {s : State} (h : s.canonical = true) {l m : Loc} {i j : Nat} (hne : l ≠ m ∨ i ≠ j) (w : W80) :
    memWord (setWord s l i w) m j = memWord s m j := by
  rw [memWord_setWord h]
  split
  · next hf => exact (memWord_fenced hf).symm
  · exact if_neg fun he => hne.elim (· he.1.symm) (· he.2.symm)
theorem readWord_putWord_self {s : State} (h : s.canonical = true) {l : Loc} {i : Nat} (hf : isFenced s l i = false) (w : PWord) :
    readWord (putWord s l i w) l i = if w.poison then ⟨0, true⟩ else w := by
  rw [readWord, putWord, memWord_setWord_self h hf, readP_storeP]
theorem readWord_putWord_other {s : State} (h : s.canonical = true) {l m : Loc} {i j : Nat} (hne : l ≠ m ∨ i ≠ j) (w : PWord) :
    readWord (putWord s l i w) m j = readWord s m j := by
  rw [readWord, putWord, memWord_setWord_other h hne, readWord]

theorem canonical_host {s : State} (h : s.canonical = true) : Tab.wf 0 s.host = true := by
  simp only [State.canonical, Memory.wf, Bool.and_eq_true] at h
  simp only [h]
theorem hostRead_hostWrite_self {s : State} (h : s.canonical = true) (a : Nat) (bs : List Byte) : hostRead (hostWrite s a bs) a bs.length = bs := by
  refine List.ext_getElem (by simp [hostRead]) fun i _ hi => ?_
  simp only [hostRead, List.getElem_map, List.getElem_range, host_get_hostWrite (canonical_host h)]
  rw [if_pos ⟨Nat.le_add_right a i, by omega⟩, Nat.add_sub_cancel_left, List.getD_eq_getElem?_getD, List.getElem?_eq_getElem hi, Option.getD_some]
theorem hostRead_hostWrite_other {s : State} (h : s.canonical = true) {a b n : Nat} {bs : List Byte} (hne : b + n ≤ a ∨ a + bs.length ≤ b) :
    hostRead (hostWrite s a bs) b n = hostRead s b n := by
  refine List.map_congr_left fun i hi => ?_
  have hi := List.mem_range.1 hi
  rw [host_get_hostWrite (canonical_host h), if_neg (by omega)]

theorem branchTarget_none {e0 : W64 × W64} {es : List (W64 × W64)} {sum : W64} (h : ∀ e ∈ es, branchHolds sum e = false) :
    branchTarget (e0 :: es) sum = fld e0.2 10 0 := by
  have hnone : es.find? (branchHolds sum) = none := List.find?_eq_none.2 fun e he => by simp [h e he]
  simp [branchTarget, hnone]
theorem branchTarget_first {e0 e : W64 × W64} {pre post : List (W64 × W64)} {sum : W64} (hpre : ∀ x ∈ pre, branchHolds sum x = false)
    (he : branchHolds sum e = true) : branchTarget (e0 :: (pre ++ e :: post)) sum = fld e.2 10 0 := by
  have hsome : (pre ++ e :: post).find? (branchHolds sum) = some e :=
    List.find?_eq_some_iff_append.2 ⟨he, pre, post, rfl, fun x hx => by simp [hpre x hx]⟩
  simp [branchTarget, hsome]

theorem ring_reset_other {r : Nat} (h : r ≠ 0) : ring State.reset r = {} := by
  simp [ring, State.reset, Tab.get, Ne.symm h]

end Sys2Proof.Machine

open Sys2Proof Sys2Proof.Machine

/-- Settles O56: a word reads as the memory code gives back what it stored, and storage reads what was last written to it. -/
theorem memoryReads : Obligations.MemoryReads := by
  intro s h
  refine ⟨fun l i w hf => readWord_putWord_self h hf w, fun l m i j w hne => readWord_putWord_other h hne w, fun l i => readWord_fenced,
    fun a bs => hostRead_hostWrite_self h a bs, fun a b bs hne => hostRead_hostWrite_other h ?_⟩
  omega
/-- Settles O14: the search finds the first entry that holds, or none. -/
theorem branchTableChoice : Obligations.BranchTableChoice := by
  rintro _ sum e0 es rfl
  refine ⟨branchTarget_none, ?_⟩
  rintro pre e post rfl hpre he
  exact branchTarget_first hpre he
/-- Settles O54: the reset state is written out, so each part of it can be read off; the ring table lists ring 0 alone. -/
theorem resetState : Obligations.ResetState := by
  refine ⟨by decide, rfl, rfl, rfl, rfl, ⟨rfl, rfl, rfl, rfl, rfl, rfl⟩, ⟨rfl, rfl, rfl, rfl, rfl, rfl, rfl, rfl, rfl, rfl, rfl, rfl⟩,
    ⟨rfl, rfl, rfl, rfl, rfl, rfl, rfl, rfl⟩, ⟨rfl, rfl, rfl, rfl, rfl, rfl, rfl, rfl, rfl⟩, rfl, rfl, rfl, rfl, fun r hr => ?_⟩
  rw [ring_reset_other hr]
end

section
/-!
PROOFS. Vector stores: what they write to T0, and what they leave (R109, R134, R174, R175).
-/
namespace Sys2Proof.Machine
open Sys2Proof

/-! ### A word as corrected -/

/-- The pattern that a correction flips has the syndrome and the parity of the word. -/
theorem decode80_fixed {w c : W80} {n : Nat} (h : decode80 w = (c, .fixed n)) : syndromeOf c = 0 ∧ parityOf c = 0 := by
  have hpar : parityOf w = 0 ∨ parityOf w = 1 := by have : parityOf w < 2 := parityF_lt_two 80 _; omega
  have hxx : ∀ {s : Nat}, s ^^^ s = 0 := Nat.xor_self _
  rw [decode80_eq] at h
  split at h
  · next hs =>
    split at h
    · simp at h
    · next hp =>
      obtain ⟨rfl, -⟩ := Prod.mk.inj h
      exact ⟨by rw [syndromeOf_flip_parity, hs], by rw [parityOf_flip w (by decide)]; omega⟩
  · split at h
    · next hp =>
      split at h
      · next i hone =>
        obtain ⟨rfl, -⟩ := Prod.mk.inj h
        have hi := List.mem_range.1 (List.mem_of_find?_eq_some hone)
        have hx : xpow i = syndromeOf w := beq_iff_eq.1 (List.find?_some (p := fun i => xpow i == syndromeOf w) hone)
        have hbit := codeBit_lt i hi
        exact ⟨by rw [syndromeOf_flip_codeBit w hi, hx, hxx], by rw [parityOf_flip w (by omega), hp]⟩
      · simp at h
    · have hp : parityOf w = 0 := by omega
      split at h
      · next i j hpair =>
        obtain ⟨rfl, -⟩ := Prod.mk.inj h
        obtain ⟨hij, hj, hx⟩ := pairFor_some hpair
        dsimp only at hij hj hx
        have hbi := codeBit_lt i (Nat.lt_trans hij hj)
        have hbj := codeBit_lt j hj
        exact ⟨by rw [syndromeOf_flip_codeBit _ hj, syndromeOf_flip_codeBit w (Nat.lt_trans hij hj), Nat.xor_assoc, hx, hxx],
          parityOf_flip_two hp (by omega) (by omega)⟩
      · split at h
        · next i hone =>
          obtain ⟨rfl, -⟩ := Prod.mk.inj h
          have hi := List.mem_range.1 (List.mem_of_find?_eq_some hone)
          have hx : xpow i = syndromeOf w := beq_iff_eq.1 (List.find?_some (p := fun i => xpow i == syndromeOf w) hone)
          have hbit := codeBit_lt i hi
          exact ⟨by rw [syndromeOf_flip_parity, syndromeOf_flip_codeBit w hi, hx, hxx], parityOf_flip_two hp (by omega) (by decide)⟩
        · simp at h
/-- A corrected word reads as the word that it was corrected from. -/
theorem readP_fixed {w c : W80} {n : Nat} (h : decode80 w = (c, .fixed n)) : readP c = readP w := by
  obtain ⟨hs, hp⟩ := decode80_fixed h
  rw [readP, readP, decode80_clean hs hp, h]
theorem readP_bad {w c : W80} (h : decode80 w = (c, .bad)) : readP w = ⟨0, true⟩ := by
  rw [readP, h]

/-! ### What reads as before -/

/-- The bytes of T0 that a write of P to face f leaves read as before, and the other memories are the same. -/
structure StoreFrame (f : Nat) (P : Nat → Prop) (s t : State) : Prop where
  t1   : t.t1 = s.t1
  t2   : t.t2 = s.t2
  host : t.host = s.host
  left : ∀ g b : Nat, ¬ (g = f ∧ P b) → t0Reads t g b = t0Reads s g b

section
variable {f : Nat} {P : Nat → Prop} {s t u : State}

theorem StoreFrame.refl (s : State) : StoreFrame f P s s := ⟨rfl, rfl, rfl, fun _ _ _ => rfl⟩
theorem StoreFrame.trans (h : StoreFrame f P s t) (h' : StoreFrame f P t u) : StoreFrame f P s u :=
  ⟨h'.t1.trans h.t1, h'.t2.trans h.t2, h'.host.trans h.host, fun g b hb => (h'.left g b hb).trans (h.left g b hb)⟩
theorem StoreFrame.mono {Q : Nat → Prop} (h : StoreFrame f P s t) (hPQ : ∀ b, P b → Q b) : StoreFrame f Q s t :=
  ⟨h.t1, h.t2, h.host, fun g b hb => h.left g b fun hp => hb ⟨hp.1, hPQ b hp.2⟩⟩

/-- T0 of face g holds the same words. -/
theorem t0Reads_congr {g : Nat} (h0 : (face t g).t0 = (face s g).t0) (hl : (face t g).lost = (face s g).lost) (b : Nat) :
    t0Reads t g b = t0Reads s g b := by
  have hw : memWord t (.t0 g) (b / 8) = memWord s (.t0 g) (b / 8) := by
    have htab : memTab t (.t0 g) = memTab s (.t0 g) := h0
    have hlost : lostBits t (.t0 g) (b / 8) = lostBits s (.t0 g) (b / 8) := by simp only [lostBits, hl]
    rw [memWord, memWord, htab, hlost]
    rfl
  rw [t0Reads, t0Reads, readWord, readWord, hw]
theorem t0Reads_of_readWord {g b : Nat} (h : readWord t (.t0 g) (b / 8) = readWord s (.t0 g) (b / 8)) : t0Reads t g b = t0Reads s g b := by
  rw [t0Reads, t0Reads, h]
theorem storeFrame_setSump (v : Sump) : StoreFrame f P s { s with sump := v } := ⟨rfl, rfl, rfl, fun _ _ _ => rfl⟩
theorem storeFrame_postSump {r : SumpRec} (hr : r.cls < 2) : StoreFrame f P s (postSump s r) := by
  unfold postSump
  dsimp only
  split
  · exact storeFrame_setSump _
  · rw [if_neg (by omega)]
    exact storeFrame_setSump _
theorem storeFrame_setFace (hs : s.canonical = true) {g : Nat} {x : Face} (h0 : x.t0 = (face s g).t0) (hl : x.lost = (face s g).lost) :
    StoreFrame f P s (setFace s g x) := by
  refine ⟨rfl, rfl, rfl, fun k b _ => ?_⟩
  by_cases hk : k = g
  · subst hk
    exact t0Reads_congr (by rw [face_setFace (canonical_faces_table hs), if_pos rfl, h0])
      (by rw [face_setFace (canonical_faces_table hs), if_pos rfl, hl]) b
  · exact t0Reads_congr (by rw [face_setFace (canonical_faces_table hs), if_neg hk])
      (by rw [face_setFace (canonical_faces_table hs), if_neg hk]) b
theorem storeFrame_modLane (hs : s.canonical = true) (g : Nat) (st : IssueStream) (h : Lane → Lane) : StoreFrame f P s (modLane s g st h) :=
  storeFrame_setFace hs (setLane_t0 ..) (setLane_lost ..)

/-! ### One word -/

theorem storeFrame_setWord (hs : s.canonical = true) {i : Nat} {w : W80} (hw : readP w = readWord s (.t0 f) i) :
    StoreFrame f P s (setWord s (.t0 f) i w) := by
  refine ⟨rfl, rfl, rfl, fun g b _ => t0Reads_of_readWord ?_⟩
  by_cases heq : g = f ∧ b / 8 = i
  · obtain ⟨rfl, rfl⟩ := heq
    rw [readWord, memWord_setWord_self hs rfl, hw]
  · rw [readWord, memWord_setWord_other hs, readWord]
    exact Classical.not_and_iff_not_or_not.1 fun ⟨hl, hk⟩ => heq ⟨(Loc.t0.inj hl).symm, hk.symm⟩
/-- A read that finds a word of T0 with errors leaves it as it reads. -/
theorem storeFrame_noteWord (hs : s.canonical = true) (i : Nat) : StoreFrame f P s (noteWord s (.t0 f) i) := by
  have hcls : ∀ cls kind advice, (eccRec s (.t0 f) i cls kind advice).cls = cls := fun _ _ _ => rfl
  unfold noteWord
  split
  · exact .refl s
  · next w n hw =>
    exact (storeFrame_setWord hs (readP_fixed hw)).trans (storeFrame_postSump (by rw [hcls]; decide))
  · next w hw =>
    refine (storeFrame_setWord hs ?_).trans (storeFrame_postSump (by rw [hcls]; decide))
    rw [readP_storeP, readWord, readP_bad hw]
    rfl
theorem noteWord_canonical (hs : s.canonical = true) (i : Nat) : (noteWord s (.t0 f) i).canonical = true :=
  (noteWord_kept (Kept.refl s)).canon hs

end

/-! ### Bytes gathered into words -/

/-- The mask of word k has no bit but of bytes in P, and the data no bit outside the mask. -/
structure Gathered (P : Nat → Prop) (k m d : Nat) : Prop where
  mask : ∀ n, m.testBit n = true → n < 64 ∧ P (8 * k + n / 8)
  data : ∀ n, d.testBit n = true → m.testBit n = true

theorem mem_tabSet {α : Type} [DecidableEq α] {d : α} {t : Tab α} {k : Nat} {v : α} {e : Nat × α} (h : e ∈ Tab.set d t k v) : e ∈ t ∨ e = (k, v) := by
  induction t with
  | nil =>
    unfold Tab.set at h
    split at h
    · cases h
    · exact .inr (List.mem_singleton.1 h)
  | cons a t ih =>
    unfold Tab.set at h
    grind
theorem get_mem {α : Type} {d : α} (t : Tab α) (k : Nat) : Tab.get d t k = d ∨ (k, Tab.get d t k) ∈ t := by
  induction t with
  | nil => exact .inl rfl
  | cons a t ih =>
    unfold Tab.get
    split
    · next h => subst h; exact .inr List.mem_cons_self
    · exact ih.imp_right (List.mem_cons_of_mem _)
theorem gathered_zero {P : Nat → Prop} {k : Nat} : Gathered P k 0 0 := ⟨fun n h => by simp at h, fun n h => by simp at h⟩
theorem testBit_byteMask (c n : Nat) : (255 <<< (8 * c)).testBit n = decide (n / 8 = c) := by
  have h255 : ∀ m, Nat.testBit 255 m = decide (m < 8) := fun m => Nat.testBit_two_pow_sub_one 8 m
  rw [Nat.testBit_shiftLeft, h255, Bool.eq_iff_iff]
  simp only [Bool.and_eq_true, decide_eq_true_eq]
  omega
theorem Gathered.setByte {P : Nat → Prop} {k m d : Nat} (h : Gathered P k m d) (a : Nat) (v : Byte) (ha : P a) (hk : a / 8 = k) :
    Gathered P k (m ||| (255 <<< (8 * (a % 8)))) ((d &&& (2 ^ 64 - 1 - (255 <<< (8 * (a % 8))))) ||| (v.toNat <<< (8 * (a % 8)))) := by
  constructor
  · intro n hm
    rw [Nat.testBit_or, testBit_byteMask, Bool.or_eq_true, decide_eq_true_eq] at hm
    rcases hm with hm | hm
    · exact h.mask n hm
    · exact ⟨by omega, by rwa [hm, ← hk, Nat.div_add_mod]⟩
  · intro n hd
    rw [Nat.testBit_or, testBit_byteMask, Bool.or_eq_true, decide_eq_true_eq]
    rw [Nat.testBit_or, Nat.testBit_and, Bool.or_eq_true, Bool.and_eq_true, Nat.testBit_shiftLeft, Bool.and_eq_true, decide_eq_true_eq] at hd
    rcases hd with ⟨hd, -⟩ | ⟨hle, hv⟩
    · exact .inl (h.data n hd)
    · have hlt : n - 8 * (a % 8) < 8 := by
        refine Nat.lt_of_not_le fun hge => ?_
        have hv8 : v.toNat < 2 ^ (n - 8 * (a % 8)) := Nat.lt_of_lt_of_le v.isLt (Nat.pow_le_pow_right (by decide) hge)
        rw [Nat.testBit_lt_two_pow hv8] at hv
        cases hv
      exact .inr (by omega)
theorem gatherBytes_gathered {P : Nat → Prop} {bs : List (Nat × Byte)} (h : ∀ p ∈ bs, P p.1) :
    ∀ e ∈ gatherBytes bs, Gathered P e.1 e.2.1 e.2.2 := by
  unfold gatherBytes
  refine List.foldlRecOn (motive := fun t : Tab (Nat × Nat) => ∀ e ∈ t, Gathered P e.1 e.2.1 e.2.2) bs _ (fun e he => nomatch he) ?_
  intro t ih p hp e he
  dsimp only at he
  rcases mem_tabSet he with he | rfl
  · exact ih e he
  · have hold : Gathered P (p.1 / 8) (Tab.get (0, 0) t (p.1 / 8)).1 (Tab.get (0, 0) t (p.1 / 8)).2 := by
      rcases get_mem (d := (0, 0)) t (p.1 / 8) with h0 | hmem
      · rw [h0]; exact gathered_zero
      · exact ih _ hmem
    exact hold.setByte p.1 p.2 (h p hp) rfl

theorem Gathered.mask_lt {P : Nat → Prop} {k m d : Nat} (h : Gathered P k m d) : m < 2 ^ 64 :=
  Nat.lt_pow_two_of_testBit m fun n hn => eq_false_of_ne_true fun hm => by
    have := (h.mask n hm).1
    omega

/-! ### Words merged -/

theorem leBytes_get (n x c : Nat) : (leBytes n x)[c]? = if c < n then some (byte (x / 2 ^ (8 * c))) else none := by
  induction n generalizing x c with
  | zero => rfl
  | succ n ih =>
    cases c with
    | zero => simp [leBytes]
    | succ c =>
      rw [leBytes, List.getElem?_cons_succ, ih, Nat.div_div_eq_div_mul, show 8 * (c + 1) = 8 + 8 * c by omega, Nat.pow_add]
      simp
/-- A byte that the mask leaves out is the old one. -/
theorem Gathered.merge_left {P : Nat → Prop} {k m d : Nat} (h : Gathered P k m d) {b : Nat} (hb : b / 8 = k) (hP : ¬ P b) (old : W64) :
    (leBytes 8 (w64 ((old.toNat &&& (2 ^ 64 - 1 - m)) ||| d)).toNat)[b % 8]? = (leBytes 8 old.toNat)[b % 8]? := by
  have hc : b % 8 < 8 := Nat.mod_lt _ (by decide)
  rw [leBytes_get, leBytes_get, if_pos hc, if_pos hc]
  refine congrArg some (BitVec.eq_of_getLsbD_eq fun j hj => ?_)
  have hm : m.testBit (j + 8 * (b % 8)) = false := by
    refine eq_false_of_ne_true fun hm => ?_
    have hp := (h.mask _ hm).2
    rw [show 8 * k + (j + 8 * (b % 8)) / 8 = b by omega] at hp
    exact hP hp
  have hd : d.testBit (j + 8 * (b % 8)) = false := by
    refine eq_false_of_ne_true fun hd => ?_
    rw [h.data _ hd] at hm
    cases hm
  have hlt : j + 8 * (b % 8) < 64 := by omega
  simp only [byte, w64, BitVec.getLsbD_ofNat, BitVec.toNat_ofNat, Nat.testBit_div_two_pow, Nat.testBit_mod_two_pow, Nat.testBit_or, Nat.testBit_and,
    Nat.sub_sub, Nat.add_comm 1 m, Nat.testBit_two_pow_sub_succ h.mask_lt, hm, hd, hlt]
  simp
theorem storeFrame_putWord {f k : Nat} {P : Nat → Prop} {s : State} (hs : s.canonical = true) (w : PWord)
    (h : ∀ b, b / 8 = k → ¬ P b → w.poison = false ∧ (readWord s (.t0 f) k).poison = false ∧
      (leBytes 8 w.data.toNat)[b % 8]? = (leBytes 8 (readWord s (.t0 f) k).data.toNat)[b % 8]?) :
    StoreFrame f P s (putWord s (.t0 f) k w) := by
  refine ⟨rfl, rfl, rfl, fun g b hb => ?_⟩
  by_cases heq : g = f ∧ b / 8 = k
  · obtain ⟨rfl, rfl⟩ := heq
    obtain ⟨hw, hold, hbyte⟩ := h b rfl fun hp => hb ⟨rfl, hp⟩
    rw [t0Reads, t0Reads, readWord_putWord_self hs rfl, hw, if_neg Bool.false_ne_true, hw, hold]
    simpa using hbyte
  · refine t0Reads_of_readWord (readWord_putWord_other hs ?_ w)
    exact Classical.not_and_iff_not_or_not.1 fun ⟨hl, hk⟩ => heq ⟨(Loc.t0.inj hl).symm, hk.symm⟩
theorem storeFrame_mergeWord {f k m d : Nat} {P : Nat → Prop} {s : State} (hs : s.canonical = true) (h : Gathered P k m d) :
    StoreFrame f P s (mergeWord s (.t0 f) k m d) := by
  unfold mergeWord
  split
  · next hm =>
    refine storeFrame_putWord hs _ fun b hb hP => absurd ?_ hP
    have hbit : m.testBit (8 * (b % 8)) = true := by rw [hm, Nat.testBit_two_pow_sub_one]; simp; omega
    have hp := (h.mask _ hbit).2
    rwa [Nat.mul_div_cancel_left _ (by decide), ← hb, Nat.div_add_mod] at hp
  · dsimp only
    split
    · exact storeFrame_noteWord hs k
    · next hold =>
      exact (storeFrame_noteWord hs k).trans
        (storeFrame_putWord (noteWord_canonical hs k) _ fun b hb hP => ⟨rfl, by simpa using hold, h.merge_left hb hP _⟩)
theorem mergeWord_canonical {s : State} (hs : s.canonical = true) (l : Loc) (k m d : Nat) : (mergeWord s l k m d).canonical = true :=
  (mergeWord_kept (Kept.refl s)).canon hs
theorem storeFrame_storeBytes {f : Nat} {s : State} (hs : s.canonical = true) (bs : List (Nat × Byte)) :
    StoreFrame f (· ∈ bs.map Prod.fst) s (storeBytes s (.t0 f) bs) := by
  have hg := gatherBytes_gathered (P := (· ∈ bs.map Prod.fst)) fun p hp => List.mem_map_of_mem (f := Prod.fst) hp
  unfold storeBytes
  generalize gatherBytes bs = l at hg ⊢
  induction l generalizing s with
  | nil => exact .refl s
  | cons e l ih =>
    exact (storeFrame_mergeWord hs (hg e List.mem_cons_self)).trans
      (ih (mergeWord_canonical hs ..) fun e' he' => hg e' (List.mem_cons_of_mem _ he'))
theorem storeFrame_t0Store {f : Nat} {s : State} (hs : s.canonical = true) (req : Nat) (bs : List (Nat × Byte)) :
    StoreFrame f (· ∈ bs.map Prod.fst) s (t0Store s f req bs) := by
  have hb : (storeBytes s (.t0 f) bs).canonical = true := (storeBytes_kept (Kept.refl s)).canon hs
  exact (storeFrame_storeBytes hs bs).trans (storeFrame_setFace hb rfl rfl)
theorem storeFrame_addCounts {f : Nat} {P : Nat → Prop} {s : State} (hs : s.canonical = true) (i : Ins) (tensor : Nat) (n : ConvCount) :
    StoreFrame f P s (addCounts s i tensor n) := by
  unfold addCounts
  split
  · exact storeFrame_modLane hs ..
  · exact .refl s
theorem storeFrame_setFlag {f : Nat} {P : Nat → Prop} {s : State} (hs : s.canonical = true) (i : Ins) (n : Nat) (on : Bool) :
    StoreFrame f P s (setFlag s i n on) := by
  unfold setFlag
  split
  · exact storeFrame_modLane hs ..
  · exact .refl s

/-! ### The instructions -/

/-- What V_ST leaves when it completes. -/
def vStResult (s : State) (f : Fin 128) (i : Ins) (fm : Fmt) : State :=
  let out := storeBytesOf s f i fm (sreg s f (s1F i)).toNat
  let t := t0Store s f i.l.req out.1
  let t := if i.ext then addCounts t i (fx i 63 32) out.2.2 else t
  done (setFlag t i flNonfin out.2.1) i

section
variable {s : State} {f : Fin 128} {st : IssueStream} {i : Ins}

/-- An instruction with no extension word rounds to nearest even and writes no gradient. -/
theorem ext_or_nearest {fm : Fmt} (h : StoreOk s f st i fm) : (i.ext || !srUsed (rndF i) (gF i)) = true := by
  cases he : i.ext with
  | true => rfl
  | false =>
    have hno : ¬ (bits i.w 18 17 = 1 ∨ bits i.w 16 16 = 1) := fun hc => by rw [h.ext hc] at he; cases he
    rw [not_or] at hno
    simp only [srUsed, rndF, gF, fw, Bool.false_or, Bool.not_eq_true', Bool.or_eq_false_iff, beq_eq_false_iff_ne]
    exact hno
theorem vStStep_runs {fm : Fmt} (h : StoreOk s f st i fm) : vStStep s f st = vStResult s f i fm := by
  have hext := ext_or_nearest h
  obtain ⟨hnext, hcoded, hrnd, -, hfmt, hplain, hnamed, hblocks, hin, halign⟩ := h
  rw [← mNames_eq] at hnamed
  have hcode : (encodingOk i [fVA, fM, fME, fS1, fS2, fRND, fG, fFMT, fMD] .opt [(63, 32)] && rndF i < 2 && (i.ext || !srUsed (rndF i) (gF i))) = true := by
    rw [hext, Bool.and_true, Bool.and_eq_true]
    exact ⟨hcoded, decide_eq_true hrnd⟩
  have hblock : (fm.isBlock && (sreg s f (s2F i)).toNat % 16 != 0) = false := by
    cases hb : fm.isBlock with
    | false => rfl
    | true => rw [Bool.true_and, bne_eq_false_iff_eq]; exact hblocks hb
  have hfm : fmtOf (fmtF i) = some fm := hfmt
  have hal : ((sreg s f (s1F i)).toNat % fmtAlign fm != 0) = false := by rw [bne_eq_false_iff_eq]; exact halign
  have hinside : ((rowSpans fm (mdF i) (lane (face s f) st).vl).map fun p => ((sreg s f (s1F i)).toNat + p.1, p.2)).all (fun p => inT0 p.1 p.2) = true := by
    refine all_inT0 fun p hp => ?_
    obtain ⟨q, hq, rfl⟩ := List.mem_map.1 hp
    exact hin q hq
  unfold vStStep
  rw [issue_runs hnext]
  obtain ⟨w, x, ext, rfl⟩ := issuing_eq hnext
  dsimp only
  rw [hcode, hfm]
  dsimp only
  refine (withRegs_runs hnamed).trans ?_
  rw [if_neg (by rw [hplain]; decide), if_neg (by rw [hblock]; decide), if_neg (by unfold vlOf; rw [hinside]; decide),
    if_neg (by rw [hal]; decide), writable_eq]
  rfl
theorem mStStep_runs (h : Issuing s f st 0x163 i) (he : encodingOk i [fS1, fMD] .no [] = true) (hn : Named s i [.m (mdF i), .s (s1F i)]) :
    let a := (sreg s i.f (s1F i)).toNat
    let n := ceilDiv (vlOf s i) 8
    a + n ≤ 8388608 →
    let (x, u) := freeValue s
    let m := (mget s i.f (mdF i)).toNat % 2 ^ vlOf s i + 2 ^ vlOf s i * (x.toNat % 2 ^ (8 * n - vlOf s i))
    mStStep s f st = done (t0Store u i.f i.l.req (placed a (leBytes n m))) i := by
  intro a n hin
  unfold mStStep
  rw [issue_runs h]
  dsimp only
  rw [he, if_neg not_true_ne_true, withRegs_runs hn, inT0_eq_true hin, if_neg not_true_ne_true, Nat.mul_comm (2 ^ vlOf s i)]
  rfl
theorem storeFrame_vStResult {fm : Fmt} (hs : s.canonical = true) :
    StoreFrame f (· ∈ (storeBytesOf s f i fm (sreg s f (s1F i)).toNat).1.map Prod.fst) s (vStResult s f i fm) := by
  unfold vStResult
  dsimp only
  have hstore := t0Store_kept (f := f.val) (req := i.l.req) (bs := (storeBytesOf s f i fm (sreg s f (s1F i)).toNat).1) (Kept.refl s)
  refine (storeFrame_t0Store hs i.l.req _).trans ?_
  split
  · have hcount := addCounts_kept (i := i) (tensor := fx i 63 32) (n := (storeBytesOf s f i fm (sreg s f (s1F i)).toNat).2.2) hstore
    exact (storeFrame_addCounts (hstore.canon hs) ..).trans ((storeFrame_setFlag (hcount.canon hs) ..).trans
      (storeFrame_modLane ((setFlag_kept hcount).canon hs) ..))
  · exact (storeFrame_setFlag (hstore.canon hs) ..).trans (storeFrame_modLane ((setFlag_kept hstore).canon hs) ..)
end

end Sys2Proof.Machine

open Sys2Proof Sys2Proof.Machine

/-- Settles O9: what V_ST and M_ST write is the model's own; that nothing else changes goes word by word, since a word read to be
merged with is put right without reading as another, and a merge keeps the bytes that its mask leaves out. -/
theorem vectorStores : Obligations.VectorStores := by
  refine ⟨fun s f st i => ⟨fun fm h => ?_, ?_⟩, fun s t f st i fm h he => ?_⟩
  · exact congrArg _ (vStStep_runs h)
  · intro n h he hn hin
    obtain ⟨w, x, ext, rfl⟩ := issuing_eq h
    exact congrArg _ (mStStep_runs h he hn hin)
  · have hres : exec (.vSt f st) s = .next (vStResult s f i fm) := congrArg _ (vStStep_runs h)
    obtain rfl := Host.Outcome.next.inj (hres.symm.trans he)
    obtain ⟨ht1, ht2, hhost, hleft⟩ := storeFrame_vStResult (i := i) (f := f) (fm := fm) h.next.canon
    exact ⟨ht1, ht2, hhost, hleft⟩
end

section
/-!
PROOFS. The matrix engine: tile loads and products (R60, R126, R127).
-/
namespace Sys2Proof.Machine
open Sys2Proof

theorem done_setAcc {s : State} {i : Ins} (h : s.canonical = true) (n : Nat) (a : Acc) :
    done (setAcc s i.f n a) i = goesOn s i { face s i.f with acc := Tab.set {} (face s i.f).acc n a } := done_setFace h _
theorem bne_zero_false {n : Nat} (h : n = 0) : (n != 0) = false := by rw [h]; rfl
theorem not_true_of_false {b : Bool} (h : b = false) : ¬ b = true := by rw [h]; exact Bool.false_ne_true
theorem not_isBlock_of_isInt {fm : Fmt} (h : fm.isInt = true) : fm.isBlock = false := by
  cases fm with
  | int8 => rfl
  | int4 => rfl
  | _ => exact nomatch h
theorem withClaim_reached {s : State} {i : Ins} {va n : Nat} {body : State → State} (hmark : touchesMarked (claim s i.l.claim) [(va, n)] = false)
    (hmay : access (claim s i.l.claim) (whoOf s i) va n = .ok) : withClaim s i va n body = body s := by
  rw [withClaim, if_neg (not_true_of_false hmark), hmay]

section
variable {s : State} {f : Fin 128} {st : IssueStream} {i : Ins}

theorem mmaStep_runs :
    let a : OpBuf := Tab.get {} (face s i.f).buf (fw i 47 47)
    let b : OpBuf := Tab.get {} (face s i.f).buf (2 + fw i 46 46)
    let x : Acc := Tab.get {} (face s i.f).acc (fw i 50 48)
    let im := fw i 45 45 == 1
    let n := fw i 38 33 + 1
    Issuing s f st 0x002 i → encodingOk i [(50, 33), (23, 0)] .no [] = true →
    Named s i [.a (fw i 50 48), .b (fw i 47 47), .b (2 + fw i 46 46)] →
    a.full = true → b.full = true → a.fmt = b.fmt → (im = true → a.fmt.isInt = true) → fw i 44 39 + n ≤ a.fmt.capacity →
    (x.full = true → x.fmt = a.fmt ∧ x.im = im ∧ x.next = fw i 23 0) → x.count + n ≤ 4096 →
    let y := (List.range n).foldl (fun y g => accGroup a b im y (fw i 44 39 + g)) x
    mmaStep s f st = done (setAcc s i.f (fw i 50 48)
      { y with full := true, fmt := a.fmt, im := im, next := fw i 23 0 + n, count := x.count + n }) i := by
  intro a b x im n h he hn ha hb hfmt him hcap hnext hcount y
  have hpair : ¬ (a.fmt ≠ b.fmt ∨ (im && !a.fmt.isInt) = true) := by
    rintro (hne | hint)
    · exact hne hfmt
    · rw [Bool.and_eq_true, Bool.not_eq_true'] at hint
      exact absurd (him hint.1) (not_true_of_false hint.2)
  have hsame : (x.full && (x.fmt != a.fmt || x.im != im)) = false := by
    cases hx : x.full with
    | false => rfl
    | true =>
      obtain ⟨h1, h2, -⟩ := hnext hx
      rw [h1, h2, bne_self_eq_false, bne_self_eq_false]; rfl
  have horder : (x.full && x.next != fw i 23 0) = false := by
    cases hx : x.full with
    | false => rfl
    | true => rw [(hnext hx).2.2, bne_self_eq_false]; rfl
  unfold mmaStep
  rw [issue_runs h]
  dsimp only
  rw [he, if_neg not_true_ne_true, withRegs_runs hn]
  refine (if_neg ?_).trans ((if_neg hpair).trans ((if_neg (Nat.not_lt.2 hcap)).trans ((if_neg (not_true_of_false hsame)).trans
    ((if_neg (not_true_of_false horder)).trans (if_neg (Nat.not_lt.2 hcount))))))
  rw [show (Tab.get {} (face s i.f).buf (fw i 47 47) : OpBuf).full = true from ha, show (Tab.get {} (face s i.f).buf (2 + fw i 46 46) : OpBuf).full = true from hb]
  decide
theorem loadTile_clean {fm : Fmt} {a stride kn rows : Nat} {l : List Xr} (h : t0Poison s i.f (tileSpans i fm a stride kn rows) = false) :
    loadTile s i fm a stride kn rows l = done (setBuf (t0Note s i.f (tileSpans i fm a stride kn rows)) i.f (fw i 50 49)
      { fmt := fm, full := true, rows := tileRows s i fm a stride kn rows, scales := l }) i :=
  if_neg (not_true_of_false h)
/-- A tile of an integer format loaded with the scale entries at `sc`, which its engine reads first. -/
def loadScaled (i : Ins) (fm : Fmt) (a stride kn rows sc : Nat) (s : State) : State :=
  let r := sliceWords (noteVa s i.l.claim sc (8 * ceilDiv kn 64)) i.l.claim sc (vaWords s i.l.claim sc (ceilDiv kn 64))
  if r.2.any (·.poison) then raise r.1 i stPoisonRead
  else match spanScales (r.2.map (·.data)) with
    | none => raise r.1 i stBadScale
    | some l => loadTile r.1 i fm a stride kn rows l
theorem loadScaled_valid {fm : Fmt} {a stride kn rows sc : Nat} :
    let r := sliceWords (noteVa s i.l.claim sc (8 * ceilDiv kn 64)) i.l.claim sc (vaWords s i.l.claim sc (ceilDiv kn 64))
    r.2.any (·.poison) = false → r.2.all (fun w => scaleValid w.data) = true →
    loadScaled i fm a stride kn rows sc s = loadTile r.1 i fm a stride kn rows (r.2.map fun w => .fin 1 (scaleExp w.data)) := by
  intro r hgood hvalid
  have hscales : spanScales (r.2.map (·.data)) = some (r.2.map fun w => .fin 1 (scaleExp w.data)) := by
    rw [spanScales, if_pos (by rw [List.all_map]; exact hvalid), List.map_map]; rfl
  unfold loadScaled
  refine (if_neg (not_true_of_false hgood)).trans ?_
  rw [hscales]
/-- TLOAD up to its loading: a tile of a float or block format is loaded, and one of an integer format reads its scale entries first. -/
theorem tloadStep_checked {fm : Fmt} (h : Issuing s f st 0x001 i) (he : encodingOk i [(50, 23), (21, 0)] .no [] = true)
    (hfm : fmtOf (fw i 48 45) = some fm) (htile : tileFmt fm = true)
    (hsc : fm.isInt = false → fw i 35 32 = 0) (hslot : fm.isBlock = false → fw i 25 23 = 0) :
    let a := (sreg s i.f (fw i 43 40)).toNat + 8 * fw i 15 0
    let stride := (sreg s i.f (fw i 39 36)).toNat
    let kn := 32 * (fw i 31 26 + 1)
    let rows := fw i 21 16 + 1
    let sc := (sreg s i.f (fw i 35 32)).toNat
    Named s i ([.b (fw i 50 49), .s (fw i 43 40), .s (fw i 39 36)] ++ (if fm.isInt then [.s (fw i 35 32)] else [])) →
    fw i 31 26 + 1 ≤ fm.capacity → (fm.isBlock = true → fw i 44 44 = 0) →
    (∀ p ∈ tileSpans i fm a stride kn rows, p.1 + p.2 ≤ 8388608) → a % fmtAlign fm = 0 → stride % 8 = 0 → (fm.isInt = true → sc % 8 = 0) →
    tloadStep s f st = if !fm.isInt then loadTile s i fm a stride kn rows [] else withClaim s i sc (8 * ceilDiv kn 64) (loadScaled i fm a stride kn rows sc) := by
  intro a stride kn rows sc hn hcap haxis hin halign hstride hscal
  have hcoded : (!fm.isInt && fw i 35 32 != 0 || !fm.isBlock && fw i 25 23 != 0) = false := by
    cases hi : fm.isInt <;> cases hb : fm.isBlock <;> simp_all
  have hk : (fm.isBlock && fw i 44 44 == 1) = false := by
    cases hb : fm.isBlock with
    | false => rfl
    | true => rw [haxis hb]; rfl
  have hal : (a % fmtAlign fm != 0 || stride % 8 != 0 || (fm.isInt && sc % 8 != 0)) = false := by
    rw [bne_zero_false halign, bne_zero_false hstride]
    cases hi : fm.isInt with
    | false => rfl
    | true => rw [bne_zero_false (hscal hi)]; rfl
  unfold tloadStep
  rw [issue_runs h]
  dsimp only
  rw [show encodingOk i tlFields .no [] = true from he, hfm]
  dsimp only
  rw [if_neg (not_true_of_false hcoded), withRegs_runs hn, htile, if_neg not_true_ne_true, if_neg (Nat.not_lt.2 hcap), if_neg (not_true_of_false hk)]
  refine (if_neg ?_).trans (if_neg (not_true_of_false hal))
  rw [all_inT0 hin]
  exact not_true_ne_true
end

end Sys2Proof.Machine

open Sys2Proof Sys2Proof.Machine

/-- Settles O10: MMA and TLOAD pass their checks in the order of the model; then each writes the accumulator or the buffer it names. -/
theorem matrixEngine : Obligations.MatrixEngine := by
  refine ⟨fun s f st i => ?_, fun s f st i fm => ?_, fun s f st i fm l => ?_⟩
  · intro a b x im koff n h he hn ha hb hfmt him hcap hnext hcount y z
    obtain ⟨w, x, e, rfl⟩ := issuing_eq h
    exact congrArg _ ((mmaStep_runs h he hn ha hb hfmt him hcap hnext hcount).trans (done_setAcc h.canon _ _))
  · intro a stride kn rows spans t h he hfm htile hint hsc hslot hn hcap haxis hin halign hstride hpoison
    have hnames : Named s i ([.b (fw i 50 49), .s (fw i 43 40), .s (fw i 39 36)] ++ (if fm.isInt then [.s (fw i 35 32)] else [])) := by
      rw [hint]; exact hn
    have hblock : fm.isBlock = false → fw i 25 23 = 0 := fun hb => hslot.resolve_left (not_true_of_false hb)
    obtain ⟨w, x, e, rfl⟩ := issuing_eq h
    have hload := tloadStep_checked h he hfm htile (fun _ => hsc) hblock hnames hcap haxis hin halign hstride fun hi => absurd hi (not_true_of_false hint)
    rw [hint, if_pos (by rfl)] at hload
    exact congrArg _ (hload.trans (loadTile_clean hpoison))
  · intro a stride kn rows sc n r u spans h he hfm hint htile hslot hn hcap hin halign hstride hscal hmark hmay hgood hvalid hl hpoison
    have hnames : Named s i ([.b (fw i 50 49), .s (fw i 43 40), .s (fw i 39 36)] ++ (if fm.isInt then [.s (fw i 35 32)] else [])) := by
      rw [hint]; exact hn
    have hblock : fm.isBlock = true → fw i 44 44 = 0 := fun hb => absurd hb (not_true_of_false (not_isBlock_of_isInt hint))
    obtain ⟨w, x, e, rfl⟩ := issuing_eq h
    have hload := tloadStep_checked h he hfm htile (fun hi => absurd hint (not_true_of_false hi)) (fun _ => hslot) hnames hcap hblock hin halign hstride
      fun _ => hscal
    rw [hint, if_neg not_true_ne_true] at hload
    subst hl
    exact congrArg _ (hload.trans ((withClaim_reached hmark hmay).trans ((loadScaled_valid hgood hvalid).trans (loadTile_clean hpoison))))
end

section
/-!
PROOFS. Drains of the accumulators (R42, R60 to R62, R96, R128, R129, R513).
-/
namespace Sys2Proof.Machine
open Sys2Proof

/-! ### What a conversion draws from: scalar registers, and the claim's seed and step -/

/-- State `s`, made from `s0`, has the scalar registers, seeds and steps of `s0`, from which the draws of a conversion come (R53). -/
structure DrawsKept (s0 s : State) : Prop where
  kept : Kept s0 s
  sregs : ∀ g, (face s g).s = (face s0 g).s
  seed : ∀ c, (claim s c).seed = (claim s0 c).seed
  step : ∀ c, (claim s c).step = (claim s0 c).step

theorem interrupt_faces (s : State) (fn vec : Nat) : (interrupt s fn vec).faces = s.faces := by
  unfold interrupt
  dsimp only
  split <;> rfl
theorem postSump_faces (s : State) (r : SumpRec) : (postSump s r).faces = s.faces := by
  have key (v : Sump) : (if 2 ≤ r.cls ∧ v.svEn = true then interrupt { s with sump := v } 0 v.svVec else { s with sump := v }).faces = s.faces := by
    split
    · exact interrupt_faces ..
    · rfl
  unfold postSump
  dsimp only
  split
  · rfl
  · exact key _

section
variable {s0 s t : State} (h0 : s0.canonical = true)

theorem DrawsKept.refl (s : State) : DrawsKept s s := ⟨Kept.refl s, fun _ => rfl, fun _ => rfl, fun _ => rfl⟩
theorem DrawsKept.of_same (h : DrawsKept s0 s) (hk : Kept s0 t) (hf : t.faces = s.faces) (hc : t.claims = s.claims) : DrawsKept s0 t := by
  have hface : ∀ g, face t g = face s g := fun g => by rw [face, face, hf]
  have hclaim : ∀ c, claim t c = claim s c := fun c => by rw [claim, claim, hc]
  exact ⟨hk, fun g => by rw [hface, h.sregs], fun c => by rw [hclaim, h.seed], fun c => by rw [hclaim, h.step]⟩
theorem DrawsKept.sreg (h : DrawsKept s0 s) (f n : Nat) : sreg s f n = sreg s0 f n := by
  rw [Sys2Proof.Machine.sreg, Sys2Proof.Machine.sreg, h.sregs]
theorem DrawsKept.draw (h : DrawsKept s0 s) (c : Nat) (sr : Bool) (tensor idx : Nat) :
    drawFor (claim s c) sr tensor idx = drawFor (claim s0 c) sr tensor idx := by
  rw [drawFor, drawFor, h.seed, h.step]

theorem drawsKept_postSump (h : DrawsKept s0 s) {r : SumpRec} : DrawsKept s0 (postSump s r) :=
  h.of_same (postSump_kept h.kept) (postSump_faces ..) (postSump_claims ..)
theorem drawsKept_freeValue (h : DrawsKept s0 s) : DrawsKept s0 (freeValue s).2 := h.of_same (freeValue_kept h.kept) rfl rfl
theorem drawsKept_sliceWords (h : DrawsKept s0 s) {c va : Nat} {ws : List PWord} : DrawsKept s0 (sliceWords s c va ws).1 := by
  have hsame : ∀ (k : Claim) (l : List (PWord × Nat)) (a : State × List PWord), DrawsKept s0 a.1 → DrawsKept s0 (l.foldl (fun a p =>
      if permuting k (va + 8 * p.2) then let (v, t) := freeValue a.1; (t, a.2 ++ [⟨v, false⟩]) else (a.1, a.2 ++ [p.1])) a).1 := by
    intro k l
    induction l with
    | nil => exact fun a ha => ha
    | cons p l ih =>
      intro a ha
      refine ih _ ?_
      dsimp only
      split
      · exact drawsKept_freeValue ha
      · exact ha
  exact hsame _ _ _ h

include h0

theorem drawsKept_setFace (h : DrawsKept s0 s) {f : Nat} {x : Face} (hx : x.s = (face s f).s) (hw : Tab.wf 0 x.t0 = true) :
    DrawsKept s0 (setFace s f x) := by
  refine ⟨setFace_kept h.kept fun _ => hw, fun g => ?_, h.seed, h.step⟩
  rw [face_setFace (canonical_faces_table (h.kept.canon h0))]
  split
  · next hg => rw [hx, ← hg, h.sregs]
  · exact h.sregs g
theorem drawsKept_setClaim (h : DrawsKept s0 s) {c : Nat} {x : Claim} (hseed : x.seed = (claim s c).seed) (hstep : x.step = (claim s c).step) :
    DrawsKept s0 (setClaim s c x) := by
  have hwf : Tab.wf {} s.claims = true := claims_wf h.kept h0
  refine ⟨setClaim_kept h.kept, h.sregs, fun k => ?_, fun k => ?_⟩ <;> rw [claim_setClaim hwf] <;> split
  · next hk => rw [hseed, ← hk, h.seed]
  · exact h.seed k
  · next hk => rw [hstep, ← hk, h.step]
  · exact h.step k
theorem drawsKept_setWord (h : DrawsKept s0 s) {l : Loc} {i : Nat} {w : W80} : DrawsKept s0 (setWord s l i w) := by
  have hk := setWord_kept (l := l) (i := i) (w := w) h.kept
  cases l with
  | t0 f => exact drawsKept_setFace h0 h rfl (Tab.wf_set (memTab_wf (l := .t0 f) h.kept h0) _ _)
  | t1 => exact h.of_same hk rfl rfl
  | t2 => exact h.of_same hk rfl rfl
theorem drawsKept_noteWord (h : DrawsKept s0 s) {l : Loc} {i : Nat} : DrawsKept s0 (noteWord s l i) := by
  have hcount : ∀ d, DrawsKept s0 (countT2 s l i d) := fun d => by
    refine h.of_same (countT2_kept h.kept) ?_ (countT2_claims ..)
    unfold countT2
    split <;> rfl
  unfold noteWord
  split
  · exact h
  · next w n _ =>
    have hmid : ∀ r, DrawsKept s0 (postSump (setWord (countT2 s l i (errDevice (memWord s l i) w)) l i w) r) :=
      fun r => drawsKept_postSump (drawsKept_setWord h0 (hcount _))
    have htrack : ∀ r (v : Sump), DrawsKept s0 { postSump (setWord (countT2 s l i (errDevice (memWord s l i) w)) l i w) r with sump := v } :=
      fun r v => (hmid r).of_same ⟨(hmid r).kept.queue, (hmid r).kept.canon⟩ rfl rfl
    dsimp only
    split
    · exact hmid _
    · split
      · exact drawsKept_postSump (htrack _ _)
      · exact htrack _ _
  · have hput : DrawsKept s0 (putWord (countT2 s l i (some 5)) l i ⟨0, true⟩) := drawsKept_setWord h0 (hcount _)
    have hfoul : ∀ fl, DrawsKept s0 { putWord (countT2 s l i (some 5)) l i ⟨0, true⟩ with foul := fl } :=
      fun fl => hput.of_same ⟨hput.kept.queue, hput.kept.canon⟩ rfl rfl
    dsimp only
    split
    · exact drawsKept_postSump hput
    · exact drawsKept_postSump (hfoul _)
omit h0 in
theorem drawsKept_foldl {α : Type} {g : State → α → State} (hg : ∀ t, DrawsKept s0 t → ∀ a, DrawsKept s0 (g t a)) (h : DrawsKept s0 s) (l : List α) :
    DrawsKept s0 (l.foldl g s) :=
  List.foldlRecOn (motive := DrawsKept s0) l g h fun t ht a _ => hg t ht a
theorem drawsKept_noteVa (h : DrawsKept s0 s) {c va n : Nat} : DrawsKept s0 (noteVa s c va n) := by
  unfold noteVa
  split
  · exact h
  · exact drawsKept_foldl (fun _ ht _ => drawsKept_noteWord h0 ht) h _
theorem drawsKept_mergeWord (h : DrawsKept s0 s) {l : Loc} {i m d : Nat} : DrawsKept s0 (mergeWord s l i m d) := by
  unfold mergeWord
  split
  · exact drawsKept_setWord h0 h
  · dsimp only
    split
    · exact drawsKept_noteWord h0 h
    · exact drawsKept_setWord h0 (drawsKept_noteWord h0 h)
omit h0 in
theorem dirtyPages_draws (l : List Nat) (k : Claim) : (l.foldl dirtyPage k).seed = k.seed ∧ (l.foldl dirtyPage k).step = k.step := by
  induction l generalizing k with
  | nil => exact ⟨rfl, rfl⟩
  | cons p l ih =>
    have hp : (dirtyPage k p).seed = k.seed ∧ (dirtyPage k p).step = k.step := by
      unfold dirtyPage
      dsimp only
      split <;> exact ⟨rfl, rfl⟩
    exact ⟨(ih _).1.trans hp.1, (ih _).2.trans hp.2⟩
theorem drawsKept_dirtyRange (h : DrawsKept s0 s) {c va n : Nat} : DrawsKept s0 (dirtyRange s c va n) :=
  drawsKept_setClaim h0 h (dirtyPages_draws ..).1 (dirtyPages_draws ..).2
theorem drawsKept_vaStore (h : DrawsKept s0 s) {c va : Nat} {bs : List Byte} : DrawsKept s0 (vaStore s c va bs) :=
  drawsKept_foldl (fun _ ht _ => drawsKept_mergeWord h0 ht) (drawsKept_dirtyRange h0 h) _
theorem drawsKept_slicePut (h : DrawsKept s0 s) {c va : Nat} {ws : List PWord} : DrawsKept s0 (slicePut s c va ws) :=
  drawsKept_foldl (fun _ ht _ => drawsKept_setWord h0 ht) (drawsKept_dirtyRange h0 (drawsKept_sliceWords h)) _
theorem drawsKept_setBitAt (h : DrawsKept s0 s) {c va n : Nat} : DrawsKept s0 (setBitAt s c va n) := by
  unfold setBitAt
  dsimp only
  split
  · exact drawsKept_slicePut h0 (drawsKept_vaStore h0 h)
  · exact drawsKept_vaStore h0 h
theorem drawsKept_t0Store (h : DrawsKept s0 s) {f req : Nat} {bs : List (Nat × Byte)} : DrawsKept s0 (t0Store s f req bs) := by
  have hb : DrawsKept s0 (storeBytes s (.t0 f) bs) := drawsKept_foldl (fun _ ht _ => drawsKept_mergeWord h0 ht) h _
  exact drawsKept_setFace h0 hb rfl (memTab_wf (l := .t0 f) hb.kept h0)
end

/-! ### DRAIN -/

theorem bne_false {α : Type} [BEq α] [LawfulBEq α] {a b : α} (h : a = b) : (a != b) = false := by rw [bne_eq_false_iff_eq]; exact h

theorem not_int32_of_isInt {fm : Fmt} (h : fm.isInt = true) : (fm == .int32) = false := by
  cases fm with
  | int8 => rfl
  | int4 => rfl
  | _ => exact nomatch h

section
variable {s : State} {f : Fin 128} {st : IssueStream} {i : Ins} {fm : Fmt}

theorem accClearStep_runs (h : Issuing s f st 0x004 i) (he : encodingOk i [(50, 48)] .no [] = true) (hn : Named s i [.a (fw i 50 48)]) :
    accClearStep s f st = goesOn s i { face s i.f with acc := Tab.set {} (face s i.f).acc (fw i 50 48) {} } := by
  unfold accClearStep
  rw [issue_runs h]
  dsimp only
  rw [he, if_neg not_true_ne_true, withRegs_runs hn]
  exact done_setAcc h.canon _ _

/-- The spans of T0 that a drain writes. -/
def drainSpans (i : Ins) (fm : Fmt) (a stride : Nat) : List (Nat × Nat) :=
  (List.range (drNr i)).flatMap fun r => (rowSpans fm (fw i 19 17) (drNc i)).map fun p => (a + r * stride + p.1, p.2)
theorem drainSpans_inside {a stride : Nat} (h : ∀ r < drNr i, ∀ p ∈ rowSpans fm (fw i 19 17) (drNc i), a + r * stride + p.1 + p.2 ≤ 8388608) :
    ((drainSpans i fm a stride).all fun p => inT0 p.1 p.2) = true := by
  refine all_inT0 fun p hp => ?_
  obtain ⟨r, hr, hp⟩ := List.mem_flatMap.1 hp
  obtain ⟨q, hq, rfl⟩ := List.mem_map.1 hp
  exact h r (List.mem_range.1 hr) q hq

/-- DRAIN past its coding and its names. -/
theorem drainStep_named (h : DrainOk s f st i fm) :
    let x : Acc := Tab.get {} (face s i.f).acc (fw i 50 48)
    let a := (sreg s i.f (fw i 39 36)).toNat + 8 * fw i 15 0
    let stride := (sreg s i.f (fw i 35 32)).toNat
    let sl := (sreg s i.f (fw i 31 28)).toNat
    let slr := (sreg s i.f (fw i 27 24)).toNat
    let sc := (sreg s i.f (fw i 23 20)).toNat
    drainStep s f st = if fw i 47 47 = 1 then drainVec s i x fm
      else if x.im != (fm == .int32) then raise s i stFormatPair
      else if fm.isBlock && (sl % 16 != 0 || slr % 16 != 0) then raise s i stLayoutSplitsBlock
      else if !(drainSpans i fm a stride).all (fun p => inT0 p.1 p.2) then raise s i stAddrRange
      else if a % fmtAlign fm != 0 || stride % fmtAlign fm != 0 || (fm.isInt && sc % 8 != 0) then raise s i stAlign
      else if !fm.isInt then drainT0 s i x fm 0 a stride
      else drainScaled s i x fm sc a stride := by
  obtain ⟨hnext, hcoded, hrnd, hext, hfmt, hsc, hnamed⟩ := h
  intro x a stride sl slr sc
  have hsr : (i.ext || !srUsed (fw i 42 41) (fw i 40 40 == 1)) = true := by
    cases he : i.ext with
    | true => rfl
    | false =>
      have hno : ¬ (bits i.w 42 41 = 1 ∨ bits i.w 40 40 = 1) := fun hc => by rw [hext hc] at he; cases he
      rw [not_or] at hno
      simp only [srUsed, fw, Bool.false_or, Bool.not_eq_true', Bool.or_eq_false_iff, beq_eq_false_iff_ne]
      exact hno
  have hcode : (encodingOk i [(50, 17), (15, 0)] .opt [(63, 32), (13, 8), (5, 0)] && fw i 42 41 < 2 && (i.ext || !srUsed (fw i 42 41) (fw i 40 40 == 1))) = true := by
    rw [hcoded, hsr, Bool.and_true, Bool.true_and]
    exact decide_eq_true hrnd
  have hunused : (!fm.isInt && fw i 23 20 != 0) = false := by
    rcases hsc with hint | hzero
    · rw [hint]; rfl
    · rw [show fw i 23 20 = 0 from hzero, bne_self_eq_false, Bool.and_false]
  unfold drainStep
  rw [issue_runs hnext]
  dsimp only
  rw [hcode, show fmtOf (fw i 46 43) = some fm from hfmt]
  dsimp only
  rw [if_neg (not_true_of_false hunused), withRegs_runs hnamed]
  rfl
/-- DRAIN with DV = 0 past its checks. -/
theorem drainStep_checked (h : DrainOk s f st i fm) :
    let x : Acc := Tab.get {} (face s i.f).acc (fw i 50 48)
    let a := (sreg s i.f (fw i 39 36)).toNat + 8 * fw i 15 0
    let stride := (sreg s i.f (fw i 35 32)).toNat
    let sl := (sreg s i.f (fw i 31 28)).toNat
    let slr := (sreg s i.f (fw i 27 24)).toNat
    let sc := (sreg s i.f (fw i 23 20)).toNat
    fw i 47 47 = 0 → x.im = (fm == .int32) → (fm.isBlock = true → sl % 16 = 0 ∧ slr % 16 = 0) →
    (∀ r < drNr i, ∀ p ∈ rowSpans fm (fw i 19 17) (drNc i), a + r * stride + p.1 + p.2 ≤ 8388608) →
    a % fmtAlign fm = 0 → stride % fmtAlign fm = 0 → (fm.isInt = true → sc % 8 = 0) →
    drainStep s f st = if !fm.isInt then drainT0 s i x fm 0 a stride else drainScaled s i x fm sc a stride := by
  intro x a stride sl slr sc hdv him hblock hin halign hstride hscal
  have hsplit : (fm.isBlock && (sl % 16 != 0 || slr % 16 != 0)) = false := by
    cases hb : fm.isBlock with
    | false => rfl
    | true => rw [bne_zero_false (hblock hb).1, bne_zero_false (hblock hb).2]; rfl
  have hal : (a % fmtAlign fm != 0 || stride % fmtAlign fm != 0 || (fm.isInt && sc % 8 != 0)) = false := by
    rw [bne_zero_false halign, bne_zero_false hstride]
    cases hi : fm.isInt with
    | false => rfl
    | true => rw [bne_zero_false (hscal hi)]; rfl
  refine (drainStep_named h).trans ((if_neg (by rw [hdv]; decide)).trans ((if_neg (not_true_of_false (bne_false him))).trans
    ((if_neg (not_true_of_false hsplit)).trans ((if_neg ?_).trans (if_neg (not_true_of_false hal))))))
  rw [drainSpans_inside hin]
  exact not_true_ne_true
theorem drainScale_float {t : State} {sc : Nat} {e : W64} {rows : List RowOut} (h : fm.isInt = false) : drainScale t i fm sc e rows = t := by
  unfold drainScale
  rw [h]
  rfl
/-- The registers that a drain to the vector file reaches, from its first and last element of each row. -/
theorem drain_owned {nr nc base stride : Nat} (hnc : 0 < nc)
    (h : ∀ r < nr, ∀ c < nc, base + r * stride + c < 32768 ∧ i.l.vown.getLsbD ((base + r * stride + c) / 1024) = true) :
    ((List.range nr).all fun r => [base + r * stride + 0, base + r * stride + (nc - 1)].all fun n => n < 32768 && ownsName i.l (.v (n / 1024))) = true := by
  refine List.all_eq_true.2 fun r hr => ?_
  have hr := List.mem_range.1 hr
  have hfirst := h r hr 0 hnc
  have hlast := h r hr (nc - 1) (by omega)
  simp only [List.all_cons, List.all_nil, ownsName, hfirst, hlast, decide_true, Bool.and_self]
theorem drNc_pos (i : Ins) : 0 < drNc i := by
  unfold drNc
  split <;> omega
theorem drainVec_runs {x : Acc} :
    let base := (sreg s i.f (fw i 39 36)).toNat + fw i 15 0
    let stride := (sreg s i.f (fw i 35 32)).toNat
    let vals := if x.im then (intVals x).map Prod.fst else (accVals x).map r32
    let sat := x.im && (List.range (drNr i)).any fun r => (List.range (drNc i)).any fun c => ((intVals x).getD (64 * r + c) (0, false)).2
    let out := (List.range (drNr i)).flatMap fun r => (vals.drop (64 * r)).take (drNc i)
    let t := setFace s i.f { face s i.f with
      v := (List.range (drNr i)).foldl (fun t r => (List.range (drNc i)).foldl (fun t c =>
        Tab.set 0 t (base + r * stride + c) (vals.getD (64 * r + c) 0)) t) (face s i.f).v }
    let t := if i.ext then addCounts t i (fx i 63 32) (if x.im then intCount out else fpCounts out) else t
    (∀ r < drNr i, ∀ c < drNc i, base + r * stride + c < 32768 ∧ i.l.vown.getLsbD ((base + r * stride + c) / 1024) = true) →
    drainVec s i x (if x.im then .int32 else .fp32) = drained (drainFlags t i x sat false false) i := by
  intro base stride vals sat out t0 t hown
  have hfmt : (if x.im then (if x.im then Fmt.int32 else .fp32) == .int32 else (if x.im then Fmt.int32 else .fp32) == .fp32) = true := by
    cases x.im <;> rfl
  unfold drainVec
  dsimp only
  rw [hfmt, if_neg not_true_ne_true]
  refine if_neg ?_
  rw [drain_owned (drNc_pos i) hown]
  exact not_true_ne_true
/-- The rows of a drain to a format that is not INT8 or INT4 convert no integers. -/
theorem drainRows_float {x : Acc} {e : W64} (h : fm.isInt = false) : drainRows s i x fm e = (List.range (drNr i)).map fun r =>
    if fm = .int32 then
      { bytes := (List.range (drNc i)).flatMap fun c => placed (4 * c) (leBytes 4 ((intVals x).getD (64 * r + c) (0, false)).1.toNat)
        nonfin := false, ints := [], count := intCount ((((intVals x).drop (64 * r)).take (drNc i)).map Prod.fst) }
    else floatRow fm (fw i 19 17) (drainRow (accVals x) r (drNc i))
      (fun n => drawFor (claim s i.l.claim) (fw i 42 41 == 1 || fw i 40 40 == 1) (fx i 63 32)
        ((sreg s i.f (fw i 31 28)).toNat + r * (sreg s i.f (fw i 27 24)).toNat + n)) := by
  refine List.map_congr_left fun r _ => ?_
  split
  · rfl
  · exact if_neg (not_true_of_false h)
theorem drainRows_int {x : Acc} {e : W64} (h : fm.isInt = true) : drainRows s i x fm e = (List.range (drNr i)).map fun r =>
    intRow fm (scaleExp e) (drainRow (accVals x) r (drNc i))
      (fun n => drawFor (claim s i.l.claim) (fw i 42 41 == 1 || fw i 40 40 == 1) (fx i 63 32)
        ((sreg s i.f (fw i 31 28)).toNat + r * (sreg s i.f (fw i 27 24)).toNat + n)) := by
  refine List.map_congr_left fun r _ => ?_
  rw [if_neg (by rintro rfl; exact nomatch h)]
  exact if_pos h
theorem drainRows_draws {t : State} (h : DrawsKept s t) (x : Acc) (e : W64) : drainRows t i x fm e = drainRows s i x fm e := by
  unfold drainRows
  simp only [h.sreg, h.draw]
theorem drainRows_no_ints {x : Acc} {e : W64} (h : fm.isInt = false) : ((drainRows s i x fm e).any fun r => r.ints.any (·.ovf)) = false := by
  rw [drainRows_float h, List.any_map]
  refine List.any_eq_false.2 fun r _ => ?_
  dsimp only [Function.comp]
  split <;> exact Bool.false_ne_true
theorem drainRows_int_finite {x : Acc} {e : W64} (h : fm.isInt = true) : ((drainRows s i x fm e).any (·.nonfin)) = false := by
  rw [drainRows_int h, List.any_map]
  exact List.any_eq_false.2 fun r _ => Bool.false_ne_true
theorem drainT0_float {x : Acc} {a stride : Nat} (h : fm.isInt = false) :
    let rows := drainRows s i x fm 0
    let sat := fm == .int32 && (List.range (drNr i)).any fun r => (List.range (drNc i)).any fun c => ((intVals x).getD (64 * r + c) (0, false)).2
    let t := t0Store s i.f i.l.req (drainBytes a stride rows)
    let t := if i.ext then addCounts t i (fx i 63 32) (rows.foldl (fun c r => c.add r.count) {}) else t
    drainT0 s i x fm 0 a stride = drained (drainFlags t i x sat (rows.any (·.nonfin)) false) i := by
  unfold drainT0
  dsimp only
  rw [drainScale_float h, drainRows_no_ints h]
theorem drainT0_int {u : State} {x : Acc} {e : W64} {a stride : Nat} (h0 : s.canonical = true) (hu : DrawsKept s u) (h : fm.isInt = true) :
    let rows := drainRows s i x fm e
    let t := drainScale (t0Store u i.f i.l.req (drainBytes a stride rows)) i fm (sreg s i.f (fw i 23 20)).toNat e rows
    let t := if i.ext then addCounts t i (fx i 63 32) (rows.foldl (fun c r => c.add r.count) {}) else t
    drainT0 u i x fm e a stride = drained (drainFlags t i x false false (rows.any fun r => r.ints.any (·.ovf))) i := by
  have hint32 := not_int32_of_isInt h
  unfold drainT0
  dsimp only
  rw [drainRows_draws hu, (drawsKept_t0Store h0 hu).sreg, drainRows_int_finite h, hint32]
  rfl
/-- A drain to INT8 or INT4 whose scale entry and whose tile's byte can be reached. -/
theorem drainScaled_runs {x : Acc} {sc a stride : Nat} (h0 : s.canonical = true) (h : fm.isInt = true)
    (hsc : sc = (sreg s i.f (fw i 23 20)).toNat) (rows : List RowOut) :
    let c := i.l.claim
    let r := sliceWords (noteVa s c sc 8) c sc [vaWord s c (sc / 8)]
    let e := r.2.headD ⟨0, false⟩
    let tile := tileOf c sc
    let u := if tileMarked rows then setBitAt r.1 c tile.1 tile.2 else r.1
    let t := drainScale (t0Store u i.f i.l.req (drainBytes a stride rows)) i fm sc e.data rows
    let t := if i.ext then addCounts t i (fx i 63 32) (rows.foldl (fun c r => c.add r.count) {}) else t
    drainRows s i x fm e.data = rows →
    touchesMarked (claim s c) [(sc, 8)] = false → access (claim s c) (whoOf s i) sc 8 = .ok → e.poison = false → scaleValid e.data = true →
    (tileMarked rows = true → touchesMarked (claim r.1 c) [(tile.1, 1)] = false ∧ access (claim r.1 c) (whoOf r.1 i) tile.1 1 = .ok) →
    drainScaled s i x fm sc a stride = drained (drainFlags t i x false false (rows.any fun r => r.ints.any (·.ovf))) i := by
  intro c r e tile u t1 t hread hmark hmay hgood hvalid htile
  have hr : DrawsKept s r.1 := drawsKept_sliceWords (drawsKept_noteVa h0 (.refl s))
  have hu : DrawsKept s u := by
    dsimp only [u]
    split
    · exact drawsKept_setBitAt h0 hr
    · exact hr
  have hput : withTile r.1 i sc rows (fun s => drainT0 s i x fm e.data a stride) = drainT0 u i x fm e.data a stride := by
    unfold withTile
    dsimp only [u]
    split
    · next hm => exact withClaim_reached (htile hm).1 (htile hm).2
    · rfl
  have hrows : drainRows r.1 i x fm e.data = rows := (drainRows_draws hr x e.data).trans hread
  refine (withClaim_reached hmark hmay).trans ((if_neg (not_true_of_false hgood)).trans ((if_neg ?_).trans ?_))
  · rw [show scaleValid _ = true from hvalid]
    exact not_true_ne_true
  · refine (congrArg (withTile r.1 i sc · fun s => drainT0 s i x fm e.data a stride) hrows).trans (hput.trans ?_)
    refine (drainT0_int h0 hu h).trans ?_
    rw [← hsc, hread]
end

end Sys2Proof.Machine

open Sys2Proof Sys2Proof.Machine

/-- Settles O11: past its checks a drain converts and writes its rows; what it writes before its scale entry and its counts leaves the
registers, the seed and the step from which they come. -/
theorem accumulatorDrains : Obligations.AccumulatorDrains := by
  refine ⟨fun s f st i => ⟨fun h he hn => ?_, ?_⟩, ?_, ?_⟩
  · obtain ⟨w, x, e, rfl⟩ := issuing_eq h
    exact congrArg _ (accClearStep_runs h he hn)
  · intro base stride nr nc vals sat out t0 t h hdv hown
    have hstep := drainStep_named h
    obtain ⟨w, x, e, rfl⟩ := issuing_eq h.next
    exact congrArg _ (hstep.trans ((if_pos hdv).trans (drainVec_runs hown)))
  · intro s f st i fm x a stride sl slr sr rows sat t0 t h hint hdv him hblock hin halign hstride
    have hstep := drainStep_checked h hdv
    obtain ⟨w, x, e, rfl⟩ := issuing_eq h.next
    refine congrArg _ ((hstep him hblock hin halign hstride fun hi => absurd hi (not_true_of_false hint)).trans ((if_pos (by rw [hint]; rfl)).trans ?_))
    refine (drainT0_float hint).trans ?_
    rw [drainRows_float hint]
    rfl
  · intro s f st i fm x a stride sl slr sc sr c r e rows marked tile u t0 t h hint hdv him hin halign hstride hscal hmark hmay hgood hvalid htile
    have hstep := drainStep_checked h hdv
    have hint32 := not_int32_of_isInt hint
    obtain ⟨word, ext, e, rfl⟩ := issuing_eq h.next
    have hcheck := hstep (him.trans hint32.symm) (fun hb => absurd hb (not_true_of_false (not_isBlock_of_isInt hint))) hin halign hstride fun _ => hscal
    refine congrArg _ (hcheck.trans ((if_neg (by rw [hint]; exact not_true_ne_true)).trans ?_))
    exact drainScaled_runs h.next.canon hint rfl rows (drainRows_int hint) hmark hmay hgood hvalid htile
end

section
/-!
PROOFS. DMA descriptors: their issue, their row lists, and their last byte (R104, R110, R136, R176).
-/
namespace Sys2Proof.Machine
open Sys2Proof

/-! ### What moves words leaves the requests -/

theorem interrupt_reqs (s : State) (fn vec : Nat) : (interrupt s fn vec).reqs = s.reqs := by
  unfold interrupt
  dsimp only
  split <;> rfl
theorem postSump_reqs (s : State) (r : SumpRec) : (postSump s r).reqs = s.reqs := by
  have key (v : Sump) : (if 2 ≤ r.cls ∧ v.svEn = true then interrupt { s with sump := v } 0 v.svVec else { s with sump := v }).reqs = s.reqs := by
    split
    · exact interrupt_reqs ..
    · rfl
  unfold postSump
  dsimp only
  split
  · rfl
  · exact key _
theorem countT2_reqs (s : State) (l : Loc) (i : Nat) (d : Option Nat) : (countT2 s l i d).reqs = s.reqs := by
  unfold countT2
  split <;> rfl
theorem noteWord_reqs (s : State) (l : Loc) (i : Nat) : (noteWord s l i).reqs = s.reqs := by
  unfold noteWord putWord
  dsimp only
  split
  · rfl
  · split
    · rw [postSump_reqs, setWord_reqs, countT2_reqs]
    · split
      · rw [postSump_reqs]; dsimp only; rw [postSump_reqs, setWord_reqs, countT2_reqs]
      · dsimp only; rw [postSump_reqs, setWord_reqs, countT2_reqs]
  · split
    · rw [postSump_reqs, setWord_reqs, countT2_reqs]
    · rw [postSump_reqs]; dsimp only; rw [setWord_reqs, countT2_reqs]
theorem foldl_reqs {α : Type} {g : State → α → State} (hg : ∀ t a, (g t a).reqs = t.reqs) (s : State) (l : List α) : (l.foldl g s).reqs = s.reqs := by
  induction l generalizing s with
  | nil => rfl
  | cons a l ih => rw [List.foldl_cons, ih, hg]
theorem t0Note_reqs (s : State) (f : Nat) (spans : List (Nat × Nat)) : (t0Note s f spans).reqs = s.reqs := by
  refine foldl_reqs (fun t p => ?_) s spans
  unfold noteBytes
  split
  · rfl
  · exact foldl_reqs (fun t k => noteWord_reqs ..) t _
theorem noteVa_reqs (s : State) (c va n : Nat) : (noteVa s c va n).reqs = s.reqs := by
  unfold noteVa
  split
  · rfl
  · exact foldl_reqs (fun t k => noteWord_reqs ..) s _
theorem sliceWords_reqs (s : State) (c va : Nat) (ws : List PWord) : (sliceWords s c va ws).1.reqs = s.reqs := by
  have hsame : ∀ (k : Claim) (l : List (PWord × Nat)) (a : State × List PWord), (l.foldl (fun a p =>
      if permuting k (va + 8 * p.2) then let (v, t) := freeValue a.1; (t, a.2 ++ [⟨v, false⟩]) else (a.1, a.2 ++ [p.1])) a).1.reqs = a.1.reqs := by
    intro k l
    induction l with
    | nil => exact fun a => rfl
    | cons p l ih =>
      intro a
      refine (ih _).trans ?_
      dsimp only
      split <;> rfl
  exact hsame ..
theorem slicePut_reqs (s : State) (c va : Nat) (ws : List PWord) : (slicePut s c va ws).reqs = s.reqs := by
  refine (foldl_reqs (fun t p => setWord_reqs ..) _ _).trans ?_
  exact sliceWords_reqs ..
/-- One word that a descriptor of a step writes. -/
def dmaPutWord (d : Dma) (va : Nat) (b : Batch) (v : Serve) (s : State) (p : PWord × Nat) : State :=
  if tubClosed s d.claim b v (va + 8 * p.2) then s else slicePut s d.claim (va + 8 * p.2) [p.1]
theorem dmaPutWord_reqs (d : Dma) (va : Nat) (b : Batch) (v : Serve) (s : State) (p : PWord × Nat) : (dmaPutWord d va b v s p).reqs = s.reqs := by
  unfold dmaPutWord
  split
  · rfl
  · exact slicePut_reqs ..
theorem dmaPut_eq {s : State} {d : Dma} {b : Batch} {v : Serve} (hb : ((findReq s d.req).bind (·.batch)).bind (findBatch s) = some b)
    (hv : (claim s d.claim).serve = some v) (va : Nat) (ws : List PWord) : dmaPut s d va ws = ws.zipIdx.foldl (dmaPutWord d va b v) s := by
  unfold dmaPut
  rw [hb, hv]
  rfl
theorem dmaPut_plain {s : State} {d : Dma} (h : ((findReq s d.req).bind (·.batch)).bind (findBatch s) = none ∨ (claim s d.claim).serve = none)
    (va : Nat) (ws : List PWord) : dmaPut s d va ws = slicePut s d.claim va ws := by
  unfold dmaPut
  rcases h with h | h
  · rw [h]
  · rw [h]
    cases ((findReq s d.req).bind (·.batch)).bind (findBatch s) <;> rfl
theorem dmaPut_reqs (s : State) (d : Dma) (va : Nat) (ws : List PWord) : (dmaPut s d va ws).reqs = s.reqs := by
  cases hb : ((findReq s d.req).bind (·.batch)).bind (findBatch s) with
  | none => rw [dmaPut_plain (.inl hb)]; exact slicePut_reqs ..
  | some b => cases hv : (claim s d.claim).serve with
    | none => rw [dmaPut_plain (.inr hv)]; exact slicePut_reqs ..
    | some v => rw [dmaPut_eq hb hv]; exact foldl_reqs (dmaPutWord_reqs d va b v) s _
theorem claimWords_reqs (s : State) (c va n : Nat) : (claimWords s c va n).1.reqs = s.reqs := (sliceWords_reqs ..).trans (noteVa_reqs ..)
/-- One row of a scatter, and one of a gather. -/
def scatterRow (f : Nat) (d : Dma) (s : State) (p : Nat × Nat) : State :=
  dmaPut s d (d.dst + p.1 * d.len) (t0Words? s f (d.src + p.2 * d.len) d.len)
def gatherRow (f : Nat) (d : Dma) (s : State) (p : Nat × Nat) : State :=
  let r := claimWords s d.claim (d.src + p.1 * d.len) d.len
  t0Put r.1 f d.req ((d.dst + p.2 * d.len) / 8) r.2
theorem gatherRow_reqs (f : Nat) (d : Dma) (s : State) (p : Nat × Nat) : (gatherRow f d s p).reqs = s.reqs := by
  unfold gatherRow t0Put
  dsimp only
  rw [setFace_reqs, claimWords_reqs]
theorem scatterRow_reqs (f : Nat) (d : Dma) (s : State) (p : Nat × Nat) : (scatterRow f d s p).reqs = s.reqs := dmaPut_reqs ..
theorem dmaMove_scatter {d : Dma} (h : d.kind = .scatter) (s : State) (f : Nat) :
    dmaMove s f d = d.index.zipIdx.foldl (scatterRow f d) (t0Note s f [(d.src, d.count * d.len)]) := by
  unfold dmaMove
  rw [h]
  rfl
theorem dmaMove_gather {d : Dma} (h : d.kind = .gather) (s : State) (f : Nat) : dmaMove s f d = d.index.zipIdx.foldl (gatherRow f d) s := by
  unfold dmaMove
  rw [h]
  rfl
/-- Words move without a change to the list of requests. -/
theorem dmaMove_reqs (s : State) (f : Nat) (d : Dma) : (dmaMove s f d).reqs = s.reqs := by
  cases h : d.kind with
  | scatter => rw [dmaMove_scatter h, foldl_reqs (scatterRow_reqs f d), t0Note_reqs]
  | gather => rw [dmaMove_gather h, foldl_reqs (gatherRow_reqs f d)]
  | t0t1 => unfold dmaMove; rw [h]; dsimp only; rw [dmaPut_reqs, t0Note_reqs]
  | t0t0 => unfold dmaMove t0Put; rw [h]; dsimp only; rw [setFace_reqs, t0Note_reqs]
  | t1t0 => unfold dmaMove t0Put; rw [h]; dsimp only; rw [setFace_reqs, claimWords_reqs]

/-! ### The instructions -/

/-- The DMA instructions without a row list, with opcode and kind. -/
def dmaPlain : List ((Fin 128 → IssueStream → Instr) × Nat × DmaKind) := [(.dmaT1T0, 0x301, .t1t0), (.dmaT0T1, 0x302, .t0t1), (.dmaT0T0, 0x303, .t0t0)]
/-- Those with one. -/
def dmaRows : List ((Fin 128 → IssueStream → Instr) × Nat × DmaKind) := [(.dmaGather, 0x304, .gather), (.dmaScatter, 0x305, .scatter)]

theorem exec_dma (f : Fin 128) (st : IssueStream) (s : State) :
    ∀ e ∈ dmaPlain ++ dmaRows, exec (e.1 f st) s = .next (dmaStep s f st e.2.1 e.2.2) := by
  simp only [dmaPlain, dmaRows, List.cons_append, List.nil_append, List.forall_mem_cons]
  exact ⟨rfl, rfl, rfl, rfl, rfl, fun _ h => nomatch h⟩
theorem isRows_plain : ∀ e ∈ dmaPlain, isRows e.2.2 = false := by
  simp only [dmaPlain, List.forall_mem_cons]
  exact ⟨rfl, rfl, rfl, fun _ h => nomatch h⟩
theorem isRows_rows : ∀ e ∈ dmaRows, isRows e.2.2 = true := by
  simp only [dmaRows, List.forall_mem_cons]
  exact ⟨rfl, rfl, fun _ h => nomatch h⟩

section
variable {s : State} {f : Fin 128} {st : IssueStream} {i : Ins} {op : Nat} {kind : DmaKind}

/-- The T0 range of the row list, which a descriptor without one has not. -/
def dmaListT0 (s : State) (i : Ins) (kind : DmaKind) : List (Nat × Nat) :=
  if isRows kind then [((sreg s i.f (fx i 3 0)).toNat, 4 * (dmaOf s i kind).count)] else []
theorem dmaStep_checked (h : Issuing s f st op i) :
    let d := dmaOf s i kind
    let la := (sreg s i.f (fx i 3 0)).toNat
    let t := t0Note s i.f (dmaListT0 s i kind)
    dmaEnc i kind = true → Named s i ([.s (fw i 50 47), .s (fw i 46 43), .s (fw i 42 39)] ++ (if isRows kind then [.s (fx i 3 0)] else [])) →
    (∀ p ∈ dmaT0 d ++ dmaListT0 s i kind, p.1 + p.2 ≤ 8388608) → d.src % 8 = 0 → d.dst % 8 = 0 → d.len % 8 = 0 → 8 ≤ d.len → d.len ≤ 8388608 →
    (isRows kind = true → la % 8 = 0) → (d.signal = true → declares s (if d.remote then d.face else i.f) i.l.req d.sem = true) →
    (kind = .t0t0 → faceClaim s d.face = some i.l.claim) → t0Poison s i.f (dmaListT0 s i kind) = false →
    dmaStep s f st op kind = dmaIssue t i { d with index := if isRows kind then rowList t i.f la d.count else [] } := by
  intro d la t he hn hin hsrc hdst hlen hmin hmax hla hsig hface hpoison
  have hrange : (!(dmaT0 d ++ dmaListT0 s i kind).all (fun p => inT0 p.1 p.2) && decide (d.len ≤ t0Size)) = false := by
    rw [all_inT0 hin]; rfl
  have hal : (d.src % 8 != 0 || d.dst % 8 != 0 || d.len % 8 != 0 || decide (d.len < 8) || decide (t0Size < d.len) || (isRows kind && la % 8 != 0)) = false := by
    rw [bne_zero_false hsrc, bne_zero_false hdst, bne_zero_false hlen, decide_eq_false (Nat.not_lt.2 hmin), show decide (t0Size < d.len) = false from decide_eq_false (Nat.not_lt.2 hmax)]
    cases hr : isRows kind with
    | false => rfl
    | true => rw [bne_zero_false (hla hr)]; rfl
  have howner : (d.signal && !declares s (if d.remote then d.face else i.f) i.l.req d.sem) = false := by
    cases hs : d.signal with
    | false => rfl
    | true => rw [hsig hs]; rfl
  have hforeign : (kind == .t0t0 && faceClaim s d.face != some i.l.claim) = false := by
    by_cases hk : kind = .t0t0
    · rw [bne_false (hface hk), Bool.and_false]
    · rw [beq_eq_false_iff_ne.2 hk]; rfl
  unfold dmaStep
  rw [issue_runs h]
  dsimp only
  rw [he, if_neg not_true_ne_true, withRegs_runs hn]
  exact (if_neg (not_true_of_false hrange)).trans ((if_neg (not_true_of_false hal)).trans ((if_neg (not_true_of_false howner)).trans
    ((if_neg (not_true_of_false hforeign)).trans (if_neg (not_true_of_false hpoison)))))
theorem dmaOf_eq (hi : i.f = f.val) : dmaOf s i kind = { descriptorOf s f i kind with count := if isRows kind then fx i 31 16 else 1 } := by
  simp only [dmaOf, descriptorOf, hi]
  cases findReq s i.l.req <;> rfl
theorem dmaIssue_free {d : Dma} {n : Nat} (hfree : freeSlot s i.f = some n) (hmay : dmaAccess s d = .ok) :
    dmaIssue s i d = done (setDma s i.f n d) i := by
  rw [dmaIssue, hfree]
  dsimp only
  rw [hmay]
theorem dmaIssue_full {d : Dma} (hfree : freeSlot s i.f = none) : dmaIssue s i d = stalled s i .dmaSlot := by
  rw [dmaIssue, hfree]
theorem done_setDma (h : s.canonical = true) (n : Nat) (d : Dma) :
    done (setDma s i.f n d) i = goesOn s i { face s i.f with dma := Tab.set {} (face s i.f).dma n d } := done_setFace h _
theorem dmaEnc_plain (hk : isRows kind = false) (he : encodingOk i [(50, 24)] .no [] = true)
    (hrf : kind = .t0t0 ∨ (fw i 38 32 = 0 ∧ fw i 24 24 = 0)) : dmaEnc i kind = true := by
  have hfields : (kind == .t0t0 || (fw i 38 32 == 0 && fw i 24 24 == 0)) = true := by
    rcases hrf with rfl | ⟨hface, hremote⟩
    · rfl
    · rw [hface, hremote]; exact Bool.or_true _
  unfold dmaEnc
  rw [hk, if_neg Bool.false_ne_true, encodingOk_no he, hfields]
  rfl
theorem dmaEnc_rows (hk : isRows kind = true) (he : encodingOk i [(50, 24)] .need [(31, 16), (3, 0)] = true) (hface : fw i 38 32 = 0) (hrf : fw i 24 24 = 0)
    (hcount : 1 ≤ fx i 31 16) : dmaEnc i kind = true := by
  unfold dmaEnc
  rw [hk, if_pos rfl, he, hface, hrf, decide_eq_true hcount]
  simp
theorem dmaStep_plain (hk : isRows kind = false) (h : Issuing s f st op i) :
    let d := descriptorOf s f i kind
    encodingOk i [(50, 24)] .no [] = true → (kind = .t0t0 ∨ (fw i 38 32 = 0 ∧ fw i 24 24 = 0)) →
    Named s i [.s (fw i 50 47), .s (fw i 46 43), .s (fw i 42 39)] →
    (∀ p ∈ dmaT0 d, p.1 + p.2 ≤ 8388608) → d.src % 8 = 0 → d.dst % 8 = 0 → d.len % 8 = 0 → 8 ≤ d.len → d.len ≤ 8388608 →
    (d.signal = true → declares s (if d.remote then d.face else f) i.l.req d.sem = true) → (kind = .t0t0 → faceClaim s d.face = some i.l.claim) →
    dmaStep s f st op kind = dmaIssue s i d := by
  intro d he hrf hn hin hsrc hdst hlen hmin hmax hsig hface
  have hd : dmaOf s i kind = d := by rw [dmaOf_eq (issuing_ins h).1, hk]; rfl
  have hlist : dmaListT0 s i kind = [] := by rw [dmaListT0, hk]; rfl
  have hrun := dmaStep_checked (kind := kind) h (dmaEnc_plain hk he hrf) (by rw [hk]; exact hn)
  rw [hd, hlist, (issuing_ins h).1] at hrun
  refine (hrun (by rwa [List.append_nil]) hsrc hdst hlen hmin hmax (by rw [hk]; exact nofun) hsig hface rfl).trans ?_
  rw [hk]
  rfl
theorem dmaStep_rows (hk : isRows kind = true) (h : Issuing s f st op i) :
    let la := (sreg s f (fx i 3 0)).toNat
    let t := t0Note s f [(la, 4 * fx i 31 16)]
    let d : Dma := { descriptorOf s f i kind with count := fx i 31 16, index := rowList t f la (fx i 31 16) }
    encodingOk i [(50, 24)] .need [(31, 16), (3, 0)] = true → fw i 38 32 = 0 → fw i 24 24 = 0 → 1 ≤ d.count →
    Named s i [.s (fw i 50 47), .s (fw i 46 43), .s (fw i 42 39), .s (fx i 3 0)] →
    (∀ p ∈ dmaT0 d ++ [(la, 4 * d.count)], p.1 + p.2 ≤ 8388608) →
    d.src % 8 = 0 → d.dst % 8 = 0 → d.len % 8 = 0 → 8 ≤ d.len → d.len ≤ 8388608 → la % 8 = 0 →
    (d.signal = true → declares s f i.l.req d.sem = true) → t0Poison s f [(la, 4 * d.count)] = false →
    dmaStep s f st op kind = dmaIssue t i d := by
  intro la t d he hface hrf hcount hn hin hsrc hdst hlen hmin hmax hla hsig hpoison
  have hfi := (issuing_ins h).1
  have hd : dmaOf s i kind = { descriptorOf s f i kind with count := fx i 31 16 } := by rw [dmaOf_eq hfi, hk]; rfl
  have hlist : dmaListT0 s i kind = [(la, 4 * fx i 31 16)] := by rw [dmaListT0, hk, hd, hfi]; rfl
  have hremote : (descriptorOf s f i kind).remote = false := by
    show (fw i 24 24 == 1) = false
    rw [hrf]; rfl
  have hkind : kind ≠ .t0t0 := by rintro rfl; exact nomatch hk
  have hrun := dmaStep_checked (kind := kind) h (dmaEnc_rows hk he hface hrf hcount) (by rw [hk]; exact hn)
  rw [hd, hlist, hfi] at hrun
  refine (hrun hin hsrc hdst hlen hmin hmax (fun _ => hla) ?_ (fun hc => absurd hc hkind) hpoison).trans ?_
  · dsimp only
    rw [hremote]
    exact hsig
  · rw [hk]
    rfl
theorem dmaDoneStep_runs {n : Nat} :
    let d : Dma := Tab.get {} (face s f).dma n
    running s = true → d.busy = true → s.waits.any (fun w => w.who == .dma f n) = false → dmaAccess s d = .ok →
    touchesMarked (claim s d.claim) (dmaReads d) = false → badLeaves s d.claim (dmaReads d) = [] →
    let t := setDma (dmaMove s f d) f n {}
    dmaDoneStep s f n = if d.signal && (findReq s d.req).isSome then semAdd t (if d.remote then d.face else f) d.sem 1 d.req else t := by
  intro d hrun hbusy hwait hmay hmark hbad t
  have hgo : (!(running s && d.busy) || s.waits.any fun w => w.who == .dma f n) = false := by rw [hrun, hbusy, hwait]; rfl
  unfold dmaDoneStep
  refine (if_neg (not_true_of_false hgo)).trans ?_
  rw [show dmaAccess s (Tab.get {} (face s f).dma n) = .ok from hmay]
  refine (if_neg (not_true_of_false hmark)).trans ?_
  rw [show badLeaves s (Tab.get {} (face s f).dma n : Dma).claim (dmaReads (Tab.get {} (face s f).dma n)) = [] from hbad]
  have hreq : findReq t d.req = findReq s d.req := congrArg (List.find? _) (dmaMove_reqs s f d)
  rw [← hreq]
end

end Sys2Proof.Machine

open Sys2Proof Sys2Proof.Machine

/-- Settles O12: the checks of R136 come before the descriptor takes its slot; the row list is read between the two. -/
theorem dmaTransfers : Obligations.DmaTransfers := by
  refine ⟨fun s f st i e he => ?_, fun s f st i n e he => ?_, fun s f slot => ?_⟩
  · have hexec := exec_dma f st s e (List.mem_append_left _ he)
    intro d h henc hrf hn hin hsrc hdst hlen hmin hmax hsig hface
    have hissue := hexec.trans (congrArg _ (dmaStep_plain (isRows_plain e he) h henc hrf hn hin hsrc hdst hlen hmin hmax hsig hface))
    have hfi := (issuing_ins h).1
    refine ⟨fun n hfree hmay => ?_, fun hfree => ?_⟩
    · rw [← hfi] at hfree ⊢
      exact hissue.trans (congrArg _ ((dmaIssue_free hfree hmay).trans (done_setDma h.canon n d)))
    · rw [← hfi] at hfree
      exact hissue.trans (congrArg _ (dmaIssue_full hfree))
  · have hexec := exec_dma f st s e (List.mem_append_right _ he)
    intro d0 la d t h henc hface hrf hcount hn hin hsrc hdst hlen hmin hmax hla hsig hpoison hfree hmay
    have hissue := hexec.trans (congrArg _ (dmaStep_rows (isRows_rows e he) h henc hface hrf hcount hn hin hsrc hdst hlen hmin hmax hla hsig hpoison))
    have hfi := (issuing_ins h).1
    refine hissue.trans (congrArg _ ?_)
    rw [← hfi] at hfree
    refine (dmaIssue_free hfree hmay).trans ?_
    rw [hfi]
  · exact fun hrun hbusy hwait hmay hmark hbad => congrArg _ (dmaDoneStep_runs hrun hbusy hwait hmay hmark hbad)
end

section
/-!
PROOFS. Semaphores, flags and posts (R104 to R106, R112, R113, R137 to R140).
-/
namespace Sys2Proof.Machine
open Sys2Proof

theorem firstOn_iff {s : State} {f : Nat} {st : IssueStream} {n : Nat} :
    firstOn s f st n = true ↔ ∀ e ∈ earlierStreams st, ∀ c, waitReady s f e ≠ some (n, c) := by
  have hone : ∀ e, (match waitReady s f e with | some (m, _) => m != n | none => true) = true ↔ ∀ c, waitReady s f e ≠ some (n, c) := by
    intro e
    cases hw : waitReady s f e with
    | none => simp
    | some p =>
      obtain ⟨m, c⟩ := p
      simp only [bne_iff_ne, ne_eq, Option.some.injEq, Prod.mk.injEq, not_and]
      exact ⟨fun hm c' h => absurd h hm, fun h hm => h c hm rfl⟩
  rw [firstOn, List.all_eq_true]
  exact forall₂_congr fun e _ => hone e
theorem semAdd_eq (s : State) (f sem n req : Nat) :
    semAdd s f sem n req = if semGet s f sem + n ≤ 65535 then semPut s f sem (semGet s f sem + n) else failRequest s req stSemOverflow := by
  unfold semAdd
  by_cases h : semGet s f sem + n ≤ 65535
  · rw [if_pos h, if_neg (Nat.not_lt.2 h)]
  · rw [if_neg h, if_pos (Nat.lt_of_not_le h)]

section
variable {s : State} {f : Fin 128} {st : IssueStream} {i : Ins}

theorem semOp_runs {op : Nat} {body : State → Ins → State} (h : Issuing s f st op i) (he : encodingOk i [(50, 45), (15, 0)] .no [] = true)
    (hn : fw i 15 0 ≠ 0) (hd : declares s i.f i.l.req (fw i 50 45) = true) : semOp s f st op body = body s i := by
  have hbad : (!encodingOk i [fSEM, fN] .no [] || fw i 15 0 == 0) = false := by
    rw [show encodingOk i [fSEM, fN] .no [] = true from he, beq_eq_false_iff_ne.2 hn]
    rfl
  unfold semOp
  rw [issue_runs h]
  rw [if_neg (not_true_of_false hbad), hd, if_neg not_true_ne_true]
theorem done_semPut (h : s.canonical = true) (n v : Nat) :
    done (semPut s i.f n v) i = goesOn s i { face s i.f with sem := Tab.set 0 (face s i.f).sem n v } := done_setFace h _

variable (he : encodingOk i [(50, 45), (15, 0)] .no [] = true) (hn : fw i 15 0 ≠ 0) (hd : declares s i.f i.l.req (fw i 50 45) = true)
include he hn hd

theorem semWaitStep_goes (h : Issuing s f st 0x401 i) (hc : fw i 15 0 ≤ semGet s i.f (fw i 50 45)) (hfirst : firstOn s i.f i.st (fw i 50 45) = true) :
    semWaitStep s f st = goesOn s i { face s i.f with sem := Tab.set 0 (face s i.f).sem (fw i 50 45) (semGet s i.f (fw i 50 45) - fw i 15 0) } := by
  refine (semOp_runs h he hn hd).trans ((if_pos ?_).trans (done_semPut h.canon _ _))
  rw [hfirst, decide_eq_true hc]
  rfl
theorem semWaitStep_stalls (h : Issuing s f st 0x401 i) (hc : semGet s i.f (fw i 50 45) < fw i 15 0 ∨ firstOn s i.f i.st (fw i 50 45) ≠ true) :
    semWaitStep s f st = stalled s i (.sem (fw i 50 45) (fw i 15 0)) := by
  refine (semOp_runs h he hn hd).trans (if_neg ?_)
  rw [Bool.and_eq_true, decide_eq_true_eq]
  exact fun hgo => hc.elim (Nat.not_lt.2 hgo.1) (· hgo.2)
theorem semSignalStep_runs (h : Issuing s f st 0x402 i) :
    semSignalStep s f st = if i.l.signals.length < 4
      then goesOn s i (setLane (face s i.f) i.st { lane (face s i.f) i.st with signals := (lane (face s i.f) i.st).signals ++ [(fw i 50 45, fw i 15 0)] })
      else stalled s i .fence := by
  refine (semOp_runs h he hn hd).trans ?_
  by_cases hlen : i.l.signals.length < 4
  · exact (if_neg (Nat.not_le.2 hlen)).trans ((done_modLane h.canon _).trans (if_pos hlen).symm)
  · exact (if_pos (Nat.le_of_not_lt hlen)).trans (if_neg hlen).symm
end

section
variable {s : State} {f : Fin 128} {st : IssueStream}

theorem semReleaseStep_runs {m c : Nat} (hrun : running s = true) (hbusy : (lane (face s f) st).busy = true) (hlive : (lane (face s f) st).live = true)
    (hstall : (lane (face s f) st).stall = .sem m c) (hc : c ≤ semGet s f m) (hfirst : firstOn s f st m = true) :
    semReleaseStep s f st = modLane (semPut s f m (semGet s f m - c)) f st fun l => { l with pc := l.pc + 1, stall := .run } := by
  have hready : waitReady s f st = some (m, c) := by
    simp only [waitReady, hstall, hbusy, hlive, hc, decide_true, Bool.and_self, if_true]
  unfold semReleaseStep
  rw [hready]
  dsimp only
  rw [hrun, hfirst]
  rfl
theorem semApplyStep_runs {m k : Nat} {rest : List (Nat × Nat)} (hrun : running s = true) (hsig : (lane (face s f) st).signals = (m, k) :: rest) :
    semApplyStep s f st = semAdd (modLane s f st fun l => { l with signals := rest }) f m k (lane (face s f) st).req := by
  unfold semApplyStep
  dsimp only
  rw [hsig]
  dsimp only
  rw [hrun, if_neg not_true_ne_true]
theorem postAnswerStep_runs {p : Post} {e : W64 × W64} {es : List (W64 × W64)} (hrun : running s = true) (hpost : (face s f).post = some p)
    (hnone : p.answer = none) (htab : Tab.get [] (claim s p.claim).branch p.table = e :: es) :
    postAnswerStep s f = setFace s f { face s f with post := some { p with answer := some (branchTarget (e :: es) p.summary) } } := by
  unfold postAnswerStep
  rw [hpost]
  dsimp only
  rw [hrun, hnone, if_neg (by decide), htab]
end

section
variable {s : State} {f : Fin 128} {st : IssueStream} {i : Ins}

theorem flagClrStep_runs (h : Issuing s f st 0x404 i) (he : encodingOk i [(7, 0)] .no [] = true) :
    flagClrStep s f st = goesOn s i (setLane (face s i.f) i.st { lane (face s i.f) i.st with
      flags := clearFlags (lane (face s i.f) i.st).flags (fw i 7 0) }) := by
  unfold flagClrStep
  rw [issue_runs h]
  dsimp only
  rw [he, if_neg not_true_ne_true, done_modLane h.canon]
theorem postStep_runs (h : Issuing s f st 0x501 i) (he : encodingOk i [(50, 46), (45, 43), (42, 40), (39, 32)] .no [] = true) (hred : fw i 45 43 ≠ 7)
    (hn : Named s i (.v (fw i 50 46) :: (if fw i 45 43 = 3 then [.m (fw i 42 40)] else []))) (hpost : (face s i.f).post = none) :
    postStep s f st = goesOn s i { face s i.f with
      post := some { stream := i.st, req := i.l.req, claim := i.l.claim, summary := summary s i, table := fw i 39 32, answer := none } } := by
  unfold postStep
  rw [issue_runs h]
  dsimp only
  rw [he, beq_eq_false_iff_ne.2 hred, if_neg (by decide), withRegs_runs hn, hpost]
  exact done_setFace h.canon _
theorem awaitStep_answered {p : Post} {n : Nat} (h : Issuing s f st 0x502 i) (he : encodingOk i [] .no [] = true) (hpost : (face s i.f).post = some p)
    (hst : p.stream = i.st) (hans : p.answer = some n) (hn : n ∈ starts i.l.code) :
    awaitStep s f st = goesTo s i { face s i.f with post := none } n := by
  unfold awaitStep
  rw [issue_runs h]
  dsimp only
  rw [he, if_neg not_true_ne_true, hpost]
  dsimp only
  rw [if_neg (not_not_intro hst), hans]
  dsimp only
  rw [jump_to rfl hn, goesTo_setFace h.canon]
theorem awaitStep_waits {p : Post} (h : Issuing s f st 0x502 i) (he : encodingOk i [] .no [] = true) (hpost : (face s i.f).post = some p)
    (hst : p.stream = i.st) (hans : p.answer = none) : awaitStep s f st = stalled s i .await := by
  unfold awaitStep
  rw [issue_runs h]
  dsimp only
  rw [he, if_neg not_true_ne_true, hpost]
  dsimp only
  rw [if_neg (not_not_intro hst), hans]
end

end Sys2Proof.Machine

open Sys2Proof Sys2Proof.Machine

/-- Settles O13: each instruction past its checks is its effect; a wait goes first on its counter where no earlier stream's satisfied wait is. -/
theorem semaphoresFlagsAndPosts : Obligations.SemaphoresFlagsAndPosts := by
  refine ⟨fun s f st i => ⟨fun h he hn hd => ?_, fun h he hn hd => ?_, ?_, ?_⟩, fun s f st i => ⟨fun h he => ?_, fun h he hred hn hpost => ?_, ?_, ?_⟩⟩
  · obtain ⟨w, x, e, rfl⟩ := issuing_eq h
    refine ⟨fun hc hfirst => congrArg _ (semWaitStep_goes he hn hd h hc (firstOn_iff.2 hfirst)), fun hc => congrArg _ (semWaitStep_stalls he hn hd h ?_)⟩
    refine hc.imp_right ?_
    rintro ⟨e, hmem, c, hw⟩ hfirst
    exact firstOn_iff.1 hfirst e hmem c hw
  · obtain ⟨w, x, e, rfl⟩ := issuing_eq h
    exact congrArg _ (semSignalStep_runs he hn hd h)
  · intro m c _ hrun hbusy hlive hstall hc hfirst
    exact congrArg _ (semReleaseStep_runs hrun hbusy hlive hstall hc (firstOn_iff.2 hfirst))
  · intro m k rest hrun hsig t
    exact congrArg _ ((semApplyStep_runs hrun hsig).trans (semAdd_eq ..))
  · obtain ⟨w, x, e, rfl⟩ := issuing_eq h
    exact congrArg _ (flagClrStep_runs h he)
  · obtain ⟨w, x, e, rfl⟩ := issuing_eq h
    exact congrArg _ (postStep_runs h he hred hn hpost)
  · intro p e es hrun hpost hnone htab
    exact congrArg _ (postAnswerStep_runs hrun hpost hnone htab)
  · intro p h he hpost hst
    obtain ⟨w, x, e, rfl⟩ := issuing_eq h
    exact ⟨fun n hans hn => congrArg _ (awaitStep_answered h he hpost hst hans hn), fun hans => congrArg _ (awaitStep_waits h he hpost hst hans)⟩
end

section
/-!
PROOFS. The ends of slices and requests (R107, R116, R118, R121, R135, R138, R365).
-/
namespace Sys2Proof.Machine
open Sys2Proof

section
variable {s : State} {f : Fin 128} {st : IssueStream} {i : Ins}

theorem sEndStep_runs (h : Issuing s f st 0x21F i) (he : encodingOk i [] .no [] = true) (hsig : i.l.signals = []) :
    sEndStep s f st = modLane s i.f i.st fun l => sliceEnd l (i.l.pc + 1) l.entry true := by
  refine (scalOp_runs h he (named_nil s i)).trans (if_neg ?_)
  rw [hsig]
  decide
theorem tickFenceStep_runs (h : Issuing s f st 0x403 i) (he : encodingOk i [(11, 0)] .no [] = true) (hbound : fw i 11 0 < i.l.bounds.length)
    (hsig : i.l.signals = []) : tickFenceStep s f st = modLane s i.f i.st fun l => sliceEnd l (i.l.pc + 1) (fw i 11 0) false := by
  unfold tickFenceStep
  rw [issue_runs h, he, decide_eq_false (Nat.not_le.2 hbound), if_neg (by decide), hsig, if_neg (by decide)]
/-- A reserved opcode passes the fetch as any other does. -/
theorem issueIf_runs {op : Nat} {is : Nat → Bool} {body : State → Ins → State} (h : Issuing s f st op i) (hop : is op = true) :
    issueIf s f st is body = body s i := by
  have hsame := issue_runs (body := body) h
  rw [issue] at hsame
  rw [← hsame]
  unfold issueIf
  rw [h.word]
  simp only [h.opcode, hop, beq_self_eq_true]
theorem overrunStep_runs (hrun : running s = true) (hbusy : (lane (face s f) st).busy = true) (hlive : (lane (face s f) st).live = true) :
    overrunStep s f st = failRequest s (lane (face s f) st).req stSliceOverrun := by
  unfold overrunStep
  dsimp only
  rw [hrun, hbusy, hlive]
  rfl
theorem sliceCompleteStep_runs {q : Req} (hrun : running s = true) (hreport : (lane (face s f) st).report = true) :
    let l := lane (face s f) st
    let t := modLane (flushCounts s f st) f st fun l => { l with report := false }
    let a := freeValue t
    let b := freeValue a.2
    let rec4 := progRecord (if l.ended then q.failed else 0) l.flags.toNat l.ended f l.slices l.progTag a.1 b.1
    findReq t l.req = some q →
    sliceCompleteStep s f st = sliceRecord (modReq (faceTime b.2 q (b.2.time - l.start)) q.id fun q =>
      { q with progs := q.progs.zipIdx.map fun p => if p.2 = l.prog then { p.1 with ended := p.1.ended || l.ended, record := rec4 } else p.1 }) q l.prog rec4 := by
  intro l t a b rec4 hq
  have hgo : (!(running s && (lane (face s f) st).report)) = false := by rw [hrun, hreport]; rfl
  unfold sliceCompleteStep
  refine (if_neg (not_true_of_false hgo)).trans ?_
  dsimp only
  rw [show findReq (modLane (flushCounts s f st) f st fun l => { l with report := false }) (lane (face s f) st).req = some q from hq]
theorem requestEndStep_runs {id : Nat} {q : Req} (hq : findReq s id = some q) (hrun : running s = true)
    (hend : q.failed ≠ 0 ∨ (q.started = true ∧ q.progs.all (·.ended) = true)) (hreport : reportsOf s q = false) (hwait : recordWaits s q = false)
    (hbatch : q.batch = none) (harea : areaAbsent s q = []) : requestEndStep s id = closeRequest s q := by
  have hfin : (q.failed != 0 || (q.started && q.progs.all (·.ended))) = true := by
    rcases hend with hfail | ⟨hstart, hprogs⟩
    · rw [bne_iff_ne.2 hfail]; rfl
    · rw [hstart, hprogs]; exact Bool.or_true _
  unfold requestEndStep
  rw [hq]
  dsimp only
  rw [hrun, hfin, hreport, hwait, if_neg (by decide), hbatch]
  dsimp only
  rw [harea]

/-! ### A request that fails (R118) -/

theorem failRequest_again {id status : Nat} {q : Req} (hq : findReq s id = some q) (hfail : q.failed ≠ 0) : failRequest s id status = s := by
  unfold failRequest
  rw [hq]
  exact if_pos hfail
/-- What the first failure makes of the request. -/
def failedReq (status : Nat) (q : Req) : Req := { q with failed := status, progs := q.progs.map fun p => { p with ended := true } }
theorem findReq_id {t : State} {id : Nat} {q : Req} (hq : findReq t id = some q) : q.id = id := by
  rw [findReq] at hq
  exact beq_iff_eq.1 (List.find?_some (p := fun q : Req => q.id == id) hq)
theorem findReq_modReq {t : State} {id : Nat} {q : Req} {g : Req → Req} (hg : ∀ q, (g q).id = q.id) (hq : findReq t id = some q) :
    findReq (modReq t id g) id = some (g q) := by
  have hsame : (fun q : Req => q.id == id) ∘ (fun q => if q.id = id then g q else q) = fun q => q.id == id := by
    funext r
    dsimp only [Function.comp]
    split
    · rw [hg]
    · rfl
  rw [findReq] at hq
  rw [findReq, modReq]
  dsimp only
  rw [List.find?_map, hsame, hq, Option.map_some, if_pos (findReq_id (t := t) hq)]
/-- One word of T0 whose contents become undefined. -/
def freeT0Word (f : Nat) (s : State) (e : Nat × Nat) : State :=
  let s1 := setWord (freeValue s).2 (.t0 f) e.1 (encode80 (freeValue s).1 false)
  setFace s1 f { face s1 f with t0By := Tab.set 0 (face s1 f).t0By e.1 0 }
theorem freeT0Word_reqs (f : Nat) (s : State) (e : Nat × Nat) : (freeT0Word f s e).reqs = s.reqs := by
  unfold freeT0Word
  dsimp only
  rw [setFace_reqs, setWord_reqs]
  rfl
theorem freeT0_eq (s : State) (f id : Nat) : freeT0 s f id = ((face s f).t0By.filter fun e => e.2 == id).foldl (freeT0Word f) s := rfl
theorem freeT0_reqs (s : State) (f id : Nat) : (freeT0 s f id).reqs = s.reqs := by
  rw [freeT0_eq, foldl_reqs (freeT0Word_reqs f)]
/-- The first failure changes no request but its own. -/
theorem findReq_failRequest {id status : Nat} {q : Req} (hq : findReq s id = some q) (h0 : q.failed = 0) :
    findReq (failRequest s id status) id = some (failedReq status q) := by
  unfold failRequest
  rw [hq]
  refine (congrArg (findReq · id) (if_neg (not_not_intro h0))).trans (findReq_modReq (fun _ => rfl) ?_)
  have hreqs : ∀ (u : State) (l m : List Nat),
      (m.foldl (fun s f => freeT0 s f id) (l.foldl (fun s f => setFace s f (faceDrop (face s f) id)) u)).reqs = u.reqs := fun u l m =>
    (foldl_reqs (fun t f => freeT0_reqs t f id) _ m).trans (foldl_reqs (fun t f => setFace_reqs t f (faceDrop (face t f) id)) u l)
  rw [findReq] at hq ⊢
  rw [hreqs]
  exact hq
end

end Sys2Proof.Machine

open Sys2Proof Sys2Proof.Machine

/-- Settles O15: each end past its guards is its effect; of a failed request its list entry alone is changed, and it keeps its length. -/
theorem sliceEnds : Obligations.SliceEnds := by
  refine ⟨fun s f st i hsig => ⟨fun h he => ?_, fun h he hbound => ?_⟩, fun s f st => ⟨fun hrun hbusy hlive => ?_, ?_, ?_⟩,
    fun s id status q hq => ⟨failRequest_again hq, fun h0 => ?_⟩, fun s f st i op hop h => ?_⟩
  · obtain ⟨w, x, e, rfl⟩ := issuing_eq h
    exact congrArg _ (sEndStep_runs h he hsig)
  · obtain ⟨w, x, e, rfl⟩ := issuing_eq h
    exact congrArg _ (tickFenceStep_runs h he hbound hsig)
  · exact congrArg _ (overrunStep_runs hrun hbusy hlive)
  · intro q hrun hreport t a b rec4 hq
    exact congrArg (fun t => Host.Outcome.next (settleFoul t)) (sliceCompleteStep_runs hrun hreport hq)
  · intro id q hq hrun hend hreport hwait hbatch harea
    exact congrArg _ (requestEndStep_runs hq hrun hend hreport hwait hbatch harea)
  · refine ⟨failedReq status q, findReq_failRequest hq h0, rfl, (findReq_id hq : q.id = id), rfl, ?_, ?_⟩
    · exact List.length_map ..
    · simp [failedReq]
  · exact congrArg _ (issueIf_runs h (by rw [hop]; rfl))
end

section
/-!
PROOFS. The update sweep of the learning shift (R180, R186 to R193, R506).
-/
namespace Sys2Proof.Machine
open Sys2Proof

section
variable {s : State} {c : Fin 8} {w : Sweep}

theorem sweepStartStep_runs (hrun : running s = true) (hw : (claim s c).sweep = some w) (hdue : w.due = true) (hstart : w.started = false) :
    sweepStartStep s c = readHyper (setSweep (canaryBegin s c) c fun w => { w with started := true }) c := by
  unfold sweepStartStep
  rw [hw]
  dsimp only
  rw [hdue, hstart, hrun]
  rfl
/-- Of an undone block that comes first in its quarter, what its status and its pages make of it. -/
theorem blockStep_turn {i : Nat} (hrun : running s = true) (hi : i < w.descs.length) (hstart : w.started = true)
    (hread : allRead w = true) (hdone : w.done.contains i = false)
    (hfirst : ∀ j < i, w.done.contains j = false → homeOf s c w j ≠ homeOf s c w i) :
    (!(running s && w.started && allRead w && decide (i < w.descs.length)) || w.done.contains i ||
      (List.range i).any fun j => !w.done.contains j && homeOf s c w j == homeOf s c w i) = false := by
  have hearlier : ((List.range i).any fun j => !w.done.contains j && homeOf s c w j == homeOf s c w i) = false := by
    refine List.any_eq_false.2 fun j hj => ?_
    rw [Bool.and_eq_true, Bool.not_eq_true', beq_iff_eq]
    exact fun h => hfirst j (List.mem_range.1 hj) h.1 h.2
  rw [hrun, hstart, hread, decide_eq_true hi, hdone, hearlier]
  rfl
theorem blockStep_updates {i q : Nat} (hrun : running s = true) (hw : (claim s c).sweep = some w) (hi : i < w.descs.length) (hstart : w.started = true)
    (hread : allRead w = true) (hdone : w.done.contains i = false)
    (hfirst : ∀ j < i, w.done.contains j = false → homeOf s c w j ≠ homeOf s c w i)
    (hhome : homeOf s c w i = some q) (hgood : blkStatus s c w i = 0) (habsent : blkAbsent s c (blkOf w i) (blkRule w i) = [])
    (hown : ∀ p ∈ blkSpans (claim s c).extended (blkOf w i) (blkRule w i), access (claim s c) (.request none) p.1 p.2 ≠ .bad stOwnerFault) :
    blockStep s c i = updateBlock s c i (blkOf w i) ((hyperRec w (blkOf w i).group).elim [] (·.words)) := by
  have hclear : (((blkSpans (claim s c).extended (blkOf w i) (blkRule w i)).map fun p => access (claim s c) (.request none) p.1 p.2).contains
      (.bad stOwnerFault)) = false := by
    rw [Bool.eq_false_iff, ne_eq, List.contains_iff_mem, List.mem_map]
    rintro ⟨p, hp, hbad⟩
    exact hown p hp hbad
  unfold blockStep
  rw [hw]
  refine (if_neg (not_true_of_false (blockStep_turn hrun hi hstart hread hdone hfirst))).trans ?_
  rw [hgood, hhome]
  dsimp only
  rw [habsent]
  exact if_neg (not_true_of_false hclear)
theorem blockStep_fails {i : Nat} (hrun : running s = true) (hw : (claim s c).sweep = some w) (hi : i < w.descs.length) (hstart : w.started = true)
    (hread : allRead w = true) (hdone : w.done.contains i = false)
    (hfirst : ∀ j < i, w.done.contains j = false → homeOf s c w j ≠ homeOf s c w i) (hbad : blkStatus s c w i ≠ 0) :
    blockStep s c i = endBlock s c i (blkStatus s c w i) 0 := by
  unfold blockStep
  rw [hw]
  refine (if_neg (not_true_of_false (blockStep_turn hrun hi hstart hread hdone hfirst))).trans ?_
  dsimp only
  generalize blkStatus s c w i = n at hbad
  cases n with
  | zero => exact absurd rfl hbad
  | succ n => rfl
theorem sweepEndStep_runs (hrun : running s = true) (hw : (claim s c).sweep = some w) (hstart : w.started = true) (hread : allRead w = true)
    (hdone : w.descs.length ≤ w.done.length) (hwait : entryWaits s c w = false) (habsent : scaleAbsent c (claim s c) w = []) :
    sweepEndStep s c = sweepFinish s c w := by
  unfold sweepEndStep
  rw [hw]
  dsimp only
  rw [hrun, hstart, hread, decide_eq_false (Nat.not_lt.2 hdone), hwait, if_neg (by decide), habsent]
end

/-! ### The end of a sweep as the claim sees it (R180, R193) -/

theorem postQueue_claims (s : State) (q : Nat) (entry : List Byte) : (postQueue s q entry).claims = s.claims := by
  unfold postQueue
  dsimp only
  split
  · rfl
  · split
    · rw [hostWrite_claims, setOutq_claims]
    · split
      · exact logHost_claims ..
      · rw [interruptIf_claims, hostWrite_claims, hostWrite_claims, setOutq_claims]
theorem interruptIf_faces (s : State) (now : Bool) (fn vec : Nat) : (if now = true then interrupt s fn vec else s).faces = s.faces := by
  split
  · exact interrupt_faces ..
  · rfl
theorem postQueue_faces (s : State) (q : Nat) (entry : List Byte) : (postQueue s q entry).faces = s.faces := by
  unfold postQueue
  dsimp only
  split
  · rfl
  · split
    · rw [hostWrite_faces, setOutq_faces]
    · split
      · exact postSump_faces ..
      · rw [interruptIf_faces, hostWrite_faces, hostWrite_faces, setOutq_faces]
theorem layerEnd_draws (w : Sweep) (l : List Nat) (a : Claim × List (Nat × Nat)) :
    (l.foldl (layerEnd w) a).1.seed = a.1.seed ∧ (l.foldl (layerEnd w) a).1.step = a.1.step := by
  induction l generalizing a with
  | nil => exact ⟨rfl, rfl⟩
  | cons n l ih =>
    have hone : (layerEnd w a n).1.seed = a.1.seed ∧ (layerEnd w a n).1.step = a.1.step := by
      unfold layerEnd
      dsimp only
      split <;> exact ⟨rfl, rfl⟩
    exact ⟨(ih _).1.trans hone.1, (ih _).2.trans hone.2⟩

section
variable {s0 s : State} (h0 : s0.canonical = true)

theorem drawsKept_postQueue (h : DrawsKept s0 s) {q : Nat} {entry : List Byte} : DrawsKept s0 (postQueue s q entry) :=
  h.of_same (postQueue_kept h.kept) (postQueue_faces ..) (postQueue_claims ..)
theorem drawsKept_postEvent (h : DrawsKept s0 s) {c : Option Nat} {code : Nat} {args : List Nat} : DrawsKept s0 (postEvent s c code args) :=
  drawsKept_postQueue h
theorem drawsKept_blocked (h : DrawsKept s0 s) {c n : Nat} : DrawsKept s0 (blocked s c n) := by
  have hfoul : ∀ fl, DrawsKept s0 { s with foul := fl } := fun fl => h.of_same ⟨h.kept.queue, h.kept.canon⟩ rfl rfl
  unfold blocked
  split
  · exact drawsKept_postSump (hfoul _)
  · exact h

include h0

theorem drawsKept_vaPut (h : DrawsKept s0 s) {c va : Nat} {ws : List PWord} : DrawsKept s0 (vaPut s c va ws) :=
  drawsKept_foldl (fun _ ht _ => drawsKept_setWord h0 ht) (drawsKept_dirtyRange h0 h) _
theorem drawsKept_advanceScales (h : DrawsKept s0 s) {c : Nat} : DrawsKept s0 (advanceScales s c) := by
  refine drawsKept_setClaim h0 (drawsKept_foldl (fun t ht e => ?_) h _) rfl rfl
  split
  · dsimp only
    split
    · exact drawsKept_noteVa h0 ht
    · exact drawsKept_vaPut h0 (drawsKept_noteVa h0 ht)
  · exact drawsKept_blocked ht
  · exact ht
end

section
variable {s : State} {c : Nat} {w : Sweep}

/-- The state in which a sweep's layers, records and scale tables are done. -/
def sweepDone (s : State) (c : Nat) (w : Sweep) : State :=
  let k := claim s c
  let codes := (List.range 256).map (layerCode k w)
  let rec1 := leBytes 8 k.step ++ leBytes 8 s.time ++ List.replicate 48 0 ++ codes.flatMap (leBytes 2)
  let r := (List.range 256).foldl (layerEnd w) (k, [])
  let s := postQueue (setClaim s c r.1) (queueId 3 c) rec1
  advanceScales (r.2.foldl (fun s a => postEvent s (some c) 0x0002 [a.1 + at' a.2 8, k.step]) s) c
theorem sweepFinish_eq (s : State) (c : Nat) (w : Sweep) : sweepFinish s c w =
    let k := claim (sweepDone s c w) c
    reply (setClaim (sweepDone s c w) c { k with step := (k.step + 1) % 2 ^ 64, lastStep := k.step, canGen := k.canGen + 2, canCtl := k.canary, sweep := none })
      w.ring w.seq w.dropped w.updated w.failed := rfl
theorem drawsKept_sweepDone (h0 : s.canonical = true) : DrawsKept s (sweepDone s c w) := by
  have hlayers := layerEnd_draws w (List.range 256) (claim s c, [])
  exact drawsKept_advanceScales h0 (drawsKept_foldl (fun _ ht _ => drawsKept_postEvent ht)
    (drawsKept_postQueue (drawsKept_setClaim h0 (.refl s) hlayers.1 hlayers.2)) _)
theorem claim_sweepFinish (h0 : s.canonical = true) :
    claim (sweepFinish s c w) c = { claim (sweepDone s c w) c with
      step := ((claim s c).step + 1) % 2 ^ 64, lastStep := (claim s c).step, canGen := (claim (sweepDone s c w) c).canGen + 2
      canCtl := (claim (sweepDone s c w) c).canary, sweep := none } := by
  have hd := drawsKept_sweepDone (c := c) (w := w) h0
  rw [sweepFinish_eq]
  dsimp only
  rw [claim, reply_claims, ← claim, claim_setClaim (claims_wf hd.kept h0), if_pos rfl, hd.step]
end

end Sys2Proof.Machine

open Sys2Proof Sys2Proof.Machine

/-- Settles O18: each action past its guards is its effect; between the start and the end of its last action a sweep leaves the step. -/
theorem sweeps : Obligations.Sweeps := by
  refine ⟨fun s c w hrun hw => ⟨fun hdue hstart => ?_, fun i hi hstart hread hdone hfirst => ⟨fun q hhome hgood habsent hown => ?_, fun hbad => ?_⟩,
    fun hstart hread hdone hwait habsent => ?_⟩, fun s c w h0 _ => ?_⟩
  · exact congrArg _ (sweepStartStep_runs hrun hw hdue hstart)
  · exact congrArg _ (blockStep_updates hrun hw hi hstart hread hdone hfirst hhome hgood habsent hown)
  · exact congrArg _ (blockStep_fails hrun hw hi hstart hread hdone hfirst hbad)
  · exact congrArg (fun t => Host.Outcome.next (settleFoul t)) (sweepEndStep_runs hrun hw hstart hread hdone hwait habsent)
  · rw [claim_sweepFinish h0]
    exact ⟨rfl, rfl, rfl⟩
end

section
/-!
PROOFS. Flits as a shaft receives them: their codewords, CRC and order, the hop-scoped flits, and the end-to-end flits (R267 to R284).
-/
namespace Sys2Proof.Machine
open Sys2Proof

/-! ### The checks on a flit (R267, R270, R271) -/

section
variable {s t : State} {n : Fin 52} {hdr : W64} {wrong : List Nat}

theorem rxCheck_good (hfec : (fecTake (shaft s n) wrong).2 = true) : rxCheck s n true wrong = (setShaft s n (fecTake (shaft s n) wrong).1, true) := by
  unfold rxCheck
  dsimp only
  rw [hfec]
  rfl
/-- What a flit leaves that is discarded for its codeword or its CRC. -/
def flitBad (s : State) (n : Nat) (wrong : List Nat) : State :=
  let t := setShaft s n (fecTake (shaft s n) wrong).1
  modShaft (if (fecTake (shaft s n) wrong).2 then bumpShaft t n ctCrc else t) n fun x => { x with nak := true, gap := true }
theorem rxCheck_bad {crcOk : Bool} (h : (fecTake (shaft s n) wrong).2 = false ∨ crcOk = false) : rxCheck s n crcOk wrong = (flitBad s n wrong, false) := by
  have hbad : ((fecTake (shaft s n) wrong).2 && crcOk) = false := by
    rcases h with h | h <;> rw [h]
    · rfl
    · exact Bool.and_false _
  unfold rxCheck
  exact if_neg (not_true_of_false hbad)
theorem rxSeq_bad {crcOk : Bool} (h : (fecTake (shaft s n) wrong).2 = false ∨ crcOk = false) : rxSeq s n hdr crcOk wrong = (flitBad s n wrong, false) := by
  unfold rxSeq
  rw [rxCheck_bad h]
  rfl
/-- What a good flit leaves that comes out of order: nothing of itself but its ACK, and a replay asked for unless it is a repeat. -/
def flitOutOfOrder (s : State) (n : Nat) (hdr : W64) (wrong : List Nat) : State :=
  let t := takeAck (setShaft s n (fecTake (shaft s n) wrong).1) n hdr
  if ((shaft t n).good + 1024 - fld hdr 19 10) % 1024 < 512 ∨ (shaft t n).gap = true then t
  else setShaft t n { shaft t n with nak := true, gap := true }
theorem rxSeq_outOfOrder (hfec : (fecTake (shaft s n) wrong).2 = true)
    (hseq : fld hdr 19 10 ≠ ((shaft (takeAck (setShaft s n (fecTake (shaft s n) wrong).1) n hdr) n).good + 1) % 1024) :
    rxSeq s n hdr true wrong = (flitOutOfOrder s n hdr wrong, false) := by
  unfold rxSeq flitOutOfOrder
  rw [rxCheck_good hfec]
  dsimp only
  rw [if_neg not_true_ne_true, if_neg hseq]
  simp only [Bool.or_eq_true, decide_eq_true_eq]
  split <;> rfl
theorem rxSeq_taken {hop : Bool} (h : FlitIn s n hdr wrong hop t) : rxSeq s n hdr true wrong = (t, true) := by
  unfold rxSeq
  rw [rxCheck_good h.fec]
  dsimp only
  rw [if_neg not_true_ne_true, if_pos h.order, h.after]

/-! ### Who takes it -/

theorem onFlit_seq {body : FlitBody} {deliver : State → Nat → State} {crcOk : Bool} (hrun : linksRun s = true) (hlive : s.fatal = false)
    (hup : shaftUp (shaft s n) = true) : onFlit s n hdr crcOk wrong body deliver =
      if (rxSeq s n hdr crcOk wrong).2 then routeFlit (rxSeq s n hdr crcOk wrong).1 n hdr body deliver else (rxSeq s n hdr crcOk wrong).1 := by
  unfold onFlit
  rw [hrun, hlive, hup]
  rfl
theorem onHop_seq {take : State → State} {rx : FlitRx} (hrun : linksRun s = true) (hlive : s.fatal = false)
    (hup : (shaftUp (shaft s n) || (shaft s n).locked) = true) : onHop s n hdr rx take =
      if (rxSeq s n hdr rx.crcOk rx.wrong).2 then take (rxSeq s n hdr rx.crcOk rx.wrong).1 else (rxSeq s n hdr rx.crcOk rx.wrong).1 := by
  unfold onHop
  dsimp only
  rw [hrun, hlive, hup]
  rfl
theorem onFlit_taken {body : FlitBody} {deliver : State → Nat → State} (h : FlitIn s n hdr wrong false t) :
    onFlit s n hdr true wrong body deliver = routeFlit t n hdr body deliver := by
  have hup : shaftUp (shaft s n) = true := by simpa using h.up
  rw [onFlit_seq h.runs h.alive hup, rxSeq_taken h, if_pos rfl]
theorem onHop_taken {take : State → State} (h : FlitIn s n hdr wrong true t) : onHop s n hdr ⟨true, wrong⟩ take = take t := by
  rw [onHop_seq h.runs h.alive (by simpa using h.up), rxSeq_taken h, if_pos rfl]
theorem onIdent_unlocked {take : State → State} {rx : FlitRx} (h : (shaft s n).locked = false) : onIdent s n hdr rx take = onHop s n hdr rx take := by
  unfold onIdent
  dsimp only
  rw [h]
  rfl
theorem onIdent_locked {take : State → State} {rx : FlitRx} (h : (shaft s n).locked = true) (hrun : linksRun s = true) (hlive : s.fatal = false) :
    onIdent s n hdr rx take = if !(rxCheck s n rx.crcOk rx.wrong).2 then (rxCheck s n rx.crcOk rx.wrong).1 else
      take (if fld hdr 19 10 = ((shaft (takeAck (rxCheck s n rx.crcOk rx.wrong).1 n hdr) n).good + 1) % 1024
        then setShaft (takeAck (rxCheck s n rx.crcOk rx.wrong).1 n hdr) n
          { shaft (takeAck (rxCheck s n rx.crcOk rx.wrong).1 n hdr) n with good := fld hdr 19 10, gap := false }
        else takeAck (rxCheck s n rx.crcOk rx.wrong).1 n hdr) := by
  unfold onIdent
  dsimp only
  rw [h, hrun, hlive]
  rfl
theorem onIdent_taken {take : State → State} (h : FlitIn s n hdr wrong true t) : onIdent s n hdr ⟨true, wrong⟩ take = take t := by
  cases hl : (shaft s n).locked with
  | false => rw [onIdent_unlocked hl, onHop_taken h]
  | true => rw [onIdent_locked hl h.runs h.alive, rxCheck_good h.fec, if_neg not_true_ne_true, if_pos h.order, h.after]
theorem onIdent_bad {take : State → State} {rx : FlitRx} (hrun : linksRun s = true) (hlive : s.fatal = false)
    (hup : (shaftUp (shaft s n) || (shaft s n).locked) = true) (h : (fecTake (shaft s n) rx.wrong).2 = false ∨ rx.crcOk = false) :
    onIdent s n hdr rx take = flitBad s n rx.wrong := by
  cases hl : (shaft s n).locked with
  | false => rw [onIdent_unlocked hl, onHop_seq hrun hlive hup, rxSeq_bad h]; rfl
  | true => rw [onIdent_locked hl hrun hlive, rxCheck_bad h]; rfl
theorem idleStep_runs {rx : FlitRx} (hrun : linksRun s = true) (hlive : s.fatal = false) (hup : (shaftUp (shaft s n) || (shaft s n).locked) = true) :
    idleStep s n hdr rx =
      if (rxCheck s n rx.crcOk rx.wrong).2 then takeAck (rxCheck s n rx.crcOk rx.wrong).1 n hdr else (rxCheck s n rx.crcOk rx.wrong).1 := by
  unfold idleStep
  dsimp only
  rw [hrun, hlive, hup]
  rfl

/-! ### The rows of flits -/

theorem exec_ctrlFlits (s : State) (rx : FlitRx) (d : DescBody) (g : GrantBody) (k : CloseBody) (u : SigBody) (a : AbortBody) :
    ∀ e ∈ ctrlFlits n hdr rx d g k u a, ∃ deliver, exec e.1 s = .next (e.2.2 (onFlit s n hdr rx.crcOk rx.wrong e.2.1 deliver)) := by
  simp only [ctrlFlits, List.forall_mem_cons]
  exact ⟨⟨_, rfl⟩, ⟨_, rfl⟩, ⟨_, rfl⟩, ⟨_, rfl⟩, ⟨_, rfl⟩, ⟨_, rfl⟩, fun _ h => nomatch h⟩
theorem exec_data (s : State) (payload : List Byte) (crc : W32) : ∃ deliver, exec (.data n hdr payload crc wrong) s =
    .next (settleFoul (onFlit s n hdr (payload.length == 244 && flitCrc hdr payload == crc) wrong (.data payload) deliver)) := ⟨_, rfl⟩
theorem exec_hopFlits (s : State) (rx : FlitRx) (v g : BitVec 128) :
    ∀ i ∈ hopFlits n hdr rx v g, ∃ take, exec i s = .next (onHop s n hdr rx take) := by
  simp only [hopFlits, List.forall_mem_cons]
  exact ⟨⟨_, rfl⟩, ⟨_, rfl⟩, ⟨_, rfl⟩, ⟨_, rfl⟩, fun _ h => nomatch h⟩
theorem exec_ident (s : State) (rx : FlitRx) (b : IdentBody) : ∃ take, exec (.ident n hdr rx b) s = .next (onIdent s n hdr rx take) := ⟨_, rfl⟩
theorem dataCrc_good {payload : List Byte} {crc : W32} (hlen : payload.length = 244) (hcrc : flitCrc hdr payload = crc) :
    (payload.length == 244 && flitCrc hdr payload == crc) = true := by
  rw [beq_iff_eq.2 hlen, beq_iff_eq.2 hcrc]; rfl
theorem dataCrc_bad {payload : List Byte} {crc : W32} (h : payload.length ≠ 244 ∨ flitCrc hdr payload ≠ crc) :
    (payload.length == 244 && flitCrc hdr payload == crc) = false := by
  rw [Bool.and_eq_false_iff, beq_eq_false_iff_ne, beq_eq_false_iff_ne]
  exact h
end

/-! ### Codewords (R267, R281) -/

section
variable {x : Shaft} {wrong : List Nat}

theorem fecTake_corrected (hend : cwEnds x = true) (h : (wrongSymbols 544 wrong).length ≤ 15) :
    (fecTake x wrong).1 = { x with rxBit := (x.rxBit + flitBits) % cwBits, cwBad := false
                                   count := (wrongSymbols 544 wrong).foldl (fun t j => bumpTab t (symbolLane x j) 1) x.count } := by
  have hgood : rsGood 544 15 wrong = true := decide_eq_true h
  unfold fecTake
  dsimp only
  rw [hend, hgood]
  rfl
theorem fecTake_uncorrectable (hend : cwEnds x = true) (h : 15 < (wrongSymbols 544 wrong).length) :
    fecTake x wrong = ({ x with rxBit := (x.rxBit + flitBits) % cwBits, cwBad := true, count := bumpTab x.count ctUncorr 1 }, false) := by
  have hbad : rsGood 544 15 wrong = false := decide_eq_false (Nat.not_le.2 h)
  unfold fecTake
  dsimp only
  rw [hend, hbad]
  rfl
end

end Sys2Proof.Machine

open Sys2Proof Sys2Proof.Machine

/-- Settles O26: a flit is taken only past its codeword, its CRC and its place in the sequence, and what it leaves when it is not is the same
whatever it carries. -/
theorem flitErrors : Obligations.FlitErrors := by
  refine ⟨fun s n hdr rx hrun hlive => ⟨fun hup => ⟨fun payload crc h => ?_, fun h d g k u a e he => ?_⟩, fun hup h v g b i hi => ?_⟩,
    fun s n hdr wrong hrun hlive hfec hseq => ⟨fun hup => ⟨fun payload crc hlen hcrc => ?_, fun d g k u a e he => ?_, fun hl b => ?_⟩, fun hup v g i hi => ?_⟩,
    fun x wrong hend => ⟨fun h => ?_, fun h => ?_⟩⟩
  · obtain ⟨deliver, hexec⟩ := exec_data (n := n) (hdr := hdr) (wrong := rx.wrong) s payload crc
    rw [hexec, onFlit_seq hrun hlive hup, rxSeq_bad (h.imp_right dataCrc_bad)]
    rfl
  · obtain ⟨deliver, hexec⟩ := exec_ctrlFlits s rx d g k u a e he
    rw [hexec, onFlit_seq hrun hlive hup, rxSeq_bad h]
    rfl
  · rcases List.mem_append.1 hi with hi | hi
    · obtain ⟨take, hexec⟩ := exec_hopFlits s rx v g i hi
      rw [hexec, onHop_seq hrun hlive hup, rxSeq_bad h]
      rfl
    · rcases List.mem_cons.1 hi with rfl | hi
      · obtain ⟨take, hexec⟩ := exec_ident (n := n) (hdr := hdr) s rx b
        rw [hexec, onIdent_bad hrun hlive hup h]
        rfl
      · obtain rfl := List.mem_singleton.1 hi
        refine congrArg _ ((idleStep_runs hrun hlive hup).trans ?_)
        rw [rxCheck_bad h]
        rfl
  · obtain ⟨deliver, hexec⟩ := exec_data (n := n) (hdr := hdr) (wrong := wrong) s payload crc
    rw [hexec, onFlit_seq hrun hlive hup, dataCrc_good hlen hcrc, rxSeq_outOfOrder hfec hseq]
    rfl
  · obtain ⟨deliver, hexec⟩ := exec_ctrlFlits s ⟨true, wrong⟩ d g k u a e he
    rw [hexec, onFlit_seq hrun hlive hup, rxSeq_outOfOrder hfec hseq]
    rfl
  · obtain ⟨take, hexec⟩ := exec_ident (n := n) (hdr := hdr) s ⟨true, wrong⟩ b
    rw [hexec, onIdent_unlocked hl, onHop_seq hrun hlive (by rw [hup]; rfl), rxSeq_outOfOrder hfec hseq]
    rfl
  · obtain ⟨take, hexec⟩ := exec_hopFlits s ⟨true, wrong⟩ v g i hi
    rw [hexec, onHop_seq hrun hlive hup, rxSeq_outOfOrder hfec hseq]
    rfl
  · exact ⟨congrArg Shaft.count (fecTake_corrected hend h), congrArg Shaft.cwBad (fecTake_corrected hend h)⟩
  · rw [fecTake_uncorrectable hend h]
    exact ⟨rfl, rfl, rfl⟩
end

section
/-!
PROOFS. What a flit that is taken does: hop-scoped flits, flits for this device, and flits that go on (R240, R276 to R280, R284).
-/
namespace Sys2Proof.Machine
open Sys2Proof

section
variable {t : State} {n : Fin 52} {hdr : W64} {body : FlitBody} {deliver : State → Nat → State}

theorem routeFlit_delivers {c : Nat} (h : ForClaim t n hdr c) : routeFlit t n hdr body deliver = deliver t c := by
  unfold routeFlit
  rw [if_neg h.share, if_neg (not_not_intro h.here), h.claimed]
  exact if_pos h.opened
theorem routeFlit_goes_on {m : Nat} (hcarry : linksCarry t = true) (hshare : tagShare t n (hdrTag hdr) ≠ 0) (hdst : hdrDst hdr ≠ t.devAddr)
    (hm : (routeShafts t (hdrDst hdr))[hdrXfer hdr % (routeShafts t (hdrDst hdr)).length]? = some m) : routeFlit t n hdr body deliver =
      holdFlit (modShaft t m fun h => { h with
        queue := h.queue ++ [(hdrTag hdr, ⟨mkHdr (fld hdr 63 61) (hdrDst hdr) (hdrTag hdr).toNat (hdrXfer hdr), body⟩, some n.val)] }) n (hdrTag hdr) := by
  unfold routeFlit
  rw [if_neg hshare, if_pos hdst, relayFlit, if_pos hcarry]
  dsimp only
  rw [hm]
theorem routeFlit_no_route (hcarry : linksCarry t = true) (hshare : tagShare t n (hdrTag hdr) ≠ 0) (hdst : hdrDst hdr ≠ t.devAddr)
    (hnone : routeShafts t (hdrDst hdr) = []) : routeFlit t n hdr body deliver = bumpShaft t n ctNoRoute := by
  have hno : (routeShafts t (hdrDst hdr))[hdrXfer hdr % (routeShafts t (hdrDst hdr)).length]? = none := by
    rw [hnone]
    exact List.getElem?_nil
  unfold routeFlit
  rw [if_neg hshare, if_pos hdst, relayFlit, if_pos hcarry]
  dsimp only
  rw [hno]
theorem routeFlit_foreign (hshare : tagShare t n (hdrTag hdr) = 0) : routeFlit t n hdr body deliver =
    match body with | .desc b => refuseDesc (bumpShaft t n ctForeign) n hdr b | _ => bumpShaft t n ctForeign := by
  unfold routeFlit
  refine (if_pos hshare).trans ?_
  cases body <;> rfl
end

theorem exec_identStep (s : State) (n : Fin 52) (hdr : W64) (rx : FlitRx) (b : IdentBody) :
    exec (.ident n hdr rx b) s = .next (identStep s n hdr rx b) := rfl

/-- A NONCE sends the own one first where the peer may not have it. -/
def nonceSent (t : State) (n : Nat) (hdr : W64) (c : Nat) (v : BitVec 128) : State :=
  let a : Auth := Tab.get {} (shaft t n).auths c
  match a.mine with
  | none => startAuth t n c a.cmd
  | some m => if a.peer = some v then t else queueHop t n (hdrTag hdr).toNat (.nonce m)

section
variable {s t : State} {n : Fin 52} {hdr : W64} {wrong : List Nat} (h : FlitIn s n hdr wrong true t)
include h

theorem tagStep_good {c : Nat} {m p g : BitVec 128} (hc : hopClaim t n hdr = some c) (hm : (Tab.get {} (shaft t n).auths c : Auth).mine = some m)
    (hp : (Tab.get {} (shaft t n).auths c : Auth).peer = some p) (hg : authTag t n c m p false = g) :
    let a : Auth := Tab.get {} (shaft t n).auths c
    tagStep s n hdr ⟨true, wrong⟩ g = replyTo (setAuth (setShaft t n { shaft t n with auth := (shaft t n).auth ||| BitVec.ofNat 8 (2 ^ c) }) n c
      { a with ok := true, cmd := none }) a.cmd stOk 0 0 := by
  unfold tagStep
  rw [onHop_taken h, hc]
  dsimp only
  rw [hm, hp]
  dsimp only
  rw [beq_iff_eq.2 hg]
  rfl
theorem tagStep_bad {c : Nat} {m p g : BitVec 128} (hc : hopClaim t n hdr = some c) (hm : (Tab.get {} (shaft t n).auths c : Auth).mine = some m)
    (hp : (Tab.get {} (shaft t n).auths c : Auth).peer = some p) (hg : authTag t n c m p false ≠ g) :
    let a : Auth := Tab.get {} (shaft t n).auths c
    tagStep s n hdr ⟨true, wrong⟩ g = replyTo (shaftEvent (bumpShaft (setAuth (setShaft t n
      { shaft t n with auth := (shaft t n).auth &&& ~~~(BitVec.ofNat 8 (2 ^ c)) }) n c { a with ok := false, cmd := none }) n ctAuthFail) n 5) a.cmd stOk 0 0 := by
  unfold tagStep
  rw [onHop_taken h, hc]
  dsimp only
  rw [hm, hp]
  dsimp only
  rw [beq_eq_false_iff_ne.2 hg]
  rfl
theorem identStep_self {b : IdentBody} (hb : b.addr = t.devAddr) :
    identStep s n hdr ⟨true, wrong⟩ b = shaftLeaves (closeChannels t n stShaftDown) n .down 6 := by
  unfold identStep
  rw [onIdent_taken h]
  exact if_pos hb
theorem identStep_peer {b : IdentBody} (hb : b.addr ≠ t.devAddr) :
    let x := shaft t n
    let other := x.peer != 0xFFF && (x.peer != b.addr || x.peerS != b.shaft)
    let u := if other then dropFlits (closeChannels t n stShaftDown) n else t
    let u := modShaft u n fun x => { x with
      peer := b.addr, peerS := b.shaft, halfSel := if x.toHalf then b.half else x.halfSel
      state := if x.toHalf then .half else .up, locked := false, retrains := false, resend := x.replay }
    let u := if other then shaftEvent (clearRoutes u n) n 3 else u
    identStep s n hdr ⟨true, wrong⟩ b = startAuths (if shaftUp x then u else shaftEvent u n 2) n := by
  intro x other u0 u1 u
  unfold identStep
  rw [onIdent_taken h]
  exact if_neg hb
theorem nonceStep_answers {c : Nat} {v : BitVec 128} {u : State} (hc : hopClaim t n hdr = some c) (hu : nonceSent t n hdr c v = u) :
    let d : Auth := Tab.get {} (shaft u n).auths c
    let w := setAuth u n c { d with peer := some v }
    nonceStep s n hdr ⟨true, wrong⟩ v = queueHop w n (hdrTag hdr).toNat (.tag (authTag w n c (d.mine.getD 0) v true)) := by
  subst hu
  unfold nonceStep
  rw [onHop_taken h, hc]
  rfl
end

end Sys2Proof.Machine

open Sys2Proof Sys2Proof.Machine

/-- Settles O25: each hop-scoped flit past the checks of its shaft is its effect on the state that they leave. -/
theorem hopFlits_settled : Obligations.HopFlits := by
  intro s t n hdr wrong h rx tag
  refine ⟨congrArg _ (onHop_taken h), congrArg _ (onHop_taken h), fun b hb => ?_, fun b hb => ?_,
    ?_, fun c m p g hc hm hp => ⟨fun hg => ?_, fun hg => ?_⟩⟩
  · exact (exec_identStep s n hdr rx b).trans (congrArg _ (identStep_peer h hb))
  · exact (exec_identStep s n hdr rx b).trans (congrArg _ (identStep_self h hb))
  · intro c v hc a u d w
    have hu : nonceSent t n hdr c v = u := rfl
    exact congrArg _ (nonceStep_answers h hc hu)
  · exact congrArg _ (tagStep_good h hc hm hp hg)
  · exact congrArg _ (tagStep_bad h hc hm hp hg)
/-- Settles O24: an end-to-end flit of any kind that is taken is delivered, goes on, or is dropped, by its tag, its destination and the route there. -/
theorem flitsDelivered : Obligations.FlitsDelivered := by
  refine ⟨fun s t n hdr wrong c h hfor => ⟨fun payload crc hlen hcrc => ?_, fun b => ?_, fun b => ?_, fun b => ?_, ?_, fun b => ?_, fun b => ?_⟩, ?_⟩
  · have hexec : exec (.data n hdr payload crc wrong) s = .next (settleFoul (onFlit s n hdr (payload.length == 244 && flitCrc hdr payload == crc) wrong
        (.data payload) fun s c => deliverData s n (hdrXfer hdr) c payload)) := rfl
    rw [hexec, dataCrc_good hlen hcrc, onFlit_taken h, routeFlit_delivers hfor]
  · exact congrArg _ ((onFlit_taken h).trans (routeFlit_delivers hfor))
  · exact congrArg _ ((onFlit_taken h).trans (routeFlit_delivers hfor))
  · exact congrArg (fun t => Host.Outcome.next (settleFoul t)) ((onFlit_taken h).trans (routeFlit_delivers hfor))
  · exact congrArg _ ((onFlit_taken h).trans (routeFlit_delivers hfor))
  · exact congrArg _ ((onFlit_taken h).trans (routeFlit_delivers hfor))
  · exact congrArg _ ((onFlit_taken h).trans (routeFlit_delivers hfor))
  · intro s t n hdr wrong h hcarry d g k u a payload crc hlen hcrc ms on e he
    have hexec : ∃ deliver, exec e.1 s = .next (e.2.2 (routeFlit t n hdr e.2.1 deliver)) := by
      rcases List.mem_append.1 he with he | he
      · obtain ⟨deliver, hexec⟩ := exec_ctrlFlits s ⟨true, wrong⟩ d g k u a e he
        exact ⟨deliver, by rw [hexec, onFlit_taken h]⟩
      · obtain rfl := List.mem_singleton.1 he
        obtain ⟨deliver, hexec⟩ := exec_data (n := n) (hdr := hdr) (wrong := wrong) s payload crc
        exact ⟨deliver, by rw [hexec, dataCrc_good hlen hcrc, onFlit_taken h]⟩
    obtain ⟨deliver, hexec⟩ := hexec
    refine ⟨fun hshare hdst => ⟨fun m hm => ?_, fun hnone => ?_⟩, fun hshare => ?_⟩
    · rw [hexec, routeFlit_goes_on hcarry hshare hdst hm]
    · rw [hexec, routeFlit_no_route hcarry hshare hdst hnone]
    · exact hexec.trans (congrArg (fun v => Host.Outcome.next (e.2.2 v)) (routeFlit_foreign hshare))
end

section
/-!
PROOFS. The bell: what a good frame does after its checks, the samples of the loop delay, and the events of the port (R290 to R308).
-/
namespace Sys2Proof.Machine
open Sys2Proof

section
variable {s t : State} {typ : Nat} {rx : BellRx} {take : State → Nat → Nat → State} (h : FrameIn s typ rx t)
include h

/-- A good frame of another device, of a claim held here, goes on to the check of its counter and tag. -/
theorem onBell_claimed {c : Nat} (hclaimed : tagClaim t (ftag rx.words) = some c) : onBell s typ rx take =
    if typ ≤ 1 then take (noteFrame t rx) c (fsrc rx.words) else
    if fcount rx.words ≤ Tab.get 0 (claim t c).fseen (fsrc rx.words) ||
        (rx.words.getD 6 0).toNat ≠ bellMac (claim t c).key (ftag rx.words) (fsrc rx.words) (fcount rx.words) rx.words then bumpBell t bcAuth
    else take (setClaim (noteFrame t rx) c { claim t c with fseen := Tab.set 0 (claim t c).fseen (fsrc rx.words) (fcount rx.words) }) c (fsrc rx.words) := by
  obtain ⟨hruns, hon, hgood, htype, hother, rfl⟩ := h
  have hoff : ¬ (!bellRuns s || s.bell.state == .off) = true := by simp [hruns, hon]
  unfold onBell
  rw [if_neg hoff]
  dsimp only
  rw [hgood, if_neg not_true_ne_true, if_neg (not_not_intro htype), if_neg (not_true_of_false hother), hclaimed]
theorem onBell_unclaimed (hnone : tagClaim t (ftag rx.words) = none) : onBell s typ rx take =
    if ftag rx.words ≠ 0 then bumpBell t bcStranger
    else if typ ≤ 1 then take (noteFrame t rx) 0 (fsrc rx.words)
    else bumpBell t bcAuth := by
  obtain ⟨hruns, hon, hgood, htype, hother, rfl⟩ := h
  have hoff : ¬ (!bellRuns s || s.bell.state == .off) = true := by simp [hruns, hon]
  unfold onBell
  rw [if_neg hoff]
  dsimp only
  rw [hgood, if_neg not_true_ne_true, if_neg (not_not_intro htype), if_neg (not_true_of_false hother), hnone]
/-- PRESENCE and JOIN of no claim, or of one held here, note their sender. -/
theorem onBell_notes (htyp : typ ≤ 1) (htag : ftag rx.words = 0 ∨ ∃ c, tagClaim t (ftag rx.words) = some c) :
    onBell s typ rx (fun s _ _ => s) = noteFrame t rx := by
  rcases hc : tagClaim t (ftag rx.words) with _ | c
  · have hzero : ftag rx.words = 0 := htag.resolve_right fun ⟨c, hsome⟩ => by rw [hc] at hsome; cases hsome
    rw [onBell_unclaimed h hc, if_neg (not_not_intro hzero), if_pos htyp]
  · rw [onBell_claimed h hc, if_pos htyp]
/-- A frame that is fresh and carries its claim's tag takes effect. -/
theorem onBell_takes {c : Nat} (htyp : 1 < typ) (hauth : FrameAuth t rx c) : onBell s typ rx take =
    take (setClaim (noteFrame t rx) c { claim t c with fseen := Tab.set 0 (claim t c).fseen (fsrc rx.words) (fcount rx.words) }) c (fsrc rx.words) := by
  obtain ⟨hclaimed, hfresh, htagged⟩ := hauth
  rw [onBell_claimed h hclaimed, if_neg (Nat.not_le.2 htyp), if_neg]
  simp only [ne_eq, htagged, not_true_eq_false, decide_false, Bool.or_false, decide_eq_true_eq, Nat.not_le]
  exact hfresh
theorem onBell_refuses {c : Nat} (htyp : 1 < typ) (hclaimed : tagClaim t (ftag rx.words) = some c)
    (hbad : fcount rx.words ≤ Tab.get 0 (claim t c).fseen (fsrc rx.words) ∨
      (rx.words.getD 6 0).toNat ≠ bellMac (claim t c).key (ftag rx.words) (fsrc rx.words) (fcount rx.words) rx.words) :
    onBell s typ rx take = bumpBell t bcAuth := by
  rw [onBell_claimed h hclaimed, if_neg (Nat.not_le.2 htyp), if_pos]
  rw [Bool.or_eq_true, decide_eq_true_eq, decide_eq_true_eq]
  exact hbad
theorem onBell_stranger (hnone : tagClaim t (ftag rx.words) = none) (htag : ftag rx.words ≠ 0) :
    onBell s typ rx take = bumpBell t bcStranger := by
  rw [onBell_unclaimed h hnone, if_pos htag]
end

theorem bellFec_iff (rx : BellRx) : bellFec rx = true ↔ (wrongSymbols 66 rx.wrong).length ≤ 7 := decide_eq_true_iff

/-- A JOIN that is not a sample of the loop delay is a frame like another. -/
theorem joinStep_other {s : State} {rx : BellRx} (h : ¬(s.bell.state = .measure ∧ rx.words = s.bell.sent ∧ s.bell.samples.length < 8)) :
    joinStep s rx = onBell s 1 rx fun s _ _ => s := by
  unfold joinStep
  refine if_neg fun hall => h ?_
  simp only [Bool.and_eq_true, beq_iff_eq, decide_eq_true_eq] at hall
  obtain ⟨⟨⟨-, hmeasure⟩, ⟨-, hsent⟩, -⟩, hfew⟩ := hall
  exact ⟨hmeasure, hsent, hfew⟩
theorem joinStep_own {s : State} {rx : BellRx} (hruns : bellRuns s = true) (hmeasure : s.bell.state = .measure) (hfew : s.bell.samples.length < 8)
    (hgood : rxGood rx = true) (htype : ftyp rx.words = 1) (hsent : rx.words = s.bell.sent) :
    joinStep s rx = takeSample s (s.time - fbody rx.words 1) := by
  unfold joinStep
  refine if_pos ?_
  have htype' : ftyp s.bell.sent = 1 := hsent ▸ htype
  simp [hruns, hmeasure, hfew, hgood, htype', hsent]

/-! ### Events -/

section
variable {s : State}

theorem lockStep_locks (hruns : bellRuns s = true) (hlock : s.bell.state = .lock) (hcyc : s.bell.cycles = 0) :
    lockStep s = { s with bell := { s.bell with cycles := 1 } } := by
  unfold lockStep
  refine if_pos ?_
  simp [hruns, hlock, hcyc]
theorem noSignalStep_measures (hruns : bellRuns s = true) (hlock : s.bell.state = .lock) (hcyc : s.bell.cycles = 0) :
    noSignalStep s = { s with bell := { s.bell with state := .measure, isMaster := true, master := s.bell.addr, samples := [], spreads := 0 } } := by
  unfold noSignalStep
  refine if_pos ?_
  simp [hruns, hlock, hcyc]
theorem bellSlotStep_joined {slot : Nat} (hruns : bellRuns s = true) (hjoined : s.bell.state = .joined)
    (hnext : s.bell.next = none ∨ s.bell.next = some slot) :
    let t : State := { s with bell := { s.bell with next := some ((slot + 1) % 80) } }
    let u := if slot = s.bell.addr then ownSlot t else if 64 ≤ slot then contentionSlot t else t
    bellSlotStep s slot = if slot = 79 then cycleEnd u else u := by
  intro t u
  have hin : ¬ (!bellRuns s || s.bell.state == .off || s.bell.next.any (· != slot)) = true := by
    rcases hnext with hnext | hnext <;> simp [hruns, hjoined, hnext]
  unfold bellSlotStep
  dsimp only
  rw [if_neg hin, hjoined]
  rfl
theorem collisionStep_own {rx : BellRx} {q : BellQ} (hruns : bellRuns s = true) (hon : s.bell.state ≠ .off) (hbad : rxGood rx = false)
    (hslot : 64 ≤ rx.slot) (hq : (badBurst (noteBusy s rx.slot) rx.slot (bellFec rx)).bell.flying = some q) :
    let t := badBurst (noteBusy s rx.slot) rx.slot (bellFec rx)
    collisionStep s rx true =
      if q.hits + 1 = 16 then bumpBell (modBell t fun b => { b with queue := readyFrames b, flying := none }) bcBurst
      else modBell t fun b => { b with flying := none, queue := putFrame q { q with hits := q.hits + 1, skip := 0 } b.queue } := by
  intro t
  have hin : ¬ (!bellRuns s || s.bell.state == .off || rxGood rx) = true := by simp [hruns, hon, hbad]
  unfold collisionStep
  rw [if_neg hin]
  dsimp only
  rw [if_neg not_true_ne_true, if_pos hslot, hq]
theorem conflictStep_counts (hruns : bellRuns s = true) (hjoined : s.bell.state = .joined) (hbad : 4 ≤ s.bell.bad) :
    conflictStep s = postEvent (bumpBell { s with bell := { s.bell with bad := 0 } } bcConflict) none 0x0101 [1, bellWord s.bell] := by
  unfold conflictStep
  refine if_pos ?_
  simp [hruns, hjoined, hbad]
theorem takeoverStep_takes (hruns : bellRuns s = true) (hjoined : s.bell.state = .joined) (hmaster : s.bell.isMaster = false) (hquiet : 8 ≤ s.bell.quiet) :
    let others := s.bell.seen.filter fun e => e.1 != s.bell.master
    let m := (others.map Prod.fst ++ [s.bell.addr]).foldl min 63
    takeoverStep s = { s with bell := { s.bell with seen := others, master := m, isMaster := m == s.bell.addr, heard := false, quiet := 0 } } := by
  unfold takeoverStep
  refine if_neg ?_
  simp [hruns, hjoined, hmaster, hquiet]

variable {c : Nat}

theorem tickSendStep_due (hruns : bellRuns s = true) (hcyc : 32 ≤ (claim s c).tickCyc) : tickSendStep s c = queueTick s c := by
  unfold tickSendStep
  refine if_pos ?_
  simp [hruns, hcyc]
theorem queueTick_queues (hin : inService (claim s c) = true) (hmem : (claim s c).members ≠ []) (hmaster : isTickMaster s (claim s c) = true)
    (hjoined : s.bell.state = .joined) (hold : ∀ q ∈ s.bell.queue, q.claim = c → ftyp q.words = 2 → s.bell.flying = some q) :
    queueTick s c = queueBell (setClaim s c { claim s c with tickCyc := 0 }) c 2 prTick [] := by
  unfold queueTick
  dsimp only
  rw [if_neg (by simp [hin, hmem, hmaster]), if_neg (by simp [hjoined]), if_neg]
  intro hany
  obtain ⟨q, hq, hwait⟩ := List.any_eq_true.1 hany
  simp only [Bool.and_eq_true, beq_iff_eq, bne_iff_ne] at hwait
  obtain ⟨⟨hc, htyp⟩, hfly⟩ := hwait
  exact hfly (hold q hq hc htyp)
theorem queueTick_apart (hin : inService (claim s c) = true) (hmem : (claim s c).members ≠ []) (hmaster : isTickMaster s (claim s c) = true)
    (hjoined : s.bell.state ≠ .joined) : queueTick s c = setClaim s c { claim s c with tickCyc := 32 } := by
  unfold queueTick
  dsimp only
  rw [if_neg (by simp [hin, hmem, hmaster]), if_pos (by simpa using hjoined)]
theorem lostStep_lost (hin : inService (claim s c) = true) (hmaster : isTickMaster s (claim s c) = false) (hlost : (claim s c).tickLost = false)
    (htime : timeRuns s = true) : lostStep s c =
      postEvent (setClaim (advanceTo s ((claim s c).tickAt + cyclesNs 2048)) c { claim s c with tickLost := true }) (some c) 0x0009 [(claim s c).tick] := by
  unfold lostStep
  refine if_neg ?_
  simp [hin, hmaster, hlost, htime]

section
variable {expect : Nat} (hin : inService (claim s c) = true) (hmem : 2 ≤ (claim s c).members.length) (hjoined : s.bell.state = .joined)
  (hruns : bellRuns s = true) (htime : timeRuns s = true)
include hin hmem hjoined hruns htime

theorem lag_served : ¬ (!inService (claim s c) || (claim s c).members.length < 2 || s.bell.state != .joined || !bellRuns s || !timeRuns s) = true := by
  rw [hin, hjoined, hruns, htime, decide_eq_false (Nat.not_lt.2 hmem)]
  decide
theorem lagStep_begins (hlag : (claim s c).lag = none) (hnow : lagReasons s.winder ≠ []) :
    let e := if expect = 0 then 0xFFFFFFFF else expect
    let start := ((lagReasons s.winder).map fun n => (reason s.winder n).start).foldl min (2 ^ 64)
    let t := advanceTo s (start + cyclesNs 32)
    let u := setClaim t c { claim t c with lag := some { start := start, last := t.time } }
    lagStep s c expect = queueBell u c 4 prLag (lagBody t c start e) := by
  unfold lagStep
  rw [if_neg (lag_served hin hmem hjoined hruns htime), hlag]
  exact if_neg (mt List.isEmpty_iff.1 hnow)
theorem lagStep_repeats {l : LagEpisode} (hlag : (claim s c).lag = some l) (hnow : lagReasons s.winder ≠ []) :
    let e := if expect = 0 then 0xFFFFFFFF else expect
    let t := advanceTo s (l.last + cyclesNs 1024)
    let u := setClaim t c { claim t c with lag := some { l with last := t.time } }
    lagStep s c expect = queueBell u c 4 prLag (lagBody t c l.start e) := by
  unfold lagStep
  rw [if_neg (lag_served hin hmem hjoined hruns htime), hlag]
  exact if_neg (mt List.isEmpty_iff.1 hnow)
theorem lagStep_ends {l : LagEpisode} (hlag : (claim s c).lag = some l) (hnow : lagReasons s.winder = []) :
    lagStep s c expect = queueBell (setClaim s c { claim s c with lag := none }) c 4 prLag (lagBody s c l.start 0) := by
  unfold lagStep
  rw [if_neg (lag_served hin hmem hjoined hruns htime), hlag]
  exact if_pos (List.isEmpty_iff.2 hnow)
end

/-- The device time at which a sympathy limit ends. -/
def sympathyDue (x : Sympathy) : Nat :=
  match x.ends with | some t => min t (x.heard + cyclesNs 2048) | none => x.heard + cyclesNs 2048
theorem expireStep_expires {src : Nat} {x : Sympathy} {due : Nat} (htime : timeRuns s = true)
    (hx : s.winder.symp.find? (fun x => x.claim == c && x.src == src) = some x) (hdue : sympathyDue x = due) :
    expireStep s c src = { advanceTo s due with winder := { s.winder with symp := s.winder.symp.erase x } } := by
  subst hdue
  unfold expireStep
  rw [hx]
  dsimp only
  rw [htime, if_neg not_true_ne_true]
  rw [advanceTo_winder]
  rfl
end

end Sys2Proof.Machine

open Sys2Proof Sys2Proof.Machine

/-- Settles O28: every frame is `onBell` on the state that its slot is noted in, and a JOIN of the device's own a sample. -/
theorem bellFrames : Obligations.BellFrames := by
  refine ⟨fun s t rx => ⟨bellFec_iff rx, fun htag => ⟨fun h => ?_, fun h hown => ?_⟩, ?_, ?_⟩, ?_⟩
  · exact congrArg _ (onBell_notes h (Nat.zero_le 1) htag)
  · exact congrArg _ ((joinStep_other hown).trans (onBell_notes h (Nat.le_refl 1) htag))
  · intro hruns hmeasure hfew hgood htype hsent d l spread
    have hexec : exec (.join rx) s = .next (takeSample s d) := congrArg _ (joinStep_own hruns hmeasure hfew hgood htype hsent)
    refine ⟨fun hlen => ?_, fun hlen hspread => ?_, fun hlen hspread hmore => ?_, fun hlen hspread hlast => ?_⟩
    · exact hexec.trans (congrArg _ (if_pos hlen))
    · exact hexec.trans (congrArg _ ((if_neg (Nat.not_lt.2 (Nat.le_of_eq hlen.symm))).trans (if_neg (Nat.not_lt.2 hspread))))
    · exact hexec.trans (congrArg _ ((if_neg (Nat.not_lt.2 (Nat.le_of_eq hlen.symm))).trans ((if_pos hspread).trans (if_neg hmore))))
    · exact hexec.trans (congrArg _ ((if_neg (Nat.not_lt.2 (Nat.le_of_eq hlen.symm))).trans ((if_pos hspread).trans (if_pos hlast))))
  · intro c hauth u src
    exact ⟨fun h => congrArg _ (onBell_takes h (by decide) hauth), fun h => congrArg _ (onBell_takes h (by decide) hauth),
      fun h => congrArg _ (onBell_takes h (by decide) hauth), fun h => congrArg _ (onBell_takes h (by decide) hauth),
      fun h => congrArg _ (onBell_takes h (by decide) hauth)⟩
  · intro s t rx
    have hall : ∀ e ∈ ([(2, .tick), (3, .barrier), (4, .lag), (5, .gossip), (6, .replica)] : List (Nat × (BellRx → Instr))),
        1 < e.1 ∧ ∃ take, exec (e.2 rx) s = .next (onBell s e.1 rx take) := by
      simp only [List.forall_mem_cons]
      exact ⟨⟨by decide, _, rfl⟩, ⟨by decide, _, rfl⟩, ⟨by decide, _, rfl⟩, ⟨by decide, _, rfl⟩, ⟨by decide, _, rfl⟩, fun _ h => nomatch h⟩
    intro e he h
    obtain ⟨htyp, take, hexec⟩ := hall e he
    rw [hexec]
    exact ⟨fun c hclaimed hbad => congrArg _ (onBell_refuses h htyp hclaimed hbad), fun hnone htag => congrArg _ (onBell_stranger h hnone htag)⟩

/-- Settles O29: each event of the port past its guards. -/
theorem bellEvents : Obligations.BellEvents := by
  refine ⟨fun s hruns => ⟨fun hlock hcyc => congrArg _ (lockStep_locks hruns hlock hcyc), fun hlock hcyc => congrArg _ (noSignalStep_measures hruns hlock hcyc),
    fun slot hjoined hnext => congrArg _ (bellSlotStep_joined hruns hjoined hnext), ?_, fun hjoined hbad => congrArg _ (conflictStep_counts hruns hjoined hbad),
    fun hjoined hmaster hquiet => congrArg _ (takeoverStep_takes hruns hjoined hmaster hquiet)⟩, ?_⟩
  · intro rx q hon hbad hslot t hq
    have hexec : exec (.collision rx true) s = _ := congrArg Host.Outcome.next (collisionStep_own hruns hon hbad hslot hq)
    refine ⟨fun hmore => hexec.trans (congrArg _ (if_neg hmore)), fun hlast => hexec.trans (congrArg _ ((if_pos hlast).trans ?_))⟩
    have hready : readyFrames t.bell = t.bell.queue.erase q := by unfold readyFrames; rw [hq]
    exact congrArg (fun l => bumpBell { t with bell := { t.bell with queue := l, flying := none } } bcBurst) hready
  · intro s c k
    refine ⟨fun hin hmem hmaster hruns hcyc => ⟨fun hjoined hold => ?_, fun hapart => ?_⟩, fun hin hmaster hlost htime => ?_, ?_, ?_⟩
    · exact congrArg _ ((tickSendStep_due hruns hcyc).trans (queueTick_queues hin hmem hmaster hjoined hold))
    · exact congrArg _ ((tickSendStep_due hruns hcyc).trans (queueTick_apart hin hmem hmaster hapart))
    · exact congrArg _ (lostStep_lost hin hmaster hlost htime)
    · intro expect hin hmem hjoined hruns htime e
      exact ⟨fun hlag hnow => congrArg _ (lagStep_begins hin hmem hjoined hruns htime hlag hnow),
        fun l hlag hnow => congrArg _ (lagStep_repeats hin hmem hjoined hruns htime hlag hnow),
        fun l hlag hnow => congrArg _ (lagStep_ends hin hmem hjoined hruns htime hlag hnow)⟩
    · intro src x htime hx due
      have hdue : sympathyDue x = due := rfl
      exact congrArg _ (expireStep_expires htime hx hdue)
end

section
/-!
PROOFS. The winder, temperature and errors by class (R389 to R411, R463 to R473).
-/
namespace Sys2Proof.Machine
open Sys2Proof

theorem not_not_of_true {b : Bool} (h : b = true) : ¬ (!b) = true := by rw [h]; decide

/-- The point that a bench whose trim can rise no more is capped at. -/
def cappedPoint (w : Winder) (b : Nat) : Nat := match Tab.get none w.margin b with | some m => min m (w.op - 1) | none => w.op - 1

section
variable {s : State} (hruns : winderRuns s = true)
include hruns

/-! ### Rows of the winder -/

theorem controlStep_runs (p : Prediction) :
    let t := unmetStep s p.measured
    let w := t.winder
    let recent := (p.measured :: w.recent).take 500
    let w := { w with recent := recent, pin := recent.foldl (· + ·) 0 / (1000 * recent.length), floor := floorOf w p }
    let set := arbitrate w p true
    let only := onlySympathy w p
    let w := applySet (stepReasons w t.time (reasonsNow w set (setOf (arbitrate w p false) 2))) set
    let w := { w with droop := false, current := false, currentB := [], sympOnly := only }
    controlStep s p = { t with
      winder := { w with sum := winderWords w, gen := w.gen + 2 }
      faces := t.faces.foldl (fun f e => Tab.set {} f e.1 { e.2 with droop := false }) t.faces } := by
  unfold controlStep
  exact if_neg (not_not_of_true hruns)
theorem settledStep_settles {n : Nat} (hraise : s.winder.raise = some n) :
    settledStep s = { s with winder := { s.winder with op := n, raise := none } } := by
  unfold settledStep
  rw [if_neg (not_not_of_true hruns), hraise]
  rfl
theorem trimLowerStep_lowers {b time : Nat} (htime : Tab.get 0 s.winder.cleanAt b + 1000000000 = time) :
    let t := advanceTo s time
    trimLowerStep s b = { t with winder := { t.winder with
      trim := Tab.set 0 s.winder.trim b (max (-40) (trimOf s.winder b - 5)), cleanAt := Tab.set 0 s.winder.cleanAt b t.time } } := by
  intro t
  unfold trimLowerStep
  rw [if_neg (not_not_of_true hruns), htime]
  exact congrArg (fun w : Winder => { t with winder := { t.winder with
    trim := Tab.set 0 w.trim b (max (-40) (trimOf w b - 5)), cleanAt := Tab.set 0 w.cleanAt b t.time } }) (advanceTo_winder s time)
theorem trimSaveStep_saves (hs0 : s.power = .s0) : trimSaveStep s = saveTrims s := by
  unfold trimSaveStep
  exact if_pos (by simp [hruns, hs0])
theorem droopStep_acts (f : Fin 128) (hs0 : s.power = .s0) :
    let v := freeValue s
    let recent := (face s f).bubbles.filter fun b => decide (s.time < b.1 + 1000)
    let left := (25 - s.winder.dutyC) * (700 + 50 * s.winder.op) / 100 - (recent.map Prod.snd).foldl (· + ·) 0
    let n := v.1.toNat % 8 + 1
    let t := setFace v.2 f { face s f with droop := true, bubbles := recent ++ [(s.time, min n left)] }
    let w := { t.winder with droop := true }
    droopStep s f = { t with winder := if left < n then lowerPoint w else w } := by
  unfold droopStep
  exact if_neg (by simp [hruns, hs0])
theorem currentStep_acts {rails : List Rail} (hfeeds : rails.any feedsBench = true) :
    let v := freeValue s
    let n := v.1.toNat % 25 + 1
    let left := 25 - s.winder.dutyC
    let on := (rails.flatMap railBenches).foldl (fun t b => Tab.set 0 t b (min n left)) s.winder.currentB
    let w := { s.winder with current := true, currentB := on }
    currentStep s rails = { v.2 with winder := if left ≤ n then lowerPoint w else w } := by
  unfold currentStep
  exact if_neg (by simp [hruns, hfeeds])
/-- A failed canary: bubbles on the bench's faces, and its trim rises, or a bench whose trim can rise no more is capped. -/
theorem canaryFailStep_acts {b : Nat} {t : State} {w : Winder} (hs2 : s.power ≠ .s2)
    (ht : (List.range 32).foldl (fun s i => setFace s (32 * b + i) { face s (32 * b + i) with droop := true }) s = t)
    (hw : { t.winder with cleanAt := Tab.set 0 t.winder.cleanAt b t.time } = w) :
    canaryFailStep s b = if trimOf w b < 80 then { t with winder := { w with trim := Tab.set 0 w.trim b (min 80 (trimOf w b + 10)) } } else
      postSump { t with winder := { w with margin := Tab.set none w.margin b (some (cappedPoint w b)) } }
        { cls := 0, unit := 0x0C, kind := 11, d4 := b + at' (cappedPoint w b) 8 } := by
  unfold canaryFailStep
  rw [if_neg (by simp [hruns, hs2]), ht]
  subst hw
  rfl

/-! ### Temperature -/

theorem thermalStep_hot {mean : Nat} (hhot : 360 ≤ s.winder.hottest) :
    thermalStep s mean = { s with winder := { s.winder with capTherm := min s.winder.capTherm mean - 50 } } := by
  unfold thermalStep
  rw [if_neg (not_not_of_true hruns)]
  exact if_pos hhot
theorem thermalStep_cool {mean : Nat} (hcool : s.winder.hottest ≤ 352) :
    thermalStep s mean = { s with winder := { s.winder with capTherm := min 3600 (s.winder.capTherm + 25) } } := by
  unfold thermalStep
  rw [if_neg (not_not_of_true hruns), if_neg (by omega)]
  exact if_pos hcool
theorem thermalStep_between {mean : Nat} (hlo : 352 < s.winder.hottest) (hhi : s.winder.hottest < 360) : thermalStep s mean = s := by
  unfold thermalStep
  rw [if_neg (not_not_of_true hruns), if_neg (by omega)]
  exact if_neg (by omega)
theorem temperatureStep_normal {t : Int} (ht : t < 380) (hrec : s.winder.recovery = false) :
    temperatureStep s t = { s with winder := { s.winder with hottest := t } } := by
  unfold temperatureStep
  rw [if_neg (not_not_of_true hruns)]
  exact (if_neg (Int.not_le.2 ht)).trans (if_pos (by rw [modWinder, hrec]; rfl))
theorem temperatureStep_begins {t : Int} (ht : 380 ≤ t) (hrec : s.winder.recovery = false) :
    temperatureStep s t = beginRecovery { s with winder := { s.winder with hottest := t } } := by
  unfold temperatureStep
  rw [if_neg (not_not_of_true hruns)]
  exact (if_pos ht).trans (if_neg (not_true_of_false hrec))
theorem temperatureStep_warm {t : Int} (ht : 352 < t) (hrec : s.winder.recovery = true) :
    temperatureStep s t = { s with winder := { s.winder with hottest := t, cool := none } } := by
  unfold temperatureStep
  rw [if_neg (not_not_of_true hruns)]
  dsimp only
  by_cases h : 380 ≤ t
  · exact (if_pos h).trans (if_pos hrec)
  · exact (if_neg h).trans ((if_neg (not_not_of_true hrec)).trans (if_neg (Int.not_le.2 ht)))
theorem temperatureStep_cools {t : Int} (ht : t ≤ 352) (hrec : s.winder.recovery = true) (hcool : s.winder.cool = none) :
    temperatureStep s t = { s with winder := { s.winder with hottest := t, cool := some s.time } } := by
  unfold temperatureStep
  rw [if_neg (not_not_of_true hruns)]
  refine (if_neg (by omega)).trans ((if_neg (not_not_of_true hrec)).trans ((if_pos ht).trans ?_))
  rw [show (modWinder s fun w => { w with hottest := t }).winder.cool = none from hcool]
  rfl
theorem temperatureStep_stays {t : Int} {t0 : Nat} (ht : t ≤ 352) (hrec : s.winder.recovery = true) (hcool : s.winder.cool = some t0) :
    temperatureStep s t = { s with winder := if t0 + 10000000 ≤ s.time
      then { s.winder with hottest := t, recovery := false, cool := none, mmaEvery := 1 } else { s.winder with hottest := t } } := by
  unfold temperatureStep
  rw [if_neg (not_not_of_true hruns)]
  refine (if_neg (by omega)).trans ((if_neg (not_not_of_true hrec)).trans ((if_pos ht).trans ?_))
  rw [show (modWinder s fun w => { w with hottest := t }).winder.cool = some t0 from hcool]
  by_cases hdue : t0 + 10000000 ≤ s.time
  · rw [if_pos hdue]
    exact if_pos hdue
  · rw [if_neg hdue]
    exact if_neg hdue
end

theorem thermtripStep_trips {s : State} {sensor : Nat} {t : Int} (ht : 420 ≤ t) (htrip : s.pins.trip = false) (haux : s.pins.good.contains .vddAux = true) :
    let u := stopDomains (deviceFatal s { cls := 3, unit := 0x0D, kind := 13, d4 := sensor, d5 := (BitVec.ofInt 64 t).toNat })
    thermtripStep s sensor t = { u with pins := { u.pins with trip := true } } := by
  have htrips : ¬ (t < 420 ∨ s.pins.trip = true ∨ (!s.pins.good.contains .vddAux) = true) := by
    rw [htrip, haux]
    simp [Int.not_lt.2 ht]
  unfold thermtripStep
  exact if_neg htrips

/-! ### A device-fatal error -/

theorem interrupt_changes (s : State) (fn vec : Nat) : ∃ m h, interrupt s fn vec = { s with msix := m, host := h } := by
  unfold interrupt
  dsimp only
  split
  · exact ⟨_, _, rfl⟩
  · exact ⟨_, _, rfl⟩
/-- A record changes the sump, and may send an interrupt. -/
theorem postSump_changes (s : State) (r : SumpRec) : ∃ m h u, postSump s r = { s with msix := m, host := h, sump := u } := by
  have key (v : Sump) : ∃ m h u, (if 2 ≤ r.cls ∧ v.svEn = true then interrupt { s with sump := v } 0 v.svVec else { s with sump := v }) =
      { s with msix := m, host := h, sump := u } := by
    split
    · obtain ⟨m, h, hint⟩ := interrupt_changes { s with sump := v } 0 v.svVec
      exact ⟨m, h, v, hint⟩
    · exact ⟨_, _, _, rfl⟩
  unfold postSump
  dsimp only
  split
  · exact ⟨_, _, _, rfl⟩
  · exact key _
/-- What a fold's steps keep, the fold keeps. -/
theorem foldl_keeps {α β : Type} (g : State → β) {f : State → α → State} (hf : ∀ t a, g (f t a) = g t) (l : List α) (s : State) :
    g (l.foldl f s) = g s :=
  List.foldlRecOn (motive := fun t => g t = g s) l f rfl fun t ht a _ => (hf t a).trans ht
/-- The fatal mark and the pins, which a flit queued leaves alone. -/
def fatalAndPins (s : State) : Bool × Pins := (s.fatal, s.pins)
theorem sendCtrl_fatalAndPins (s : State) (c dst xfer : Nat) (b : FlitBody) : fatalAndPins (sendCtrl s c dst xfer b) = fatalAndPins s := by
  unfold sendCtrl
  dsimp only
  split <;> rfl
theorem sendAbort_fatalAndPins (s : State) (c : Nat) (x : Coll) (status : Nat) : fatalAndPins (sendAbort s c x status) = fatalAndPins s :=
  foldl_keeps fatalAndPins (fun _ _ => sendCtrl_fatalAndPins _ _ _ _ _) _ _
/-- The ABORTs of every collective that a device-fatal error ends. -/
def abortColls (s : State) : State :=
  (List.range 8).foldl (fun s c => ((claim s c).colls.filter fun x => !x.ending).foldl (fun s x => sendAbort s c x 0) s) s
/-- What waits on the shafts but the ABORTs goes. -/
def keepAborts (s : State) : State :=
  (List.range 52).foldl (fun s n => modShaft s n fun x => { x with ctrl := [], replay := [], resend := [], queue := x.queue.filter fun q => isAbort q.2.1 }) s
/-- A device-fatal error once its record is posted, by what it does to the collectives and to the shafts. -/
def fatalBy (aborts keeps : State → State) (s : State) : State :=
  if s.fatal then s else
  let s := { s with fatal := true, pins := { s.pins with fault := true } }
  let s := aborts s
  let s := { s with bell := { s.bell with queue := [] } }
  keeps s
theorem deviceFatal_eq (s : State) (r : SumpRec) : deviceFatal s r = fatalBy abortColls keepAborts (postSump s { r with cls := 3 }) := by
  unfold deviceFatal fatalBy abortColls keepAborts
  rfl
theorem abortColls_fatalAndPins (s : State) : fatalAndPins (abortColls s) = fatalAndPins s := by
  unfold abortColls
  exact foldl_keeps fatalAndPins (fun _ _ => foldl_keeps fatalAndPins (fun _ _ => sendAbort_fatalAndPins _ _ _ _) _ _) _ _
theorem modShaft_fatalAndPins (s : State) (n : Nat) (g : Shaft → Shaft) : fatalAndPins (modShaft s n g) = fatalAndPins s := rfl
theorem keepAborts_fatalAndPins (s : State) : fatalAndPins (keepAborts s) = fatalAndPins s := by
  unfold keepAborts
  exact foldl_keeps fatalAndPins (fun _ _ => modShaft_fatalAndPins _ _ _) _ _
theorem fatalBy_stops {aborts keeps : State → State} (ha : ∀ t, fatalAndPins (aborts t) = fatalAndPins t)
    (hk : ∀ t, fatalAndPins (keeps t) = fatalAndPins t) (s : State) :
    (fatalBy aborts keeps s).fatal = true ∧ (s.fatal = false → (fatalBy aborts keeps s).pins.fault = true) := by
  unfold fatalBy
  cases hfatal : s.fatal with
  | true => exact ⟨hfatal, fun hno => nomatch hno⟩
  | false =>
    rw [if_neg Bool.false_ne_true]
    dsimp only
    generalize hu : ({ s with fatal := true, pins := { s.pins with fault := true } } : State) = u
    have hmark : fatalAndPins u = (true, { s.pins with fault := true }) := by rw [← hu]; rfl
    have hall := (hk _).trans ((show fatalAndPins { aborts u with bell := { (aborts u).bell with queue := [] } } = fatalAndPins (aborts u) from rfl).trans
      ((ha u).trans hmark))
    exact ⟨congrArg Prod.fst hall, fun _ => congrArg (fun p => p.2.fault) hall⟩
/-- After a device-fatal error the device is stopped; the first one asserts FAULT_N (R471). -/
theorem deviceFatal_stops (s : State) (r : SumpRec) : (deviceFatal s r).fatal = true ∧ (s.fatal = false → (deviceFatal s r).pins.fault = true) := by
  obtain ⟨m, h, v, hpost⟩ := postSump_changes s { r with cls := 3 }
  have hsame : (postSump s { r with cls := 3 }).fatal = s.fatal := by rw [hpost]
  rw [deviceFatal_eq, ← hsame]
  exact fatalBy_stops abortColls_fatalAndPins keepAborts_fatalAndPins _

/-! ### Errors by class -/

section
variable {s : State}

theorem watchdogStep_expires {core pc : Nat} (hruns : headframeRuns s = true) :
    watchdogStep s core pc = deviceFatal s { cls := 3, unit := 0x0A, inst := core, kind := 7, d4 := pc } := if_pos hruns
/-- A failed fabric flit is a resend, and the sixteenth failure device-fatal. -/
theorem fabricStep_counts {b : Nat} {again : Bool} (hruns : headframeRuns s = true) :
    let n := (if again then Tab.get 0 s.fabric b else 0) + 1
    let t := { s with fabric := Tab.set 0 s.fabric b n }
    fabricStep s b again = if 16 ≤ n then deviceFatal t { cls := 3, unit := 0x06, inst := b, kind := 5 }
      else postSump t { cls := 0, unit := 0x06, inst := b, kind := 5 } := by
  unfold fabricStep
  exact if_neg (not_not_of_true hruns)
theorem fenceT2Step_fences {n : Nat} (hruns : headframeRuns s = true) (hdue : fenceDue s n = true) (hnew : s.fenced.contains n = false) :
    let v := freeValue s
    let t := { v.2 with fenced := insSorted n v.2.fenced }
    fenceT2Step s n = (claimsOnT2 t n).foldl (fun s c =>
      claimFatal s c (failCodes.getD (v.1.toNat % failCodes.length) stOwnerFault) { cls := 2, unit := 0x05, inst := n, kind := 14 }) t := by
  have hfences : ¬ (!headframeRuns s || !fenceDue s n || s.fenced.contains n) = true := by rw [hruns, hdue, hnew]; decide
  unfold fenceT2Step
  exact if_neg hfences
theorem flashWriteStep_writes (haux : s.pins.good.contains .vddAux = true) (hperst : s.pins.perst = false) :
    flashWriteStep s = { s with sump := writeSump s.sump } := by
  have hon : (s.pins.good.contains .vddAux && !s.pins.perst) = true := by rw [haux, hperst]; rfl
  exact if_pos hon
end

theorem running_of_fatal {s : State} (h : s.fatal = true) : running s = false := by unfold running; rw [h]; rfl

end Sys2Proof.Machine

open Sys2Proof Sys2Proof.Machine

/-- Settles O30: each row of the winder past the guard that the winder runs. -/
theorem winderRules : Obligations.WinderRules := by
  refine ⟨fun s hruns => ⟨fun p => congrArg _ (controlStep_runs hruns p), fun n hraise => congrArg _ (settledStep_settles hruns hraise),
    fun b => congrArg _ (trimLowerStep_lowers hruns rfl), fun hs0 => congrArg _ (trimSaveStep_saves hruns hs0)⟩,
    fun s hruns => ⟨fun f hs0 => congrArg _ (droopStep_acts hruns f hs0), fun rails hfeeds => congrArg _ (currentStep_acts hruns hfeeds), ?_⟩⟩
  intro b hs2 t w
  have hexec : exec (.lampCanaryFail b) s = _ := congrArg Host.Outcome.next (canaryFailStep_acts (b := b) (t := t) (w := w) hruns hs2 rfl rfl)
  refine ⟨fun hlow => hexec.trans (congrArg _ (if_pos hlow)), fun hhigh => ?_⟩
  exact hexec.trans (congrArg _ (if_neg (Int.not_lt.2 hhigh)))

/-- Settles O31: the thresholds in quarter degrees; THERMTRIP is a device-fatal error that stops every domain. -/
theorem thermalLimits : Obligations.ThermalLimits := by
  refine ⟨fun s => ⟨fun hruns mean => ⟨fun h => congrArg _ (thermalStep_hot hruns h), fun h => congrArg _ (thermalStep_cool hruns h),
    fun hlo hhi => congrArg _ (thermalStep_between hruns hlo hhi)⟩,
    fun hruns t => ⟨fun ht hrec => congrArg _ (temperatureStep_normal hruns ht hrec), fun ht hrec => congrArg _ (temperatureStep_begins hruns ht hrec),
      fun ht hrec => congrArg _ (temperatureStep_warm hruns ht hrec), fun ht hrec hcool => congrArg _ (temperatureStep_cools hruns ht hrec hcool),
      fun t0 ht hrec hcool => congrArg _ (temperatureStep_stays hruns ht hrec hcool)⟩,
    fun sensor t ht htrip haux => congrArg _ (thermtripStep_trips ht htrip haux)⟩, ?_⟩
  intro s t sensor x hx htrip haux hexec
  obtain rfl := Host.Outcome.next.inj ((congrArg Host.Outcome.next (thermtripStep_trips hx htrip haux)).symm.trans hexec)
  have hfatal := (deviceFatal_stops s { cls := 3, unit := 0x0D, kind := 13, d4 := sensor, d5 := (BitVec.ofInt 64 x).toNat }).1
  exact ⟨rfl, rfl, hfatal, running_of_fatal hfatal⟩

/-- Settles O32: each error past the guard that the headframe runs, and the stop of a device-fatal one. -/
theorem errorClasses : Obligations.ErrorClasses := by
  refine ⟨fun s => ⟨fun core pc hruns => congrArg _ (watchdogStep_expires hruns), ?_,
    fun n hruns hdue hnew => congrArg _ (fenceT2Step_fences hruns hdue hnew), fun haux hperst => congrArg _ (flashWriteStep_writes haux hperst)⟩, ?_⟩
  · intro b again hruns n t
    have hexec : exec (.fabricCrcFail b again) s = _ := congrArg Host.Outcome.next (fabricStep_counts (b := b) (again := again) hruns)
    exact ⟨fun hfew => hexec.trans (congrArg _ (if_neg (Nat.not_le.2 hfew))), fun hlast => hexec.trans (congrArg _ (if_pos hlast))⟩
  · intro s t core pc hruns hno hexec
    obtain rfl := Host.Outcome.next.inj ((congrArg Host.Outcome.next (watchdogStep_expires hruns)).symm.trans hexec)
    obtain ⟨hfatal, hfault⟩ := deviceFatal_stops s { cls := 3, unit := 0x0A, inst := core, kind := 7, d4 := pc.toNat }
    exact ⟨hfatal, hfault hno, running_of_fatal hfatal⟩
end

section
/-!
PROOFS. Resets, boot, the power states, the rails and the test port (R411 to R434, R485 to R493).
-/
namespace Sys2Proof.Machine
open Sys2Proof

/-! ### Resets and boot -/

section
variable {s : State}

theorem flrStep_one {n : Nat} (hup : aditUp s = true) (h0 : n ≠ 0) (hon : n ≤ s.vfs) : flrStep s n = coolCap (resetFn s n) := by
  have hgo : ¬ (!aditUp s || decide (s.vfs < n)) = true := by simp [hup, Nat.not_lt.2 hon]
  unfold flrStep
  rw [if_neg hgo, if_neg h0]
theorem flrStep_off {n : Nat} (hoff : s.vfs < n) : flrStep s n = s := by
  have hno : (!aditUp s || decide (s.vfs < n)) = true := by simp [hoff]
  exact if_pos hno
theorem flrStep_all {n : Nat} (hup : aditUp s = true) (h0 : n = 0) : flrStep s n = coolCap ((List.range 33).foldl resetFn s) := by
  have hgo : ¬ (!aditUp s || decide (s.vfs < 0)) = true := by simp [hup]
  subst h0
  unfold flrStep
  rw [if_neg hgo, if_pos rfl]
theorem hotStep_resets {t : State} (hup : aditUp s = true) (ht : coolCap ((List.range 33).foldl resetFn s) = t) :
    hotStep s = { t with side := { t.side with ide0 := .insecure, ide1 := .insecure } } := by
  unfold hotStep
  rw [if_neg (not_not_of_true hup), ht]
theorem deassertStep_starts {smb : BitVec 2} {srns : Bool} (hperst : s.pins.perst = true) (haux : s.pins.good.contains .vddAux = true) :
    deassertStep s smb srns = { s with
      pins := { s.pins with perst := false, tap := if tapFree s.pins.tap then s.pins.tap else tapBypass }
      boot := { s.boot with smbAddr := smb, srns := srns, stage := if s.pins.stopped then .held else .straps } } := by
  have hgo : ¬ (!s.pins.perst || !s.pins.good.contains .vddAux) = true := by rw [hperst, haux]; decide
  unfold deassertStep
  rw [if_neg hgo]
  rfl
theorem aditStep_ready (hperst : s.pins.perst = false) (hstop : s.pins.stopped = false) (hs0 : s.power = .s0) (hstage : s.boot.stage = .straps) :
    aditStep s = { s with boot := { s.boot with stage := .adit } } := by
  have hgo : ¬ (s.pins.perst || s.pins.stopped || s.boot.stage != .straps || s.power != .s0) = true := by rw [hperst, hstop, hstage, hs0]; decide
  exact if_neg hgo
theorem readyStep_ends {inp : BootInputs} (hperst : s.pins.perst = false) (hstop : s.pins.stopped = false) (hs0 : s.power = .s0)
    (hstage : s.boot.stage = .adit) : readyStep s inp = bootEnd s inp := by
  have hgo : ¬ (s.pins.perst || s.pins.stopped || s.boot.stage != .adit || s.power != .s0) = true := by rw [hperst, hstop, hstage, hs0]; decide
  exact if_neg hgo

/-! ### Power states -/

section
variable {e : Entry} (hruns : running s = true) (he : s.entry = some e)
include hruns he

theorem enteredStep_s1 (htarget : e.target = .s1) : enteredStep s = heldWakes (replyTo { s with entry := none, power := .s1 } e.cmd stOk 0 0) := by
  unfold enteredStep
  rw [if_neg (not_not_of_true hruns), he]
  dsimp only
  rw [htarget]
theorem enteredStep_s2 {t : State} (htarget : e.target = .s2) (ht : { s with entry := none } = t) :
    enteredStep s = heldWakes (replyTo { loseT0 t with power := .s2, bell := sleepBell t.bell } e.cmd stOk 0 0) := by
  subst ht
  unfold enteredStep
  rw [if_neg (not_not_of_true hruns), he]
  dsimp only
  rw [htarget]
theorem enteredStep_s3 {t : State} (htarget : e.target = .s3) (ht : { s with entry := none } = t) :
    enteredStep s = sealDown (replyTo (abortRings (endClaims t) e.cmd) e.cmd stOk 0 0) e.retained e.wake := by
  subst ht
  unfold enteredStep
  rw [if_neg (not_not_of_true hruns), he]
  dsimp only
  rw [htarget]
theorem enteredStep_s4 {t u : State} (htarget : e.target = .s4) (ht : { s with entry := none } = t)
    (hu : fundamental (saveTrims (replyTo (abortRings (endClaims t) e.cmd) e.cmd stOk 0 0)) = u) :
    enteredStep s = { u with power := .s4, pins := { u.pins with perst := false } } := by
  subst ht
  unfold enteredStep
  rw [if_neg (not_not_of_true hruns), he]
  dsimp only
  rw [htarget]
  subst hu
  rfl
end

section
variable (hfatal : s.fatal = false) (hperst : s.pins.perst = false) (hstop : s.pins.stopped = false) (hin : inS1S2 s = true)
include hfatal hperst hstop hin

theorem exitStep_begins {c : WakeCause} (hexit : s.exit = none) (hwakes : wakes s c = true) : exitStep s c = { s with exit := some c } := by
  have hgo : (inS1S2 s && !s.fatal && !s.pins.perst && !s.pins.stopped && s.exit.isNone && wakes s c) = true := by
    rw [hin, hfatal, hperst, hstop, hexit, hwakes]; rfl
  exact if_pos hgo
theorem s0ReturnStep_returns {c : WakeCause} {u : State} (hexit : s.exit = some c)
    (hu : pumpDescs { s with power := .s0, exit := none, bell := rejoinBell s.bell } = u) :
    s0ReturnStep s = s.side.held.foldl serveSide { u with side := { u.side with held := [] } } := by
  have hgo : (inS1S2 s && s.exit.isSome && !s.fatal && !s.pins.perst && !s.pins.stopped) = true := by
    rw [hin, hfatal, hperst, hstop, hexit]; rfl
  unfold s0ReturnStep returnStep
  rw [if_pos hgo, hu]
  rfl
end

section
variable (hperst : s.pins.perst = false) (hstop : s.pins.stopped = false)
include hperst hstop

theorem wakeN_wakes : (if s.pins.perst || s.pins.stopped then s else wakeUp s) = wakeUp s := by
  have hgo : ¬ (s.pins.perst || s.pins.stopped) = true := by rw [hperst, hstop]; decide
  exact if_neg hgo
theorem smbusStep_matches {a : Nat} (ha : a = 0x60 + s.boot.smbAddr.toNat) (hs4 : s.power ≠ .s4) {h : Bool × State} (hh : inHandOver s = h) :
    smbusStep s a = if h.1 then { h.2 with side := { h.2.side with nack := true } } else wakeUp { h.2 with side := { h.2.side with nack := h.2.power == .s3 } } := by
  have hgo : ¬ (s.pins.perst || s.pins.stopped || a != 0x60 + s.boot.smbAddr.toNat) = true := by simp [hperst, hstop, ha]
  unfold smbusStep
  rw [if_neg hgo, if_neg hs4, hh]
theorem resumeStep_boots {inp : BootInputs} (hs3 : s.power = .s3) (hwaking : s.boot.waking = true) :
    resumeStep s inp = bootEnd { s with power := .s0, time := 0, elapsed := 0, sump := { s.sump with since := 0 }, boot := { s.boot with stage := .adit, waking := false } } inp := by
  have hgo : s.power = .s3 ∧ s.boot.waking = true ∧ (!s.pins.perst) = true ∧ (!s.pins.stopped) = true := ⟨hs3, hwaking, by rw [hperst]; rfl, by rw [hstop]; rfl⟩
  exact if_pos hgo
end
theorem inHandOver_power (s : State) : (inHandOver s).2.power = s.power := by
  unfold inHandOver
  split <;> rfl

/-- A run of numbers set, each to a value of its own: those numbers read as their values, others as before. -/
theorem get_foldl_set {α : Type} [DecidableEq α] {d : α} (g : Nat → α) (l : List Nat) {t : Tab α} (ht : Tab.wf d t = true) (k : Nat) :
    Tab.get d (l.foldl (fun t f => Tab.set d t f (g f)) t) k = if k ∈ l then g k else Tab.get d t k := by
  induction l generalizing t with
  | nil => simp
  | cons f l ih =>
    rw [List.foldl_cons, ih (Tab.wf_set ht f (g f)), Tab.get_set_wf ht]
    by_cases hk : k = f
    · subst hk
      simp
    · simp [hk]
/-- A face as the loss of T0 leaves it. -/
def lostFace (s : State) (f : Nat) : Face := { face s f with t0 := [], t0By := [], lost := some (s.freeCtr + f) }
theorem loseT0_faces (s : State) : (loseT0 s).faces = (List.range 128).foldl (fun t f => Tab.set {} t f (lostFace s f)) s.faces := by
  simp only [loseT0, lostFace]
theorem face_loseT0 (h : s.canonical = true) (f : Fin 128) : face (loseT0 s) f = lostFace s f := by
  have hget := get_foldl_set (lostFace s) (List.range 128) (canonical_faces h) f
  rw [if_pos (List.mem_range.2 f.isLt)] at hget
  unfold face
  rw [loseT0_faces]
  exact hget
theorem memWord_loseT0 (h : s.canonical = true) (f : Fin 128) (i : Nat) : memWord (loseT0 s) (.t0 f) i = Config.lostWord (s.freeCtr + f) i := by
  have hface := face_loseT0 h f
  have htab : memTab (loseT0 s) (.t0 f) = [] := congrArg Face.t0 hface
  have hlost : lostBits (loseT0 s) (.t0 f) i = Config.lostWord (s.freeCtr + f) i := by
    unfold lostBits
    dsimp only
    rw [hface, lostFace]
  unfold memWord
  rw [if_neg (by exact Bool.false_ne_true), htab, hlost]
  exact BitVec.zero_xor

/-! ### Rails and the test port -/

/-- A rail comes: of a bench, it may be late; VDD_AUX resets the TAP; another changes no more. -/
theorem railGoodStep_comes {r : Rail} {late : Bool} (hnew : s.pins.good.contains r = false) : railGoodStep s r late = { s with pins := { s.pins with
    good := addRail s.pins.good r
    tap := if r = .vddAux then tapIdcode else s.pins.tap
    tapReset := r == .vddAux || s.pins.tapReset
    offB := match benchOf r with | some b => if late then insSorted b s.pins.offB else s.pins.offB | none => s.pins.offB } } := by
  unfold railGoodStep
  rw [if_neg (not_true_of_false hnew)]
  cases r with
  | vddAux => rfl
  | vinB0 => cases late <;> rfl
  | vinB1 => cases late <;> rfl
  | vinB2 => cases late <;> rfl
  | vinB3 => cases late <;> rfl
  | vinM => rfl
  | vddIo => rfl
  | vddAna => rfl
  | vddLas => rfl
theorem railLossStep_io {r : Rail} {aux : Bool} (hio : ioRail r = true) (hgood : s.pins.good.contains r = true) :
    railLossStep s r aux = dropRail s r := by
  unfold railLossStep
  rw [if_neg (not_not_of_true hgood), if_pos hio]
theorem not_ioRail_of_feedsBench {r : Rail} (h : feedsBench r = true) : ioRail r = false := by
  cases r with
  | vinB0 => rfl
  | vinB1 => rfl
  | vinB2 => rfl
  | vinB3 => rfl
  | vinM => rfl
  | vddIo => cases h
  | vddAna => cases h
  | vddAux => cases h
  | vddLas => cases h
theorem railLossStep_bench {r : Rail} {aux : Bool} (hfeeds : feedsBench r = true) (hgood : s.pins.good.contains r = true)
    (hperst : s.pins.perst = false) (hstop : s.pins.stopped = false) (hs4 : s.power ≠ .s4) :
    let t := modPins (stopDomains (dropRail s r)) fun p => { p with fault := true }
    railLossStep s r aux = if aux then { t with sump := flushSump t.sump } else loseSump t := by
  have hgo : ¬ ((dropRail s r).pins.perst || (dropRail s r).pins.stopped || (dropRail s r).power == .s4) = true := by
    rw [show (dropRail s r).pins.perst = false from hperst, show (dropRail s r).pins.stopped = false from hstop, show (dropRail s r).power = s.power from rfl]
    simpa using hs4
  unfold railLossStep
  rw [if_neg (not_not_of_true hgood), if_neg (not_true_of_false (not_ioRail_of_feedsBench hfeeds)), if_neg (not_not_of_true hfeeds)]
  exact if_neg hgo
theorem lasOffStep_dark (hgood : s.pins.good.contains .vddLas = true) : lasOffStep s = (List.range 52).foldl shaftDark (dropRail s .vddLas) := by
  unfold lasOffStep
  rw [if_neg (not_not_of_true hgood)]
theorem lasGoodStep_lights {t : State} (ht : modPins s (fun p => { p with good := addRail p.good .vddLas }) = t) (hlinks : linksRun t = true)
    (hfatal : t.fatal = false) (hlasers : lasersOn t = true) : lasGoodStep s = (List.range 52).foldl (fun s n =>
      if (shaft s n).enabled && (shaft s n).state == .off then setShaft s n { shaft s n with state := .laser } else s) t := by
  have hgo : ¬ (!linksRun t || t.fatal || !lasersOn t) = true := by rw [hlinks, hfatal, hlasers]; decide
  unfold lasGoodStep
  rw [ht, if_neg hgo]
theorem auxOffStep_off (hgood : s.pins.good.contains .vddAux = true) : auxOffStep s =
    modPins (fundamental (loseSump (dropRail s .vddAux))) fun p => { p with trip := false, stopped := false, tap := tapIdcode, tapReset := true } := by
  unfold auxOffStep
  rw [if_neg (not_not_of_true hgood)]
theorem tapStep_loads {c : Byte} (hworks : tapWorks s = true) :
    let u := if tapLoaded s.pins.perst c = 0x02 then sampleBound s else s
    tapStep s c = { u with pins := { u.pins with
      tap := tapLoaded s.pins.perst c, tapReset := false
      tapUsed := u.pins.tapUsed || (tapLoaded s.pins.perst c != tapBypass && tapLoaded s.pins.perst c != tapIdcode) } } := by
  unfold tapStep
  rw [if_neg (not_not_of_true hworks)]
  rfl
end

/-- What a load leaves with PERST_N deasserted moves no pins. -/
theorem tapFree_tapLoaded (c : Byte) : tapFree (tapLoaded false c) = true := by
  unfold tapLoaded
  rw [Bool.false_or]
  split
  · assumption
  · decide
/-- A code that is not listed selects BYPASS, of one bit. -/
theorem tapLoaded_unlisted {c : Byte} (perst : Bool) (h : ¬ (1 ≤ c.toNat ∧ c.toNat ≤ 7)) : tapLoaded perst c = tapBypass := by
  have hlisted : tapListed c = tapBypass := if_neg h
  unfold tapLoaded
  rw [hlisted, ite_self]
theorem tapRegister_idcode {s : State} (h : s.pins.tap = 0x01) : tapRegister s = (32, 0x0961278B) := by
  unfold tapRegister
  rw [h]
  exact congrArg (Prod.mk 32) (by decide)
theorem tapRegister_boundary {s : State} (h : s.pins.tap = 0x02 ∨ s.pins.tap = 0x03 ∨ s.pins.tap = 0x06 ∨ s.pins.tap = 0x07) :
    tapRegister s = (96, s.pins.bound.toNat) := by
  unfold tapRegister
  rcases h with h | h | h | h
  · rw [h]; rfl
  · rw [h]; rfl
  · rw [h]; rfl
  · rw [h]; rfl
theorem tapRegister_bypass {s : State} (h : s.pins.tap = tapBypass) : tapRegister s = (1, 0) := by
  unfold tapRegister
  rw [h]
  rfl
theorem landLevel_trip {s : State} (h : s.pins.trip = true) (asserted : Bool) (cell : Nat) : landLevel s asserted cell = some false := if_pos h
theorem landLevel_extest {s : State} (htrip : s.pins.trip = false) (hworks : tapWorks s = true) (htap : s.pins.tap = 0x03) (asserted : Bool) (cell : Nat) :
    landLevel s asserted cell = some (s.pins.bound.getLsbD (cell % 96)) := by
  have hdrive : pinDrive s = .cells := by
    unfold pinDrive
    rw [if_neg (not_not_of_true hworks), htap]
    rfl
  unfold landLevel
  rw [if_neg (not_true_of_false htrip), hdrive]

end Sys2Proof.Machine

open Sys2Proof Sys2Proof.Machine

/-- Settles O34: `fundamental` gives every field but those that it names its reset value. -/
theorem fundamentalReset : Obligations.FundamentalReset := by
  intro s t hexec
  obtain rfl := Host.Outcome.next.inj (show Host.Outcome.next (fundamental s) = .next t from hexec)
  exact ⟨rfl, rfl, rfl, rfl, rfl, rfl, rfl, rfl, rfl, rfl, rfl, rfl, rfl, rfl, rfl⟩

/-- Settles O33: each reset and step of boot past its guards. -/
theorem resetsAndBoot : Obligations.ResetsAndBoot := by
  intro s
  refine ⟨rfl, fun hup fn h0 hon => congrArg _ (flrStep_one hup h0 hon), fun fn hoff => congrArg _ (flrStep_off hoff), fun hup => ?_,
    fun hup => ?_, fun smb srns hperst haux => congrArg _ (deassertStep_starts hperst haux),
    fun hperst hstop hs0 => ⟨fun hstage => congrArg _ (aditStep_ready hperst hstop hs0 hstage), fun inp hstage => congrArg _ (readyStep_ends hperst hstop hs0 hstage)⟩,
    fun u hruns => ?_⟩
  · have hexec : exec (.functionLevelReset 0) s = .next (flrStep s (0 : Fin 33).val) := rfl
    exact hexec.trans (congrArg Host.Outcome.next (flrStep_all hup rfl))
  · intro t
    have hexec : exec .hotReset s = .next (hotStep s) := rfl
    exact hexec.trans (congrArg Host.Outcome.next (hotStep_resets (t := t) hup rfl))
  · cases u with
    | stack n => exact congrArg Host.Outcome.next (if_neg (not_not_of_true hruns))
    | t2All => exact congrArg Host.Outcome.next (if_neg (not_not_of_true hruns))

/-- Settles O35: each end of an entry, each return and wake past its guards; a face that lost its T0 reads the free word of the loss. -/
theorem powerStates : Obligations.PowerStates := by
  refine ⟨fun s => ⟨fun e hruns he => ?_, fun hfatal hperst hstop hin => ⟨fun c hexit hwakes => ?_, fun c hexit => ?_⟩,
    fun hperst hstop => ⟨congrArg _ (wakeN_wakes hperst hstop), fun a ha hs4 => ?_, fun inp hs3 hwaking => ?_⟩⟩, fun s f i h => memWord_loseT0 h f i⟩
  · intro t
    refine ⟨fun htarget => congrArg _ (enteredStep_s1 hruns he htarget), fun htarget => congrArg _ (enteredStep_s2 (t := t) hruns he htarget rfl),
      fun htarget => congrArg _ (enteredStep_s3 (t := t) hruns he htarget rfl), fun htarget => ?_⟩
    intro u
    exact congrArg _ (enteredStep_s4 (t := t) (u := u) hruns he htarget rfl rfl)
  · exact congrArg _ (exitStep_begins hfatal hperst hstop hin hexit hwakes)
  · exact congrArg _ (s0ReturnStep_returns hfatal hperst hstop hin hexit rfl)
  · intro h
    have hpower : h.2.power = s.power := inHandOver_power s
    have hexec : exec (.smbusAddressMatch a) s = .next (smbusStep s a.toNat) := rfl
    rw [hexec, smbusStep_matches hperst hstop ha hs4 (h := h) rfl, hpower]
  · exact congrArg _ (resumeStep_boots hperst hstop hs3 hwaking)

/-- Settles O36: each rail and each load of the TAP past its guards; the register and the lands by the loaded code. -/
theorem railsAndTap : Obligations.RailsAndTap := by
  refine ⟨fun s => ⟨fun r late hnew => ?_, fun r aux hio hgood => congrArg _ (railLossStep_io hio hgood),
    fun r aux hfeeds hgood hperst hstop hs4 => congrArg _ (railLossStep_bench hfeeds hgood hperst hstop hs4), fun hgood => ?_,
    ?_, fun hgood => congrArg _ (auxOffStep_off hgood), rfl,
    fun code hworks => congrArg _ (tapStep_loads hworks)⟩, ?_, fun s => ⟨by decide, tapRegister_idcode, tapRegister_boundary, fun c hc hno => ?_,
    fun htrip => ⟨landLevel_trip htrip _ _, landLevel_trip htrip _ _⟩, fun htrip hworks htap => ⟨landLevel_extest htrip hworks htap _ _, landLevel_extest htrip hworks htap _ _⟩⟩⟩
  · exact congrArg _ (railGoodStep_comes hnew)
  · have hexec : exec .vddLasRemoved s = .next (lasOffStep s) := rfl
    rw [hexec, lasOffStep_dark hgood]
  · intro t hlinks hfatal hlasers
    have hexec : exec .vddLasGood s = .next (lasGoodStep s) := rfl
    exact hexec.trans (congrArg Host.Outcome.next (lasGoodStep_lights (t := t) rfl hlinks hfatal hlasers))
  · intro s t code hperst hworks hexec
    obtain rfl := Host.Outcome.next.inj ((congrArg Host.Outcome.next (tapStep_loads hworks)).symm.trans hexec)
    have htap := tapFree_tapLoaded code
    rw [← hperst] at htap
    exact htap
  · exact tapRegister_bypass (hc.trans (tapLoaded_unlisted _ hno))
end

section
/-!
PROOFS. The host's windows, rings and registers (R356, R357, R361, R367, R447 to R454, R494 to R508).
-/
namespace Sys2Proof.Machine
open Sys2Proof

section
variable {s : State} {bar2 : Bool} {fn off : Nat} {f : State → State}

theorem onHost_taken (h : tlpTaken s bar2 fn off = true) : onHost s bar2 fn off f = f s := if_pos h
/-- What would do nothing where it is taken does nothing. -/
theorem onHost_idle (h : f s = s) : onHost s bar2 fn off f = s := by
  unfold onHost
  split
  · exact h
  · rfl
end

/-! ### Function claims and windows -/

section
variable {s : State}

theorem not_physical {n : Nat} (h : n ≠ 0) : (!aditUp s || n != 0) = true := by simp [h]
theorem physical (hup : aditUp s = true) : ¬ (!aditUp s || (0 : Nat) != 0) = true := by simp [hup]
theorem fnClaimStep_physical {g v : Nat} (hup : aditUp s = true) : fnClaimStep s 0 g v = setFn s g { fnOf s g with
    fcClaim := bits v 2 0, fcValid := v.testBit 3, entryErr := (fnOf s g).entryErr && !v.testBit 4
    window := (fnOf s g).window.foldl (fun t e => Tab.set 0 t e.1 (keep e.2.toNat (span 9 0))) (fnOf s g).window } := by
  unfold fnClaimStep
  rw [if_neg (physical hup)]
theorem fnOwns_iff {x : Fn} {n : Nat} : fnOwns s x n = true ↔ x.fcValid = true ∧ n ≤ 767 ∧ ownsT1 (claim s x.fcClaim) n = true := by
  unfold fnOwns
  rw [Bool.and_eq_true, Bool.and_eq_true, decide_eq_true_eq, and_assoc]
theorem entryStep_owned {g slot v : Nat} (hup : aditUp s = true) (h : fnOwns s (fnOf s g) (bits v 9 0) = true) :
    entryStep s 0 g slot v = setFn s g { fnOf s g with window := Tab.set 0 (fnOf s g).window slot (keep v (span 63 63 + span 9 0)) } := by
  unfold entryStep
  rw [if_neg (physical hup)]
  exact if_neg (not_not_of_true h)
theorem entryStep_foreign {g slot v : Nat} (hup : aditUp s = true) (h : ¬ fnOwns s (fnOf s g) (bits v 9 0) = true) :
    entryStep s 0 g slot v = setFn s g { fnOf s g with entryErr := true } := by
  unfold entryStep
  rw [if_neg (physical hup)]
  exact if_pos (by simpa using h)
theorem windowDropStep_physical {g : Nat} (hup : aditUp s = true) :
    windowDropStep s 0 g = complete (setFn s g { fnOf s g with drop := 0 }) .success [w64 (fnOf s g).drop] false := by
  unfold windowDropStep
  rw [if_neg (not_not_of_true hup)]
  exact if_neg (fun h => h rfl)
theorem windowDropStep_virtual {fn g : Nat} (hup : aditUp s = true) (hfn : fn ≠ 0) : windowDropStep s fn g = complete s .success [0] false := by
  unfold windowDropStep
  rw [if_neg (not_not_of_true hup), if_pos hfn]

/-! ### The T1 window -/

section
variable {fn off n : Nat} (hup : aditUp s = true) (hs0 : s.power = .s0)
include hup hs0

theorem barRuns_of : ¬ (!barRuns s) = true := by
  unfold barRuns
  rw [hup, hs0]
  decide
theorem barReadStep_words {is : List Nat} (h : barCheck s fn off n = .words is) : barReadStep s fn off n =
    complete (is.foldl (fun s i => noteWord s .t1 i) s) .success
      (bytesWords (((wordsBytes ((is.map (readWord s .t1)).map (·.data))).drop (off % 8)).take n)) ((is.map (readWord s .t1)).any (·.poison)) := by
  unfold barReadStep
  rw [if_neg (barRuns_of hup hs0), h]
theorem barReadStep_unmapped (h : barCheck s fn off n = .unmapped) : barReadStep s fn off n = complete (countDrop s fn) .unsupported [] false := by
  unfold barReadStep
  rw [if_neg (barRuns_of hup hs0), h]
theorem barReadStep_foreign {a : Nat} (h : barCheck s fn off n = .foreign a) : barReadStep s fn off n = complete (barForeign s fn a) .abort [] false := by
  unfold barReadStep
  rw [if_neg (barRuns_of hup hs0), h]
variable {bs : List Byte} {ep : Bool}
theorem barWriteStep_unmapped (h : barCheck s fn off bs.length = .unmapped) : barWriteStep s fn off bs ep = countDrop s fn := by
  unfold barWriteStep
  rw [if_neg (barRuns_of hup hs0), h]
theorem barWriteStep_foreign {a : Nat} (h : barCheck s fn off bs.length = .foreign a) : barWriteStep s fn off bs ep = barForeign s fn a := by
  unfold barWriteStep
  rw [if_neg (barRuns_of hup hs0), h]
theorem barWriteStep_poisons {is : List Nat} (h : barCheck s fn off bs.length = .words is) :
    barWriteStep s fn off bs true = is.foldl (fun s i => putWord s .t1 i ⟨0, true⟩) (dirtyFrames s (fnOf s fn).fcClaim is) := by
  unfold barWriteStep
  rw [if_neg (barRuns_of hup hs0), h]
  exact if_pos rfl
theorem barWriteStep_merges {is : List Nat} (h : barCheck s fn off bs.length = .words is) : barWriteStep s fn off bs false =
    (gatherBytes (bs.zipIdx.map fun p => (off + p.2, p.1))).foldl (fun s e => mergeWord s .t1 (is.getD (e.1 - off / 8) 0) e.2.1 e.2.2)
      (dirtyFrames s (fnOf s fn).fcClaim is) := by
  unfold barWriteStep
  rw [if_neg (barRuns_of hup hs0), h]
  exact if_neg Bool.false_ne_true
end
theorem barForeign_ends {fn a : Nat} (h : (fnOf s fn).fcValid = true) : barForeign s fn a =
    claimFatal (countDrop s fn) (fnOf s fn).fcClaim stOwnerFault { cls := 2, unit := 0x09, kind := 8, tier := 1, addr := a } := by
  unfold barForeign
  rw [if_neg (not_not_of_true h)]

/-! ### Registers with an effect -/

section
variable {fn : Nat} (hup : aditUp s = true)
include hup

theorem devTimeStep_whole : devTimeStep s fn .whole = complete s .success [w64 (s.time % 2 ^ 64)] false := by
  unfold devTimeStep
  exact if_neg (not_not_of_true hup)
theorem devTimeStep_low : devTimeStep s fn .low =
    complete (setFn s fn { fnOf s fn with latch := some (s.time % 2 ^ 64 / 2 ^ 32) }) .success [w64 (s.time % 2 ^ 64 % 2 ^ 32)] false := by
  unfold devTimeStep
  exact if_neg (not_not_of_true hup)
theorem devTimeStep_high : devTimeStep s fn .high =
    complete (setFn s fn { fnOf s fn with latch := none }) .success [w64 ((fnOf s fn).latch.getD (s.time % 2 ^ 64 / 2 ^ 32))] false := by
  unfold devTimeStep
  exact if_neg (not_not_of_true hup)
theorem droppedStep_physical : droppedStep s 0 = complete { s with sump := { s.sump with dropped := 0 } } .success [w64 s.sump.dropped] false := by
  unfold droppedStep
  rw [if_neg (not_not_of_true hup)]
  exact if_neg (fun h => h rfl)
theorem regWriteStep_sump {v : Nat} :
    regWriteStep s 0 0x2018 8 v = { s with sump := { s.sump with svEn := v.testBit 11, svVec := bits v 10 0 } } := by
  have hgo : ¬ (!aditUp s || !((8 : Nat) == 4 || (8 : Nat) == 8) || 0x2018 % 8 != 0) = true := by rw [hup]; decide
  unfold regWriteStep
  rw [if_neg hgo, if_pos (by decide)]
  rfl
/-- Word 0 of a disabled ring takes what is written. -/
theorem regWriteStep_ring {r : Fin 256} {v : Nat} (hbound : (ring s r).bound = true) (hfn : (ring s r).fn = fn) (hen : (ring s r).enable = false) :
    regWriteStep s fn (0x10000 + 64 * r.val) 8 v = setRing s r { ring s r with w0 := keep v (span 63 12) } := by
  have hr := r.isLt
  have hseen : ringSeen s fn r = true := by unfold ringSeen; rw [hup, hbound, hfn, BEq.rfl]; rfl
  have hgo : ¬ (!aditUp s || !((8 : Nat) == 4 || (8 : Nat) == 8) || (0x10000 + 64 * r.val) % 8 != 0) = true := by
    rw [hup, show (0x10000 + 64 * r.val) % 8 = 0 by omega]; decide
  have hno : ¬ (!ringSeen s fn r || (ring s r).enable) = true := by rw [hseen, hen]; decide
  unfold regWriteStep
  rw [if_neg hgo, if_neg (by omega), if_pos (by omega), show (0x10000 + 64 * r.val - 0x10000) / 64 = r.val by omega,
    show (0x10000 + 64 * r.val) % 64 / 8 = 0 by omega]
  unfold ringWrite
  rw [if_neg (by decide)]
  exact if_neg hno
theorem timeoutStep_ring {r : Fin 256} (hfatal : s.fatal = false) (hstate : ringState (ring s r) = 2) :
    timeoutStep s (.ring r) = logHost (setRing s r { ring s r with err := 4 }) (ringHolder s r) none 0 := by
  have hgo : ¬ (!aditUp s || s.fatal) = true := by rw [hup, hfatal]; decide
  unfold timeoutStep
  rw [if_neg hgo]
  exact if_pos hstate
theorem timeoutStep_queue {q : Fin 41} (hfatal : s.fatal = false) (hconf : (outq s q).conf = true) :
    timeoutStep s (.queue q) = logHost (setOutq s q { outq s q with err := true }) (queueHolder q) none 0 := by
  have hgo : ¬ (!aditUp s || s.fatal) = true := by rw [hup, hfatal]; decide
  unfold timeoutStep
  rw [if_neg hgo]
  exact if_pos hconf
end
theorem regWriteStep_size {fn off size v : Nat} (h4 : size ≠ 4) (h8 : size ≠ 8) : regWriteStep s fn off size v = s := by
  have hno : (!aditUp s || !(size == 4 || size == 8) || off % size != 0) = true := by simp [h4, h8]
  exact if_pos hno

/-! ### Plain reads -/

theorem bar0Read_off {fn off size : Nat} (h : hostOn s false fn off = false) : bar0Read s fn off size = none := by
  unfold bar0Read
  rw [h]
  rfl
theorem bar0Read_reads {fn off size : Nat} (h : hostOn s false fn off = true) (hsize : size = 4 ∨ size = 8) (halign : off % size = 0) :
    let w := bar0Word s fn (off / 8 * 8) % 2 ^ 64
    bar0Read s fn off size = some ⟨.success, [w64 (if size = 8 then w else if off % 8 = 0 then w % 2 ^ 32 else w / 2 ^ 32)], false⟩ := by
  have hgo : ¬ (!(size == 4 || size == 8) || off % size != 0) = true := by rcases hsize with rfl | rfl <;> simp [halign]
  unfold bar0Read
  rw [if_neg (not_not_of_true h), if_neg hgo]
theorem bar0Read_unsupported {fn off size : Nat} (h : hostOn s false fn off = true) (hbad : (size ≠ 4 ∧ size ≠ 8) ∨ off % size ≠ 0) :
    bar0Read s fn off size = some ⟨.unsupported, [], false⟩ := by
  have hno : (!(size == 4 || size == 8) || off % size != 0) = true := by
    rcases hbad with ⟨h4, h8⟩ | hbad
    · simp [h4, h8]
    · simp [hbad]
  unfold bar0Read
  rw [if_neg (not_not_of_true h), if_pos hno]
theorem aditUp_powered (h : aditUp s = true) : linkPowered s = true := by
  unfold aditUp at h
  rw [Bool.and_eq_true] at h
  exact h.1
theorem configRead_up {fn : Nat} (hup : aditUp s = true) (hon : fn ≤ s.vfs) (f : ConfigField) :
    configRead s fn f = some ⟨.success, [w64 (configField s fn f)], false⟩ := by
  unfold configRead
  rw [if_neg (not_not_of_true (aditUp_powered hup)), if_neg (not_not_of_true hup), if_neg (Nat.not_lt.2 hon)]
theorem configRead_retry {fn : Nat} {f : ConfigField} (hperst : s.pins.perst = false) (hstop : s.pins.stopped = false) (htime : timeRuns s = true)
    (hstage : s.boot.stage = .straps) : configRead s fn f = some ⟨.retry, [], false⟩ := by
  have hpowered : linkPowered s = true := by unfold linkPowered; rw [hperst, hstop, htime]; rfl
  have hdown : aditUp s = false := by unfold aditUp; rw [hstage]; simp
  unfold configRead
  rw [if_neg (not_not_of_true hpowered), hdown]
  rfl
theorem identityWord_reserved {n : Nat} (h : 6 ≤ n) : identityWord s n = 0 := by
  unfold identityWord
  split <;> omega
theorem bar0Word_identity {fn off : Nat} (hlo : 0x30 ≤ off) (hhi : off < 0x1000) : bar0Word s fn off = 0 := by
  unfold bar0Word
  rw [if_pos hhi]
  exact identityWord_reserved (by omega)
theorem bar0Word_sump_unseen {fn off : Nat} (hfn : fn ≠ 0) (hlo : 0x2000 ≤ off) (hhi : off < 0x3000) : bar0Word s fn off = 0 := by
  unfold bar0Word
  rw [if_neg (by omega), if_neg (by omega), if_pos hhi, if_neg hfn]
theorem bar0Word_fn_unseen {fn off : Nat} (hfn : fn ≠ 0) (hlo : 0x500000 ≤ off) (hhi : off < 0x508400) : bar0Word s fn off = 0 := by
  unfold bar0Word
  rw [if_neg (by omega), if_neg (by omega), if_neg (by omega), if_neg (by omega), if_neg (by omega), if_neg (by omega), if_pos ⟨hlo, hhi⟩, if_neg hfn]
theorem bar0Word_ring {fn : Nat} (r : Fin 256) {n : Nat} (hn : n < 8) :
    bar0Word s fn (0x10000 + 64 * r.val + 8 * n) = if ringSeen s fn r then ringWord (ring s r) n else 0 := by
  have hr := r.isLt
  unfold bar0Word
  rw [if_neg (by omega), if_neg (by omega), if_neg (by omega), if_pos (by omega)]
  rw [show (0x10000 + 64 * r.val + 8 * n - 0x10000) / 64 = r.val by omega, show (0x10000 + 64 * r.val + 8 * n) % 64 / 8 = n by omega]
end

/-! ### A ring that stands in error while it is disabled -/

/-- A device in S0 with ring 1 bound to the physical function, disabled, and with ERR 3: a state that every hypothesis of O38 admits. -/
def erredState : State := { State.reset with
  boot := { State.reset.boot with stage := .ready }, pins := { State.reset.pins with perst := false }
  rings := [(0, { bound := true }), (1, { bound := true, err := 3 })] }
/-- SQ_TAIL of ring 1 in the next state. -/
def tailAfter (o : Res) : Nat := match o with | .next t => (ring t 1).sqTail | .fault _ => 0 | .refused _ => 0
/-- STATE of the ring is 3, so its doorbell changes nothing. -/
theorem tailAfter_erred : tailAfter (exec (.sqTail 0 1 1) erredState) = 0 := by decide +kernel

end Sys2Proof.Machine

open Sys2Proof Sys2Proof.Machine

/-- Settles O37: each write and access past its guards, by the outcome of the window's checks. -/
theorem hostWindows : Obligations.HostWindows := by
  refine ⟨fun s g v hup => ?_, fun s fn off n hup hs0 htaken => ?_⟩
  · intro x n
    refine ⟨fun htaken => ?_, fun slot htaken => ?_, fun fn hfn => ⟨?_, fun slot => ?_⟩, fun htaken => ?_, fun fn hfn htaken => ?_⟩
    · exact congrArg Host.Outcome.next ((onHost_taken htaken).trans (fnClaimStep_physical hup))
    · intro owned
      exact ⟨fun h => congrArg Host.Outcome.next ((onHost_taken htaken).trans (entryStep_owned hup (fnOwns_iff.2 h))),
        fun h => congrArg Host.Outcome.next ((onHost_taken htaken).trans (entryStep_foreign hup (mt fnOwns_iff.1 h)))⟩
    · exact congrArg Host.Outcome.next (onHost_idle (if_pos (not_physical hfn)))
    · exact congrArg Host.Outcome.next (onHost_idle (if_pos (not_physical hfn)))
    · exact congrArg Host.Outcome.next ((onHost_taken htaken).trans (windowDropStep_physical hup))
    · exact congrArg Host.Outcome.next ((onHost_taken htaken).trans (windowDropStep_virtual hup hfn))
  · refine ⟨fun is h => ?_, fun h => ⟨?_, fun bs ep hlen => ?_⟩, fun a h hvalid => ⟨?_, fun bs ep hlen => ?_⟩, fun is bs hlen h => ⟨?_, ?_⟩⟩
    · exact congrArg Host.Outcome.next ((onHost_taken htaken).trans (barReadStep_words hup hs0 h))
    · exact congrArg Host.Outcome.next ((onHost_taken htaken).trans (barReadStep_unmapped hup hs0 h))
    · subst hlen
      exact congrArg Host.Outcome.next ((onHost_taken htaken).trans (barWriteStep_unmapped hup hs0 h))
    · exact congrArg Host.Outcome.next ((onHost_taken htaken).trans ((barReadStep_foreign hup hs0 h).trans
        (congrArg (fun t => complete t .abort [] false) (barForeign_ends hvalid))))
    · subst hlen
      exact congrArg Host.Outcome.next ((onHost_taken htaken).trans ((barWriteStep_foreign hup hs0 h).trans (barForeign_ends hvalid)))
    · subst hlen
      exact congrArg Host.Outcome.next ((onHost_taken htaken).trans (barWriteStep_poisons hup hs0 h))
    · subst hlen
      exact congrArg Host.Outcome.next ((onHost_taken htaken).trans (barWriteStep_merges hup hs0 h))

/-- Refutes O38: the statement lets a disabled ring take SQ_TAIL whatever its ERR, but in the state `erredState` ring 1 has ERR 3 while it
is disabled; its STATE is then 3 (R356), and the write of 1 leaves SQ_TAIL at 0. -/
theorem not_hostRings : ¬ Obligations.HostRings := by
  intro h
  obtain ⟨-, -, -, hbells, -⟩ := h.1 erredState 0 1 (by decide +kernel) (by decide +kernel) (by decide +kernel)
  have hsq := ((hbells rfl 1).1 (by decide +kernel)).1 (by decide +kernel)
  have htail : (0 : Nat) = 1 := calc
    0 = tailAfter (exec (.sqTail 0 1 1) erredState) := tailAfter_erred.symm
    _ = tailAfter (.next (setRing erredState 1 { ring erredState 1 with sqTail := 1 })) := congrArg tailAfter hsq
    _ = 1 := by decide +kernel
  exact absurd htail (by decide)

/-- Settles O39: the registers by their guards, and the reads by the region that the offset falls in. -/
theorem hostRegisters : Obligations.HostRegisters := by
  refine ⟨fun s fn hup => ?_, fun s fn off size => ?_⟩
  · intro x t
    refine ⟨fun htaken => ⟨?_, ?_, ?_⟩, fun htaken => ?_, fun hon => ?_, fun off size v h4 h8 => ?_, fun v htaken => ?_,
      fun r v htaken hbound hfn hen => ?_, fun hfatal => ⟨fun r hstate => ?_, fun q hconf => ?_⟩⟩
    · exact congrArg Host.Outcome.next ((onHost_taken htaken).trans (devTimeStep_whole hup))
    · exact congrArg Host.Outcome.next ((onHost_taken htaken).trans (devTimeStep_low hup))
    · exact congrArg Host.Outcome.next ((onHost_taken htaken).trans (devTimeStep_high hup))
    · exact congrArg Host.Outcome.next ((onHost_taken htaken).trans (droppedStep_physical hup))
    · have hgo : (aditUp s && decide (fn.val ≤ s.vfs)) = true := by rw [hup, decide_eq_true hon]; rfl
      exact congrArg Host.Outcome.next (if_pos hgo)
    · exact congrArg Host.Outcome.next (onHost_idle (regWriteStep_size h4 h8))
    · exact congrArg Host.Outcome.next ((onHost_taken htaken).trans (regWriteStep_sump hup))
    · exact congrArg Host.Outcome.next ((onHost_taken htaken).trans (regWriteStep_ring hup hbound hfn hen))
    · exact congrArg Host.Outcome.next (timeoutStep_ring hup hfatal hstate)
    · exact congrArg Host.Outcome.next (timeoutStep_queue hup hfatal hconf)
  · refine ⟨bar0Read_off, fun f hperst hstop htime hstage => configRead_retry hperst hstop htime hstage,
      fun hup hon => ⟨configRead_up hup hon .vendor, ?_, configRead_up hup hon .classCode⟩, bar0Read_reads, bar0Read_unsupported,
      rfl, bar0Word_identity, fun hfn => bar0Word_sump_unseen (Fin.val_ne_of_ne hfn), fun hfn => bar0Word_fn_unseen (Fin.val_ne_of_ne hfn),
      fun r => ⟨fun hseen n hn => ?_, fun hseen => ⟨?_, ?_⟩⟩⟩
    · by_cases hfn : fn = 0
      · subst hfn
        exact configRead_up hup hon .device
      · rw [if_neg hfn]
        have hvf : fn.val ≠ 0 := Fin.val_ne_of_ne hfn
        have hdevice : configField s fn .device = 0x9613 := if_neg hvf
        rw [configRead_up hup hon, hdevice]
        rfl
    · rw [bar0Word_ring r hn, hseen]
      rfl
    · exact (bar0Word_ring r (n := 0) (by decide)).trans (if_pos hseen)
    · exact (bar0Word_ring r (n := 5) (by decide)).trans (if_pos hseen)
end

section
/-!
PROOFS. The checks that every Lervo command passes (R360, R363, R373).
-/
namespace Sys2Proof.Machine
open Sys2Proof

section
variable {s : State} {r : Fin 256} {op : Nat} {used : List Nat} {body : Call → State → Ans} (h : Taken s r op)
include h

theorem packetWord_op : fld ((packet s r).getD 0 0) 63 52 = op := h.opcode
/-- A wrong SEQ is answered, and changes no more. -/
theorem lervo_badSeq (hseq : packetSeq s r ≠ (ring (takePacket s r) r).last + 1) : lervo s r op used body = sendReply (takePacket s r) r
    { seq := packetSeq s r, opcode := op, quiet := bit ((packet s r).getD 0 0) 50, time := (takePacket s r).time } stBadSeq 0 0 := by
  rw [lervo_run h, runPacket]
  refine (if_pos hseq).trans ?_
  rw [packetWord_op h]
  rfl
/-- A failed check is answered with its status. -/
theorem lervo_refused (hseq : packetSeq s r = (ring (takePacket s r) r).last + 1)
    (hgate : gate (takePacket s r) r (ring (takePacket s r) r) (packet s r) used ≠ 0) :
    lervo s r op used body = replied s r (consumed s r) (gate (takePacket s r) r (ring (takePacket s r) r) (packet s r) used) 0 0 := by
  rw [lervo_run h, runPacket]
  exact (if_neg (not_not_intro hseq)).trans (if_pos hgate)
/-- Every row whose opcodes hold the packet's runs it. -/
theorem serveRing_run {ops : Nat → Bool} (hops : ops op = true) : serveRing s r ops used body = runPacket s r (packet s r) used body := by
  have hop : ops (fld ((bytesWords (hostRead s (packetAt (ring s r)) 64)).getD 0 0) 63 52) = true := (congrArg ops (packetWord_op h)).trans hops
  obtain ⟨-, hruns, hnext, hread, -⟩ := h
  have hgo : ¬ ((!cmdsRun s) = true ∨ nextRing s ≠ some r.val) := by rw [hruns, hnext]; simp
  unfold serveRing
  rw [if_neg hgo]
  exact (if_neg (not_not_of_true hread)).trans (if_pos hop)
end

theorem reservedOpStep_served {s : State} {r : Fin 256} {op : Nat} (h : Served s r op (List.replicate 7 whole)) (hop : lervoOps.contains op = false) :
    reservedOpStep s r = replied s r (consumed s r) stReservedField 0 0 := by
  have hops : (!lervoOps.contains op) = true := by rw [hop]; rfl
  exact (serveRing_run h.toTaken hops).trans ((lervo_run h.toTaken).symm.trans (lervo_done h rfl))

end Sys2Proof.Machine

open Sys2Proof Sys2Proof.Machine

/-- Settles O42: the cases of `runPacket` in their order. -/
theorem commandChecks : Obligations.CommandChecks := by
  intro s r op used body
  refine ⟨lervo_idle, fun h => ?_, fun h t => ⟨fun st a b hb => lervo_done h hb, fun hb => lervo_wait h hb⟩,
    fun h hop => congrArg Host.Outcome.next (reservedOpStep_served h hop)⟩
  intro u
  exact ⟨lervo_badSeq h, lervo_refused h⟩
end

section
/-!
PROOFS. Tick boundaries, and the rows of a step: the sampler, the retire point and parks (R217, R226, R334, R337, R351).
-/
namespace Sys2Proof.Machine
open Sys2Proof

section
variable {s : State} {c : Nat}

theorem tickStep_off (h : ticksRun s (claim s c) = false) : tickStep s c = s := if_neg (not_true_of_false h)
theorem tickStep_on (h : ticksRun s (claim s c) = true) : tickStep s c = boundary s c := if_pos h
/-- The steps of R334 in their order. -/
theorem boundary_eq :
    let n := nextTick (claim s c)
    let t := boundaryTime (claim s c) n
    let window := (claim s c).rolled || isWindow (claim s c) n
    let s1 := periodStep (advanceTo s t) c
    let s2 := if window && !(claim s c).rolled then rollWindow s1 c n else s1
    let s3 := accrue (setClaim s2 c { claim s2 c with tick := n, ticking := true, rolled := false }) c n
    let s4 := freeVersions (releaseTubs (endCancelled s3 c) c) c n
    let s5 := switchVersion (heldAccrue (holdStreams s4 c n window) c) c n
    let s6 := formBatches (admitStreams s5 c n) c n
    let s7 := lateSteps (markDue (checkPromises s6 c n) c t) c n
    let s8 := if quiet s7 (claim s7 c) then s7 else issueDue s7 c t
    let s9 := if n % 1024 = 0 then gossipRound s8 c n else s8
    boundary s c = tallySummary s9 c n := by
  unfold boundary
  rfl

/-! ### The three events of a boundary that have rows of their own -/

theorem periodStep_off (h : ticksRun s (claim s c) = false) : periodStep s c = s := by
  unfold periodStep
  dsimp only
  rw [h]
  cases (claim s c).tickPend <;> rfl
theorem periodStep_drops {p o m : Nat} (h : ticksRun s (claim s c) = true) (hpend : (claim s c).tickPend = some (p, o, m, nextTick (claim s c))) :
    periodStep s c = setClaim (advanceTo s (boundaryTime (claim s c) (nextTick (claim s c)))) c { claim s c with tickPend := none } := by
  have hgo : (ticksRun s (claim s c) && nextTick (claim s c) == nextTick (claim s c)) = true := by rw [h, BEq.rfl]; rfl
  unfold periodStep
  dsimp only
  rw [hpend]
  exact if_pos hgo
theorem windowStep_off (h : ticksRun s (claim s c) = false) : windowStep s c = s := by
  have hno : ¬ (ticksRun s (claim s c) && isWindow (claim s c) (nextTick (claim s c)) && !(claim s c).rolled) = true := by rw [h]; exact Bool.false_ne_true
  exact if_neg hno
theorem windowStep_rolls (h : ticksRun s (claim s c) = true) (hwindow : isWindow (claim s c) (nextTick (claim s c)) = true)
    (hrolled : (claim s c).rolled = false) :
    windowStep s c = rollWindow (advanceTo s (boundaryTime (claim s c) (nextTick (claim s c)))) c (nextTick (claim s c)) := by
  have hgo : (ticksRun s (claim s c) && isWindow (claim s c) (nextTick (claim s c)) && !(claim s c).rolled) = true := by rw [h, hwindow, hrolled]; rfl
  exact if_pos hgo
theorem switchStep_off (h : ticksRun s (claim s c) = false) : switchStep s c = s := by
  have hno : ¬ (ticksRun s (claim s c) && switchDue s c (nextTick (claim s c))) = true := by rw [h]; exact Bool.false_ne_true
  exact if_neg hno
theorem claim_advanceTo (s : State) (time c : Nat) : claim (advanceTo s time) c = claim s c := by
  unfold claim
  rw [advanceTo_claims]
theorem ring_advanceTo (s : State) (time r : Nat) : ring (advanceTo s time) r = ring s r := by
  unfold ring
  rw [advanceTo_rings]
theorem switchDue_advanceTo (s : State) (time c n : Nat) : switchDue (advanceTo s time) c n = switchDue s c n := by
  unfold switchDue cmdTime
  simp only [claim_advanceTo, ring_advanceTo]
/-- A claim's slots once the one in force drains from a boundary on. -/
def drainCurrent (k : Claim) (n : Nat) : Claim :=
  match currentSlot k with | some j => setVer k j { ver k j with state := .draining, drained := n } | none => k
theorem switchVersion_due {n i at' r : Nat} {q : W32} {k1 : Claim} (hswitch : (claim s c).switch = some (i, at', r, q)) (hdue : switchDue s c n = true)
    (hk : drainCurrent (claim s c) n = k1) :
    switchVersion s c n = reply (setClaim s c { setVer k1 i { ver k1 i with state := .current, switchAt := 0 } with switch := none }) r q stOk n 0 := by
  subst hk
  unfold switchVersion
  rw [hdue, hswitch]
  rfl
theorem switchStep_switches {i at' r : Nat} {q : W32} {k1 : Claim} (h : ticksRun s (claim s c) = true)
    (hswitch : (claim s c).switch = some (i, at', r, q)) (hdue : switchDue s c (nextTick (claim s c)) = true)
    (hk : drainCurrent (claim s c) (nextTick (claim s c)) = k1) :
    switchStep s c = reply (setClaim (advanceTo s (boundaryTime (claim s c) (nextTick (claim s c)))) c
      { setVer k1 i { ver k1 i with state := .current, switchAt := 0 } with switch := none }) r q stOk (nextTick (claim s c)) 0 := by
  have hgo : (ticksRun s (claim s c) && switchDue s c (nextTick (claim s c))) = true := by rw [h, hdue]; rfl
  unfold switchStep
  dsimp only
  rw [if_pos hgo]
  refine switchVersion_due (at' := at') ?_ ?_ ?_
  · rw [claim_advanceTo, hswitch]
  · rw [switchDue_advanceTo, hdue]
  · rw [claim_advanceTo, hk]
end

/-! ### The rows of a step -/

section
variable {s : State} (hruns : running s = true)
include hruns

theorem samplerStep_samples {id : Nat} {poison : Bool} {main draft : List (List W32)} {b : Batch} {r : Row} {v : Serve}
    (hb : findBatch s id = some b) (hswept : b.swept = true) (hr : b.rows.find? (fun r => !rowOver s b r) = some r)
    (hv : (claim s b.claim).serve = some v) (htick : sampleTick s b = true) (hmain : main.length = r.depth + 1)
    (hdraft : draft.length = r.depth) (hwidth : ∀ z ∈ main ++ draft, z.length = v.vocab) :
    let reads := countSpans s b v r (main ++ draft)
    let u := readSpans s b.claim reads
    let a := freeValue u
    samplerStep s id poison main draft = if poison || spansPoison u b.claim reads then failBatch u b stPoisonRead
      else modBatch a.2 id fun b =>
        { b with rows := b.rows.map fun q => if q.stream = r.stream then sampled a.2 b v r main draft a.1 else q } := by
  have hall : (main ++ draft).all (fun z => z.length == v.vocab) = true := List.all_eq_true.2 fun z hz => beq_iff_eq.2 (hwidth z hz)
  have hgo : ¬ (!(running s && b.swept && (main.length == r.depth + 1 && draft.length == r.depth && (main ++ draft).all fun z => z.length == v.vocab) &&
      sampleTick s b)) = true := by
    rw [hruns, hswept, hall, htick, beq_iff_eq.2 hmain, beq_iff_eq.2 hdraft]
    decide
  unfold samplerStep
  rw [hb]
  dsimp only
  rw [hr, hv]
  exact if_neg hgo
theorem retireStep_commits {id : Nat} {b : Batch} {v : Serve} {u u2 t : State} (hb : findBatch s id = some b) (hv : (claim s b.claim).serve = some v)
    (hswept : b.swept = true) (hrows : b.rows.all (rowOver s b) = true) (hturn : (claim s b.claim).turn.any (·.due) = false)
    (hbefore : (afterStamp s).time < boundaryTime (claim s b.claim) (nextTick (claim s b.claim))) (habsent : retireAbsent s b = [])
    (hu : readSpans (afterStamp s) b.claim (commitReads s b v) = u) (hu2 : readSpans u b.claim (bucketsRead u (commitBatch u b v) b v) = u2)
    (ht : commitBatch u2 b v = t) (hgood : spansPoison u b.claim (commitReads u b v) = false)
    (hgood2 : spansPoison u2 b.claim (bucketsRead u (commitBatch u b v) b v) = false) :
    retireStep s id = { t with batches := t.batches.filter fun x => x.id != id } := by
  have hgo : ¬ (!(running s && b.swept && b.rows.all (rowOver s b)) || (claim s b.claim).turn.any (·.due) ||
      decide (boundaryTime (claim s b.claim) (nextTick (claim s b.claim)) ≤ (afterStamp s).time)) = true := by
    rw [hruns, hswept, hrows, hturn, decide_eq_false (Nat.not_le.2 hbefore)]
    decide
  subst ht hu2 hu
  unfold retireStep
  rw [hb]
  dsimp only
  rw [hv]
  refine (if_neg hgo).trans ?_
  rw [habsent]
  exact (if_neg (not_true_of_false hgood)).trans (if_neg (not_true_of_false hgood2))
theorem parkStep_parks {n : Nat} (hpark : (stream s n).park.isSome = true) (hlive : isLive (stream s n) = true) (hbatch : (stream s n).batch = none) :
    parkStep s n = parkNow (advanceTo s (boundaryTime (claim s (stream s n).claim) (nextTick (claim s (stream s n).claim)))) n := by
  have hgo : ¬ ((stream s n).park.isNone || !isLive (stream s n) || (stream s n).batch.isSome || !running s) = true := by
    simpa [hruns, hlive, hbatch] using Option.isSome_iff_ne_none.1 hpark
  exact if_neg hgo
end

end Sys2Proof.Machine

open Sys2Proof Sys2Proof.Machine

/-- Settles O16: the boundary is its steps in order, and nothing runs where the ticks do not. -/
theorem tickBoundary : Obligations.TickBoundary := by
  refine ⟨fun s c h => ?_, fun s c h => ⟨?_, ?_, ?_, ?_⟩⟩
  · exact congrArg (fun t => Host.Outcome.next (settleFoul t)) ((tickStep_on h).trans boundary_eq)
  · exact congrArg (fun t => Host.Outcome.next (settleFoul t)) (tickStep_off h)
  · exact congrArg Host.Outcome.next (windowStep_off h)
  · exact congrArg Host.Outcome.next (periodStep_off h)
  · exact congrArg Host.Outcome.next (switchStep_off h)

/-- Settles O17: each event of a boundary and of a step past its guards. -/
theorem boundaryAndStepEvents : Obligations.BoundaryAndStepEvents := by
  refine ⟨fun s c => ?_, fun s hruns => ⟨fun id poison main draft b r v hb hswept hr hv htick hmain hdraft hwidth => ?_, fun id b v hb hv hswept hrows hturn hbefore habsent => ?_,
    fun n hpark hlive hbatch => ?_⟩⟩
  · intro k n t h
    refine ⟨fun hwindow hrolled => congrArg Host.Outcome.next (windowStep_rolls h hwindow hrolled),
      fun p o m hpend => congrArg Host.Outcome.next (periodStep_drops h hpend), fun i at' r q hswitch hdue => ?_⟩
    intro k1 k2
    exact congrArg Host.Outcome.next (switchStep_switches (k1 := k1) h hswitch hdue rfl)
  · exact congrArg (fun t => Host.Outcome.next (settleFoul t)) (samplerStep_samples hruns hb hswept hr hv htick hmain hdraft hwidth)
  · intro commit u veins u2 t hgood hgood2
    exact congrArg (fun t => Host.Outcome.next (settleFoul t)) (retireStep_commits (u := u) (u2 := u2) (t := t) hruns hb hv hswept hrows hturn hbefore habsent rfl rfl rfl hgood hgood2)
  · exact congrArg (fun t => Host.Outcome.next (settleFoul t)) (parkStep_parks hruns hpark hlive hbatch)
end

section
/-!
PROOFS. The slots of a shaft, and how it comes up, fails and goes down (R267, R271, R274 to R279, R286).
-/
namespace Sys2Proof.Machine
open Sys2Proof

/-! ### A value that is listed: set and read in a table of any form -/

section
variable {α : Type} [DecidableEq α] {d v : α}

theorem get_set_ne (h : v ≠ d) (t : Tab α) (k : Nat) : Tab.get d (Tab.set d t k v) k = v := by
  induction t with
  | nil => simp [Tab.set, h, Tab.get]
  | cons e t ih =>
    obtain ⟨i, w⟩ := e
    unfold Tab.set
    by_cases hlt : i < k
    · rw [if_pos hlt, Tab.get, if_neg (Nat.ne_of_lt hlt), ih]
    · rw [if_neg hlt]
      by_cases hik : i = k
      · rw [if_pos hik, if_neg h, Tab.get, if_pos rfl]
      · rw [if_neg hik, if_neg h, Tab.get, if_pos rfl]
theorem set_set_ne (h : v ≠ d) (t : Tab α) (k : Nat) (w : α) : Tab.set d (Tab.set d t k v) k w = Tab.set d t k w := by
  induction t with
  | nil => simp [Tab.set, h]
  | cons e t ih =>
    obtain ⟨i, x⟩ := e
    by_cases hlt : i < k
    · simp [Tab.set, hlt, ih]
    · by_cases hik : i = k
      · subst hik
        simp [Tab.set, h]
      · simp [Tab.set, hlt, hik, h]
end
theorem shaft_setShaft_ne {s : State} {n : Nat} {x : Shaft} (h : x ≠ {}) : shaft (setShaft s n x) n = x := get_set_ne h _ _
theorem setShaft_setShaft_ne {s : State} {n : Nat} {x : Shaft} (h : x ≠ {}) (y : Shaft) : setShaft (setShaft s n x) n y = setShaft s n y :=
  congrArg (fun t => { s with shafts := t }) (set_set_ne h _ _ _)
theorem shaft_ne_of_state {x : Shaft} (h : x.state ≠ .off) : x ≠ {} := fun hx => h (congrArg Shaft.state hx)

/-! ### Slots -/

section
variable {s : State} {n : Nat}

/-- New shares take effect at the frame boundary. -/
def slotShares (s : State) (n : Nat) : State :=
  match (shaft s n).pend with | some p => if (shaft s n).slot = 0 then takeShares s n p.1 p.2 else s | none => s
/-- What a slot does with its pick, on the shaft at its next slot. -/
def sendPick (t : State) (n : Nat) (y : Shaft) : Pick → State
  | .idle => setShaft t n { y with sent := some ⟨outHdr y (mkHdr typIdle 0 0 0) 0, .idle⟩, nak := false }
  | .again =>
    (match y.resend with
      | e :: rest =>
        noteKept (setShaft t n { y with sent := some ⟨outHdr y (keptFlit y e).hdr e.1, (keptFlit y e).body⟩, resend := rest, nak := false }) n e
      | [] => setShaft t n y)
  | .hop f => setShaft t n { sendNew y f with ctrl := y.ctrl.erase f }
  | .own q =>
    let u := setShaft t n { sendNew y q.2.1 with queue := y.queue.erase q }
    match q.2.2 with | some m => letFlit u m q.1 | none => u
theorem slotSend_eq {t : State} {y : Shaft} {pick : Pick} (ht : slotShares s n = t)
    (hy : { shaft t n with slot := ((shaft s n).slot + 1) % 64, bubble := bubbleAt t n % 100 } = y)
    (hpick : (if linksCarry t ∧ bubbleAt t n < 100 then pickOf t n y (shaft s n).slot else .idle) = pick) : slotSend s n = sendPick t n y pick := by
  have hif : (if (linksCarry t && decide (bubbleAt t n < 100)) = true then pickOf t n y (shaft s n).slot else .idle) = pick := by
    rw [← hpick]
    simp only [Bool.and_eq_true, decide_eq_true_eq]
  have hsent : slotSend s n = sendPick t n y (if (linksCarry t && decide (bubbleAt t n < 100)) = true then pickOf t n y (shaft s n).slot else .idle) := by
    subst hy ht
    unfold slotSend slotShares
    cases (shaft s n).pend with
    | none => rfl
    | some p => rfl
  rw [hsent, hif]
theorem slotStep_sends {t u : State} {y : Shaft} {pick : Pick} (hlinks : linksRun s = true) (hup : (shaftUp (shaft s n) || (shaft s n).locked) = true)
    (ht : slotShares s n = t) (hy : { shaft t n with slot := ((shaft s n).slot + 1) % 64, bubble := bubbleAt t n % 100 } = y)
    (hpick : (if linksCarry t ∧ bubbleAt t n < 100 then pickOf t n y (shaft s n).slot else .idle) = pick) (hu : sendPick t n y pick = u) :
    slotStep s n = modShaft u n fun x => match x.sent with | some f => putWire x f | none => x := by
  have hgo : ¬ (!linksRun s || !(shaftUp (shaft s n) || (shaft s n).locked)) = true := by rw [hlinks, hup]; decide
  have hsent : slotSend s n = u := (slotSend_eq ht hy hpick).trans hu
  subst hsent
  exact if_neg hgo

/-! ### Bring-up and failures -/

theorem idleStep_good {n : Fin 52} {hdr : W64} {wrong : List Nat} (hlinks : linksRun s = true) (hfatal : s.fatal = false)
    (hup : (shaftUp (shaft s n) || (shaft s n).locked) = true) (hfec : (fecTake (shaft s n) wrong).2 = true) :
    idleStep s n hdr ⟨true, wrong⟩ = takeAck (setShaft s n (fecTake (shaft s n) wrong).1) n hdr := by
  rw [idleStep_runs hlinks hfatal hup, rxCheck_good hfec, if_pos rfl]
theorem replayStep_resends (hlinks : linksRun s = true) (hfatal : s.fatal = false) (hup : shaftUp (shaft s n) = true) :
    replayStep s n = resendAll s n := by
  have hgo : (linksRun s && !s.fatal && shaftUp (shaft s n)) = true := by rw [hlinks, hfatal, hup]; rfl
  exact if_pos hgo
theorem retrainStep_ends (hlinks : linksRun s = true) (hstate : (shaft s n).state = .train) (hretrains : (shaft s n).retrains = true)
    (hpeer : (shaft s n).peer ≠ 0xFFF) (hlocked : (shaft s n).locked = true) :
    retrainStep s n = shaftEvent (setShaft s n { shaft s n with
      state := if (shaft s n).toHalf then .half else .up, locked := false, retrains := false, resend := (shaft s n).replay }) n 2 := by
  have hgo : (shaft s n).state = .train ∧ (shaft s n).retrains = true ∧ (shaft s n).peer ≠ 0xFFF ∧ linksRun s = true := ⟨hstate, hretrains, hpeer, hlinks⟩
  unfold retrainStep
  refine (if_pos hgo).trans ?_
  unfold modShaft
  simp only [hlocked, if_true, Bool.true_and]

section
variable {good : BitVec 8} (hon : (shaft s n).enabled = true) (hlinks : linksRun s = true) (hfatal : s.fatal = false) (hlasers : lasersOn s = true)
include hon hlinks hfatal hlasers

theorem brings_up : ¬ (!(shaft s n).enabled || !linksRun s || s.fatal || !lasersOn s) = true := by rw [hon, hlinks, hfatal, hlasers]; decide
theorem bringupStep_off (h : (shaft s n).state = .off) : bringupStep s n good = setShaft s n { shaft s n with state := .laser } := by
  unfold bringupStep
  dsimp only
  rw [if_neg (brings_up hon hlinks hfatal hlasers), h]
theorem bringupStep_laser (h : (shaft s n).state = .laser) : bringupStep s n good = setShaft s n { shaft s n with state := .tune } := by
  unfold bringupStep
  dsimp only
  rw [if_neg (brings_up hon hlinks hfatal hlasers), h]
theorem bringupStep_tune (h : (shaft s n).state = .tune) : bringupStep s n good = setShaft s n { shaft s n with state := .train } := by
  unfold bringupStep
  dsimp only
  rw [if_neg (brings_up hon hlinks hfatal hlasers), h]
theorem bringupStep_down (h : (shaft s n).state = .down) : bringupStep s n good = setShaft s n { shaft s n with state := .train } := by
  unfold bringupStep
  dsimp only
  rw [if_neg (brings_up hon hlinks hfatal hlasers), h]
/-- A training that half of the lanes or all have passed finds its lock. -/
theorem bringupStep_locks {half sel : Bool} {t : State} (ht : setShaft s n { shaft s n with laneFail := (shaft s n).laneFail ||| ~~~good } = t) (h : (shaft s n).state = .train) (hretrains : (shaft s n).retrains = false) (hgood : good ≠ 0)
    (htrained : trained good = some (half, sel)) :
    bringupStep s n good = lockShaft t n half sel := by
  unfold bringupStep
  dsimp only
  rw [if_neg (brings_up hon hlinks hfatal hlasers), h]
  dsimp only
  rw [if_neg hgood, if_neg (not_true_of_false hretrains), htrained, ← ht]
  rfl
end
theorem lockShaft_eq {x : Shaft} (hx : x ≠ {}) (half sel : Bool) : lockShaft (setShaft s n x) n half sel =
    queueHop (setShaft s n { x with locked := true, toHalf := half, halfSel := if half then sel else x.halfSel
                                    rxBit := 0, cwBad := false, txLen := 0, txBits := 0 }) n 0 (.ident { addr := s.devAddr, shaft := n, half := sel }) := by
  unfold lockShaft modShaft
  dsimp only
  rw [shaft_setShaft_ne hx, setShaft_setShaft_ne hx]
  rfl

section
variable {l : Nat} (hlinks : linksRun s = true)
include hlinks

theorem laneStep_fails (h : (shaft s n).state ≠ .off) : laneStep s n l = failLane s n l := by
  have hgo : ¬ ((shaft s n).state == .off || !linksRun s) = true := by simp [h, hlinks]
  exact if_neg hgo
theorem laneStep_up {t : State} (ht : setShaft s n { shaft s n with laneFail := (shaft s n).laneFail ||| BitVec.ofNat 8 (2 ^ l) } = t)
    (h : (shaft s n).state = .up) : laneStep s n l =
      shaftEvent (modShaft (retrain t n true) n fun y => { y with halfSel := decide (l < 4) }) n 1 := by
  rw [laneStep_fails hlinks (by rw [h]; decide)]
  unfold failLane shaftUp
  dsimp only
  rw [ht, h]
  rfl
theorem laneStep_half {t : State} (ht : setShaft s n { shaft s n with laneFail := (shaft s n).laneFail ||| BitVec.ofNat 8 (2 ^ l) } = t)
    (h : (shaft s n).state = .half) (hsel : (shaft s n).halfSel = decide (4 ≤ l)) : laneStep s n l = shaftLeaves t n .down 1 := by
  have hused : (laneUsed (shaft s n) l || !(shaft s n).laneFail.getLsbD l) = true := by simp [laneUsed, hsel]
  have hlive : ¬ (!(shaftUp (shaft s n) || (shaft s n).state == .train && ((shaft s n).retrains || (shaft s n).locked))) = true := by simp [shaftUp, h]
  have hnarrow : ¬ ((shaft s n).state == .up || (shaft s n).state == .train && !(shaft s n).toHalf) = true := by simp [h]
  rw [laneStep_fails hlinks (by rw [h]; decide)]
  unfold failLane
  dsimp only
  rw [ht, if_neg hlive, if_neg hnarrow, if_pos hused]
theorem laneStep_untrained {t : State} (ht : setShaft s n { shaft s n with laneFail := (shaft s n).laneFail ||| BitVec.ofNat 8 (2 ^ l) } = t)
    (h : (shaft s n).state = .laser ∨ (shaft s n).state = .tune) : laneStep s n l =
      if (shaft s n).laneFail ||| BitVec.ofNat 8 (2 ^ l) = 0xFF then shaftLeaves t n .down 1 else t := by
  have hlit : (shaft s n).state ≠ .down ∧ (shaft s n).state ≠ .off := by rcases h with h | h <;> (rw [h]; decide)
  have hdead : (!(shaftUp (shaft s n) || (shaft s n).state == .train && ((shaft s n).retrains || (shaft s n).locked))) = true := by
    rcases h with h | h <;> simp [shaftUp, h]
  rw [laneStep_fails hlinks hlit.2]
  unfold failLane
  dsimp only
  rw [ht, if_pos hdead]
  simp only [hlit.1, hlit.2, ne_eq, not_false_eq_true, and_true]
theorem lossStep_down (hup : shaftUp (shaft s n) = true) :
    lossStep s n = shaftLeaves (modShaft (closeChannels s n stShaftDown) n fun y => { y with laneFail := 0xFF }) n .down 4 := by
  have hgo : ¬ ((shaft s n).state = .off ∨ (!linksRun s) = true) := by
    rintro (hoff | hdead)
    · rw [shaftUp, hoff] at hup
      cases hup
    · exact not_not_of_true hlinks hdead
  have hlive : (shaftUp (shaft s n) || (shaft s n).state == .train) = true := by rw [hup]; rfl
  unfold lossStep
  exact (if_neg hgo).trans (if_pos hlive)
end
end

end Sys2Proof.Machine

open Sys2Proof Sys2Proof.Machine

/-- Settles O27: each slot sends its pick, and each event of a shaft past its guards. -/
theorem shaftEvents : Obligations.ShaftEvents := by
  refine ⟨fun s n hlinks hup => ?_, fun s n hlinks => ?_⟩
  · intro k t y pick out
    have ht : slotShares s n = t := rfl
    refine ⟨fun h => ?_, fun e rest h hresend => ?_, fun g h => ?_, fun q h => ?_⟩
    · exact congrArg Host.Outcome.next (slotStep_sends hlinks hup ht (y := y) rfl (pick := .idle) h rfl)
    · have hsend : sendPick t n y .again = noteKept (setShaft t n
          { y with sent := some ⟨outHdr y (keptFlit y e).hdr e.1, (keptFlit y e).body⟩, resend := rest, nak := false }) n e := by
        unfold sendPick
        dsimp only
        rw [hresend]
      exact congrArg Host.Outcome.next (slotStep_sends hlinks hup ht (y := y) rfl (pick := .again) h hsend)
    · exact congrArg Host.Outcome.next (slotStep_sends hlinks hup ht (y := y) rfl (pick := .hop g) h rfl)
    · intro u
      exact congrArg Host.Outcome.next (slotStep_sends hlinks hup ht (y := y) rfl (pick := .own q) h rfl)
  · intro x
    refine ⟨fun hdr wrong hfatal hup hfec => congrArg Host.Outcome.next (idleStep_good hlinks hfatal hup hfec),
      fun hup hfatal => congrArg Host.Outcome.next (replayStep_resends hlinks hfatal hup),
      fun hstate hretrains hpeer hlocked => congrArg Host.Outcome.next (retrainStep_ends hlinks hstate hretrains hpeer hlocked),
      fun good hon hfatal hlasers => ⟨fun h => ?_, fun h => ?_, fun h => ?_, fun h => ?_, fun half sel h hretrains hgood htrained => ?_⟩,
      fun lane => ?_, fun hup => congrArg Host.Outcome.next (lossStep_down hlinks hup)⟩
    · exact congrArg Host.Outcome.next (bringupStep_off hon hlinks hfatal hlasers h)
    · exact congrArg Host.Outcome.next (bringupStep_laser hon hlinks hfatal hlasers h)
    · exact congrArg Host.Outcome.next (bringupStep_tune hon hlinks hfatal hlasers h)
    · exact congrArg Host.Outcome.next (bringupStep_down hon hlinks hfatal hlasers h)
    · have hx : { x with laneFail := x.laneFail ||| ~~~good } ≠ ({} : Shaft) := shaft_ne_of_state (by rw [h]; decide)
      exact congrArg Host.Outcome.next ((bringupStep_locks hon hlinks hfatal hlasers rfl h hretrains hgood htrained).trans (lockShaft_eq hx half sel))
    · intro t
      exact ⟨fun h => congrArg Host.Outcome.next (laneStep_up (t := t) hlinks rfl h), fun h hsel => congrArg Host.Outcome.next (laneStep_half (t := t) hlinks rfl h hsel),
        fun h => congrArg Host.Outcome.next (laneStep_untrained (t := t) hlinks rfl h)⟩
end

section
/-!
PROOFS. Replica assays, hoists and write-backs, the end of objects, scrub and weight repair (R150, R158 to R165, R177, R178, R208, R209, R327).
-/
namespace Sys2Proof.Machine
open Sys2Proof

theorem not_of_false {b : Bool} (h : b = false) : (!b) = true := by rw [h]; rfl

/-! ### Replica assays -/

/-- The first of a list with a property stays the first where it, and others, are replaced by one that has it too. -/
theorem find?_map_replace {α : Type} {p : α → Bool} {x y : α} {q : α → Prop} [DecidablePred q] {l : List α} (h : l.find? p = some x) (hq : q x)
    (hy : p y = true) : (l.map fun b => if q b then y else b).find? p = some y := by
  induction l with
  | nil => cases h
  | cons b l ih =>
    rw [List.map_cons]
    by_cases hb : q b
    · rw [if_pos hb, List.find?_cons_of_pos hy]
    · rw [if_neg hb]
      by_cases hpb : p b = true
      · rw [List.find?_cons_of_pos hpb] at h
        cases h
        exact absurd hq hb
      · rw [List.find?_cons_of_neg hpb] at h
        rw [List.find?_cons_of_neg hpb]
        exact ih h
theorem claim_setClaim_ne {s : State} {c : Nat} {k : Claim} (h : k ≠ {}) : claim (setClaim s c k) c = k := get_set_ne h _ _

section
variable {s : State} {c : Nat} {id : W32} {a : Assay} (ha : assayOf s c id = some a)
include ha

/-- An assay replaced by one of its ring, SEQ and id is found in its place. -/
theorem assayOf_setAssay {b : Assay} (hring : b.ring = a.ring) (hseq : b.seq = a.seq) (hid : b.id = a.id) :
    assayOf (setAssay s c b) c id = some b := by
  have hida : (a.id == id) = true := List.find?_some (p := fun a : Assay => a.id == id) ha
  have hfind := find?_map_replace (q := fun x : Assay => x.ring = b.ring ∧ x.seq = b.seq) (y := b) ha ⟨hring.symm, hseq.symm⟩ (by rw [hid]; exact hida)
  have hk : { claim s c with assays := (claim s c).assays.map fun x => if x.ring = b.ring ∧ x.seq = b.seq then b else x } ≠ ({} : Claim) := by
    intro hnil
    rw [show ((claim s c).assays.map fun x => if x.ring = b.ring ∧ x.seq = b.seq then b else x) = [] from congrArg Claim.assays hnil] at hfind
    cases hfind
  unfold assayOf setAssay
  dsimp only
  rw [claim_setClaim_ne hk]
  exact hfind
theorem assayStartStep_starts (hruns : running s = true) (hidle : a.running = false) (hfree : assayFree (claim s c) a = true) :
    assayStartStep s c id = assayTry (setAssay s c { a with running := true, since := s.time }) c id := by
  have hgo : ¬ (a.running || !running s || !assayFree (claim s c) a) = true := by rw [hidle, hruns, hfree]; decide
  unfold assayStartStep
  rw [ha]
  exact if_neg hgo
theorem assayTry_digests {ds : List (BitVec 256)} {t : State} {a2 : Assay} (hon : a.running = true) (hfirst : a.digests = [])
    (ht : noteAll s c a.ranges = t) (hds : rangeDigests t c a = .ok ds)
    (ha2 : { a with digests := ds, given := if a.compare = 2 then a.peers.filter (pathOpen t c) else [] } = a2) :
    assayTry s c id = if a2.compare ≠ 1 then setAssay t c a2 else
      (a2.heard.filter (heardWrong a2)).foldl (fun s h => mismatchEvent s c id h.2.1 h.1 false)
        (ds.zipIdx.foldl (fun s d => queueBell s c 6 prReplica [at' id.toNat 32 + d.2, (digestPrefix d.1).toNat]) (setAssay t c a2)) := by
  have hgo : ¬ (!a.running || !a.digests.isEmpty) = true := by rw [hon, hfirst]; decide
  subst ha2
  unfold assayTry
  rw [ha]
  dsimp only
  rw [if_neg hgo, ht, hds]
theorem assayDoneStep_ends {gathered : List (Nat × List (BitVec 256))} {peers : List Nat} {heard : List (Nat × List (BitVec 256))} {t : State}
    {r : State × Nat × Nat} (hruns : running s = true) (hon : a.running = true)
    (hdone : a.digests ≠ []) (hout : access (claim s c) (.request none) a.out (32 * a.ranges.length) = .ok)
    (hpeers : (if a.compare = 0 then [] else a.peers) = peers) (hheard : (gathered.filter fun g => pathOpen s c g.1) = heard)
    (ht : (if peers.any (fun p => (List.range a.ranges.length).any fun i => peerDiffers a heard p i == none)
      then advanceTo s (a.since + 1000000 * a.timeout) else s) = t)
    (hr : peers.foldl (judgePeer a c heard) (vaStore t c a.out (a.digests.flatMap hashBytes), 0, 0) = r) :
    assayDoneStep s c id gathered = reply (setClaim r.1 c { claim r.1 c with
      assays := (claim r.1 c).assays.filter fun b => !(b.ring == a.ring && b.seq == a.seq) }) a.ring a.seq stOk r.2.1 r.2.2 := by
  have hgo : ¬ (!a.running || a.digests.isEmpty || !running s) = true := by simp [hon, hdone, hruns]
  subst hr ht hheard hpeers
  unfold assayDoneStep
  rw [ha]
  dsimp only
  rw [if_neg hgo, hout]
end

/-! ### Hoists and write-backs -/

section
variable {s : State} {c p : Nat} {h : Hoist}

theorem hoistStep_lands {e : Pte} {heads : List Bool} {r : State × Nat} (hruns : running s = true) (hh : theHoist s c p false = some h) (hlanded : h.landed = false)
    (he : pte (claim s c) p = e) (howns : hoistOwns (claim s c) e = true) (hheads : (List.range 32).map (headBad s e) = heads)
    (hr : (List.range 32).foldl (fun (acc : State × Nat) n =>
      let x := landChunk acc.1 h e n (heads.getD n false)
      (x.1, if acc.2 = 0 then x.2 else acc.2)) (noteHeads s e, 0) = r) :
    hoistStep s c p = if pageRepairs (claim r.1 c) e.obj p then
        { r.1 with hoists := r.1.hoists.map fun x => if x.claim = c ∧ x.page = p then { x with landed := true, status := r.2 } else x }
      else finishHoist r.1 h r.2 := by
  have hgo : ¬ (h.landed || !running s) = true := by rw [hlanded, hruns]; decide
  unfold hoistStep
  rw [hh]
  dsimp only
  rw [if_neg hgo, he, if_neg (not_not_of_true howns), hheads, hr]
theorem hoistStep_fault (hruns : running s = true) (hh : theHoist s c p false = some h) (hlanded : h.landed = false)
    (howns : hoistOwns (claim s c) (pte (claim s c) p) = false) : hoistStep s c p = hoistFault s h := by
  have hgo : ¬ (h.landed || !running s) = true := by rw [hlanded, hruns]; decide
  unfold hoistStep
  rw [hh]
  dsimp only
  rw [if_neg hgo, if_pos (not_of_false howns)]
theorem backStep_fault (hruns : running s = true) (hh : theHoist s c p true = some h)
    (howns : hoistOwns (claim s c) (pte (claim s c) p) = false) : backStep s c p = hoistFault s h := by
  unfold backStep
  rw [hh]
  dsimp only
  rw [if_neg (not_not_of_true hruns), if_pos (not_of_false howns)]
theorem backStep_stores {t0 t1 t : State} {o : Nat} (hruns : running s = true) (hh : theHoist s c p true = some h)
    (howns : hoistOwns (claim s c) (pte (claim s c) p) = true) (ht0 : (List.range 32).foldl (fun s n => storeChunk s c p n) s = t0)
    (ht1 : { t0 with hoists := t0.hoists.filter fun x => !(x.claim == c && x.page == p) } = t1) (ho : (pte (claim t1 c) p).obj = o)
    (ht : replyTo (if h.doomed then objGone (releasePage (unmapPage t1 c p) c p 0 0) c o else toT2 t1 c p) h.cmd stOk 0 0 = t) :
    backStep s c p = if h.again && !h.doomed then
        (if h.release then releaseNear (startHoist t c p h.bench h.quarter h.near h.init) c p else startHoist t c p h.bench h.quarter h.near h.init)
      else t := by
  unfold backStep
  rw [hh]
  dsimp only
  rw [if_neg (not_not_of_true hruns), if_neg (not_not_of_true howns), ht0]
  rw [ht1, ho, ht]
theorem deadlineStep_fails {id : Nat} {w : Wait} {t : State} (htime : timeRuns s = true) (hw : s.waits.find? (fun w => w.id == id) = some w)
    (ht : advanceTo s (w.since + 1000 * (claim s w.claim).deadline + 1) = t) :
    deadlineStep s id = failWait { t with waits := t.waits.filter fun x => x.id != id } w stFetchDeadline := by
  unfold deadlineStep
  rw [hw]
  dsimp only
  rw [if_neg (not_not_of_true htime), ht]
theorem evictStep_acts {e : Nat × Nat × Nat × W32} {t : State} (hruns : running s = true) (he : s.evicts.find? (fun e => e.1 == c && e.2.1 == p) = some e)
    (huse : pageInUse s c p = false) (ht : { s with evicts := s.evicts.erase e } = t) :
    evictStep s c p = if (pte (claim s c) p).state = .dirty then startBack t c p (some (e.2.2.1, e.2.2.2))
      else reply (dropPage t c p none) e.2.2.1 e.2.2.2 stOk 0 0 := by
  have hgo : ¬ (pageInUse s c p || !running s) = true := by rw [huse, hruns]; decide
  subst ht
  unfold evictStep
  rw [he]
  dsimp only
  rw [if_neg hgo]
  by_cases hdirty : (pte (claim s c) p).state = .dirty
  · rw [if_pos hdirty]
    have hstate : (pte (claim { s with evicts := s.evicts.erase e } c) p).state = .dirty := hdirty
    rw [hstate]
  · rw [if_neg hdirty]
    have hstate : (pte (claim { s with evicts := s.evicts.erase e } c) p).state = (pte (claim s c) p).state := rfl
    rw [hstate]
    generalize (pte (claim s c) p).state = x at hdirty
    cases x with
    | dirty => exact absurd rfl hdirty
    | unmapped => rfl
    | t1 => rfl
    | t2 => rfl
    | hoisting => rfl
    | clean => rfl
    | writeback => rfl
/-- OBJ_DESTROY_EFFECT on one page of the dying object. -/
def destroyPage (c : Nat) (s : State) (p : Nat) : State :=
  match (pte (claim s c) p).state with
  | .hoisting => { s with hoists := s.hoists.map fun h => if h.claim = c ∧ h.page = p then { h with doomed := true } else h }
  | .writeback => { s with hoists := s.hoists.map fun h => if h.claim = c ∧ h.page = p then { h with doomed := true } else h }
  | _ => if pageInUse s c p then s else unmapPage s c p
theorem destroyStep_dying {o : Nat} (hdying : (obj (claim s c) o).dying.isSome = true) :
    destroyStep s c o = objGone ((objPages (claim s c) o).foldl (destroyPage c) s) c o := by
  have hgo : ¬ (obj (claim s c) o).dying.isNone = true := by simp [Option.isSome_iff_ne_none.1 hdying]
  unfold destroyStep
  exact if_neg hgo
end

/-! ### Scrub and repair -/

section
variable {s : State} (hruns : running s = true)
include hruns

/-- The frames with an error that a pass has met, once a line is read. -/
def passErrs (t : State) (found : Bool) (key : Nat × Nat) : List (Nat × Nat) :=
  if found && !t.sump.passErr.contains key then key :: t.sump.passErr else t.sump.passErr
theorem scrubStep_reads {tier : Tier} {f addr n i : Nat} {l : Loc} {found : Bool} {t u : State} (hn : scrubWords tier = n) (hi : addr / 8 = i)
    (hl : scrubLoc tier f = l) (halign : addr % (8 * n) = 0) (hin : i + n ≤ tierWords tier) (hretired : isRetired s tier (i / pageWords) = false)
    (hfenced : isFenced s l i = false) (hgated : tier = .t0 → faceGated s f = false) (ht : noteRun s l i n = t)
    (hfound : ((List.range n).any fun k => (decode80 (memWord s l (i + k))).2 != .clean) = found)
    (hu : { t with sump := { t.sump with
      passErr := passErrs t found (tierNo tier, i / pageWords)
      passed := Tab.set 0 t.sump.passed (3 * (i / pageWords) + tierNo tier)
        (Tab.get 0 t.sump.passed (3 * (i / pageWords) + tierNo tier) ||| 2 ^ (i % pageWords / n)) } } = u) :
    scrubStep s tier f addr = if tier = .t0 then t else if passFull u tier then endPass u (tierNo tier) else u := by
  have hgo : ¬ (!running s || addr % (8 * n) != 0 || tierWords tier < i + n || isRetired s tier (i / pageWords) || (tier == .t0 && faceGated s f)) = true := by
    have hface : (tier == .t0 && faceGated s f) = false := by
      by_cases h0 : tier = .t0
      · rw [hgated h0, Bool.and_false]
      · rw [beq_eq_false_iff_ne.2 h0, Bool.false_and]
    simp [hruns, halign, Nat.not_lt.2 hin, hretired, hface]
  unfold scrubStep
  rw [hn, hi]
  dsimp only
  rw [if_neg hgo, hl, if_neg (not_true_of_false hfenced), ht, hfound]
  refine ite_congr rfl (fun _ => rfl) fun _ => ?_
  have hkeep : (if (found && !t.sump.passErr.contains (tierNo tier, i / pageWords)) = true
      then { t with sump := { t.sump with passErr := (tierNo tier, i / pageWords) :: t.sump.passErr } } else t) =
      { t with sump := { t.sump with passErr := passErrs t found (tierNo tier, i / pageWords) } } := by
    unfold passErrs
    split <;> rfl
  rw [hkeep, ← hu]
/-- A leaf mended with good words, or marked where there are none. -/
def settleLeaf (t : State) (c o leaf p : Nat) (words : Option (List PWord)) : State :=
  match words with | some ws => mendLeaf t c o leaf p ws | none => markLeaf t c o leaf
/-- What follows the end of a leaf's repair: the last of its page lets the hoist or the accesses that wait go on. -/
def repairEnds (u : State) (c o p : Nat) : State :=
  if pageRepairs (claim u c) o p then u
  else match u.hoists.find? fun h => h.claim == c && h.page == p && h.landed with
    | some h => finishHoist u h h.status
    | none => if resident (pte (claim u c) p) then releasePage u c p 0 0 else u
theorem repairStep_repairs {c o leaf p : Nat} {m : PeerAnswer} {e : Pte} {t0 t1 t u : State} (hin : (claim s c).repairs.contains (o, leaf) = true)
    (hp : (obj (claim s c) o).base + leaf / 32 = p) (he : pte (claim s c) p = e)
    (ht1f : hasFrame e = true → ownsT1 (claim s c) (e.t1f / 512) = true)
    (ht2f : (obj (claim s c) o).t2home = true → ownsT2 (claim s c) (e.t2f / 512) = true) (ht0 : mirrorWait s c o leaf p m = t0)
    (ht1 : (if (obj (claim s c) o).t2home then noteChunk t0 (claim s c) e (leaf % 32) else t0) = t1)
    (ht : settleLeaf t1 c o leaf p (goodLeaf s c o leaf p m) = t) (hu : endRepair t c o leaf = u) :
    repairStep s c o leaf m = repairEnds u c o p := by
  have hgo : ¬ (!(claim s c).repairs.contains (o, leaf) || !running s) = true := by rw [hin, hruns]; decide
  have howns : ¬ ((hasFrame e && !ownsT1 (claim s c) (e.t1f / 512)) || ((obj (claim s c) o).t2home && !ownsT2 (claim s c) (e.t2f / 512))) = true := by
    rw [Bool.or_eq_true, Bool.and_eq_true, Bool.and_eq_true]
    rintro (⟨hf, hno⟩ | ⟨hh, hno⟩)
    · exact not_not_of_true (ht1f hf) hno
    · exact not_not_of_true (ht2f hh) hno
  unfold repairStep
  dsimp only
  rw [if_neg hgo, hp, he, if_neg howns, ht0, ht1]
  subst hu ht
  rfl
end

end Sys2Proof.Machine

open Sys2Proof Sys2Proof.Machine

/-- Settles O19: an assay that starts is tried at once, and one that ends judges each peer. -/
theorem replicaAssays : Obligations.ReplicaAssays := by
  intro s c id a hruns ha
  refine ⟨fun ds hidle hfirst hfree => ?_, fun gathered hon hdone hout => ?_⟩
  · intro a1 t hds a2 t'
    have htry : assayTry (setAssay s c a1) c id = _ :=
      assayTry_digests (assayOf_setAssay ha (b := a1) rfl rfl rfl) (a2 := a2) (t := t) rfl hfirst rfl hds rfl
    exact congrArg Host.Outcome.next ((assayStartStep_starts ha hruns hidle hfree).trans htry)
  · intro peers gathered' silent t r
    exact congrArg Host.Outcome.next (assayDoneStep_ends ha (r := r) (t := t) hruns hon hdone hout rfl rfl rfl rfl)

/-- Settles O20: each end of a hoist, and each page of a dying object, past its guards. -/
theorem hoistsAndObjects : Obligations.HoistsAndObjects := by
  refine ⟨fun s c p => ⟨fun h hruns hh hlanded => ?_, fun h hruns hh howns => ?_, fun h back hruns hh hlanded howns => ?_, fun id w htime hw => ?_,
    fun e hruns he huse => ?_⟩, fun s c o hdying => ?_⟩
  · intro e howns heads r
    exact congrArg (fun t => Host.Outcome.next (settleFoul t)) (hoistStep_lands (e := e) (heads := heads) (r := r) hruns hh hlanded rfl howns rfl rfl)
  · intro t0 t1 o t u
    exact congrArg (fun t => Host.Outcome.next (settleFoul t)) (backStep_stores (t0 := t0) (t1 := t1) (o := o) (t := t) hruns hh howns rfl rfl rfl rfl)
  · cases back with
    | true => exact congrArg (fun t => Host.Outcome.next (settleFoul t)) (backStep_fault hruns hh howns)
    | false => exact congrArg (fun t => Host.Outcome.next (settleFoul t)) (hoistStep_fault hruns hh hlanded howns)
  · intro t
    exact congrArg Host.Outcome.next (deadlineStep_fails (t := t) htime hw rfl)
  · intro t
    exact congrArg Host.Outcome.next (evictStep_acts (t := t) hruns he huse rfl)
  · intro t
    have ht : (objPages (claim s c) o).foldl (destroyPage c) s = t := rfl
    exact congrArg Host.Outcome.next ((destroyStep_dying hdying).trans (congrArg (fun t => objGone t c o) ht))

/-- Settles O21: a line of a tier past the checks of its address, and a leaf past the checks of its frames. -/
theorem scrubAndRepair : Obligations.ScrubAndRepair := by
  refine fun s hruns => ⟨fun tier f addr => ?_, fun c o leaf m hin => ?_⟩
  · intro n i l halign hin hretired hfenced hgated t key found errs place u
    exact congrArg (fun t => Host.Outcome.next (settleFoul t))
      (scrubStep_reads (n := n) (i := i) (l := l) (found := found) (t := t) (u := u) hruns rfl rfl rfl halign hin hretired hfenced hgated rfl rfl rfl)
  · intro p e ht1f ht2f t0 t1 t u
    have ht : settleLeaf t1 c o leaf p (goodLeaf s c o leaf p m) = t := rfl
    exact congrArg (fun t => Host.Outcome.next (settleFoul t))
      (repairStep_repairs (p := p) (e := e) (t0 := t0) (t1 := t1) (t := t) (u := u) hruns hin rfl rfl ht1f ht2f rfl rfl ht rfl)
end

section
/-!
PROOFS. The start, the retirement and the timeout of collectives, and the barriers of a PERMUTE set (R240, R252, R253, R256, R262, R263).
-/
namespace Sys2Proof.Machine
open Sys2Proof

theorem findColl_id {s : State} {c id : Nat} {x : Coll} (h : findColl s c id = some x) : x.id = id := by
  have hp := List.find?_some h
  rw [Bool.and_eq_true, beq_iff_eq] at hp
  exact hp.1

/-! ### The start of a collective -/

/-- The ABORT that has come for a collective before it starts. -/
def abortOf (k : Claim) (x : Coll) : Option AbortBody := k.aborts.find? (fun a => a.group == x.group && a.issue == x.issue)

section
variable {s u t1 t2 t3 : State} {c id : Nat} {x : Coll}

/-- `t1` is the state where the collective has started, `t2` the one after its signatures, and `t3` the one without those
that have come. -/
theorem beginColl_starts {fs : List W64} {own : SigBody → Bool} (hid : x.id = id)
    (hown : (fun (b : SigBody) => b.group == x.group && b.issue == x.issue) = own)
    (h1 : setColl u c { x with started := true, sig := fs, progress := u.time, waitAt := u.time } = t1)
    (h2 : (peerRanks (claim u c) x).foldl (fun t r =>
      sendCtrl t c (rankAddr (claim u c) x r) 0 (.sig { sender := t.devAddr, group := x.group, issue := x.issue, fields := fs })) t1 = t2)
    (h3 : setClaim t2 c { claim t2 c with sigBox := (claim t2 c).sigBox.filter fun b => !own b } = t3) :
    beginColl u c x fs = goOn (((claim u c).sigBox.filter own).foldl (fun t b => takeSig t c id b) t3) c id := by
  subst hid hown h1 h2 h3
  rfl

/-- COLL_START of a collective that nothing holds and no ABORT has reached. -/
def startChecked (s : State) (c id : Nat) (x : Coll) : State :=
  if x.op ≠ .permute ∧ x.epoch < (claim s c).epoch then failColl s c id stEpochStale true
  else if x.op ≠ .permute ∧ (claim s c).epoch < x.epoch then failColl s c id stEpochAhead true
  else if x.op = .permute ∧ (groupRanks (claim s c) x).any (fun a => (memberBell (claim s c) a).isNone) then failColl s c id stNoBellPeer true
  else
    match sigOf (noteTables s c x) c x with
    | .bad n => failColl (noteTables s c x) c id n true
    | .absent l => stallAll (noteTables s c x) c l (.transfer id)
    | .ok fs => beginColl (noteTables s c x) c x fs

section
variable (hx : findColl s c id = some x) (hruns : running s = true) (hin : inService (claim s c) = true) (hnew : x.started = false)
  (hfree : startWaits s c x = .ok false)
include hx hruns hin hnew hfree

theorem collStartStep_free (hearly : abortOf (claim s c) x = none) : collStartStep s c id = startChecked s c id x := by
  have hgo : ¬ (x.started || !running s || !inService (claim s c)) = true := by rw [hnew, hruns, hin]; decide
  unfold abortOf at hearly
  unfold collStartStep
  rw [hx]
  dsimp only
  rw [if_neg hgo, hfree, hearly]
  rfl

theorem collStartStep_aborted {a : AbortBody} (hearly : abortOf (claim s c) x = some a) :
    collStartStep s c id = failColl s c id (abortStatus a) false := by
  have hgo : ¬ (x.started || !running s || !inService (claim s c)) = true := by rw [hnew, hruns, hin]; decide
  unfold abortOf at hearly
  unfold collStartStep
  rw [hx]
  dsimp only
  rw [if_neg hgo, hfree, hearly]
end

theorem startChecked_begins {fs : List W64} (hepoch : x.op ≠ .permute → x.epoch = (claim s c).epoch)
    (hbell : x.op = .permute → ∀ a ∈ groupRanks (claim s c) x, (memberBell (claim s c) a).isSome = true)
    (hu : noteTables s c x = u) (hsig : sigOf u c x = .ok fs) : startChecked s c id x = beginColl u c x fs := by
  have hstale : ¬ (x.op ≠ .permute ∧ x.epoch < (claim s c).epoch) := fun h => absurd (hepoch h.1) (Nat.ne_of_lt h.2)
  have hahead : ¬ (x.op ≠ .permute ∧ (claim s c).epoch < x.epoch) := fun h => absurd (hepoch h.1).symm (Nat.ne_of_lt h.2)
  have hpeers : ¬ (x.op = .permute ∧ (groupRanks (claim s c) x).any (fun a => (memberBell (claim s c) a).isNone) = true) := by
    rintro ⟨hop, hany⟩
    obtain ⟨a, ha, hnone⟩ := List.any_eq_true.mp hany
    have hsome := hbell hop a ha
    rw [Option.isNone_iff_eq_none] at hnone
    rw [hnone] at hsome
    cases hsome
  unfold startChecked
  rw [if_neg hstale, if_neg hahead, if_neg hpeers, hu, hsig]

theorem startChecked_epoch (hop : x.op ≠ .permute) (hepoch : x.epoch ≠ (claim s c).epoch) :
    startChecked s c id x = failColl s c id (if x.epoch < (claim s c).epoch then stEpochStale else stEpochAhead) true := by
  unfold startChecked
  by_cases hlt : x.epoch < (claim s c).epoch
  · rw [if_pos ⟨hop, hlt⟩, if_pos hlt]
  · have hahead : (claim s c).epoch < x.epoch := Nat.lt_of_le_of_ne (Nat.le_of_not_lt hlt) (Ne.symm hepoch)
    rw [if_neg (fun h => hlt h.2), if_pos ⟨hop, hahead⟩, if_neg hlt]
end

/-! ### Retirement and timeout -/

section
variable {s t u v : State} {c id : Nat} {x : Coll}

theorem collRetireStep_lands {r : State × Coll} (hx : findColl s c id = some x) (hruns : running s = true) (hop : x.op ≠ .permute)
    (hphase : x.phase ≠ 0) (hquiet : collQuiet s c x = .ok true) (hland : land s c x = .ok r) :
    collRetireStep s c id = pumpDescs (endColl r.1 c r.2 stOk) := by
  have hgo : ¬ (x.op = .permute ∨ (!running s) = true ∨ x.phase = 0) := by
    rintro (h | h | h)
    · exact hop h
    · exact not_not_of_true hruns h
    · exact hphase h
  unfold collRetireStep
  rw [hx]
  dsimp only
  rw [if_neg hgo, hquiet]
  dsimp only
  rw [hland]

theorem silentRanks_outside (hid : ∀ p, (claim s c).pset = some p → x.id ∉ p.members) : silentRanks s c x = awaited s c x := by
  have hnone : (claim s c).pset.filter (fun p => p.members.contains x.id) = none := by
    rw [Option.filter_eq_none_iff]
    intro p hp hmem
    exact hid p hp (List.contains_iff_mem.mp hmem)
  unfold silentRanks
  rw [hnone]

/-- No rank that the collective waits for is silent longer than `limit`, else it fails. -/
def failSilent (s : State) (c id : Nat) (x : Coll) (limit : Nat) : State :=
  if (silentRanks s c x).isEmpty then s else
    pumpDescs (failColl (advanceTo s (silentSince x (silentRanks s c x) + limit)) c id stCollTimeout true)

theorem failSilent_fails {limit : Nat} (h : silentRanks s c x ≠ []) : failSilent s c id x limit =
    pumpDescs (failColl (advanceTo s (silentSince x (silentRanks s c x) + limit)) c id stCollTimeout true) :=
  if_neg fun he => h (List.isEmpty_iff.mp he)

section
variable (hx : findColl s c id = some x) (htime : timeRuns s = true) (hstarted : x.started = true)
include hx htime hstarted

theorem collTimeoutStep_outside (hid : ∀ p, (claim s c).pset = some p → id ∉ p.members) :
    collTimeoutStep s c id = failSilent s c id x (cTimeout x) := by
  have hgo : ¬ (!x.started || !timeRuns s) = true := by rw [hstarted, htime]; decide
  have hnone : (claim s c).pset.filter (fun p => p.members.contains id) = none := by
    rw [Option.filter_eq_none_iff]
    intro p hp hmem
    exact hid p hp (List.contains_iff_mem.mp hmem)
  unfold collTimeoutStep
  rw [hx]
  dsimp only
  rw [if_neg hgo, hnone]
  rfl

variable {p : Sys2Proof.Machine.PSet} (hp : (claim s c).pset = some p) (hid : id ∈ p.members)
include hp hid

theorem collTimeoutStep_member : collTimeoutStep s c id =
    if p.phase = 0 then s
    else if p.phase = 1 then (if setPast s c p then s else failSilent s c id x p.timeout)
    else setClaim (advanceTo s (p.passed + p.timeout)) c { claim s c with
      pset := some { p with gone := (p.gone ++ (otherRanks (claim s c) p).filter fun r => !tokenOf (claim s c) p 2 r).eraseDups } } := by
  have hgo : ¬ (!x.started || !timeRuns s) = true := by rw [hstarted, htime]; decide
  have hsome : (claim s c).pset.filter (fun p => p.members.contains id) = some p := by
    rw [hp]
    exact Option.filter_some_pos (List.contains_iff_mem.mpr hid)
  unfold collTimeoutStep
  rw [hx]
  dsimp only
  rw [if_neg hgo, hsome]
  rfl
end

/-! ### The barriers of a PERMUTE set -/

/-- The objects that the members of a set touch; a member whose tables cannot be read names none. -/
def setTouches (t : State) (c : Nat) (p : Sys2Proof.Machine.PSet) : List Nat :=
  (setMembers t c p).flatMap fun x => match touchObjs t c x with | .ok l => l | _ => []

section
variable {p : Sys2Proof.Machine.PSet} (hp : (claim s c).pset = some p) (hruns : running s = true)
include hp hruns

/-- `u` is the state once the waits and the reads of the members are counted, `t` the one once their data goes. -/
theorem fenceStep_clears (hphase : p.phase = 0) (hreached : barReached s c p 0 = true) (hheld : barHeld (claim s c) p 0 = true)
    (hu : (setMembers s c p).foldl (fun s x => noteReads (noteTables s c x) c x 1) (waitSet s c) = u)
    (hgo : permuteGo u c (setMembers u c p) = .ok t) :
    fenceStep s c = pumpDescs (setClaim t c { claim t c with
      pset := (claim t c).pset.map fun q => { q with phase := 1, objs := setTouches t c p } }) := by
  have hbar : (setReady s c p && olderTouch s c p == .ok false) = true := by
    unfold barReached at hreached
    rw [hphase] at hreached
    exact hreached
  rw [Bool.and_eq_true, beq_iff_eq] at hbar
  obtain ⟨hready, hold⟩ := hbar
  have hbusy : ¬ (!running s || p.phase != 0 || !setReady s c p) = true := by rw [hruns, hphase, hready]; decide
  have hwait : ¬ (!barReached s c p 0 || !barHeld (claim s c) p 0) = true := by rw [hreached, hheld]; decide
  unfold fenceStep
  dsimp only
  rw [hp]
  dsimp only
  rw [if_neg hbusy, hold]
  dsimp only
  rw [if_neg hwait, hu, hgo]
  rfl

theorem stagedStep_copies (hphase : p.phase = 1) (hreached : barReached s c p 1 = true) (hheld : barHeld (claim s c) p 1 = true)
    (hu : waitSet s c = u) (hcopy : (setMembers u c p).foldl (fun acc x => bindGot acc fun s => copyIn s c x) (.ok u) = .ok t) :
    stagedStep s c = setClaim t c { claim t c with pset := (claim t c).pset.map fun p => { p with phase := 2, passed := t.time } } := by
  have hbusy : ¬ (!running s || p.phase != 1 || !barReached s c p 1 || !barHeld (claim s c) p 1) = true := by
    rw [hruns, hphase, hreached, hheld]; decide
  unfold stagedStep
  dsimp only
  rw [hp]
  dsimp only
  rw [if_neg hbusy, hu, hcopy]

theorem permuteEnd_ends (hphase : p.phase = 2) (hheld : barHeld (claim s c) p 2 = true) (hu : waitSet s c = u)
    (ht : setClaim u c { claim u c with pset := none, epoch := p.epoch } = t) :
    permuteEnd s c = (setMembers t c p).foldl (fun s x => endColl s c { x with lost := !p.gone.isEmpty } stOk) t := by
  have hbusy : ¬ (!running s || p.phase != 2 || !barHeld (claim s c) p 2) = true := by rw [hruns, hphase, hheld]; decide
  unfold permuteEnd
  dsimp only
  rw [hp]
  dsimp only
  rw [if_neg hbusy, hu, ht]
end

theorem fenceTimeoutStep_fails {p : Sys2Proof.Machine.PSet} (hp : (claim s c).pset = some p) (htime : timeRuns s = true) (hphase : p.phase = 0) :
    fenceTimeoutStep s c = failColl (advanceTo s (p.since + p.timeout)) c (p.members.headD 0) stEpochFenceTimeout true := by
  unfold fenceTimeoutStep
  rw [hp]
  exact if_pos ⟨hphase, htime⟩
end

end Sys2Proof.Machine

open Sys2Proof Sys2Proof.Machine

/-- Settles O22: each step of a collective past its guards, and each barrier that is reached and held. -/
theorem collectivesAndPermutes : Obligations.CollectivesAndPermutes := by
  refine ⟨fun s c id x hx => ⟨fun hruns hin hnew hfree => ?_, fun r hruns hop hphase hquiet hland => ?_, fun htime hstarted hout hsilent => ?_⟩,
    fun s c p hp => ⟨?_, ?_, ?_, ?_, ?_⟩⟩
  · intro k early
    refine ⟨fun fs hearly hepoch hbell => ?_, fun a hearly => ?_, fun hearly hop hepoch => ?_⟩
    · intro u hsig own t t'
      have hbegin := beginColl_starts (u := u) (t2 := t) (t3 := t') (fs := fs) (findColl_id hx) rfl rfl rfl rfl
      have hcheck := startChecked_begins (id := id) hepoch hbell rfl hsig
      exact congrArg Host.Outcome.next ((collStartStep_free hx hruns hin hnew hfree hearly).trans (hcheck.trans hbegin))
    · exact congrArg Host.Outcome.next (collStartStep_aborted hx hruns hin hnew hfree hearly)
    · exact congrArg Host.Outcome.next ((collStartStep_free hx hruns hin hnew hfree hearly).trans (startChecked_epoch hop hepoch))
  · exact congrArg (fun t => Host.Outcome.next (settleFoul t)) (collRetireStep_lands hx hruns hop hphase hquiet hland)
  · have hranks : silentRanks s c x = awaited s c x := silentRanks_outside fun p hp hmem => hout p hp (findColl_id hx ▸ hmem)
    rw [← hranks] at hsilent ⊢
    exact congrArg Host.Outcome.next ((collTimeoutStep_outside hx htime hstarted hout).trans (failSilent_fails hsilent))
  · intro t hruns hphase hreached hheld u hgo os
    exact congrArg (fun t => Host.Outcome.next (settleFoul t)) (fenceStep_clears (u := u) hp hruns hphase hreached hheld rfl hgo)
  · exact fun htime hphase => congrArg Host.Outcome.next (fenceTimeoutStep_fails hp htime hphase)
  · intro t hruns hphase hreached hheld u hcopy
    exact congrArg (fun t => Host.Outcome.next (settleFoul t)) (stagedStep_copies hp hruns hphase hreached hheld rfl hcopy)
  · intro hruns hphase hheld u t
    exact congrArg (fun t => Host.Outcome.next (settleFoul t)) (permuteEnd_ends (u := u) (t := t) hp hruns hphase hheld rfl rfl)
  · intro id x htime hx hstarted hid
    have hmember := collTimeoutStep_member hx htime hstarted hp hid
    refine ⟨fun hphase hnotPast hsilent => ?_, fun hphase => ?_⟩
    · rw [if_neg (hphase ▸ by decide), if_pos hphase, if_neg (ne_true_of_eq_false hnotPast)] at hmember
      exact congrArg Host.Outcome.next (hmember.trans (failSilent_fails hsilent))
    · intro silent
      rw [if_neg (hphase ▸ by decide), if_neg (hphase ▸ by decide)] at hmember
      exact congrArg Host.Outcome.next hmember
end

section
/-!
PROOFS. The effect and the end of a turn, and the loads, audits and peers of versions (R31, R34, R264, R314, R318, R326, R328).
-/
namespace Sys2Proof.Machine
open Sys2Proof

/-! ### Turns -/

section
variable {s t t' : State} {c : Nat} {u : Turn} (hruns : running s = true) (hu : (claim s c).turn = some u)
include hruns hu

theorem turnEffectStep_due (hdue : u.due = true) (hnew : u.begun = false) : turnEffectStep s c =
    if turnSlot (claim s c) u ≠ 0 then reply (setClaim s c { claim s c with turn := none }) u.ring u.seq (turnSlot (claim s c) u) 0 0
    else
      let t := if u.learning then dropVersions (dropStreams (dropRequests s c) c) c else dropStreams (dropRequests s c) c
      issueTurn (setClaim t c { claim t c with turn := some { u with begun := true } }) c u := by
  have hgo : ¬ (!u.due || u.begun || !running s) = true := by rw [hdue, hnew, hruns]; decide
  unfold turnEffectStep
  dsimp only
  rw [hu]
  exact if_neg hgo

theorem turnFinishStep_free (hbegun : u.begun = true) (hset : (claim s c).pset = none)
    (hcolls : ∀ x ∈ (claim s c).colls, x.op = .permute → x.epoch ≠ u.epoch) : turnFinishStep s c =
    if u.failed ≠ 0 then reply (setClaim s c { claim s c with turn := none, shift := .none }) u.ring u.seq u.failed 0 0
    else
      let t := if u.learning then dropPrograms s c else applyServe s c u
      reply (setClaim t c { claim t c with turn := none, shift := if u.learning then .learning else .generation })
        u.ring u.seq u.dropped u.epoch 0 := by
  have hidle : ((claim s c).colls.any fun x => x.op == .permute && x.epoch == u.epoch) = false := by
    rw [List.any_eq_false]
    intro x hx hbusy
    rw [Bool.and_eq_true, beq_iff_eq, beq_iff_eq] at hbusy
    exact hcolls x hx hbusy.1 hbusy.2
  have hgo : ¬ (!u.begun || (claim s c).pset.isSome || ((claim s c).colls.any fun x => x.op == .permute && x.epoch == u.epoch) || !running s) = true := by
    rw [hbegun, hset, hidle, hruns]; decide
  unfold turnFinishStep
  dsimp only
  rw [hu]
  exact if_neg hgo
end

/-! ### Loads and audits -/

/-- The state in which a load's words are written: those of its source, or none where they stand already. -/
def putLoad (s : State) (c : Nat) (l : Load) (e : VEntry) (va : Nat) (src : Option (List PWord)) : State :=
  match src with
  | some ws => if l.reload then putMarked s c e.obj e.bytes ws else putShard s c va e.bytes ws
  | none => noteVa s c va e.bytes

section
variable {s t u : State} {c : Nat} (hruns : running s = true)
include hruns

theorem loadStep_good {slot entry : Nat} {peer : PeerAnswer} {l : Load} {e : VEntry} {va : Nat} {src : Option (List PWord)} {ws : List PWord}
    (he : l.ent = e) (hva : objBase (claim s c) e.obj = va) (hws : src.getD (vaWords s c va (ceilDiv e.bytes 8)) = ws)
    (hl : theLoad s c slot entry = some l) (hacc : access (claim s c) (.request none) va e.bytes = .ok)
    (hsrc : loadWords s c l e.bytes peer = .ok src) (hclean : ws.any (·.poison) = false) (hdigest : treeDigest (shardBytes ws e.bytes) = e.digest) :
    loadStep s c slot entry peer = loadGood (putLoad s c l e va src) c l e := by
  unfold loadStep
  dsimp only
  rw [hl]
  dsimp only
  rw [if_neg (not_not_of_true hruns), he, hva, hacc]
  dsimp only
  rw [hsrc]
  dsimp only
  rw [hws, if_neg (ne_true_of_eq_false hclean), if_neg (not_not_intro hdigest)]
  cases src <;> rfl

theorem auditStep_starts {l : List (Nat × Nat × VEntry)} {e : Nat × Nat × VEntry} (hl : auditList (claim s c) = l)
    (he : l[(claim s c).auditPos % l.length]? = some e) (hin : inService (claim s c) = true) (hint : (claim s c).auditInt ≠ 0)
    (htick : (claim s c).ticking = true) (hdue : (claim s c).tick % (claim s c).auditInt = 0) (hnew : (claim s c).auditAt ≠ (claim s c).tick + 1)
    (hidle : (claim s c).audit = none) : auditStep s c =
      setClaim s c { claim s c with audit := some e, auditPos := ((claim s c).auditPos + 1) % l.length, auditAt := (claim s c).tick + 1 } := by
  have hsome : l.isEmpty = false := by
    cases l with
    | nil => cases he
    | cons _ _ => rfl
  have hgo : ¬ (!inService (claim s c) || !running s || (claim s c).auditInt == 0 || !(claim s c).ticking
      || (claim s c).tick % (claim s c).auditInt != 0 || (claim s c).auditAt == (claim s c).tick + 1
      || (claim s c).audit.isSome || l.isEmpty) = true := by
    rw [hin, hruns, beq_false_of_ne hint, htick, bne_zero_false hdue, beq_false_of_ne hnew, hidle, hsome]
    decide
  unfold auditStep
  dsimp only
  rw [hl, if_neg hgo, he]

theorem auditDoneStep_named {slot n : Nat} {e : VEntry} {p : Nat × Nat} {ps : List Nat} {ws : List PWord} {d : BitVec 256}
    (haudit : (claim s c).audit = some (slot, n, e)) (hname : auditName (claim s c) slot n e = some p)
    (hmend : mendPages (claim s c) [(objBase (claim s c) e.obj, e.bytes)] = [])
    (ht : setClaim s c { claim s c with audit := none } = t)
    (hps : (List.range (ceilDiv e.bytes 2097152)).map ((obj (claim s c) e.obj).base + ·) = ps)
    (hws : (ps.flatMap (auditPage t c)).take (ceilDiv e.bytes 8) = ws) (hd : treeDigest (shardBytes ws e.bytes) = d)
    (hu : ps.foldl (fun s p => notePage s c p) t = u) :
    auditDoneStep s c = if ws.any (·.poison) || d != e.digest then auditFail u c p.1 p.2 e d else u := by
  have hgo : ¬ (!running s || !(mendPages (claim s c) [(objBase (claim s c) e.obj, e.bytes)]).isEmpty) = true := by
    rw [hruns, hmend]; decide
  unfold auditDoneStep
  dsimp only
  rw [haudit]
  dsimp only
  rw [if_neg hgo, hname]
  dsimp only
  rw [ht, hps, hws, hd, hu]

theorem serveStep_words {n peer entry vid i : Nat} {tag : W16} {e : VEntry} (hup : shaftUp (shaft s n) = true) (htag : tagClaim s tag = some c)
    (hshare : tagShare s n tag ≠ 0) (hcarries : carries s n c = true) (hslot : slotOf (claim s c) vid = some i)
    (he : verEntry (claim s c) i entry = some e) (hloaded : e.loaded = true)
    (hacc : access (claim s c) (.request none) (objBase (claim s c) e.obj) e.bytes = .ok)
    (hmend : mendPages (claim s c) [(objBase (claim s c) e.obj, e.bytes)] = []) :
    serveStep s n peer tag vid entry = { noteVa s c (objBase (claim s c) e.obj) e.bytes with
      served := some (n, peer, .words (vaWords s c (objBase (claim s c) e.obj) (ceilDiv e.bytes 8))) } := by
  have hgo : ¬ (!running s || !shaftUp (shaft s n)) = true := by rw [hruns, hup]; decide
  have hentry : ((slotOf (claim s c) vid).bind fun i => verEntry (claim s c) i entry) = some e := by rw [hslot]; exact he
  unfold serveStep
  dsimp only
  rw [if_neg hgo, htag]
  dsimp only
  rw [if_neg hshare, if_neg (not_not_of_true hcarries), hentry]
  dsimp only
  rw [if_neg (not_not_of_true hloaded), hacc]
  dsimp only
  rw [hmend]
end

end Sys2Proof.Machine

open Sys2Proof Sys2Proof.Machine

/-- Settles O23: each step of a turn past its guards, and each load, audit and answer past the checks of its entry. -/
theorem turnsAndVersionEvents : Obligations.TurnsAndVersionEvents := by
  refine ⟨fun s c u hruns hu => ⟨fun hdue hnew hslot => ?_, fun hdue hnew hslot => ?_, fun hbegun hset hcolls => ⟨fun hgood => ?_, fun hbad => ?_⟩⟩,
    fun s c hruns => ⟨fun slot entry peer l src => ?_, fun e he hin hint htick hdue hnew hidle => ?_, fun slot n e p haudit hname hmend => ?_,
      fun n peer tag vid entry i e hup htag hshare hcarries hslot he hloaded hacc hmend => ?_⟩⟩
  · intro t t'
    exact congrArg Host.Outcome.next ((turnEffectStep_due hruns hu hdue hnew).trans (if_neg (not_not_intro hslot)))
  · exact congrArg Host.Outcome.next ((turnEffectStep_due hruns hu hdue hnew).trans (if_pos hslot))
  · intro t
    exact congrArg Host.Outcome.next ((turnFinishStep_free hruns hu hbegun hset hcolls).trans (if_neg (not_not_intro hgood)))
  · exact congrArg Host.Outcome.next ((turnFinishStep_free hruns hu hbegun hset hcolls).trans (if_pos hbad))
  · intro e va ws hl hacc hsrc hclean hdigest
    have hgood := loadStep_good hruns (l := l) (e := e) (va := va) (ws := ws) rfl rfl rfl hl hacc hsrc hclean hdigest
    refine congrArg Host.Outcome.next (hgood.trans ?_)
    cases src <;> rfl
  · intro pos
    exact congrArg Host.Outcome.next (auditStep_starts hruns rfl he hin hint htick hdue hnew hidle)
  · intro t ps ws d u
    exact congrArg Host.Outcome.next
      (auditDoneStep_named hruns (t := t) (ps := ps) (ws := ws) (d := d) (u := u) haudit hname hmend rfl rfl rfl rfl rfl)
  · exact congrArg Host.Outcome.next (serveStep_words hruns hup htag hshare hcarries hslot he hloaded hacc hmend)
end

section
/-!
PROOFS. The commands that create, destroy, reset and read a claim, and the end of its clearing (R343, R346, R378, R393, R426, R441).
-/
namespace Sys2Proof.Machine
open Sys2Proof

section
variable {s t u v : State} {r : Fin 256} {k : Call} {c : Nat} (ht : consumed s r = t) (hk : callOf s r = k)
include ht hk

theorem claimCreateStep_served {d : List Byte} {salt : BitVec 128} {x : Claim} (h : Served s r 0x010 [whole])
    (hread : hostOk t (par k 1 63 0) 768 = true) (hd : hostRead t (par k 1 63 0) 768 = d) (hv : draw t = (salt, v))
    (hx : newClaim d salt v.time = x) (hst : createStatus t d = 0) : claimCreateStep s r =
    if granulesReady v x then replied s r (startClaim v (dsc d 0 1) d salt v.time) stOk (saltHash salt) 0
    else putShadow (setClaim v (dsc d 0 1) { afterClaim (claim v (dsc d 0 1)) x with creating := some (k.r, k.seq), shift := .none }) r := by
  by_cases hready : granulesReady v x = true
  · rw [if_pos hready]
    refine lervo_done h ?_
    rw [ht, hk]
    dsimp only
    rw [readHost_ok hread, hd, if_neg (not_not_intro hst), hv]
    dsimp only
    rw [hx, if_pos hready]
  · rw [if_neg hready]
    refine lervo_wait h ?_
    rw [ht, hk]
    dsimp only
    rw [readHost_ok hread, hd, if_neg (not_not_intro hst), hv]
    dsimp only
    rw [hx, if_neg hready]

section
variable (hc : par k 1 2 0 = c) (hlive : (claim t c).live = true) (hmade : (claim t c).creating = none) (hkept : (claim t c).clearing = none)
  (hu : closeClaim t c = u)
include hc hlive hmade hkept hu

omit ht hk hc hu in
/-- The claim is there, and neither being made nor being cleared. -/
theorem claim_settled : ¬ ((!(claim t c).live) = true ∨ (claim t c).creating.isSome = true ∨ (claim t c).clearing.isSome = true) := by
  rw [hlive, hmade, hkept]; decide

theorem claimDestroyStep_closes {rs : Tab Ring} (h : Served s r 0x011 [span 2 0])
    (hrs : u.rings.foldl (fun m e =>
      if e.2.cls ≠ .management ∧ e.2.claim = c ∧ e.2.bound then Tab.set {} m e.1 { e.2 with orphan := true } else m) u.rings = rs) :
    claimDestroyStep s r = putShadow (setClaim { u with rings := rs } c
      { claim u c with clearing := some (k.r, k.seq, false), desc := keyless (claim u c).desc }) r := by
  refine lervo_wait h ?_
  rw [ht, hk]
  dsimp only
  rw [hc, if_neg (claim_settled hlive hmade hkept), hu, hrs]
  rfl

theorem claimResetStep_closes (h : Served s r 0x012 [span 2 0])
    (hv : ((List.range 5).map fun n => queueId (n + 1) c).foldl (fun s q =>
      if (outq s q).conf then setOutq s q { outq s q with tail := 0, head := 0, drops := 0, unsig := 0 } else s) u = v) :
    claimResetStep s r = putShadow (coolCap (setClaim v c { claim v c with clearing := some (k.r, k.seq, true) })) r := by
  refine lervo_wait h ?_
  rw [ht, hk]
  dsimp only
  rw [hc, if_neg (claim_settled hlive hmade hkept), hu, hv]
end

theorem claimQueryStep_writes {x : Claim} {bs : List Byte} (h : Served s r 0x013 [span 2 0, whole]) (hx : claim t (par k 1 2 0) = x)
    (hbs : x.desc.take 8 ++ List.replicate 24 0 ++ x.desc.drop 32 = bs) (hlive : x.live = true) (hmade : x.creating = none)
    (hhost : hostOk t (par k 2 63 0) bs.length = true) :
    claimQueryStep s r = replied s r (hostWrite t (par k 2 63 0) bs) stOk 0 0 := by
  have hthere : ¬ ((!x.live) = true ∨ x.creating.isSome = true) := by rw [hlive, hmade]; decide
  refine lervo_done h ?_
  rw [ht, hk]
  dsimp only
  rw [hx, if_neg hthere, hbs, putHost_ok hhost]
  rfl
end

/-! ### The end of a clearing -/

/-- A claim that is being cleared for a command of ring `r`. -/
def clearsOn (s : State) (r c : Nat) : Bool :=
  match (claim s c).clearing with | some (n, _, _) => n % 256 == r | none => false

theorem clearsOn_some {s : State} {r c : Nat} {e : Nat × W32 × Bool} (h : (claim s c).clearing = some e) : clearsOn s r c = (e.1 % 256 == r) := by
  unfold clearsOn
  rw [h]
theorem clearsOn_none {s : State} {r c : Nat} (h : (claim s c).clearing = none) : clearsOn s r c = false := by
  unfold clearsOn
  rw [h]

theorem clearDoneStep_first {s : State} {r c : Nat} (hruns : running s = true) (hstage : s.boot.stage = .ready) (hc : c < 8)
    (hon : clearsOn s r c = true) (hfirst : ∀ d, d < c → clearsOn s r d = false) : clearDoneStep s r = clearDone s c := by
  have hgo : ¬ (!running s || s.boot.stage != .ready) = true := by rw [hruns, hstage]; decide
  have hfind : (List.range 8).find? (clearsOn s r) = some c := by
    rw [List.find?_range_eq_some]
    exact ⟨hon, List.mem_range.mpr hc, fun d hd => not_of_false (hfirst d hd)⟩
  have hstep : clearDoneStep s r = if !running s || s.boot.stage != .ready then s else
      match (List.range 8).find? (clearsOn s r) with | some c => clearDone s c | none => s := rfl
  rw [hstep, if_neg hgo, hfind]

theorem clearDone_again {s u v : State} {c m : Nat} {q : W32} {salt : BitVec 128} (hclear : (claim s c).clearing = some (m, q, true))
    (hu : wipeSlots (wipeMemory s c) c = u) (hv : draw u = (salt, v)) :
    clearDone s c = reply (startClaim v c (claim s c).desc salt v.time) m q stOk 0 0 := by
  unfold clearDone
  rw [hclear]
  dsimp only
  rw [hu, hv, if_pos rfl]
theorem clearDone_gone {s u : State} {c m : Nat} {q : W32} (hclear : (claim s c).clearing = some (m, q, false))
    (hu : wipeSlots (wipeMemory s c) c = u) :
    clearDone s c = reply (setClaim (dropShares u c) c (afterClaim (claim u c) {})) m q stOk 0 0 := by
  unfold clearDone
  rw [hclear]
  dsimp only
  rw [hu, if_neg Bool.false_ne_true]

end Sys2Proof.Machine

open Sys2Proof Sys2Proof.Machine

/-- Settles O43: each command past its checks, and the first claim whose clearing came on the ring. -/
theorem claimCommands : Obligations.ClaimCommands := by
  intro s r t k
  refine ⟨?_, ?_, ?_, ?_⟩
  · intro h hread d v x hst
    exact congrArg Host.Outcome.next (claimCreateStep_served (t := t) (k := k) (d := d) (salt := v.1) (v := v.2) rfl rfl h hread rfl rfl rfl hst)
  · intro c x hlive hmade hkept u
    refine ⟨fun h => ?_, fun h => ?_⟩
    · intro rs
      exact congrArg Host.Outcome.next
        (claimDestroyStep_closes (t := t) (k := k) (c := c) (u := u) (rs := rs) rfl rfl rfl hlive hmade hkept rfl h rfl)
    · intro v
      exact congrArg Host.Outcome.next (claimResetStep_closes (t := t) (k := k) (c := c) (u := u) (v := v) rfl rfl rfl hlive hmade hkept rfl h rfl)
  · intro h x bs hlive hmade hhost
    exact congrArg Host.Outcome.next (claimQueryStep_writes (t := t) (k := k) (x := x) (bs := bs) rfl rfl h rfl rfl hlive hmade hhost)
  · intro c m q again hruns hstage hclear hring hfirst u
    have hon : clearsOn s r c = true := by rw [clearsOn_some hclear, beq_iff_eq]; exact hring
    have hstep : clearDoneStep s r = clearDone s c := clearDoneStep_first hruns hstage c.isLt hon fun d hd => by
      cases he : (claim s d).clearing with
      | none => exact clearsOn_none he
      | some e =>
        rw [clearsOn_some he]
        exact beq_false_of_ne (hfirst ⟨d, Nat.lt_trans hd c.isLt⟩ e hd he)
    refine congrArg Host.Outcome.next (hstep.trans ?_)
    cases again with
    | true => exact (clearDone_again (u := u) (salt := (draw u).1) (v := (draw u).2) hclear rfl rfl).trans (if_pos rfl).symm
    | false => exact (clearDone_gone (u := u) hclear rfl).trans (if_neg Bool.false_ne_true).symm
end

section
/-!
PROOFS. MUSTER, output queues, ring grants and retired frames (R179, R354, R368, R372, R377).
-/
namespace Sys2Proof.Machine
open Sys2Proof

section
variable {s t u : State} {r : Fin 256} {k : Call} {op : Nat} {used : List Nat} {body : Call → State → Ans}
  (ht : consumed s r = t) (hk : callOf s r = k)
include ht hk

/-- A served command, with its call and the consumed state named. -/
theorem served_done {st a b : Nat} (h : Served s r op used) (hb : body k t = .done u st a b) : lervo s r op used body = replied s r u st a b := by
  subst ht hk
  exact lervo_done h hb
theorem served_wait (h : Served s r op used) (hb : body k t = .wait u) : lervo s r op used body = putShadow u r := by
  subst ht hk
  exact lervo_wait h hb

/-! ### Rings and queues -/

theorem musterStep_writes {bs : List Byte} (h : Served s r 0x001 [whole])
    (hbs : musterBytes t k.seq (if (ring t r).cls = .management then none else some k.c) = bs) (halign : par k 1 63 0 % 4096 = 0)
    (hhost : hostOk t (par k 1 63 0) bs.length = true) :
    musterStep s r = replied s r (hostWrite t (par k 1 63 0) bs) stOk 0 0 := by
  refine served_done ht hk h ?_
  dsimp only
  rw [if_neg (not_not_intro halign), hbs, putHost_ok hhost]
  rfl

theorem outqSetStep_sets {q : OutQ} (h : Served s r 0x002 [span 39 0, whole, whole])
    (hq : q = { conf := true, fn := (ring t r).fn, base := w64 (par k 2 63 0), log2 := par k 1 6 3 + 4, shadow := w64 (par k 3 63 0),
                vector := par k 1 17 7, coalN := par k 1 25 18, coalUs := par k 1 35 26 })
    (hclaim : (ring t r).cls = .management ∨ (par k 1 2 0 ≠ 0 ∧ par k 1 38 36 = k.c)) (hkind : par k 1 2 0 ≤ 5) (hsize : par k 1 6 3 ≤ 12)
    (hbase : par k 2 63 0 % 4096 = 0) (hshadow : par k 3 63 0 % 64 = 0) (hvec : par k 1 17 7 < vectors (ring t r).fn) :
    outqSetStep s r = replied s r
      (setOutq t (queueId (par k 1 2 0) (par k 1 38 36)) (if par k 1 39 39 = 1 then q else {})) stOk 0 0 := by
  have hmay : ¬ ((ring t r).cls ≠ .management ∧ (par k 1 2 0 = 0 ∨ par k 1 38 36 ≠ k.c)) := by
    rintro ⟨hcls, hno⟩
    obtain ⟨hkind, hown⟩ := hclaim.resolve_left hcls
    exact hno.elim hkind fun hne => hne hown
  have hfields : ¬ (5 < par k 1 2 0 ∨ 12 < par k 1 6 3 ∨ par k 2 63 0 % 4096 ≠ 0 ∨ par k 3 63 0 % 64 ≠ 0 ∨ vectors (ring t r).fn ≤ par k 1 17 7) := by
    omega
  refine served_done ht hk h ?_
  dsimp only
  rw [if_neg hmay, if_neg hfields, ← hq]
  rfl

theorem ringGrantStep_binds (h : Served s r 0x003 [span 18 0]) (hn : par k 1 7 0 ≠ 0) (hfn : par k 1 15 10 ≤ 32)
    (hphys : classOf (par k 1 9 8) = .management → par k 1 15 10 = 0) (hfree : (ring t (par k 1 7 0)).bound = false)
    (hthere : classOf (par k 1 9 8) ≠ .management → claimThere (claim t (par k 1 18 16)) = true) :
    ringGrantStep s r = replied s r (setRing t (par k 1 7 0)
      { bound := true, cls := classOf (par k 1 9 8), fn := par k 1 15 10,
        claim := if classOf (par k 1 9 8) = .management then 0 else par k 1 18 16 }) stOk 0 0 := by
  have hfields : ¬ (par k 1 7 0 = 0 ∨ 32 < par k 1 15 10) := by omega
  have hclass : ¬ (classOf (par k 1 9 8) = .management ∧ par k 1 15 10 ≠ 0) := fun h => h.2 (hphys h.1)
  have hclaim : ¬ (classOf (par k 1 9 8) ≠ .management ∧ (!claimThere (claim t (par k 1 18 16))) = true) :=
    fun h => not_not_of_true (hthere h.1) h.2
  refine served_done ht hk h ?_
  dsimp only
  rw [if_neg hfields, if_neg hclass, if_neg (ne_true_of_eq_false hfree), if_neg hclaim]
  rfl

theorem ringRevokeStep_frees (h : Served s r 0x004 [span 7 0]) (hn : par k 1 7 0 ≠ 0) (hoff : ringState (ring t (par k 1 7 0)) = 1)
    (hout : (ring t (par k 1 7 0)).out = []) : ringRevokeStep s r = replied s r (setRing t (par k 1 7 0) {}) stOk 0 0 := by
  have hidle : ¬ (ringState (ring t (par k 1 7 0)) ≠ 1 ∨ (!(ring t (par k 1 7 0)).out.isEmpty) = true) := by rw [hoff, hout]; decide
  refine served_done ht hk h ?_
  dsimp only
  rw [if_neg hn, if_neg hidle]
  rfl

/-! ### Retired frames -/

section
variable {t2 : Bool} {f : Nat} {inUse : Bool} (h : Served s r 0x020 [span 0 0, span 19 0]) (ht2 : (par k 1 0 0 == 1) = t2) (hf : par k 2 19 0 = f)
  (hin : f < frameLimit t2) (huse : (if t2 then t2Used t f else t1Used t f) = inUse)
include h ht2 hf hin huse

theorem regionRetireStep_unused (hfree : inUse = false) : regionRetireStep s r =
    if t.retired.contains (t2, f) then replied s r t stOk 0 0
    else if 4096 ≤ t.retired.length then replied s r t stRetireFull 0 0
    else replied s r { t with retired := t.retired ++ [(t2, f)] } stOk 0 0 := by
  by_cases hlisted : t.retired.contains (t2, f) = true
  · rw [if_pos hlisted]
    refine served_done ht hk h ?_
    dsimp only
    rw [ht2, hf, if_neg (Nat.not_le_of_lt hin), huse, if_neg (ne_true_of_eq_false hfree), if_pos hlisted]
    rfl
  · rw [if_neg hlisted]
    by_cases hfull : 4096 ≤ t.retired.length
    · rw [if_pos hfull]
      refine served_done ht hk h ?_
      dsimp only
      rw [ht2, hf, if_neg (Nat.not_le_of_lt hin), huse, if_neg (ne_true_of_eq_false hfree), if_neg hlisted, if_pos hfull]
      rfl
    · rw [if_neg hfull]
      refine served_done ht hk h ?_
      dsimp only
      rw [ht2, hf, if_neg (Nat.not_le_of_lt hin), huse, if_neg (ne_true_of_eq_false hfree), if_neg hlisted, if_neg hfull]
      rfl

theorem regionRetireStep_used (hbusy : inUse = true) : regionRetireStep s r = replied s r t stFrameInUse 0 0 := by
  refine served_done ht hk h ?_
  dsimp only
  rw [ht2, hf, if_neg (Nat.not_le_of_lt hin), huse, if_pos hbusy]
  rfl
end

theorem regionRestoreStep_listed (h : Served s r 0x021 [span 0 0, span 19 0])
    (hlisted : t.retired.contains (par k 1 0 0 == 1, par k 2 19 0) = true) :
    regionRestoreStep s r = replied s r { t with retired := t.retired.erase (par k 1 0 0 == 1, par k 2 19 0) } stOk 0 0 := by
  refine served_done ht hk h ?_
  dsimp only
  rw [if_pos hlisted]
  rfl

theorem regionListStep_writes {bs : List Byte} (h : Served s r 0x022 [whole])
    (hbs : (t.retired.flatMap fun e => leBytes 4 (at' (b2n e.1) 31 + e.2)) ++
      List.replicate (16384 - (t.retired.flatMap fun e => leBytes 4 (at' (b2n e.1) 31 + e.2)).length) 0 = bs)
    (hhost : hostOk t (par k 1 63 0) bs.length = true) :
    regionListStep s r = replied s r (hostWrite t (par k 1 63 0) bs) stOk t.retired.length 0 := by
  refine served_done ht hk h ?_
  dsimp only
  rw [hbs, putHost_ok hhost]
  rfl
end

end Sys2Proof.Machine

open Sys2Proof Sys2Proof.Machine

/-- Settles O44: each command past the checks of its fields; a frame that is listed already is not listed again. -/
theorem ringAndRegionCommands : Obligations.RingAndRegionCommands := by
  refine ⟨fun s r => ?_, fun s r => ?_⟩
  · intro t k x
    refine ⟨fun h => ?_, fun h hclaim hkind hsize hbase hshadow hvec => ?_, fun h => ?_, fun h => ?_⟩
    · intro a bs halign hhost
      exact congrArg Host.Outcome.next (musterStep_writes (t := t) (k := k) (bs := bs) rfl rfl h rfl halign hhost)
    · intro q
      exact congrArg Host.Outcome.next (outqSetStep_sets (t := t) (k := k) (q := q) rfl rfl h rfl hclaim hkind hsize hbase hshadow hvec)
    · intro n cls fn hn hfn hphys hfree hthere y
      exact congrArg Host.Outcome.next (ringGrantStep_binds (t := t) (k := k) rfl rfl h hn hfn hphys hfree hthere)
    · intro n hn hbound hoff hout
      exact congrArg Host.Outcome.next (ringRevokeStep_frees (t := t) (k := k) rfl rfl h hn hoff hout)
  · intro t k e used
    refine ⟨fun h hin hfree => ?_, fun h hin hbusy => ?_, fun h hlisted => ?_, fun h => ?_⟩
    · have hretire := regionRetireStep_unused (t := t) (k := k) (t2 := e.1) (f := e.2) rfl rfl h rfl rfl hin (inUse := used) rfl hfree
      refine ⟨fun hlisted => ?_, fun hnew hroom => ?_, fun hnew hfull => ?_⟩
      · exact congrArg Host.Outcome.next (hretire.trans (if_pos hlisted))
      · exact congrArg Host.Outcome.next (hretire.trans ((if_neg (ne_true_of_eq_false hnew)).trans (if_neg (Nat.not_le_of_lt hroom))))
      · exact congrArg Host.Outcome.next (hretire.trans ((if_neg (ne_true_of_eq_false hnew)).trans (if_pos hfull)))
    · exact congrArg Host.Outcome.next (regionRetireStep_used (t := t) (k := k) (t2 := e.1) (f := e.2) rfl rfl h rfl rfl hin (inUse := used) rfl hbusy)
    · exact congrArg Host.Outcome.next (regionRestoreStep_listed (t := t) (k := k) rfl rfl h hlisted)
    · intro bs bs' hhost
      exact congrArg Host.Outcome.next (regionListStep_writes (t := t) (k := k) (bs := bs') rfl rfl h rfl hhost)
end

section
/-!
PROOFS. The commands over shafts, routes and the bell (R269, R275, R277, R280 to R282, R296 to R298, R313).
-/
namespace Sys2Proof.Machine
open Sys2Proof

section
variable {s t u : State} {r : Fin 256} {k : Call} {n c : Nat} (ht : consumed s r = t) (hk : callOf s r = k)

/-! ### Shafts -/

section
include ht hk

theorem addrSetStep_idle (h : Served s r 0x030 [span 11 0]) (hidle : ∀ i, i < 52 → (shaft t i).state = .off ∨ (shaft t i).state = .down) :
    addrSetStep s r = replied s r { t with devAddr := par k 1 11 0 } stOk 0 0 := by
  have hno : ¬ ((List.range 52).any fun n => (shaft t n).state != .off && (shaft t n).state != .down) = true := by
    intro hany
    obtain ⟨i, hi, hbusy⟩ := List.any_eq_true.mp hany
    rw [Bool.and_eq_true, bne_iff_ne, bne_iff_ne] at hbusy
    exact (hidle i (List.mem_range.mp hi)).elim hbusy.1 hbusy.2
  refine served_done ht hk h ?_
  rw [if_neg hno]
  rfl

theorem shaftCtlStep_sets (h : Served s r 0x031 [span 51 0])
    (hu : (List.range 52).foldl (fun s n =>
      if par k 1 n n = 1 then setShaft s n { shaft s n with enabled := true }
      else setShaft (shaftOff s n) n { shaft (shaftOff s n) n with enabled := false }) t = u) :
    shaftCtlStep s r = replied s r u stOk 0 0 := by
  refine served_done ht hk h ?_
  exact congrArg okay hu

theorem shaftQueryStep_writes {bs : List Byte} (h : Served s r 0x032 [span 5 0, whole]) (hn : par k 1 5 0 = n) (hin : n ≤ 51)
    (hbs : wordsBytes ((List.range 16).map fun i => w64 (Tab.get 0 (shaft t n).count i)) = bs) (hhost : hostOk t (par k 2 63 0) bs.length = true) :
    shaftQueryStep s r = replied s r (hostWrite t (par k 2 63 0) bs) stOk (shaftWord (shaft t n)) 0 := by
  refine served_done ht hk h ?_
  dsimp only
  rw [hn, if_neg (Nat.not_lt_of_le hin), hbs, putHost_ok hhost]

theorem shaftAuthStep_checked (h : Served s r 0x034 [span 5 0 + span 10 8]) (hn : par k 1 5 0 = n) (hc : par k 1 10 8 = c) (hin : n ≤ 51)
    (hserves : inService (claim t c) = true) (hshare : Tab.get 0 (shaft t n).share c ≠ 0) (hup : shaftUp (shaft t n) = true) :
    shaftAuthStep s r = if (shaft t n).auth.getLsbD c then replied s r t stOk 0 0 else putShadow (startAuth t n c (some (k.r, k.seq))) r := by
  by_cases hopen : (shaft t n).auth.getLsbD c = true
  · rw [if_pos hopen]
    refine served_done ht hk h ?_
    dsimp only
    rw [hn, hc, if_neg (Nat.not_lt_of_le hin), if_neg (not_not_of_true hserves), if_neg hshare, if_neg (not_not_of_true hup), if_pos hopen]
    rfl
  · rw [if_neg hopen]
    refine served_wait ht hk h ?_
    dsimp only
    rw [hn, hc, if_neg (Nat.not_lt_of_le hin), if_neg (not_not_of_true hserves), if_neg hshare, if_neg (not_not_of_true hup), if_neg hopen]
    rfl

theorem routeSetStep_sets {ns : List Nat} (h : Served s r 0x035 [span 11 0, span 63 63 + span 51 0])
    (hns : (List.range 52).filter (fun i => par k 2 i i = 1) = ns) (hsome : par k 2 63 63 = 1 → ns ≠ []) (hup : ∀ i, i ∈ ns → shaftUp (shaft t i) = true)
    (hpeer : ((ns.map fun i => (shaft t i).peer).eraseDups).length ≤ 1) (hself : par k 1 11 0 ≠ t.devAddr) :
    routeSetStep s r = replied s r { t with routes := Tab.set 0 t.routes (par k 1 11 0) (k.ws.getD 2 0) } stOk 0 0 := by
  have hdown : ¬ (ns.any fun n => !shaftUp (shaft t n)) = true := by
    intro hany
    obtain ⟨i, hi, hoff⟩ := List.any_eq_true.mp hany
    exact not_not_of_true (hup i hi) hoff
  have hvalid : ¬ ((par k 2 63 63 = 1 ∧ ns.isEmpty = true) ∨ (ns.any fun n => !shaftUp (shaft t n)) = true ∨
      1 < ((ns.map fun i => (shaft t i).peer).eraseDups).length ∨ par k 1 11 0 = t.devAddr) := by
    rintro (⟨hset, hnone⟩ | hno | hmany | heq)
    · exact hsome hset (List.isEmpty_iff.mp hnone)
    · exact hdown hno
    · exact Nat.not_lt_of_le hpeer hmany
    · exact hself heq
  refine served_done ht hk h ?_
  dsimp only
  rw [hns, if_neg hvalid]
  rfl
end

/-! ### Shares -/

/-- The bits of a word of two relay shares. -/
def relayBits : Nat := span 63 48 + span 39 32 + span 31 16 + span 7 0
/-- The claims' shares that SHAFT_SHARE_SET names. -/
def localShares (k : Call) : List Nat := (List.range 8).map fun c => par k 2 (8 * c + 7) (8 * c)
/-- The relay shares that it names. -/
def relayShares (k : Call) : List (W16 × Nat) :=
  ((List.range 4).flatMap fun i =>
    [(BitVec.ofNat 16 (par k (3 + i) 63 48), par k (3 + i) 39 32), (BitVec.ofNat 16 (par k (3 + i) 31 16), par k (3 + i) 7 0)]).filter
    fun p => p.2 != 0
/-- Their sum on shaft `n`, with those of creations under way. -/
def shareSum (t : State) (n : Nat) (l : List Nat) (rel : List (W16 × Nat)) : Nat :=
  (l.zipIdx.map fun p => max p.1 (shareHeld t n p.2)).foldl (· + ·) 0 + (rel.map Prod.snd).foldl (· + ·) 0
/-- Shares that are taken from an owner who uses the shaft. -/
def shareGone (t : State) (n : Nat) (old : Tab Nat × List (W16 × Nat)) (l : List Nat) (rel : List (W16 × Nat)) : Bool :=
  (List.range 8).any (fun c => l.getD c 0 == 0 && Tab.get 0 old.1 c != 0 && ownerBusy t n (claim t c).ctag) ||
    old.2.any fun p => !rel.any (fun q => q.1 == p.1) && ownerBusy t n p.1

theorem shareGone_eq_false {old : Tab Nat × List (W16 × Nat)} {l : List Nat} {rel : List (W16 × Nat)}
    (hlocal : ∀ c, c < 8 → l.getD c 0 = 0 → Tab.get 0 old.1 c ≠ 0 → ownerBusy t n (claim t c).ctag = false)
    (hrelay : ∀ p, p ∈ old.2 → (∀ q, q ∈ rel → q.1 ≠ p.1) → ownerBusy t n p.1 = false) : shareGone t n old l rel = false := by
  unfold shareGone
  rw [Bool.or_eq_false_iff, List.any_eq_false, List.any_eq_false]
  refine ⟨fun c hc hbusy => ?_, fun p hp hbusy => ?_⟩
  · rw [Bool.and_eq_true, Bool.and_eq_true, beq_iff_eq, bne_iff_ne] at hbusy
    obtain ⟨⟨hzero, hheld⟩, hbusy⟩ := hbusy
    exact ne_true_of_eq_false (hlocal c (List.mem_range.mp hc) hzero hheld) hbusy
  · rw [Bool.and_eq_true, Bool.not_eq_true', List.any_eq_false] at hbusy
    obtain ⟨hnone, hbusy⟩ := hbusy
    exact ne_true_of_eq_false (hrelay p hp fun q hq heq => hnone q hq (beq_iff_eq.mpr heq)) hbusy

include ht hk in
theorem shareSetStep_sets {l : List Nat} {rel : List (W16 × Nat)}
    (h : Served s r 0x033 [span 5 0, whole, relayBits, relayBits, relayBits, relayBits]) (hn : par k 1 5 0 = n)
    (hl : localShares k = l) (hrel : relayShares k = rel) (hin : n ≤ 51) (hsum : shareSum t n l rel ≤ 64)
    (htags : (rel.any fun p => p.1 == 0) = false) (hlive : (l.zipIdx.any fun p => p.1 != 0 && !(claim t p.2).live) = false)
    (hgone : shareGone t n (nextShares (shaft t n)) l rel = false) :
    shareSetStep s r = replied s r (setShares t n (l.zipIdx.foldl (fun m p => Tab.set 0 m p.2 p.1) []) rel) stOk 0 0 := by
  have hfields : ¬ (decide (51 < n) || decide (64 < shareSum t n l rel) || (l.zipIdx.any fun p => p.1 != 0 && !(claim t p.2).live) ||
      rel.any fun p => p.1 == 0) = true := by
    rw [decide_eq_false (Nat.not_lt_of_le hin), decide_eq_false (Nat.not_lt_of_le hsum), hlive, htags]; decide
  refine served_done ht hk h ?_
  change (if (decide (51 < par k 1 5 0) || decide (64 < shareSum t (par k 1 5 0) (localShares k) (relayShares k)) ||
      ((localShares k).zipIdx.any fun p => p.1 != 0 && !(claim t p.2).live) || (relayShares k).any fun p => p.1 == 0) = true
    then refuse t stBadEncoding
    else if shareGone t (par k 1 5 0) (nextShares (shaft t (par k 1 5 0))) (localShares k) (relayShares k) = true then refuse t stShareBusy
    else okay (setShares t (par k 1 5 0) ((localShares k).zipIdx.foldl (fun t p => Tab.set 0 t p.2 p.1) []) (relayShares k))) = _
  rw [hn, hl, hrel, if_neg hfields, if_neg (ne_true_of_eq_false hgone)]
  rfl

/-! ### The bell -/

section
include ht hk

theorem bellJoinStep_off (h : Served s r 0x040 [span 5 0]) (hoff : t.bell.state = .off) :
    bellJoinStep s r = putShadow { t with bell := { t.bell with
      state := .lock, addr := par k 1 5 0, cycles := 0, samples := [], spreads := 0, bad := 0, busy := false, isMaster := false
      next := none, heard := false, quiet := 0, leaving := false, cmd := some (k.r, k.seq) } } r := by
  refine served_wait ht hk h ?_
  rw [if_neg (not_not_intro hoff)]
  rfl

theorem bellJoinStep_busy (h : Served s r 0x040 [span 5 0]) (hon : t.bell.state ≠ .off) : bellJoinStep s r = replied s r t stBellBusy 0 0 := by
  refine served_done ht hk h ?_
  rw [if_pos hon]
  rfl

theorem bellLeaveStep_leaves (h : Served s r 0x041 []) : bellLeaveStep s r = replied s r
    (if t.bell.state = .off then t else if t.bell.state = .lock ∧ t.bell.cycles = 0 then leaveBell t
      else { t with bell := { t.bell with leaving := true } }) stOk 0 0 := served_done ht hk h rfl

theorem bellClaimStep_sets {x y : Claim} {es : List Nat} {ms : List (Nat × Nat)}
    (h : Served s r 0x042 [span 2 0 + span 13 8 + span 16 16 + span 30 24, whole]) (hc : par k 1 2 0 = c) (hn : par k 1 30 24 = n)
    (hx : claim t c = x) (hserves : inService x = true) (hmin : 1 ≤ n) (hmax : n ≤ 64) (hset : x.pset = none)
    (hhost : hostOk t (par k 2 63 0) (4 * n) = true) (hes : (chunks 4 (hostRead t (par k 2 63 0) (4 * n))).map leNat = es)
    (hms : (es.map fun e => (bits e 5 0, bits e 27 16)) = ms) (hres : (es.any fun e => bits e 31 28 != 0 || bits e 15 6 != 0) = false)
    (hself : (ms.any fun m => m.2 == t.devAddr) = true)
    (hy : y = { x with members := ms, master := par k 1 13 8, sympathy := par k 1 16 16 == 1, fseen := [], tickAt := t.time, tickCyc := 32
                       tickSeen := false, tickLost := false }) :
    bellClaimStep s r = replied s r (setClaim t c (if isTickMaster t y then { y with offset := 0, slew := 0 } else y)) stOk 0 0 := by
  have hcount : ¬ (n = 0 ∨ 64 < n) := by omega
  have hfree : ¬ x.pset.isSome = true := by rw [hset]; decide
  refine served_done ht hk h ?_
  dsimp only
  rw [hc, hn, hx, if_neg (not_not_of_true hserves), if_neg hcount, if_neg hfree, readHost_ok hhost, hes, hms,
    if_neg (ne_true_of_eq_false hres), if_neg (not_not_of_true hself), hy]
  rfl

theorem bellQueryStep_writes {bs : List Byte} (h : Served s r 0x043 [whole])
    (hbs : wordsBytes ((List.range 9).map fun i => w64 (Tab.get 0 t.bell.count i)) = bs) (hhost : hostOk t (par k 1 63 0) bs.length = true) :
    bellQueryStep s r = replied s r (hostWrite t (par k 1 63 0) bs) stOk (bellWord t.bell) 0 := by
  refine served_done ht hk h ?_
  rw [hbs, putHost_ok hhost]
  rfl
end
end

end Sys2Proof.Machine

open Sys2Proof Sys2Proof.Machine

/-- Settles O45: each command past the checks of its fields and of the shafts, claims or bell it names. -/
theorem linkCommands : Obligations.LinkCommands := by
  refine ⟨fun s r => ?_, fun s r => ?_⟩
  · intro t k n
    refine ⟨fun h hidle => ?_, fun h => ?_, fun h hin => ?_, ?_, ?_, ?_⟩
    · exact congrArg Host.Outcome.next (addrSetStep_idle (t := t) (k := k) rfl rfl h hidle)
    · exact congrArg Host.Outcome.next (shaftCtlStep_sets (t := t) (k := k) rfl rfl h rfl)
    · intro bs hhost
      exact congrArg Host.Outcome.next (shaftQueryStep_writes (t := t) (k := k) (n := n) (bs := bs) rfl rfl h rfl hin rfl hhost)
    · intro bits h hin l pairs rel old hsum htags hlive hlocal hrelay
      exact congrArg Host.Outcome.next (shareSetStep_sets (t := t) (k := k) (n := n) (l := l) (rel := rel) rfl rfl h rfl rfl rfl hin hsum htags hlive
        (shareGone_eq_false hlocal hrelay))
    · intro c h hin hserves hshare hup
      exact congrArg Host.Outcome.next (shaftAuthStep_checked (t := t) (k := k) (n := n) (c := c) rfl rfl h rfl rfl hin hserves hshare hup)
    · intro ns h hsome hup hpeer hself
      exact congrArg Host.Outcome.next (routeSetStep_sets (t := t) (k := k) (ns := ns) rfl rfl h rfl hsome hup hpeer hself)
  · intro t k
    refine ⟨fun h => ⟨fun hoff => ?_, fun hon => ?_⟩, fun h => ?_, ?_, fun h => ?_⟩
    · exact congrArg Host.Outcome.next (bellJoinStep_off (t := t) (k := k) rfl rfl h hoff)
    · exact congrArg Host.Outcome.next (bellJoinStep_busy (t := t) (k := k) rfl rfl h hon)
    · exact congrArg Host.Outcome.next (bellLeaveStep_leaves (t := t) (k := k) rfl rfl h)
    · intro c n x h hserves hmin hmax hset hhost es ms hres hself y
      exact congrArg Host.Outcome.next (bellClaimStep_sets (t := t) (k := k) (c := c) (n := n) (x := x) (es := es) (ms := ms) (y := y)
        rfl rfl h rfl rfl rfl hserves hmin hmax hset hhost rfl rfl hres hself rfl)
    · intro bs hhost
      exact congrArg Host.Outcome.next (bellQueryStep_writes (t := t) (k := k) (bs := bs) rfl rfl h rfl hhost)
end

section
/-!
PROOFS. The commands over objects, pages, hoists and branch tables (R148 to R164, R179, R380, R381).
-/
namespace Sys2Proof.Machine
open Sys2Proof

section
variable {s t u : State} {r : Fin 256} {k : Call} {n : Nat} {x : Claim} (ht : consumed s r = t) (hk : callOf s r = k)
include ht hk

/-! ### Objects -/

section
variable (hx : claim t k.c = x)
include hx

theorem objCreateStep_read {o : Obj} {fs : List Nat} (h : Served s r 0x101 [span 63 13, span 63 52 + span 7 4 + span 2 2, span 11 0, whole])
    (ho : objOf (k.ws.getD 1 0) (k.ws.getD 2 0) = o) (hn : par k 3 11 0 = n) (hst : objStatus x n o = 0)
    (hread : hostOk t (par k 4 63 0) (4 * o.pages) = true) (hfs : words32 (hostRead t (par k 4 63 0) (4 * o.pages)) = fs) :
    objCreateStep s r = if frameStatus t k.c o fs = 0 then replied s r (setClaim t k.c (mapObj x n o fs)) stOk 0 0
      else replied s r t (frameStatus t k.c o fs) 0 0 := by
  by_cases hframes : frameStatus t k.c o fs = 0
  · rw [if_pos hframes]
    refine served_done ht hk h ?_
    dsimp only
    rw [ho, hn, hx, if_neg (not_not_intro hst), readHost_ok hread, hfs, if_neg (not_not_intro hframes)]
    rfl
  · rw [if_neg hframes]
    refine served_done ht hk h ?_
    dsimp only
    rw [ho, hn, hx, if_neg (not_not_intro hst), readHost_ok hread, hfs, if_pos hframes]
    rfl

section
variable (hn : par k 1 11 0 = n) (hlive : (obj x n).live = true) (hstays : (obj x n).dying = none)
include hn hlive hstays

omit ht hk hx hn in
/-- The object is there, and not being destroyed. -/
theorem obj_settled : ¬ (!(obj x n).live || (obj x n).dying.isSome) = true := by rw [hlive, hstays]; decide

theorem objDestroyStep_held (h : Served s r 0x102 [span 11 0]) (hheld : objHeld x n = true) :
    objDestroyStep s r = replied s r t stObjBusy 0 0 := by
  refine served_done ht hk h ?_
  dsimp only
  rw [hx, hn, if_neg (obj_settled hlive hstays), if_pos hheld]
  rfl

theorem objDestroyStep_dooms (h : Served s r 0x102 [span 11 0]) (hfree : objHeld x n = false)
    (hu : setClaim t k.c (setObj x n { obj x n with dying := some (k.r, k.seq) }) = u) :
    objDestroyStep s r = putShadow { u with
      hoists := u.hoists.map fun h => if h.claim = k.c ∧ (objPages x n).contains h.page then { h with doomed := true } else h } r := by
  refine served_wait ht hk h ?_
  dsimp only
  rw [hx, hn, if_neg (obj_settled hlive hstays), if_neg (ne_true_of_eq_false hfree), hu]

theorem objSetPinStep_sets (h : Served s r 0x104 [span 12 0]) :
    objSetPinStep s r = replied s r (setClaim t k.c (setObj x n { obj x n with pin := par k 1 12 12 == 1 })) stOk 0 0 := by
  refine served_done ht hk h ?_
  dsimp only
  rw [hx, hn, if_neg (obj_settled hlive hstays)]
  rfl
end

theorem objQueryStep_answers (h : Served s r 0x103 [span 11 0]) :
    objQueryStep s r = replied s r t stOk (objWord0 (obj x (par k 1 11 0))) (objWord1 (obj x (par k 1 11 0))) := by
  subst hx
  exact served_done ht hk h rfl

theorem pageQueryStep_answers (h : Served s r 0x105 [vaBits]) : pageQueryStep s r =
    replied s r t stOk (pteWord0 (pte x (par k 1 47 21))) (at' (pte x (par k 1 47 21)).raw.toNat 32) := by
  subst hx
  exact served_done ht hk h rfl

/-! ### Hoists -/

theorem prefetchStep_counts {ps left : List Nat} {here : Nat} (h : Served s r 0x106 [vaBits, span 23 0])
    (hps : (List.range (par k 2 23 0)).map (par k 1 47 21 + ·) = ps) (hleft : (ps.filter fun p => !resident (pte x p)) = left)
    (hhere : ps.length - left.length = here) (hmapped : (ps.any fun p => (pte x p).state == .unmapped) = false) :
    prefetchStep s r = if left.isEmpty then replied s r t stOk here 0
      else putShadow (stallAll { t with fetches := t.fetches ++ [(k.r, k.seq, k.c, left, here, 0)] } k.c left (.prefetch k.r k.seq)) r := by
  by_cases hnone : left.isEmpty = true
  · rw [if_pos hnone]
    refine served_done ht hk h ?_
    dsimp only
    rw [hps, hx, if_neg (ne_true_of_eq_false hmapped), hleft, hhere, if_pos hnone]
  · rw [if_neg hnone]
    refine served_wait ht hk h ?_
    dsimp only
    rw [hps, hx, if_neg (ne_true_of_eq_false hmapped), hleft, hhere, if_neg hnone]

section
variable {p : Nat} {e : Pte} (h : Served s r 0x107 [vaBits]) (hp : par k 1 47 21 = p) (he : pte x p = e)
include h hp he

theorem evictCmdStep_answers {st : Nat}
    (hst : e.state = .unmapped ∧ st = stAddrUnmapped ∨ e.state = .t1 ∧ st = stWrongTier ∨ e.state = .t2 ∧ st = stOk) :
    evictCmdStep s r = replied s r t st 0 0 := by
  refine served_done ht hk h ?_
  dsimp only
  rw [hx, hp, he]
  rcases hst with ⟨hstate, rfl⟩ | ⟨hstate, rfl⟩ | ⟨hstate, rfl⟩
  · rw [hstate]; rfl
  · rw [hstate]; rfl
  · rw [hstate]; rfl

theorem evictCmdStep_waits (hstate : e.state = .clean ∨ e.state = .dirty) : evictCmdStep s r =
    if (obj x e.obj).pin then replied s r t stPagePinned 0 0 else putShadow { t with evicts := t.evicts ++ [(k.c, p, k.r, k.seq)] } r := by
  by_cases hpin : (obj x e.obj).pin = true
  · rw [if_pos hpin]
    refine served_done ht hk h ?_
    dsimp only
    rw [hx, hp, he]
    rcases hstate with hclean | hdirty
    · rw [hclean]; exact if_pos hpin
    · rw [hdirty]; exact if_pos hpin
  · rw [if_neg hpin]
    refine served_wait ht hk h ?_
    dsimp only
    rw [hx, hp, he]
    rcases hstate with hclean | hdirty
    · rw [hclean]; exact if_neg hpin
    · rw [hdirty]; exact if_neg hpin
end

theorem framesRemoveStep_removes {fs rest : List Nat} (h : Served s r 0x109 [whole, span 18 0])
    (hread : hostOk t (par k 1 63 0) (4 * par k 2 18 0) = true) (hfs : words32 (hostRead t (par k 1 63 0) (4 * par k 2 18 0)) = fs)
    (hrest : (x.free.filter fun f => !fs.contains f) = rest) :
    framesRemoveStep s r = replied s r (setClaim t k.c { x with free := rest }) stOk (x.free.length - rest.length) 0 := by
  refine served_done ht hk h ?_
  dsimp only
  rw [readHost_ok hread, hfs, hx, hrest]

theorem deadlineSetStep_sets (h : Served s r 0x10A [span 16 0]) (hmin : 100 ≤ par k 1 16 0) (hmax : par k 1 16 0 ≤ 100000) :
    deadlineSetStep s r = replied s r (setClaim t k.c { x with deadline := par k 1 16 0 }) stOk 0 0 := by
  have hin : ¬ (par k 1 16 0 < 100 ∨ 100000 < par k 1 16 0) := by omega
  refine served_done ht hk h ?_
  dsimp only
  rw [if_neg hin, hx]
  rfl
end

theorem framesAddStep_adds {fs : List Nat} (h : Served s r 0x108 [whole, span 18 0])
    (hread : hostOk t (par k 1 63 0) (4 * par k 2 18 0) = true) (hfs : words32 (hostRead t (par k 1 63 0) (4 * par k 2 18 0)) = fs) :
    framesAddStep s r = replied s r (assignHoists (addFrames t k.c fs).1) stOk (addFrames t k.c fs).2 0 := by
  refine served_done ht hk h ?_
  dsimp only
  rw [readHost_ok hread, hfs]

theorem branchLoadStep_loads {bs : List Byte} {ws : List W64} {es : List (W64 × W64)} (h : Served s r 0x10B [span 7 0, vaBits])
    (hread : Reads t k.c (par k 2 47 0) 256 bs) (hu : noteVa t k.c (par k 2 47 0) 256 = u) (hws : bytesWords bs = ws)
    (hes : ((List.range 16).map fun i => (ws.getD (2 * i) 0, ws.getD (2 * i + 1) 0)) = es)
    (hgood : (es.zipIdx.any fun e => branchBad e.2 e.1.2) = false) : branchLoadStep s r = replied s r
      (setClaim u k.c { claim u k.c with branch := Tab.set [] (claim u k.c).branch (par k 1 7 0) es }) stOk 0 0 := by
  refine served_done ht hk h ?_
  unfold readClaimWords
  rw [readClaim_reads hread, hu, hws]
  dsimp only
  rw [hes, if_neg (ne_true_of_eq_false hgood)]
  rfl
end

end Sys2Proof.Machine

open Sys2Proof Sys2Proof.Machine

/-- Settles O46: each command past the checks of its object, page or list. -/
theorem objectAndHoistCommands : Obligations.ObjectAndHoistCommands := by
  refine ⟨fun s r => ?_, fun s r => ?_⟩
  · intro t k x
    refine ⟨?_, ?_, fun h => ?_, ?_, ?_⟩
    · intro o n h hst hread fs
      exact congrArg Host.Outcome.next (objCreateStep_read (t := t) (k := k) (x := x) (o := o) (n := n) (fs := fs) rfl rfl rfl h rfl rfl hst hread rfl)
    · intro n h hlive hstays
      refine ⟨fun hheld => ?_, fun hfree => ?_⟩
      · exact congrArg Host.Outcome.next (objDestroyStep_held (t := t) (k := k) (x := x) (n := n) rfl rfl rfl rfl hlive hstays h hheld)
      · intro u
        exact congrArg Host.Outcome.next (objDestroyStep_dooms (t := t) (k := k) (x := x) (n := n) (u := u) rfl rfl rfl rfl hlive hstays h hfree rfl)
    · exact congrArg Host.Outcome.next (objQueryStep_answers (t := t) (k := k) (x := x) rfl rfl rfl h)
    · intro n h hlive hstays
      exact congrArg Host.Outcome.next (objSetPinStep_sets (t := t) (k := k) (x := x) (n := n) rfl rfl rfl rfl hlive hstays h)
    · intro e h
      exact congrArg Host.Outcome.next (pageQueryStep_answers (t := t) (k := k) (x := x) rfl rfl rfl h)
  · intro t k x
    refine ⟨fun h => ?_, ?_, ?_, fun h hmin hmax => ?_, fun bs h hread => ?_⟩
    · intro ps left here hmapped
      exact congrArg Host.Outcome.next
        (prefetchStep_counts (t := t) (k := k) (x := x) (ps := ps) (left := left) (here := here) rfl rfl rfl h rfl rfl rfl hmapped)
    · intro p e h
      refine ⟨fun hstate => ?_, fun hstate => ?_, fun hstate => ?_, fun hstate => ?_⟩
      · exact congrArg Host.Outcome.next (evictCmdStep_answers (t := t) (k := k) (x := x) (p := p) (e := e) rfl rfl rfl h rfl rfl (.inl ⟨hstate, rfl⟩))
      · exact congrArg Host.Outcome.next
          (evictCmdStep_answers (t := t) (k := k) (x := x) (p := p) (e := e) rfl rfl rfl h rfl rfl (.inr (.inl ⟨hstate, rfl⟩)))
      · exact congrArg Host.Outcome.next
          (evictCmdStep_answers (t := t) (k := k) (x := x) (p := p) (e := e) rfl rfl rfl h rfl rfl (.inr (.inr ⟨hstate, rfl⟩)))
      · exact congrArg Host.Outcome.next (evictCmdStep_waits (t := t) (k := k) (x := x) (p := p) (e := e) rfl rfl rfl h rfl rfl hstate)
    · intro n fs hread
      refine ⟨fun h => ?_, fun h => ?_⟩
      · exact congrArg Host.Outcome.next (framesAddStep_adds (t := t) (k := k) (fs := fs) rfl rfl h hread rfl)
      · intro rest
        exact congrArg Host.Outcome.next
          (framesRemoveStep_removes (t := t) (k := k) (x := x) (fs := fs) (rest := rest) rfl rfl rfl h hread rfl rfl)
    · exact congrArg Host.Outcome.next (deadlineSetStep_sets (t := t) (k := k) (x := x) rfl rfl rfl h hmin hmax)
    · intro u ws es hgood
      exact congrArg Host.Outcome.next
        (branchLoadStep_loads (t := t) (k := k) (u := u) (ws := ws) (es := es) rfl rfl h hread rfl rfl rfl hgood)
end

section
/-!
PROOFS. The commands over versions, tallies, the tick period and the steering tables (R232, R314 to R328, R332, R347, R351, R384).
-/
namespace Sys2Proof.Machine
open Sys2Proof

section
variable {s t u : State} {r : Fin 256} {k : Call} {slot n : Nat} {x y : Claim} (ht : consumed s r = t) (hk : callOf s r = k)
include ht hk

/-! ### Versions -/

section
variable (hx : claim t k.c = x) (hslot : par k 1 1 0 = slot)
include hx hslot

theorem versionBuildStep_builds {bs : List Byte} {es : List VEntry} {v : Ver}
    (h : Served s r 0x201 [span 1 0 + span 31 16 + span 42 32, vaBits, span 12 0]) (hst : slotStatus x slot (par k 1 31 16) (par k 1 42 32) = 0)
    (hread : Reads t k.c (par k 2 47 0) (8 * (8 * par k 1 42 32)) bs) (hu : noteVa t k.c (par k 2 47 0) (8 * (8 * par k 1 42 32)) = u)
    (hy : claim u k.c = y) (hes : rootEntries (bytesWords bs) = es)
    (hv : v = { state := .building, vid := par k 1 31 16, root := par k 2 47 0
                mirror := if par k 3 12 12 = 1 then some (par k 3 11 0) else none
                entries := es.map fun e => { e with loaded := sharedLoaded y e } })
    (hres : rootReserved (bytesWords bs) = false) (hgood : entriesStatus y es = 0) :
    versionBuildStep s r = replied s r (settleSlots (setClaim u k.c (setVer y slot v)) k.c) stOk 0 0 := by
  have hroot : (if rootReserved (bytesWords bs) then stReservedField else entriesStatus y es) = 0 := by
    rw [if_neg (ne_true_of_eq_false hres), hgood]
  refine served_done ht hk h ?_
  unfold readClaimWords
  dsimp only
  rw [hslot, hx, if_neg (not_not_intro hst), readClaim_reads hread, hu]
  rw [hy, hes, if_neg (not_not_intro hroot), hv]
  rfl

theorem weightLoadStep_waits {e : VEntry} {l : Load} (h : Served s r 0x202 [span 1 0 + span 19 8, whole]) (hsrc : par k 1 19 18 ≠ 3)
    (harg : par k 2 63 0 &&& sourceBits (par k 1 19 18) = par k 2 63 0) (hstate : (ver x slot).state ≠ .empty)
    (he : verEntry x slot (par k 1 17 8) = some e) (hidle : loadBusy x (ver x slot) e = false)
    (hl : l = { slot := slot, entry := par k 1 17 8, source := par k 1 19 18, arg := par k 2 63 0, ring := k.r, seq := k.seq
                reload := (ver x slot).state != .building, ent := e, since := t.time }) :
    weightLoadStep s r = putShadow (setClaim t k.c { x with loads := x.loads ++ [l] }) r := by
  have hfields : ¬ (par k 1 19 18 = 3 ∨ par k 2 63 0 &&& sourceBits (par k 1 19 18) ≠ par k 2 63 0) := by
    rintro (heq | hne)
    · exact hsrc heq
    · exact hne harg
  refine served_wait ht hk h ?_
  dsimp only
  rw [hslot, hx, if_neg hfields, if_neg hstate, he]
  dsimp only
  rw [if_neg (ne_true_of_eq_false hidle), hl]

theorem versionCancelStep_empties (h : Served s r 0x203 [span 1 0]) (hstate : (ver x slot).state = .building ∨ (ver x slot).state = .ready)
    (hloads : (x.loads.any fun l => l.slot == slot) = false) (hswitch : switchTo x slot = false) :
    versionCancelStep s r = replied s r (setClaim t k.c (setVer x slot {})) stOk 0 0 := by
  have hmay : ((ver x slot).state == .building || (ver x slot).state == .ready) = true := by
    rw [Bool.or_eq_true, beq_iff_eq, beq_iff_eq]; exact hstate
  have hfree : ¬ (!((ver x slot).state == .building || (ver x slot).state == .ready) || (x.loads.any fun l => l.slot == slot) ||
      switchTo x slot) = true := by
    rw [hmay, hloads, hswitch]; decide
  refine served_done ht hk h ?_
  dsimp only
  rw [hslot, hx, if_neg hfree]
  rfl

theorem versionSwitchStep_waits {at0 : Nat} (h : Served s r 0x204 [span 1 0, span 47 0]) (hat : par k 2 47 0 = at0)
    (hn : firstBoundary x k.stamp = n) (hshift : shiftNow x = .generation) (hready : (ver x slot).state = .ready) (hnone : x.switch = none)
    (hdue : at0 = 0 ∨ n ≤ at0) : versionSwitchStep s r = putShadow (setClaim t k.c
      { setVer x slot { ver x slot with switchAt := if at0 = 0 then n else at0 } with switch := some (slot, at0, k.r, k.seq) }) r := by
  have hidle : ¬ x.switch.isSome = true := by rw [hnone]; decide
  have hlate : ¬ (at0 ≠ 0 ∧ at0 < n) := by omega
  refine served_wait ht hk h ?_
  dsimp only
  rw [hslot, hx, hat, hn, if_neg (not_not_intro hshift), if_neg (not_not_intro hready), if_neg hidle, if_neg hlate]
end

theorem versionQueryStep_writes {ws : List W64} (h : Served s r 0x205 [span 1 0, whole]) (hslot : par k 1 1 0 = slot)
    (hws : verWords t k.c slot = ws) (hlen : (wordsBytes ws).length = 24) (hhost : hostOk t (par k 2 63 0) 24 = true) :
    versionQueryStep s r = replied s r (hostWrite t (par k 2 63 0) (wordsBytes ws)) stOk (ws.getD 0 0).toNat 0 := by
  refine served_done ht hk h ?_
  dsimp only
  rw [hslot, hws, putHost_ok (by rw [hlen]; exact hhost)]

section
variable (hx : claim t k.c = x)
include hx

theorem auditSetStep_sets (h : Served s r 0x206 [span 31 0]) :
    auditSetStep s r = replied s r (setClaim t k.c { x with auditInt := par k 1 31 0 }) stOk 0 0 := by
  subst hx
  exact served_done ht hk h rfl

/-! ### Windows, periods and steering -/

theorem windowSetStep_waits (h : Served s r 0x403 [span 15 0]) (hn : par k 1 15 0 ≠ 0) :
    windowSetStep s r = replied s r (setClaim t k.c { x with winPend := some (par k 1 15 0, k.stamp) }) stOk 0 0 := by
  refine served_done ht hk h ?_
  dsimp only
  rw [if_neg hn, hx]
  rfl

theorem tickSetStep_takes {p m : Nat} (h : Served s r 0x404 [span 13 0, span 47 0]) (hp : par k 1 13 0 = p) (hm : par k 2 47 0 = m)
    (hst : tickSetStatus t k.c p m k.stamp = 0) :
    tickSetStep s r = replied s r (queueTick (setClaim t k.c (takePeriod x p m)) k.c) stOk 0 0 := by
  refine served_done ht hk h ?_
  dsimp only
  rw [hp, hm, if_neg (not_not_intro hst), hx]
  rfl

theorem basisStep_copies {m : Nat} (h : Served s r 0x405 [span 11 0, whole, span 31 0]) (hn : par k 1 11 0 = n) (hm : 8192 * par k 3 31 0 = m)
    (halign : par k 3 31 0 % 16 = 0) (hthere : objThere x n = true) (hhome : (obj x n).t2home = false) (hfits : m ≤ objBytes x n)
    (hidle : liveStreams t k.c = []) (hhost : hostOk t (par k 2 63 0) m = true) (hacc : access x (.request none) (objBase x n) m = .ok) :
    basisStep s r = replied s r (vaStore t k.c (objBase x n) (hostRead t (par k 2 63 0) m)) stOk 0 0 := by
  have hobj : ¬ (par k 3 31 0 % 16 ≠ 0 ∨ (!objThere x n) = true) := by
    rintro (hne | hno)
    · exact hne halign
    · exact not_not_of_true hthere hno
  have hattr : ¬ ((obj x n).t2home = true ∨ objBytes x n < m) := by
    rintro (hyes | hlt)
    · exact ne_true_of_eq_false hhome hyes
    · exact Nat.not_lt_of_le hfits hlt
  have hquiet : ¬ (!(liveStreams t k.c).isEmpty) = true := by rw [hidle]; decide
  refine served_done ht hk h ?_
  dsimp only
  rw [hx, hn, hm, if_neg hobj, if_neg hattr, if_neg hquiet, readHost_ok hhost, putClaim_ok (by rw [hx, hostRead_length]; exact hacc)]
  rfl

theorem steerSetStep_copies {v : Serve} (h : Served s r 0x406 [span 11 0, whole]) (hn : par k 1 11 0 = n) (hown : ownsTally x n = true)
    (hv : x.serve = some v) (hhost : hostOk t (par k 2 63 0) 8192 = true)
    (hacc : access x (.request none) (objBase x v.steerTab + 8192 * n) 8192 = .ok) :
    steerSetStep s r = replied s r (vaStore t k.c (objBase x v.steerTab + 8192 * n) (hostRead t (par k 2 63 0) 8192)) stOk 0 0 := by
  refine served_done ht hk h ?_
  dsimp only
  rw [hx, hn, if_neg (not_not_of_true hown), hv]
  dsimp only
  rw [readHost_ok hhost, putClaim_ok (by rw [hx, hostRead_length]; exact hacc)]
  rfl
end
end

end Sys2Proof.Machine

open Sys2Proof Sys2Proof.Machine

/-- Settles O47: each command past the checks of its slot and of its entries. -/
theorem versionCommands : Obligations.VersionCommands := by
  intro s r t k x slot
  refine ⟨fun bs h hst hread => ?_, fun e h hsrc harg hstate he hidle => ?_, fun h hstate hloads hswitch => ?_, ?_, fun h => ?_, fun h => ?_⟩
  · intro u y es v hres hgood
    exact congrArg Host.Outcome.next (versionBuildStep_builds (t := t) (k := k) (x := x) (slot := slot) (u := u) (y := y) (es := es) (v := v)
      rfl rfl rfl rfl h hst hread rfl rfl rfl rfl hres hgood)
  · intro l
    exact congrArg Host.Outcome.next (weightLoadStep_waits (t := t) (k := k) (x := x) (slot := slot) (l := l)
      rfl rfl rfl rfl h hsrc harg hstate he hidle rfl)
  · exact congrArg Host.Outcome.next (versionCancelStep_empties (t := t) (k := k) (x := x) (slot := slot) rfl rfl rfl rfl h hstate hloads hswitch)
  · intro at0 n h hshift hready hnone hdue
    exact congrArg Host.Outcome.next (versionSwitchStep_waits (t := t) (k := k) (x := x) (slot := slot) (at0 := at0) (n := n)
      rfl rfl rfl rfl h rfl rfl hshift hready hnone hdue)
  · intro ws hhost
    have hlen : (wordsBytes ws).length = 24 := by rw [wordsBytes_length]; rfl
    exact congrArg Host.Outcome.next (versionQueryStep_writes (t := t) (k := k) (slot := slot) (ws := ws) rfl rfl h rfl rfl hlen hhost)
  · exact congrArg Host.Outcome.next (auditSetStep_sets (t := t) (k := k) (x := x) rfl rfl rfl h)

/-- Settles O49: each command past the checks of its tally, its period or its object. -/
theorem tallyCommands : Obligations.TallyCommands := by
  intro s r t k x n
  refine ⟨fun h hown => ?_, fun h hown => ?_, fun h hn => ?_, ?_, ?_, fun v h hown hv hhost hacc => ?_⟩
  · exact congrArg Host.Outcome.next (tallySetStep_of_owned h hown)
  · intro bs hhost
    have hlen : bs.length = 96 := (wordsBytes_length _).trans (congrArg (8 * ·) (slotWords_length _))
    exact congrArg Host.Outcome.next (tallyQueryStep_of_owned h hown (hlen ▸ hhost))
  · exact congrArg Host.Outcome.next (windowSetStep_waits (t := t) (k := k) (x := x) rfl rfl rfl h hn)
  · intro p m h hst
    exact congrArg Host.Outcome.next (tickSetStep_takes (t := t) (k := k) (x := x) (p := p) (m := m) rfl rfl rfl h rfl rfl hst)
  · intro m h halign hthere hhome hfits hidle hhost hacc
    exact congrArg Host.Outcome.next (basisStep_copies (t := t) (k := k) (x := x) (n := n) (m := m)
      rfl rfl rfl h rfl rfl halign hthere hhome hfits hidle hhost hacc)
  · exact congrArg Host.Outcome.next (steerSetStep_copies (t := t) (k := k) (x := x) (n := n) rfl rfl rfl h rfl hown hv hhost hacc)
end

section
/-!
PROOFS. The serving and admission configurations, and the commands over streams (R33, R212 to R215, R225, R226, R233, R336, R338, R382, R383).
-/
namespace Sys2Proof.Machine
open Sys2Proof


section
variable {s t u w : State} {r : Fin 256} {k : Call} {n : Nat} {x : Claim} (ht : consumed s r = t) (hk : callOf s r = k)
include ht hk

/-! ### Serving and admission -/

theorem serveSetStep_sets {v : Serve} (h : Served s r 0x301 [vaBits]) (hquiet : serveQuiet t k.c = 0)
    (hread : readServe t k.c (par k 1 47 0) = .ok v) (hu : noteServe t k.c (par k 1 47 0) = u) : serveSetStep s r =
    replied s r (clearTubs (setClaim u k.c { claim u k.c with serve := some v, admission := none, freeing := [] }) k.c v) stOk 0 0 := by
  refine served_done ht hk h ?_
  dsimp only
  rw [if_neg (not_not_intro hquiet), hread, ← hu]
  rfl

theorem admitSetStep_sets {v : Serve} {a : Admit} (h : Served s r 0x302 [span 31 0]) (hx : claim t k.c = x) (hquiet : serveQuiet t k.c = 0)
    (hv : x.serve = some v) (ha : { td := par k 1 7 0, lanesD := par k 1 15 8, tp := par k 1 23 16, lanesP := par k 1 31 24 } = a)
    (hrange : admitRange a = true) (hfits : max (decBound v) (preBound v) ≤ samplerCycles (periodAt x x.tick)) :
    admitSetStep s r = replied s r (setClaim t k.c { x with admission := some a }) stOk (decBound v) (preBound v) := by
  refine served_done ht hk h ?_
  dsimp only
  rw [hx, if_neg (not_not_intro hquiet), hv]
  dsimp only
  rw [ha, if_neg (not_not_of_true hrange), if_neg (Nat.not_lt_of_le hfits)]

/-! ### Streams -/

section
variable (hn : par k 1 16 0 = n)
include hn

theorem openStep_opens {v : Serve} {a : Admit} {bs ps : List Byte} {e : Stream} (h : Served s r 0x303 [span 16 0, vaBits, vaBits])
    (hx : claim t k.c = x) (hshift : shiftNow x = .generation) (hturn : x.turn = none) (hv : x.serve = some v) (ha : x.admission = some a)
    (hread : Reads t k.c (par k 2 47 0) 96 bs) (hu : noteVa t k.c (par k 2 47 0) 96 = u) (he : imageStream (bytesWords bs) = e)
    (hres : entryReserved (bytesWords bs) = false) (hown : ownsStream x n = true) (hfree : (stream u n).state = .free)
    (hprompt : Reads u k.c (par k 3 47 0) (4 * e.prompt) ps) (hw : noteVa u k.c (par k 3 47 0) (4 * e.prompt) = w)
    (hst : openStatus w k.c v a e (words32 ps) = 0) :
    openStep s r = replied s r (openStream w k.c n e (words32 ps)) stOk w.time 0 := by
  have hmay : ¬ (shiftNow x ≠ .generation ∨ x.turn.isSome = true) := by
    rintro (hne | hsome)
    · exact hne hshift
    · rw [hturn] at hsome; cases hsome
  refine served_done ht hk h ?_
  dsimp only
  rw [hx, if_neg hmay, hv, ha]
  unfold readClaimWords
  dsimp only
  rw [readClaim_reads hread, hu]
  rw [if_neg (ne_true_of_eq_false hres), hn, if_neg (not_not_of_true hown), if_neg (not_not_intro hfree), he, readClaim_reads hprompt, hw,
    if_neg (not_not_intro hst)]

section
variable {y : Stream} (hy : stream t n = y) (hown : ownsStream (claim t k.c) n = true)
include hy hown

theorem cancelStep_live (h : Served s r 0x304 [span 16 0]) (hlive : isLive y = true) : cancelStep s r =
    replied s r (maskStream { setStream t n { y with state := .cancelling } with
      waits := t.waits.filter fun w => w.who != .opening n && w.who != .park n } n) stOk (streamCode y.state) 0 := by
  refine served_done ht hk h ?_
  dsimp only
  rw [hn, hy, if_neg (not_not_of_true hown), if_neg (not_not_of_true hlive)]
  rfl

theorem cancelStep_over (h : Served s r 0x304 [span 16 0]) (hover : isLive y = false) :
    cancelStep s r = replied s r t stAlreadyDone (streamCode y.state) 0 := by
  refine served_done ht hk h ?_
  dsimp only
  rw [hn, hy, if_neg (not_not_of_true hown), if_pos (not_of_false hover)]

theorem parkCmdStep_waits (h : Served s r 0x305 [span 16 0, whole]) (hlive : isLive y = true) (hnone : y.park = none) :
    parkCmdStep s r = putShadow (setStream t n { y with park := some (k.r, k.seq, par k 2 63 0) }) r := by
  have hidle : ¬ y.park.isSome = true := by rw [hnone]; decide
  refine served_wait ht hk h ?_
  dsimp only
  rw [hn, hy, if_neg (not_not_of_true hown), if_neg (not_not_of_true hlive), if_neg hidle]

theorem releaseStep_frees (h : Served s r 0x306 [span 16 0]) (hused : y.state ≠ .free) (hover : isLive y = false)
    (hstays : y.state ≠ .cancelling) : releaseStep s r = replied s r (setStream t n {}) stOk 0 0 := by
  have hidle : ¬ (isLive y || y.state == .cancelling) = true := by rw [hover, beq_false_of_ne hstays]; decide
  refine served_done ht hk h ?_
  dsimp only
  rw [hn, hy, if_neg (not_not_of_true hown), if_neg hused, if_neg hidle]
  rfl

theorem streamQueryStep_writes {ws : List W64} (h : Served s r 0x307 [span 16 0, whole]) (hws : entryWords y = ws)
    (hlen : (wordsBytes ws).length = 96) (hhost : hostOk t (par k 2 63 0) 96 = true) :
    streamQueryStep s r = replied s r (hostWrite t (par k 2 63 0) (wordsBytes ws)) stOk (ws.getD 0 0).toNat 0 := by
  refine served_done ht hk h ?_
  dsimp only
  rw [hn, hy, hws, if_neg (not_not_of_true hown), putHost_ok (by rw [hlen]; exact hhost)]
end
end
end

theorem serveQuiet_idle {s : State} {c : Nat} (hshift : shiftNow (claim s c) = .generation) (hidle : liveStreams s c = []) :
    serveQuiet s c = 0 := by
  have hquiet : ¬ (!(liveStreams s c).isEmpty) = true := by rw [hidle]; decide
  unfold serveQuiet
  rw [if_neg (not_not_intro hshift), if_neg hquiet]

end Sys2Proof.Machine

open Sys2Proof Sys2Proof.Machine

/-- Settles O48: the configurations of an idle claim, and each command of a stream that the claim owns. -/
theorem servingAndStreamCommands : Obligations.ServingAndStreamCommands := by
  refine ⟨fun s r => ?_, fun s r => ?_⟩
  · intro t k x hshift hidle
    have hquiet : serveQuiet t k.c = 0 := serveQuiet_idle hshift hidle
    refine ⟨fun v h hread => ?_, fun v h hv => ?_⟩
    · intro u
      exact congrArg Host.Outcome.next (serveSetStep_sets (t := t) (k := k) (u := u) rfl rfl h hquiet hread rfl)
    · intro a hrange hfits
      exact congrArg Host.Outcome.next (admitSetStep_sets (t := t) (k := k) (x := x) (a := a) rfl rfl h rfl hquiet hv rfl hrange hfits)
  · intro t k n y
    refine ⟨fun v a bs ps h hshift hturn hv ha hread => ?_, fun hown => ⟨fun h => ⟨fun hlive => ?_, fun hover => ?_⟩, fun h hlive hnone => ?_,
      fun h hused hover hstays => ?_, fun h => ?_⟩⟩
    · intro u e hres hown hfree hprompt w hst
      exact congrArg (fun t => Host.Outcome.next (settleFoul t)) (openStep_opens (t := t) (k := k) (n := n) (u := u) (e := e) (w := w)
        rfl rfl rfl h rfl hshift hturn hv ha hread rfl rfl hres hown hfree hprompt rfl hst)
    · exact congrArg Host.Outcome.next (cancelStep_live (t := t) (k := k) (n := n) (y := y) rfl rfl rfl rfl hown h hlive)
    · exact congrArg Host.Outcome.next (cancelStep_over (t := t) (k := k) (n := n) (y := y) rfl rfl rfl rfl hown h hover)
    · exact congrArg Host.Outcome.next (parkCmdStep_waits (t := t) (k := k) (n := n) (y := y) rfl rfl rfl rfl hown h hlive hnone)
    · exact congrArg Host.Outcome.next (releaseStep_frees (t := t) (k := k) (n := n) (y := y) rfl rfl rfl rfl hown h hused hover hstays)
    · intro ws hhost
      have hlen : (wordsBytes ws).length = 96 := by rw [wordsBytes_length]; rfl
      exact congrArg Host.Outcome.next (streamQueryStep_writes (t := t) (k := k) (n := n) (y := y) (ws := ws) rfl rfl rfl rfl hown h rfl hlen hhost)
end

section
/-!
PROOFS. The commands of training, of collectives, of the canary and of the ledger (R33, R180, R187, R201, R205 to R210, R239 to R242, R264, R385, R386).
-/
namespace Sys2Proof.Machine
open Sys2Proof

/-! ### Reads leave the claims as they are -/

theorem noteVa_claims (s : State) (c va n : Nat) : (noteVa s c va n).claims = s.claims := by
  unfold noteVa
  split
  · rfl
  · exact foldl_claims (fun t e => noteWord_claims ..) _ _
theorem noteRead_claims (s : State) (c va n : Nat) : (noteRead s c va n).claims = s.claims := by
  unfold noteRead
  split
  · exact noteVa_claims ..
  · rfl
theorem claim_noteRead (s : State) (c va n d : Nat) : claim (noteRead s c va n) d = claim s d := by
  unfold claim
  rw [noteRead_claims]

section
variable {s t u v : State} {r : Fin 256} {k : Call} {n : Nat} {x y : Claim} (ht : consumed s r = t) (hk : callOf s r = k)
include ht hk

/-! ### Passes -/

theorem passStartStep_waits {l : List ProgRef} {f : Nat × State} (h : Served s r 0x501 [span 63 56 + vaBits, whole, span 63 56 + vaBits])
    (hx : claim t k.c = x) (hu : notePass t k = u) (hgood : mixedGood (k.ws.getD 2 0) = true) (hshift : shiftNow x = .learning)
    (hn : par k 1 63 56 ≠ 0) (hl : progList u k.c (par k 1 47 0) (par k 1 63 56) = .ok l)
    (hown : ∀ p, p ∈ l → x.units.getLsbD (p.face / 8) = true)
    (hf : freshId (noteRead u k.c (par k 1 47 0) (16 * par k 1 63 56)) = f) :
    passStartStep s r = putShadow { f.2 with reqs := f.2.reqs ++ [passReq k f.1 l] } r := by
  have hux : claim u k.c = x := by rw [← hu, ← hx]; rfl
  have hnear : foreignFace (claim (noteRead u k.c (par k 1 47 0) (16 * par k 1 63 56)) k.c) l = false := by
    unfold foreignFace
    rw [claim_noteRead, hux, List.any_eq_false]
    exact fun p hp => not_not_of_true (hown p hp)
  refine served_wait ht hk h ?_
  dsimp only
  rw [hu, if_neg (not_not_of_true hgood), hux, if_neg (not_not_intro hshift), if_neg hn, hl]
  subst hf
  exact if_neg (ne_true_of_eq_false hnear)

theorem passAbortStep_fails {q : Req} (h : Served s r 0x502 [span 31 0])
    (hq : t.reqs.find? (fun q => q.cmd == some (k.r, w32 (par k 1 31 0))) = some q) :
    passAbortStep s r = replied s r (failRequest t q.id stRequestAborted) stOk 0 0 := by
  refine served_done ht hk h ?_
  dsimp only
  rw [hq]
  rfl

/-! ### Sweeps, turns and assays -/

section
variable (hx : claim t k.c = x)
include hx

theorem sweepStep_waits {bs : List Byte} {w : Sweep} (h : Served s r 0x503 [vaBits, span 20 0, vaBits, vaBits, span 31 0])
    (hn : par k 2 20 0 = n) (hshift : shiftNow x = .learning) (hturn : x.turn = none) (hsweep : x.sweep = none) (hmin : 1 ≤ n) (hmax : n ≤ 1048576)
    (hread : Reads t k.c (par k 1 47 0) (8 * (8 * n)) bs) (hu : noteVa t k.c (par k 1 47 0) (8 * (8 * n)) = u)
    (hw : w = { descs := chunks 8 (bytesWords bs), hyper := par k 3 47 0, fails := par k 4 47 0, flen := par k 5 31 0, ring := k.r, seq := k.seq
                stamp := k.stamp, due := false, started := false, recs := [], done := [], updated := 0, failed := 0, sums := []
                near := [], dropped := 0 }) :
    sweepStep s r = putShadow (setClaim u k.c { claim u k.c with sweep := some w }) r := by
  have hmay : ¬ (shiftNow x ≠ .learning ∨ x.turn.isSome = true) := by
    rintro (hne | hsome)
    · exact hne hshift
    · rw [hturn] at hsome; cases hsome
  have hidle : ¬ x.sweep.isSome = true := by rw [hsweep]; decide
  have hcount : ¬ (n = 0 ∨ 1048576 < n) := by omega
  refine served_wait ht hk h ?_
  unfold readClaimWords
  dsimp only
  rw [hx, hn, if_neg hmay, if_neg hidle, if_neg hcount, readClaim_reads hread, hu, hw]

theorem stepSetStep_sets (h : Served s r 0x504 [whole]) (hsweep : x.sweep = none) :
    stepSetStep s r = replied s r (setClaim t k.c { x with step := (k.ws.getD 1 0).toNat }) stOk 0 0 := by
  have hidle : ¬ x.sweep.isSome = true := by rw [hsweep]; decide
  refine served_done ht hk h ?_
  dsimp only
  rw [hx, if_neg hidle]
  rfl
end

theorem turnStep_waits {turn : Turn} (h : Served s r 0x505 [span 32 0, span 63 56 + vaBits, vaBits, span 1 0 + span 31 16 + span 41 32, vaBits])
    (hread : readTurn t k = .ok turn) (hv : noteTurn t k = v) :
    turnStep s r = putShadow (setClaim v k.c { claim v k.c with turn := some turn }) r := by
  refine served_wait ht hk h ?_
  dsimp only
  rw [hread, ← hv]
  rfl

theorem assayStep_waits {l : List (Nat × Nat) × List Nat} {a : Assay}
    (h : Served s r 0x506 [span 63 54 + vaBits, span 33 0, span 63 52 + vaBits, span 31 0, vaBits]) (hcompare : par k 2 33 32 ≠ 3)
    (hl : assayLists t k = .ok l)
    (ha : a = { id := w32 (par k 2 31 0), ranges := l.1, compare := par k 2 33 32, peers := l.2, timeout := par k 4 31 0, out := par k 5 47 0
                ring := k.r, seq := k.seq, stamp := k.stamp, since := 0, running := false, digests := [], heard := [] })
    (hu : noteAll t k.c [(par k 1 47 0, 16 * (par k 1 63 54 + 1)), (par k 3 47 0, 2 * par k 3 63 52)] = u) :
    assayStep s r = putShadow (setClaim u k.c { claim u k.c with assays := (claim u k.c).assays ++ [a] }) r := by
  refine served_wait ht hk h ?_
  dsimp only
  rw [if_neg hcompare, hl, ← hu, ha]
  rfl

/-! ### Collectives -/

/-- The count of collectives issued on a group's slot. -/
def groupIssued (y : Claim) (g : Nat) : Nat := match group y g with | some o => o.issued | none => 0

theorem groupSetStep_sets {g : Nat} {bs : List Byte} {rs : List Nat} {z : Group} (h : Served s r 0x601 [span 5 0 + span 28 16, vaBits])
    (hg : par k 1 5 0 = g) (hn : par k 1 28 16 = n) (hmin : 1 ≤ n) (hmax : n ≤ 4096) (hread : Reads t k.c (par k 2 47 0) (2 * n) bs)
    (hu : noteVa t k.c (par k 2 47 0) (2 * n) = u) (hy : claim u k.c = y) (hrs : (chunks 2 bs).map leNat = rs)
    (hlimit : (rs.any fun a => decide (4096 ≤ a)) = false) (hself : (rs.filter (· == u.devAddr)).length = 1)
    (hidle : (y.colls.any fun c => c.group == g) = false)
    (hz : z = { ranks := rs, self := (rs.findIdx? (· == u.devAddr)).getD 0, issued := groupIssued y g }) :
    groupSetStep s r = replied s r (setClaim u k.c { y with groups := Tab.set none y.groups g (some z) }) stOk 0 0 := by
  have hcount : ¬ (n = 0 ∨ 4096 < n) := by omega
  refine served_done ht hk h ?_
  dsimp only
  rw [hg, hn, if_neg hcount, readClaim_reads hread, hu]
  rw [hy, hrs, if_neg (ne_true_of_eq_false hlimit), if_neg (not_not_intro hself), if_neg (ne_true_of_eq_false hidle), hz]
  unfold groupIssued
  cases group y g <;> rfl

theorem collIssueStep_accepts {bs : List Byte} {ws : List W64} (h : Served s r 0x602 [vaBits]) (hread : Reads t k.c (par k 1 47 0) 72 bs)
    (hu : noteVa t k.c (par k 1 47 0) 72 = u) (hws : bytesWords bs = ws) (hst : descStatus (claim u k.c) ws = 0) :
    collIssueStep s r = replied s r (acceptColl u k.c ws k.stamp) stOk 0 0 := by
  refine served_done ht hk h ?_
  unfold readClaimWords
  rw [readClaim_reads hread, hu, hws]
  dsimp only
  rw [if_neg (not_not_intro hst)]
  rfl

/-! ### The canary and the ledger -/

section
variable (hx : claim t k.c = x)
include hx

theorem canarySetStep_waits (h : Served s r 0x701 [span 63 16 + span 1 0, vaBits]) (hmode : par k 1 1 0 ≠ 3) :
    canarySetStep s r = replied s r (setClaim t k.c { x with canPend := some (k.ws.getD 1 0, par k 2 47 0) }) stOk 0 0 := by
  refine served_done ht hk h ?_
  dsimp only
  rw [if_neg hmode, hx]
  rfl

theorem canaryQueryStep_writes {bs : List Byte} (h : Served s r 0x702 [whole])
    (hbs : leBytes 8 x.canary.toNat ++ (List.range 256).flatMap (fun n => leBytes 2 (Tab.get 0 x.still n)) = bs)
    (hhost : hostOk t (par k 1 63 0) bs.length = true) :
    canaryQueryStep s r = replied s r (hostWrite t (par k 1 63 0) bs) stOk x.canary.toNat 0 := by
  refine served_done ht hk h ?_
  dsimp only
  rw [hx, hbs, putHost_ok hhost]

/-- The state once the counters of a table in force, if there is one, are 0. -/
def tableCleared (t : State) (c : Nat) (tab : Option Nat) : State := match tab with | some va => zeroTable t c va | none => t

theorem canaryClearStep_clears (h : Served s r 0x703 []) : canaryClearStep s r = replied s r (tableCleared t k.c x.canTab) stOk 0 0 := by
  refine served_done ht hk h ?_
  rw [hx]
  cases x.canTab with
  | none => rfl
  | some va => rfl

theorem ledgerStep_tries {l : Ledger} (h : Served s r 0x704 [vaBits, vaBits, span 32 0 + span 63 48])
    (hl : l = { records := par k 1 47 0, values := par k 2 47 0, count := par k 3 31 0, field := par k 3 32 32, version := par k 3 63 48
                ring := k.r, seq := k.seq }) :
    ledgerStep s r = putShadow (ledgerTry (setClaim t k.c { x with ledgers := x.ledgers ++ [l] }) k.c k.r k.seq) r := by
  refine served_wait ht hk h ?_
  dsimp only
  rw [hx, hl]
end
end

end Sys2Proof.Machine

open Sys2Proof Sys2Proof.Machine

/-- Settles O50: each command past the checks of its shift and of what it reads. -/
theorem trainingCommands : Obligations.TrainingCommands := by
  refine ⟨fun s r => ?_, fun s r => ?_⟩
  · intro t k x
    refine ⟨fun l => ?_, fun q h hq => ?_, fun bs => ?_, fun h hsweep => ?_, fun u h hread => ?_, fun l h hcompare hl => ?_⟩
    · intro u h hgood hshift hn hl hown f
      exact congrArg Host.Outcome.next (passStartStep_waits (t := t) (k := k) (x := x) (u := u) (f := f)
        rfl rfl h rfl rfl hgood hshift hn hl hown rfl)
    · exact congrArg Host.Outcome.next (passAbortStep_fails (t := t) (k := k) rfl rfl h hq)
    · intro n h hshift hturn hsweep hmin hmax hread u w
      exact congrArg Host.Outcome.next (sweepStep_waits (t := t) (k := k) (x := x) (n := n) (u := u) (w := w)
        rfl rfl rfl h rfl hshift hturn hsweep hmin hmax hread rfl rfl)
    · exact congrArg Host.Outcome.next (stepSetStep_sets (t := t) (k := k) (x := x) rfl rfl rfl h hsweep)
    · intro v
      exact congrArg Host.Outcome.next (turnStep_waits (t := t) (k := k) (v := v) rfl rfl h hread rfl)
    · intro a u
      exact congrArg Host.Outcome.next (assayStep_waits (t := t) (k := k) (u := u) (a := a) rfl rfl h hcompare hl rfl rfl)
  · intro t k x
    refine ⟨fun bs => ?_, fun bs h hread => ?_, fun h hmode => ?_, fun h => ?_, fun h => ?_, fun h => ?_⟩
    · intro n g h hmin hmax hread u y rs hlimit hself hidle old z
      have hold : groupIssued y g = old := rfl
      exact congrArg Host.Outcome.next (groupSetStep_sets (t := t) (k := k) (n := n) (g := g) (u := u) (y := y) (rs := rs) (z := z)
        rfl rfl h rfl rfl hmin hmax hread rfl rfl rfl hlimit hself hidle (by rw [hold]))
    · intro u ws hst
      exact congrArg Host.Outcome.next (collIssueStep_accepts (t := t) (k := k) (u := u) (ws := ws) rfl rfl h hread rfl rfl hst)
    · exact congrArg Host.Outcome.next (canarySetStep_waits (t := t) (k := k) (x := x) rfl rfl rfl h hmode)
    · intro bs hhost
      exact congrArg Host.Outcome.next (canaryQueryStep_writes (t := t) (k := k) (x := x) (bs := bs) rfl rfl rfl h rfl hhost)
    · exact congrArg Host.Outcome.next (canaryClearStep_clears (t := t) (k := k) (x := x) rfl rfl rfl h)
    · intro l
      exact congrArg Host.Outcome.next (ledgerStep_tries (t := t) (k := k) (x := x) (l := l) rfl rfl rfl h rfl)
end

section
/-!
PROOFS. The commands over the winder, the power states, firmware and the sump (R387, R392, R396, R401 to R406, R413, R416, R433, R434, R474).
-/
namespace Sys2Proof.Machine
open Sys2Proof

/-! ### A reply leaves the boot state as it is -/

theorem interrupt_boot (s : State) (fn vec : Nat) : (interrupt s fn vec).boot = s.boot := by
  obtain ⟨m, h, hint⟩ := interrupt_changes s fn vec
  rw [hint]
theorem postSump_boot (s : State) (rec : SumpRec) : (postSump s rec).boot = s.boot := by
  obtain ⟨m, h, u, hsump⟩ := postSump_changes s rec
  rw [hsump]
theorem logHost_boot (s : State) (n : Option Nat) (c : Option (Nat × W32)) (status : Nat) : (logHost s n c status).boot = s.boot :=
  postSump_boot _ _
theorem interruptIf_boot (s : State) (now : Bool) (fn vec : Nat) : (if now = true then interrupt s fn vec else s).boot = s.boot := by
  split
  · exact interrupt_boot ..
  · rfl
theorem sendReply_boot (s : State) (r : Nat) (c : Cmd) (status r0 r1 : Nat) : (sendReply s r c status r0 r1).boot = s.boot := by
  unfold sendReply
  dsimp only
  split
  · rfl
  · split
    · rfl
    · split
      · exact logHost_boot ..
      · rw [interruptIf_boot, hostWrite_boot, hostWrite_boot, setRing_boot]
theorem reply_boot (s : State) (r : Nat) (seq : W32) (status r0 r1 : Nat) : (reply s r seq status r0 r1).boot = s.boot := by
  unfold reply
  dsimp only
  split
  · rfl
  · split
    · rfl
    · exact sendReply_boot ..

section
variable {s t : State} {r : Fin 256} {k : Call} {n : Nat} {w : Winder} (ht : consumed s r = t) (hk : callOf s r = k)
include ht hk

/-! ### The winder -/

section
variable (hw : t.winder = w)
include hw

theorem capSetStep_sets {cap : Nat} (h : Served s r 0x801 [span 12 0]) (hcap : par k 1 12 0 = cap) (hmin : 1 ≤ cap) (hmax : cap ≤ 3600) :
    capSetStep s r = replied s r { t with winder := { w with capHost := cap } } (if cap < w.floor then stCapBelowFloor else stOk) w.floor 0 := by
  have hin : ¬ (cap = 0 ∨ 3600 < cap) := by omega
  refine served_done ht hk h ?_
  dsimp only
  rw [hcap, if_neg hin, ← hw]
  rfl

theorem capFloorStep_answers (h : Served s r 0x802 []) : capFloorStep s r = replied s r t stOk w.floor 0 := by
  subst hw
  exact served_done ht hk h rfl

theorem prioritySetStep_sets {l : List Nat} (h : Served s r 0x803 [span 5 0]) (hl : [par k 1 5 4, par k 1 3 2, par k 1 1 0] = l)
    (hrange : l.contains 3 = false) (honce : l.eraseDups.length = 3) :
    prioritySetStep s r = replied s r { t with winder := { w with order := l } } stOk 0 0 := by
  have hgood : ¬ (l.contains 3 = true ∨ l.eraseDups.length ≠ 3) := by
    rintro (hyes | hne)
    · exact ne_true_of_eq_false hrange hyes
    · exact hne honce
  refine served_done ht hk h ?_
  dsimp only
  rw [hl, if_neg hgood, ← hw]
  rfl

theorem opFixStep_sets (h : Served s r 0x804 [span 4 0 + span 8 8]) (hn : par k 1 4 0 = n) (hin : n ≤ 11) :
    opFixStep s r = replied s r { t with winder := { w with fix := if par k 1 8 8 = 1 then some n else none } } stOk 0 0 := by
  refine served_done ht hk h ?_
  dsimp only
  rw [hn, if_neg (Nat.not_lt_of_le hin), ← hw]
  rfl

theorem opLimitStep_sets (h : Served s r 0x805 [span 4 0]) (hn : par k 1 4 0 = n) (hin : n ≤ 18) :
    opLimitStep s r = replied s r { t with winder := { w with limit := n } } stOk 0 0 := by
  refine served_done ht hk h ?_
  dsimp only
  rw [hn, if_neg (Nat.not_lt_of_le hin), ← hw]
  rfl

theorem winderQueryStep_writes (h : Served s r 0x806 [whole]) (hhost : hostOk t (par k 1 63 0) 256 = true) :
    winderQueryStep s r = replied s r (hostWrite t (par k 1 63 0) (wordsBytes (winderWords w))) stOk 0 0 := by
  have hlen : (wordsBytes (winderWords w)).length = 256 := by rw [wordsBytes_length]; rfl
  refine served_done ht hk h ?_
  rw [hw, putHost_ok (by rw [hlen]; exact hhost)]
  rfl

theorem marginClearStep_clears {bs capped : List Nat} {v : Winder} (h : Served s r 0x808 [span 3 0]) (hn : par k 1 3 0 ≠ 0)
    (hbs : (List.range 4).filter (par k 1 3 0).testBit = bs) (hcapped : (bs.filter fun b => (Tab.get none w.margin b).isSome) = capped)
    (hv : bs.foldl (fun (w : Winder) b => { w with margin := Tab.set none w.margin b none, trim := Tab.set 0 w.trim b 0 }) w = v) :
    marginClearStep s r = replied s r { t with winder := v } stOk ((capped.map (2 ^ ·)).foldl (· + ·) 0) 0 := by
  refine served_done ht hk h ?_
  dsimp only
  rw [if_neg hn, hbs, hw, hcapped, hv]
end

/-! ### Power states -/

theorem powerSetStep_enters {m : Nat} {bs : List Byte} (h : Served s r 0x807 [span 2 0, whole]) (hm : par k 1 2 0 = m) (hmin : 1 ≤ m) (hmax : m ≤ 4)
    (hhost : m = 3 → hostOk t (par k 2 63 0) 128 = true) (hbs : hostRead t (par k 2 63 0) (if m = 3 then 128 else 0) = bs)
    (hres : someSet (bs.drop 97) = false) : powerSetStep s r =
    if powerBusy t then replied s r t stPowerBusy 0 0
    else putShadow { t with entry := some { target := powerOf m, cmd := some (k.r, k.seq), retained := bs, wake := false } } r := by
  have hin : ¬ (m = 0 ∨ 4 < m) := by omega
  have hread : ∀ f : List Byte → Ans, readHost t k (par k 2 63 0) (if m = 3 then 128 else 0) f = f bs := fun f => by
    rw [← hbs]
    refine if_pos ?_
    by_cases hthree : m = 3
    · rw [if_pos hthree]; exact .inr (hhost hthree)
    · exact .inl (if_neg hthree)
  by_cases hbusy : powerBusy t = true
  · rw [if_pos hbusy]
    refine served_done ht hk h ?_
    dsimp only
    rw [hm, if_neg hin, hread, if_neg (ne_true_of_eq_false hres), if_pos hbusy]
    rfl
  · rw [if_neg hbusy]
    refine served_wait ht hk h ?_
    dsimp only
    rw [hm, if_neg hin, hread, if_neg (ne_true_of_eq_false hres), if_neg hbusy]
    rfl

/-! ### Firmware and the sump -/

theorem fwStageStep_waits {b : Boots} (h : Served s r 0x901 [whole, span 31 0])
    (hb : (if t.boot.staging.isEmpty then setInactive t.boot none else t.boot) = b) : fwStageStep s r =
    putShadow { t with boot := { b with staging := b.staging ++ [(k.r, k.seq, par k 1 63 0, par k 2 31 0)] } } r := by
  refine served_wait ht hk h ?_
  dsimp only
  rw [hb]

theorem fwActivateStep_resets {u : State} (h : Served s r 0x902 []) (hstaged : (staged t.boot).isSome = true)
    (hu : replied s r { t with boot := { flipSel t.boot with warm := true } } stOk 0 0 = u) : fwActivateStep s r = warmReset u := by
  have hsome : ¬ (staged t.boot).isNone = true := fun hnone => Option.isSome_iff_ne_none.mp hstaged (Option.isNone_iff_eq_none.mp hnone)
  have hlervo : lervo s r 0x902 [] (fun _ s =>
      if (staged s.boot).isNone then refuse s stFwBusy else okay { s with boot := { flipSel s.boot with warm := true } }) = u :=
    (served_done ht hk h (if_neg hsome)).trans hu
  have hwarm : u.boot.warm = true := by
    rw [← hu]
    exact congrArg Boots.warm (reply_boot ..)
  unfold fwActivateStep
  rw [hlervo]
  exact if_pos hwarm

theorem fwQueryStep_answers (h : Served s r 0x903 []) :
    fwQueryStep s r = replied s r t stOk (versionOf t.boot.running) (versionOf (staged t.boot)) := served_done ht hk h rfl

theorem sumpReadStep_writes {m : Nat} {rs : List (List W64)} (h : Served s r 0xA01 [whole, span 24 0]) (hm : par k 2 24 12 = m) (hmin : 1 ≤ m)
    (hmax : m ≤ 4096) (hrs : sumpRecords t.sump (par k 2 11 0) m = rs)
    (hhost : hostOk t (par k 1 63 0) (rs.map recordBytes).flatten.length = true) :
    sumpReadStep s r = replied s r (hostWrite t (par k 1 63 0) (rs.map recordBytes).flatten) stOk
      (rs.filter fun ws => !ws.isEmpty).length t.sump.head := by
  have hin : ¬ (m = 0 ∨ 4096 < m) := by omega
  refine served_done ht hk h ?_
  dsimp only
  rw [hm, if_neg hin, hrs, putHost_ok hhost]
  rfl
end

theorem stageDoneStep_ends {s : State} {r a len st : Nat} {q : W32} {rest : List (Nat × W32 × Nat × Nat)} {b : Boots}
    (hruns : firmwareRuns s = true) (hstaging : s.boot.staging = (r, q, a, len) :: rest) (hhost : hostOk s a len = true)
    (hst : verifyImage (hostRead s a len) 1 s.boot.ctr0 = st)
    (hb : setInactive { s.boot with staging := rest } (if rest.isEmpty && st == 0 then some (fwOf (hostRead s a len)) else none) = b) :
    stageDoneStep s r = reply { s with boot := b } r q st 0 0 := by
  have hslot : (if rest.isEmpty = true then (if st = 0 then some (fwOf (hostRead s a len)) else none) else none) =
      if (rest.isEmpty && st == 0) = true then some (fwOf (hostRead s a len)) else none := by
    by_cases hempty : rest.isEmpty = true
    · rw [if_pos hempty, hempty, Bool.true_and]
      exact ite_congr (propext beq_iff_eq.symm) (fun _ => rfl) fun _ => rfl
    · rw [if_neg hempty, eq_false_of_ne_true hempty]
      rfl
  unfold stageDoneStep
  rw [if_neg (not_not_of_true hruns), hstaging]
  dsimp only
  rw [if_neg (not_not_intro rfl), if_neg (not_not_of_true hhost), hst]
  unfold endStaging
  rw [hstaging]
  dsimp only
  rw [hslot, hb]

end Sys2Proof.Machine

open Sys2Proof Sys2Proof.Machine

/-- Settles O51: each command past the checks of its fields; the selector that FW_ACTIVATE flips outlives its reply. -/
theorem deviceCommands : Obligations.DeviceCommands := by
  intro s r t k w n
  refine ⟨?_, fun h => ?_, ?_, fun h hin => ?_, fun h hin => ?_, fun h hhost => ?_, ?_, fun h => ⟨fun m hm hstate => ?_, fun hm hhost hres hidle => ?_⟩,
    fun h => ?_, fun q a len rest hruns hstaging hhost => ?_, fun h hstaged => ?_, fun h => ?_, ?_⟩
  · intro cap h hmin hmax
    exact congrArg Host.Outcome.next (capSetStep_sets (t := t) (k := k) (w := w) (cap := cap) rfl rfl rfl h rfl hmin hmax)
  · exact congrArg Host.Outcome.next (capFloorStep_answers (t := t) (k := k) (w := w) rfl rfl rfl h)
  · intro l h hrange honce
    exact congrArg Host.Outcome.next (prioritySetStep_sets (t := t) (k := k) (w := w) (l := l) rfl rfl rfl h rfl hrange honce)
  · exact congrArg Host.Outcome.next (opFixStep_sets (t := t) (k := k) (w := w) (n := n) rfl rfl rfl h rfl hin)
  · exact congrArg Host.Outcome.next (opLimitStep_sets (t := t) (k := k) (w := w) (n := n) rfl rfl rfl h rfl hin)
  · exact congrArg Host.Outcome.next (winderQueryStep_writes (t := t) (k := k) (w := w) rfl rfl rfl h hhost)
  · intro bs capped h hn v
    exact congrArg Host.Outcome.next (marginClearStep_clears (t := t) (k := k) (w := w) (bs := bs) (capped := capped) (v := v)
      rfl rfl rfl h hn rfl rfl rfl)
  · have hthree : m ≠ 3 := by omega
    have hread : hostRead t (par k 2 63 0) (if m = 3 then 128 else 0) = hostRead t (par k 2 63 0) 0 := by rw [if_neg hthree]
    exact congrArg Host.Outcome.next (powerSetStep_enters (t := t) (k := k) rfl rfl h hm (by omega) (by omega) (fun hm => absurd hm hthree) hread rfl)
  · intro e
    have henter := powerSetStep_enters (t := t) (k := k) (m := 3) rfl rfl h hm (by decide) (by decide) (fun _ => hhost) rfl hres
    exact congrArg Host.Outcome.next (henter.trans (if_neg (ne_true_of_eq_false hidle)))
  · intro b
    exact congrArg Host.Outcome.next (fwStageStep_waits (t := t) (k := k) (b := b) rfl rfl h rfl)
  · intro st b
    exact congrArg Host.Outcome.next (stageDoneStep_ends (st := st) (b := b) hruns hstaging hhost rfl rfl)
  · intro u
    exact congrArg Host.Outcome.next (fwActivateStep_resets (t := t) (k := k) (u := u) rfl rfl h hstaged rfl)
  · exact congrArg Host.Outcome.next (fwQueryStep_answers (t := t) (k := k) rfl rfl h)
  · intro m rs h hmin hmax hhost
    exact congrArg Host.Outcome.next (sumpReadStep_writes (t := t) (k := k) (m := m) (rs := rs) rfl rfl h rfl hmin hmax rfl hhost)
end

section
/-!
PROOFS. Requests on the sideband: MCTP control and the board controller's vendor requests (R413, R456 to R460).
-/
namespace Sys2Proof.Machine
open Sys2Proof

section
variable {s : State} {q : MctpReq}

/-! ### When a request is served -/

/-- The packet is acknowledged. -/
def acked (s : State) : State := { s with side := { s.side with nack := false } }
/-- The packet is not acknowledged. -/
def nacked (s : State) : State := { s with side := { s.side with nack := true } }

theorem takeSide_s0 (hport : portRuns s = true) (hpower : s.power = .s0) : takeSide s true q = serveSide (acked s) q := by
  unfold takeSide
  rw [if_neg (not_not_of_true hport), hpower]
  rfl

theorem takeSide_asleep (hport : portRuns s = true) (halive : s.fatal = false) (hpower : s.power = .s1 ∨ s.power = .s2) :
    takeSide s true q = holdSide { acked s with exit := some (s.exit.getD .mctp) } q := by
  unfold takeSide
  rw [if_neg (not_not_of_true hport)]
  rcases hpower with hp | hp
  · rw [hp]; exact if_neg (ne_true_of_eq_false halive)
  · rw [hp]; exact if_neg (ne_true_of_eq_false halive)

theorem takeSide_nacked (hport : portRuns s = true) (hpower : s.power = .s0 ∨ s.power = .s1 ∨ s.power = .s2) :
    takeSide s false q = nacked s := by
  unfold takeSide
  rw [if_neg (not_not_of_true hport)]
  rcases hpower with hp | hp | hp
  · rw [hp]; rfl
  · rw [hp]; rfl
  · rw [hp]; rfl

section
variable {f : State → State}

theorem ifAnswered_alive (halive : s.fatal = false) : ifAnswered s f = f s := if_neg (ne_true_of_eq_false halive)
theorem atReady_ready (hstage : s.boot.stage = .ready) : atReady s f = f s := if_pos (by rw [hstage]; rfl)
theorem serveSide_answered (halive : s.fatal = false) (hq : ∀ t, serveSide t q = ifAnswered t f) : serveSide s q = f s :=
  (hq s).trans (ifAnswered_alive halive)
theorem serveSide_ready (hstage : s.boot.stage = .ready) (halive : s.fatal = false)
    (hq : ∀ t, serveSide t q = atReady t fun t => ifAnswered t f) : serveSide s q = f s :=
  (hq s).trans ((atReady_ready hstage).trans (ifAnswered_alive halive))
theorem serveSide_free (hstage : s.boot.stage = .ready) (halive : s.fatal = false) (hfree : s.entry = none)
    (hq : ∀ t, serveSide t q = processed t q f) : serveSide s q = f s := by
  have hidle : ¬ s.entry.isSome = true := by rw [hfree]; decide
  rw [hq, processed, atReady_ready hstage, if_neg (ne_true_of_eq_false halive), if_neg hidle]
theorem serveSide_waits (hstage : s.boot.stage = .ready) (halive : s.fatal = false) (hbusy : s.entry ≠ none)
    (hq : ∀ t, serveSide t q = processed t q f) : serveSide s q = holdSide s q := by
  rw [hq, processed, atReady_ready hstage, if_neg (ne_true_of_eq_false halive), if_pos (Option.isSome_iff_ne_none.mpr hbusy)]
theorem serveSide_powerReq {h : VendorHdr} {target : Byte} (hstage : s.boot.stage = .ready) (halive : s.fatal = false) :
    serveSide s (.powerReq h target) = powerReq s h target.toNat := by
  have hserve : serveSide s (.powerReq h target) = atReady s fun s => if s.fatal then s else powerReq s h target.toNat := rfl
  rw [hserve, atReady_ready hstage, if_neg (ne_true_of_eq_false halive)]
end

/-! ### MCTP control -/

theorem setEid_taken {e : Byte} (hlow : e ≠ 0) (hhigh : e ≠ 0xFF) :
    setEid s e = mctpReply { s with side := { s.side with eid := e } } 1 ccOk [byte 0, e, byte 0] := by
  have hgood : ¬ (e == 0 || e == 0xFF) = true := by rw [beq_false_of_ne hlow, beq_false_of_ne hhigh]; decide
  exact if_neg hgood
theorem setEid_refused {e : Byte} (hbad : e = 0 ∨ e = 0xFF) : setEid s e = mctpReply s 1 ccInvalid [] := by
  refine if_pos ?_
  rw [Bool.or_eq_true, beq_iff_eq, beq_iff_eq]
  exact hbad

/-! ### Vendor requests -/

section
variable {h : VendorHdr} (hres : h.reserved = 0)
include hres

theorem vendor_checked {cmd : Nat} {f : State → State} : vendor s h cmd f = f s := if_neg (not_not_intro hres)

theorem sumpExtract_answers {first n : Nat} {rs : List (List W64)} (hmin : 1 ≤ n) (hmax : n ≤ 15) (hfirst : first < 4096)
    (hrs : ((sumpRecords s.sump first n).filter fun ws => !ws.isEmpty) = rs) :
    sumpExtract s h first n = vendorReply s h 5 stOk (byte rs.length :: (rs.map wordsBytes).flatten) := by
  have hin : ¬ (n = 0 ∨ 15 < n ∨ 4096 ≤ first) := by omega
  refine (vendor_checked hres).trans ?_
  rw [if_neg hin, hrs]

theorem capSb_sets {cap : Nat} {now : State} (hmin : 1 ≤ cap) (hmax : cap ≤ 3600) (hnow : stamped s = now) :
    capSb s h cap = vendorReply { now with winder := { now.winder with capSb := cap } } h 2
      (if cap < now.winder.floor then stCapBelowFloor else stOk) (leBytes 2 now.winder.floor) := by
  have hin : ¬ (cap = 0 ∨ 3600 < cap) := by omega
  refine (vendor_checked hres).trans ?_
  rw [hnow, if_neg hin]
  rfl
theorem capSb_refuses {cap : Nat} (hbad : cap = 0 ∨ 3600 < cap) : capSb s h cap = vendorReply (stamped s) h 2 stBadEncoding [] := by
  refine (vendor_checked hres).trans ?_
  rw [if_pos hbad]
theorem powerReq_enters {target : Nat} {now : State} (ht : target = 2 ∨ target = 4) (hnow : stamped s = now) :
    powerReq s h target = if powerBusy now then vendorReply now h 3 stPowerBusy [] else vendorReply (beginEntry now target none []) h 3 stOk [] := by
  have hin : ¬ (target ≠ 2 ∧ target ≠ 4) := by omega
  refine (vendor_checked hres).trans ?_
  rw [hnow, if_neg hin]
end
end

/-- A cap in range, as the request's word gives it. -/
theorem word_zero_or {cap : W16} (h : cap = 0 ∨ 3600 < cap.toNat) : cap.toNat = 0 ∨ 3600 < cap.toNat :=
  h.imp_left fun hz => by rw [hz]; rfl

end Sys2Proof.Machine

open Sys2Proof Sys2Proof.Machine

/-- Settles O41: a request is acknowledged, and served, held or refused by the state it meets. -/
theorem sidebandRequests : Obligations.SidebandRequests := by
  refine ⟨fun s hport halive => ?_, fun s h hport hpower hstage halive hpec hres => ?_⟩
  · intro u say
    have hu : u.fatal = false := halive
    refine ⟨fun hpower => ?_, fun hpower q hq => ?_, fun hpower e => congrArg Host.Outcome.next (takeSide_nacked hport hpower)⟩
    · have hserve {q : MctpReq} {f : State → State} (hq : ∀ t, serveSide t q = ifAnswered t f) : takeSide s true q = f u :=
        (takeSide_s0 hport hpower).trans (serveSide_answered hu hq)
      refine ⟨fun e hlow hhigh => ?_, fun e hbad => ?_, ?_, ?_, ?_, ?_⟩
      · exact congrArg Host.Outcome.next ((hserve (f := fun t => setEid t e) fun _ => rfl).trans (setEid_taken hlow hhigh))
      · exact congrArg Host.Outcome.next ((hserve (f := fun t => setEid t e) fun _ => rfl).trans (setEid_refused hbad))
      · exact congrArg Host.Outcome.next (hserve (f := getEid) fun _ => rfl)
      · exact congrArg Host.Outcome.next (hserve (f := fun t => mctpVersions t 0) fun _ => rfl)
      · exact congrArg Host.Outcome.next (hserve (f := mctpTypes) fun _ => rfl)
      · exact congrArg Host.Outcome.next (hserve (f := fun t => vendorTypes t 0) fun _ => rfl)
    · have hhold (q : MctpReq) : takeSide s true q = holdSide { u with exit := some (s.exit.getD .mctp) } q := takeSide_asleep hport halive hpower
      rcases List.mem_append.mp hq with hfew | hmany
      · rcases List.mem_cons.mp hfew with rfl | hlast
        · exact congrArg Host.Outcome.next (hhold .getEid)
        · obtain rfl := List.mem_singleton.mp hlast
          exact congrArg Host.Outcome.next (hhold .types)
      · obtain ⟨e, -, rfl⟩ := List.mem_map.mp hmany
        exact congrArg Host.Outcome.next (hhold (.setEid (byte e)))
  · intro u now
    have htake (q : MctpReq) : takeSide s h.pecOk q = serveSide u q := by rw [hpec]; exact takeSide_s0 hport hpower
    have hu : u.fatal = false := halive
    have hready : u.boot.stage = .ready := hstage
    have hreset : warmResetStep s h = takeSide s h.pecOk (.warmReset h) := if_neg (ne_true_of_eq_false halive)
    have hserve {q : MctpReq} {f : State → State} (hq : ∀ t, serveSide t q = atReady t fun t => ifAnswered t f) : takeSide s h.pecOk q = f u :=
      (htake q).trans (serveSide_ready hready hu hq)
    refine ⟨?_, fun first n hmin hmax hfirst => ?_, fun cmd hcmd => ?_, fun hfree => ?_, fun hbusy => ?_, fun target ht => ?_⟩
    · exact congrArg Host.Outcome.next ((hserve (f := fun t => telemetryGet t h) fun _ => rfl).trans (vendor_checked hres))
    · intro rs
      exact congrArg Host.Outcome.next ((hserve (f := fun t => sumpExtract t h first.toNat n.toNat) fun _ => rfl).trans
        (sumpExtract_answers (s := u) (rs := rs) hres hmin hmax hfirst rfl))
    · exact congrArg Host.Outcome.next ((hserve (f := fun t => reservedCmd t h cmd.toNat) fun _ => rfl).trans (if_neg hcmd))
    · have hrun {q : MctpReq} {f : State → State} (hq : ∀ t, serveSide t q = processed t q f) : takeSide s h.pecOk q = f u :=
        (htake q).trans (serveSide_free hready hu hfree hq)
      refine ⟨fun cap hmin hmax => ?_, fun cap hbad => ?_, ?_⟩
      · exact congrArg Host.Outcome.next ((hrun (f := fun t => capSb t h cap.toNat) fun _ => rfl).trans
          (capSb_sets (s := u) (now := now) hres hmin hmax rfl))
      · exact congrArg Host.Outcome.next ((hrun (f := fun t => capSb t h cap.toNat) fun _ => rfl).trans
          (capSb_refuses (s := u) hres (word_zero_or hbad)))
      · exact congrArg Host.Outcome.next (hreset.trans ((hrun (f := fun t => sideReset t h) fun _ => rfl).trans (vendor_checked hres)))
    · intro wait
      have hwait {q : MctpReq} {f : State → State} (hq : ∀ t, serveSide t q = processed t q f) : takeSide s h.pecOk q = holdSide u q :=
        (htake q).trans (serveSide_waits hready hu hbusy hq)
      refine ⟨?_, fun cap => ?_⟩
      · exact congrArg Host.Outcome.next (hreset.trans (hwait (f := fun t => sideReset t h) fun _ => rfl))
      · exact congrArg Host.Outcome.next (hwait (q := .capSb h cap) (f := fun t => capSb t h cap.toNat) fun _ => rfl)
    · exact congrArg Host.Outcome.next ((htake (.powerReq h target)).trans ((serveSide_powerReq hready hu).trans
        (powerReq_enters (s := u) (h := h) (now := now) hres ht rfl)))
end

section
/-!
PROOFS. Data objects, SPDM and the IDE streams (R435 to R439, R443, R455).
-/
namespace Sys2Proof.Machine
open Sys2Proof

theorem mem_pair_of_or {a b c : Nat} (h : a = b ∨ a = c) : a ∈ [b, c] := by
  rcases h with rfl | rfl
  · exact List.mem_cons_self
  · exact List.mem_cons_of_mem _ List.mem_cons_self

/-! ### The checks of a request -/

section
variable {s : State} {msg : List Byte} {ver : List Nat} {ok : Sideband → Bool} {f : State → State} (hruns : doeRuns s = true)
include hruns

theorem spdm_long (hlen : 16376 < msg.length) : spdm s msg ver ok f = putDoe s none := by
  unfold spdm
  rw [if_neg (not_not_of_true hruns), if_pos hlen]

section
variable (hlen : msg.length ≤ 16376)
include hlen

theorem spdm_other_version (hver : ver.contains (msg.headD 0).toNat = false) :
    spdm s msg ver ok f = answer (clearKept s) (spdmHead msg 0x7F 0x41 0) := by
  unfold spdm
  rw [if_neg (not_not_of_true hruns), if_neg (Nat.not_lt_of_le hlen)]
  exact if_pos (not_of_false hver)
theorem spdm_unexpected (hver : ver.contains (msg.headD 0).toNat = true) (hok : ok (clearKept s).side = false) :
    spdm s msg ver ok f = answer (clearKept s) (spdmHead msg 0x7F 0x04 0) := by
  unfold spdm
  rw [if_neg (not_not_of_true hruns), if_neg (Nat.not_lt_of_le hlen)]
  exact (if_neg (not_not_of_true hver)).trans (if_pos (not_of_false hok))
theorem spdm_taken (hver : ver.contains (msg.headD 0).toNat = true) (hok : ok (clearKept s).side = true) :
    spdm s msg ver ok f = f (clearKept s) := by
  unfold spdm
  rw [if_neg (not_not_of_true hruns), if_neg (Nat.not_lt_of_le hlen)]
  exact (if_neg (not_not_of_true hver)).trans (if_neg (not_not_of_true hok))
end
end

theorem contains_self {a v : Nat} (h : a = v) : [v].contains a = true := List.contains_iff_mem.mpr (List.mem_singleton.mpr h)
theorem not_contains {a v : Nat} (h : a ≠ v) : [v].contains a = false :=
  eq_false_of_ne_true fun hc => h (List.mem_singleton.mp (List.contains_iff_mem.mp hc))

/-! ### Random bytes leave everything but the generator as it is -/

/-- The generator has gone on. -/
def redrawn (s : State) (g : Gen) : State := { s with rand := g }
theorem nonce32_changes (s : State) : ∃ a g, nonce32 s = (a, redrawn s g) := ⟨_, _, rfl⟩
theorem ecdhePrivate_changes (s : State) : ∃ e g, ecdhePrivate s = (e, redrawn s g) := ⟨_, _, rfl⟩

/-! ### What certificates, signatures and measurements are read from -/

theorem certChain_same {s t : State} (h : t.boot = s.boot) (slot : Nat) : certChain t slot = certChain s slot := by
  unfold certChain
  rw [h]
theorem identitySign_same {s t : State} (h : t.boot = s.boot) (m : List Byte) : identitySign t m = identitySign s m := by
  unfold identitySign
  rw [h]

section
variable {s t : State} (hboot : t.boot = s.boot) (hpins : t.pins = s.pins) (h0 : t.side.ide0 = s.side.ide0) (h1 : t.side.ide1 = s.side.ide1)
include hboot hpins h0 h1

theorem measurement_same (i : Nat) : measurement t i = measurement s i := by
  unfold measurement
  rw [hboot, hpins, h0, h1]
theorem measureBlock_same (i : Nat) : measureBlock t i = measureBlock s i := by
  unfold measureBlock
  rw [measurement_same hboot hpins h0 h1]
theorem measureSummary_same (kind : Nat) : measureSummary t kind = measureSummary s kind := by
  have hblock : measureBlock t = measureBlock s := funext (measureBlock_same hboot hpins h0 h1)
  unfold measureSummary
  rw [hblock]
end

/-! ### The steps of the connection -/

section
variable {s : State} {msg : List Byte} (hruns : doeRuns s = true) (hlen : msg.length ≤ 16376)
include hruns hlen

theorem getVersionStep_restarts (hver : (msg.headD 0).toNat = 0x10) : getVersionStep s msg = answer { clearKept s with side := { (clearKept s).side with
    stage := 1, transcript := msg ++ versionBody, certMsgs := [], exchange := false, session := false, keys := none } } versionBody :=
  spdm_taken hruns hlen (contains_self hver) rfl

section
variable {v : Nat} (hv : (msg.headD 0).toNat = v)
include hv

theorem getCapabilitiesStep_answers (hver : v = 0x12 ∨ v = 0x13) (hstage : s.side.stage = 1) :
    getCapabilitiesStep s msg = answer { clearKept s with side := { (clearKept s).side with
      stage := 2, ver := v, transcript := s.side.transcript ++ msg ++ capsBody msg } } (capsBody msg) := by
  subst hv
  exact spdm_taken hruns hlen (List.contains_iff_mem.mpr (mem_pair_of_or hver)) (beq_iff_eq.mpr hstage)
theorem getCapabilitiesStep_unexpected (hver : v = 0x12 ∨ v = 0x13) (hstage : s.side.stage ≠ 1) :
    getCapabilitiesStep s msg = answer (clearKept s) (spdmHead msg 0x7F 0x04 0) := by
  subst hv
  exact spdm_unexpected hruns hlen (List.contains_iff_mem.mpr (mem_pair_of_or hver)) (beq_false_of_ne hstage)

section
variable (hnow : v = s.side.ver)
include hnow

omit hruns hlen in
theorem version_now : [s.side.ver].contains (msg.headD 0).toNat = true := contains_self (hv.trans hnow)

theorem negotiateStep_answers (hstage : s.side.stage = 2) : negotiateStep s msg =
    if (dsc msg 8 4).testBit 9 ∧ (dsc msg 12 4).testBit 3 then answer { clearKept s with side := { (clearKept s).side with
      stage := 3, transcript := s.side.transcript ++ msg ++ algsBody msg } } (algsBody msg)
    else answer (clearKept s) (spdmHead msg 0x7F 0x01 0) := by
  have htaken : negotiateStep s msg = _ := spdm_taken hruns hlen (version_now hv hnow) (beq_iff_eq.mpr hstage)
  rw [htaken]
  by_cases hboth : (dsc msg 8 4).testBit 9 = true ∧ (dsc msg 12 4).testBit 3 = true
  · rw [if_pos hboth, if_pos (by rw [hboth.1, hboth.2]; rfl)]
    rfl
  · rw [if_neg hboth, if_neg (fun h => hboth (Bool.and_eq_true_iff.mp h))]
    rfl

/-! ### Certificates, challenges and measurements -/

section
variable (hstage : s.side.stage = 3)
include hstage

omit hruns hlen hv hnow in
theorem negotiated_stage : negotiated (clearKept s).side = true := beq_iff_eq.mpr hstage

theorem getDigestsStep_answers {body : List Byte}
    (hbody : body = spdmHead msg 0x01 0 3 ++ sha3Bytes (certChain s 0) ++ sha3Bytes (certChain s 1)) :
    getDigestsStep s msg =
      answer { clearKept s with side := { (clearKept s).side with certMsgs := s.side.certMsgs ++ msg ++ body } } body := by
  have htaken : getDigestsStep s msg = _ := spdm_taken hruns hlen (version_now hv hnow) (negotiated_stage hstage)
  rw [htaken, certChain_same (t := clearKept s) (s := s) rfl 0, certChain_same (t := clearKept s) (s := s) rfl 1, ← hbody]
  rfl

theorem getCertificateStep_answers {slot off len : Nat} {chain part body : List Byte} (hslot : slot ≤ 1) (hchain : certChain s slot = chain)
    (hoff : off < chain.length) (hpart : part = (chain.drop off).take (min len 16368))
    (hbody : body = spdmHead msg 0x02 slot 0 ++ leBytes 2 part.length ++ leBytes 2 (chain.length - off - part.length) ++ part) :
    getCertificateStep s msg slot off len =
      answer { clearKept s with side := { (clearKept s).side with certMsgs := s.side.certMsgs ++ msg ++ body } } body := by
  have hin : ¬ (1 < slot ∨ chain.length ≤ off) := by omega
  have htaken : getCertificateStep s msg slot off len = _ := spdm_taken hruns hlen (version_now hv hnow) (negotiated_stage hstage)
  rw [htaken]
  dsimp only
  rw [certChain_same (t := clearKept s) (s := s) rfl, hchain, if_neg hin, ← hpart, ← hbody]
  rfl

theorem challengeStep_signs {n : List Byte × State} {body m : List Byte} (hn : nonce32 (clearKept s) = n) (hslot : dsc msg 2 1 = 0)
    (hkind : measureSummaryOk (dsc msg 3 1) = true)
    (hbody : body = spdmHead msg 0x03 0 1 ++ sha3Bytes (certChain s 0) ++ n.1 ++ measureSummary s (dsc msg 3 1) ++ [0, 0] ++ echoed msg 36)
    (hm : m = signedM v "responder-challenge_auth signing" (s.side.transcript ++ s.side.certMsgs ++ msg ++ body)) :
    challengeStep s msg = answer { n.2 with side := { n.2.side with kept := some m, certMsgs := [] } } (body ++ identitySign s m) := by
  have hgood : ¬ (dsc msg 2 1 ≠ 0 ∨ (!measureSummaryOk (dsc msg 3 1)) = true) := by
    rintro (hne | hno)
    · exact hne hslot
    · exact not_not_of_true hkind hno
  have htaken : challengeStep s msg = _ := spdm_taken hruns hlen (version_now hv hnow) (negotiated_stage hstage)
  obtain ⟨a, g, hdraw⟩ := nonce32_changes (clearKept s)
  obtain rfl : n = (a, redrawn (clearKept s) g) := hn.symm.trans hdraw
  rw [htaken]
  dsimp only
  rw [if_neg hgood, hdraw]
  dsimp only
  rw [certChain_same (t := redrawn (clearKept s) g) (s := s) rfl, measureSummary_same (t := redrawn (clearKept s) g) (s := s) rfl rfl rfl rfl, ← hbody, identitySign_same (t := redrawn (clearKept s) g) (s := s) rfl, hm, hnow]
  rfl

theorem getMeasurementsStep_signs {i : Nat} {n : List Byte × State} {b body m : List Byte} (hmin : 1 ≤ i) (hmax : i ≤ 5)
    (hn : nonce32 (clearKept s) = n) (hb : measureBlock s i = b)
    (hbody : body = spdmHead msg 0x60 0 0 ++ [byte 1] ++ leBytes 3 b.length ++ b ++ n.1 ++ [0, 0] ++ echoed msg 37)
    (hm : m = signedM v "responder-measurements signing" (s.side.transcript ++ s.side.measMsgs ++ msg ++ body)) :
    getMeasurementsStep s msg i true = answer { n.2 with side := { n.2.side with kept := some m } } (body ++ identitySign s m) := by
  have hindex : ¬ (5 < i ∧ i ≠ 255) := by omega
  have hall : i ≠ 255 := by omega
  have hcount : i ≠ 0 := by omega
  obtain ⟨a, g, hdraw⟩ := nonce32_changes (clearKept s)
  obtain rfl : n = (a, redrawn (clearKept s) g) := hn.symm.trans hdraw
  unfold getMeasurementsStep
  rw [spdm_taken hruns hlen (version_now hv hnow) (negotiated_stage hstage)]
  dsimp only
  rw [if_neg hindex, if_neg hcount, if_neg hall, if_neg hcount, hdraw, List.map_singleton, List.flatten_singleton,
    measureBlock_same (t := clearKept s) (s := s) rfl rfl rfl rfl, hb]
  dsimp only
  rw [if_pos rfl, if_pos rfl, List.length_singleton, ← hbody, identitySign_same (t := redrawn (clearKept s) g) (s := s) rfl, hm, hnow]
  rfl

theorem getMeasurementsStep_collects {i : Nat} {n : List Byte × State} {b body : List Byte} (hmin : 1 ≤ i) (hmax : i ≤ 5)
    (hn : nonce32 (clearKept s) = n) (hb : measureBlock s i = b)
    (hbody : body = spdmHead msg 0x60 0 0 ++ [byte 1] ++ leBytes 3 b.length ++ b ++ n.1 ++ [0, 0] ++ echoed msg 4) :
    getMeasurementsStep s msg i false =
      answer { n.2 with side := { n.2.side with measMsgs := s.side.measMsgs ++ msg ++ body } } body := by
  have hindex : ¬ (5 < i ∧ i ≠ 255) := by omega
  have hall : i ≠ 255 := by omega
  have hcount : i ≠ 0 := by omega
  obtain ⟨a, g, hdraw⟩ := nonce32_changes (clearKept s)
  obtain rfl : n = (a, redrawn (clearKept s) g) := hn.symm.trans hdraw
  unfold getMeasurementsStep
  rw [spdm_taken hruns hlen (version_now hv hnow) (negotiated_stage hstage)]
  dsimp only
  rw [if_neg hindex, if_neg hcount, if_neg hall, if_neg hcount, hdraw, List.map_singleton, List.flatten_singleton,
    measureBlock_same (t := clearKept s) (s := s) rfl rfl rfl rfl, hb]
  dsimp only
  rw [if_neg Bool.false_ne_true, if_neg Bool.false_ne_true, List.length_singleton, ← hbody]

/-! ### Sessions -/

theorem keyExchangeStep_answers {e : (Nat × Nat) × State} {n : List Byte × State} {z body th th' m proof : List Byte} {k : Session}
    (hfree : s.side.session = false) (he : ecdhePrivate (clearKept s) = e) (hz : ecdheShared e.1.1 ((msg.drop 40).take 96) = some z)
    (hres : dsc msg 3 1 = 0) (hkind : measureSummaryOk (dsc msg 2 1) = true) (hn : nonce32 e.2 = n)
    (hbody : body = spdmHead msg 0x64 0 0 ++ leBytes 2 e.1.2 ++ [0, 0] ++ n.1 ++ ecdhePublic e.1.1 ++ measureSummary s (dsc msg 2 1) ++ [0, 0])
    (hth : th = s.side.transcript ++ sha3Bytes (certChain s 0) ++ msg ++ body) (hm : m = signedM v "responder-key_exchange_rsp signing" th)
    (hth' : th' = th ++ identitySign s m)
    (hk : k = { sid := dsc msg 4 2 + 65536 * e.1.2, ver := v, secret := hmac (List.replicate 32 0) z, th := th', thKex := [] })
    (hproof : proof = hmac (finishedKey k "rsp") (sha3Bytes th')) :
    keyExchangeStep s msg = answer { n.2 with side := { n.2.side with
      kept := some m, exchange := true, keys := some { k with thKex := th' ++ proof } } } (body ++ identitySign s m ++ proof) := by
  subst hnow
  have hgood : ¬ (dsc msg 3 1 ≠ 0 ∨ (!measureSummaryOk (dsc msg 2 1)) = true) := by
    rintro (hne | hno)
    · exact hne hres
    · exact not_not_of_true hkind hno
  have hmay : (negotiated (clearKept s).side && !(clearKept s).side.session) = true :=
    Bool.and_eq_true_iff.mpr ⟨negotiated_stage hstage, not_of_false hfree⟩
  have htaken : keyExchangeStep s msg = _ := spdm_taken hruns hlen (version_now hv rfl) hmay
  obtain ⟨e1, g, hdraw⟩ := ecdhePrivate_changes (clearKept s)
  obtain rfl : e = (e1, redrawn (clearKept s) g) := he.symm.trans hdraw
  obtain ⟨a, g', hdraw'⟩ := nonce32_changes (redrawn (clearKept s) g)
  obtain rfl : n = (a, redrawn (redrawn (clearKept s) g) g') := hn.symm.trans hdraw'
  rw [htaken]
  dsimp only
  rw [hdraw]
  dsimp only
  dsimp only at hz
  rw [hz]
  dsimp only
  rw [if_neg hgood, hdraw']
  dsimp only
  rw [certChain_same (t := redrawn (redrawn (clearKept s) g) g') (s := s) rfl, measureSummary_same (t := redrawn (redrawn (clearKept s) g) g') (s := s) rfl rfl rfl rfl, ← hbody, identitySign_same (t := redrawn (redrawn (clearKept s) g) g') (s := s) rfl]
  have htranscript : (redrawn (redrawn (clearKept s) g) g').side.transcript = s.side.transcript := rfl
  have hversion : (redrawn (redrawn (clearKept s) g) g').side.ver = s.side.ver := rfl
  rw [htranscript, hversion, ← hth, ← hm, ← hth', ← hk, ← hproof]
  subst hk
  generalize hmac (List.replicate 32 0) z = secret
  rfl

omit hstage in
theorem keyExchangeStep_second (hheld : s.side.session = true) :
    keyExchangeStep s msg = answer (clearKept s) (spdmHead msg 0x7F 0x04 0) := by
  refine spdm_unexpected hruns hlen (version_now hv hnow) ?_
  have hsession : (clearKept s).side.session = true := hheld
  rw [hsession, Bool.not_true, Bool.and_false]
end

theorem finishStep_establishes {k : Session} {resp : List Byte} {t : State} (hexchange : s.side.exchange = true) (hk : s.side.keys = some k)
    (hgood : finishGood k msg = true) (hresp : resp = spdmHead msg 0x65 0 0) (ht : answerSealed (clearKept s) false resp = t) :
    finishStep s msg = { t with side := { t.side with
      exchange := false, session := true, keys := some { k with thFin := k.thKex ++ msg ++ resp, count := 0 } } } := by
  have hkeys : (clearKept s).side.keys = some k := hk
  have hmay : ((clearKept s).side.exchange && (clearKept s).side.keys.isSome) = true := by
    rw [hkeys]; exact Bool.and_eq_true_iff.mpr ⟨hexchange, rfl⟩
  have htaken : finishStep s msg = _ := spdm_taken hruns hlen (version_now hv hnow) hmay
  rw [htaken]
  dsimp only
  rw [hkeys]
  dsimp only
  rw [if_pos hgood, ← hresp, ht]

theorem endSessionStep_ends {t : State} (hsession : s.side.session = true)
    (ht : answerSealed (clearKept s) true (spdmHead msg 0x6C 0 0) = t) :
    endSessionStep s msg = { t with side := { t.side with session := false, keys := none } } := by
  have htaken : endSessionStep s msg = _ := spdm_taken hruns hlen (version_now hv hnow) hsession
  rw [htaken]
  dsimp only
  rw [ht]

/-! ### The second signature -/

theorem vendorSpdmStep_other {vendor payload : Nat} (hother : dsc msg 4 2 ≠ 3 ∨ vendor ≠ 0x1F4B ∨ payload ≠ 1) :
    vendorSpdmStep s msg vendor payload = answer (clearKept s) (spdmHead msg 0x7F 0x07 0) := by
  unfold vendorSpdmStep
  rw [if_neg (not_not_of_true hruns), if_neg (Nat.not_lt_of_le hlen), if_neg (not_not_intro (hv.trans hnow)), if_pos hother]
  rfl

section
variable (hstd : dsc msg 4 2 = 3)
include hstd

theorem vendorSpdmStep_unkept (hnone : s.side.kept = none) :
    vendorSpdmStep s msg 0x1F4B 1 = answer s (spdmHead msg 0x7F 0x04 0) := by
  have hmine : ¬ (dsc msg 4 2 ≠ 3 ∨ 0x1F4B ≠ 0x1F4B ∨ 1 ≠ 1) := by rw [hstd]; decide
  unfold vendorSpdmStep
  rw [if_neg (not_not_of_true hruns), if_neg (Nat.not_lt_of_le hlen), if_neg (not_not_intro (hv.trans hnow)), if_neg hmine, hnone]
  rfl

theorem vendorSpdmStep_signs {m sig : List Byte} {n : List Byte × State} (hm : s.side.kept = some m) (hn : nonce32 s = n)
    (hsig : mldsa65Sign (keyXi (s.boot.seed.getD 0)) m n.1 = sig) :
    vendorSpdmStep s msg 0x1F4B 1 =
      answer n.2 (spdmHead msg 0x7E 0 0 ++ leBytes 2 3 ++ [byte 2] ++ leBytes 2 0x1F4B ++ (leBytes 2 sig.length ++ sig)) := by
  have hmine : ¬ (dsc msg 4 2 ≠ 3 ∨ 0x1F4B ≠ 0x1F4B ∨ 1 ≠ 1) := by rw [hstd]; decide
  obtain ⟨a, g, hdraw⟩ := nonce32_changes s
  obtain rfl : n = (a, redrawn s g) := hn.symm.trans hdraw
  have hseed : (redrawn s g).boot.seed = s.boot.seed := rfl
  unfold vendorSpdmStep
  rw [if_neg (not_not_of_true hruns), if_neg (Nat.not_lt_of_le hlen), if_neg (not_not_intro (hv.trans hnow)), if_neg hmine, hm]
  dsimp only
  rw [hdraw]
  dsimp only
  rw [hseed, hsig, vendorBody, List.append_assoc _ (leBytes 2 sig.length) sig]
end
end
end
end

/-! ### The mailbox, a refused request, and the IDE streams -/

section
variable {s : State} {msg : List Byte}

/-- A request whose order is that of a connection which has come as far as `ok` says, at the version of the connection. -/
def AtVersion (s : State) (msg : List Byte) (i : Instr) (ok : Sideband → Bool) : Prop :=
  ∃ f : State → State, exec i s = .next (spdm s msg [s.side.ver] ok f)

theorem exec_other_version {i : Instr} {ok : Sideband → Bool} (hi : AtVersion s msg i ok) (hruns : doeRuns s = true) (hlen : msg.length ≤ 16376)
    (hver : (msg.headD 0).toNat ≠ s.side.ver) : exec i s = .next (answer (clearKept s) (spdmHead msg 0x7F 0x41 0)) := by
  obtain ⟨f, hf⟩ := hi
  exact hf.trans (congrArg Host.Outcome.next (spdm_other_version hruns hlen (not_contains hver)))
theorem exec_unexpected {i : Instr} {ok : Sideband → Bool} (hi : AtVersion s msg i ok) (hruns : doeRuns s = true) (hlen : msg.length ≤ 16376)
    (hver : (msg.headD 0).toNat = s.side.ver) (hok : ok (clearKept s).side = false) :
    exec i s = .next (answer (clearKept s) (spdmHead msg 0x7F 0x04 0)) := by
  obtain ⟨f, hf⟩ := hi
  exact hf.trans (congrArg Host.Outcome.next (spdm_unexpected hruns hlen (contains_self hver) hok))

/-- What the connection must have come to for a request of the list. -/
theorem atVersion_of_mem {i : Instr} (hi : i ∈ ([.negotiateAlgorithms msg, .getDigests msg, .getCertificate msg 0 0 0, .challenge msg,
    .keyExchange msg, .finish msg, .endSession msg] : List Instr)) :
    AtVersion s msg i (fun d => d.stage == 2) ∨ AtVersion s msg i negotiated ∨ AtVersion s msg i (fun d => negotiated d && !d.session) ∨
      AtVersion s msg i (fun d => d.exchange && d.keys.isSome) ∨ AtVersion s msg i (·.session) := by
  simp only [List.mem_cons, List.not_mem_nil, or_false] at hi
  rcases hi with rfl | rfl | rfl | rfl | rfl | rfl | rfl
  · exact .inl ⟨_, rfl⟩
  · exact .inr (.inl ⟨_, rfl⟩)
  · exact .inr (.inl ⟨_, rfl⟩)
  · exact .inr (.inl ⟨_, rfl⟩)
  · exact .inr (.inr (.inl ⟨_, rfl⟩))
  · exact .inr (.inr (.inr (.inl ⟨_, rfl⟩)))
  · exact .inr (.inr (.inr (.inr ⟨_, rfl⟩)))

theorem discoveryStep_answers {i : Nat} (hruns : doeRuns s = true) : discoveryStep s i = putDoe s (some (doeObject 0 (if i ≤ 2
    then leBytes 2 1 ++ [byte i, byte (if i = 2 then 0 else i + 1)] else [byte 0xFF, byte 0xFF, byte 0, byte 0]))) := by
  unfold discoveryStep
  rw [if_neg (not_not_of_true hruns)]
  by_cases hi : i ≤ 2
  · rw [if_pos hi, if_pos hi]
  · rw [if_neg hi, if_neg hi]
theorem unsupportedObjStep_discards {v t : Nat} (hruns : doeRuns s = true) (hother : ¬ (v = 1 ∧ t ≤ 2)) : unsupportedObjStep s v t = putDoe s none := by
  refine if_neg ?_
  rw [hruns, Bool.not_true, Bool.false_or, Bool.and_eq_true, beq_iff_eq, decide_eq_true_iff]
  exact hother

theorem ideKmStep_session {n : Nat} (hruns : doeRuns s = true) (hsession : s.side.session = true) : ideKmStep s n =
    answerSealed (setIde (clearKept s) n .secure) true (vendorBody [byte s.side.ver] 1 [0, 6, 0, 0, byte n, 0, 0, 0]) :=
  if_pos (Bool.and_eq_true_iff.mpr ⟨hruns, hsession⟩)
theorem ideKmStep_outside {n : Nat} (hsession : s.side.session = false) : ideKmStep s n = s :=
  if_neg fun h => ne_true_of_eq_false hsession (Bool.and_eq_true_iff.mp h).2
theorem ideFailStep_fails {n : Nat} (hup : aditUp s = true) (hide : ideOf s n = .secure) :
    ideFailStep s n = postSump (setIde s n .failed) { cls := 1, unit := 0x09, kind := 9, d4 := n } :=
  if_pos (Bool.and_eq_true_iff.mpr ⟨hup, beq_iff_eq.mpr hide⟩)

/-- A message that is too long is discarded, whoever it is for. -/
theorem vendorSpdmStep_long {vendor payload : Nat} (hruns : doeRuns s = true) (hlen : 16376 < msg.length) :
    vendorSpdmStep s msg vendor payload = putDoe s none := by
  unfold vendorSpdmStep
  rw [if_neg (not_not_of_true hruns), if_pos hlen]
end

end Sys2Proof.Machine

open Sys2Proof Sys2Proof.Machine

/-- Settles O40: each object and request past the checks of its version and order; random bytes change nothing that an answer reads. -/
theorem secureConnection : Obligations.SecureConnection := by
  refine ⟨fun s => ⟨fun hruns => ⟨fun i => ?_, ?_, fun v t hother => ?_, fun hsession => ?_, fun hsession n => ?_⟩,
    fun hup => ⟨fun hide => ?_, fun hide => ?_⟩⟩, fun s msg hruns hlen => ?_, fun s msg hruns hlen => ?_⟩
  · exact congrArg Host.Outcome.next (discoveryStep_answers hruns)
  · exact congrArg Host.Outcome.next (if_pos hruns)
  · exact congrArg Host.Outcome.next (unsupportedObjStep_discards hruns hother)
  · intro ack
    exact ⟨congrArg Host.Outcome.next (ideKmStep_session (n := 0) hruns hsession), congrArg Host.Outcome.next (ideKmStep_session (n := 1) hruns hsession)⟩
  · exact congrArg Host.Outcome.next (ideKmStep_outside hsession)
  · exact congrArg Host.Outcome.next (ideFailStep_fails (n := 0) hup hide)
  · exact congrArg Host.Outcome.next (ideFailStep_fails (n := 1) hup hide)
  · intro t
    exact ⟨congrArg Host.Outcome.next (spdm_long hruns hlen), congrArg Host.Outcome.next (spdm_long hruns hlen),
      congrArg Host.Outcome.next (vendorSpdmStep_long hruns hlen)⟩
  · intro u v now err
    refine ⟨fun hv => ?_, fun hv => ?_, fun hv => ⟨fun hstage => ?_, fun hstage => ?_⟩, fun hnow hstage => ?_, fun i hi => ⟨fun hnow => ?_,
      fun hnow h2 h3 hexchange hsession => ?_⟩, fun hnow hstage => ⟨?_, fun slot off len hslot hoff => ?_, fun hslot hkind => ?_, fun i hi => ?_,
      fun hfree z => ?_, fun hheld => ?_⟩, fun hnow hexchange k hk hgood => ?_, fun hnow hsession => ?_, fun hnow hstd => ⟨fun m hm => ?_,
      fun hnone => ?_, fun vendor payload hother => ?_⟩⟩
    · exact congrArg Host.Outcome.next (getVersionStep_restarts hruns hlen hv)
    · exact congrArg Host.Outcome.next (spdm_other_version hruns hlen (not_contains hv))
    · exact congrArg Host.Outcome.next (getCapabilitiesStep_answers (v := v) hruns hlen rfl hv hstage)
    · exact congrArg Host.Outcome.next (getCapabilitiesStep_unexpected (v := v) hruns hlen rfl hv hstage)
    · exact congrArg Host.Outcome.next (negotiateStep_answers (v := v) hruns hlen rfl hnow hstage)
    · rcases atVersion_of_mem (s := s) hi with h | h | h | h | h
      · exact exec_other_version h hruns hlen hnow
      · exact exec_other_version h hruns hlen hnow
      · exact exec_other_version h hruns hlen hnow
      · exact exec_other_version h hruns hlen hnow
      · exact exec_other_version h hruns hlen hnow
    · have hnegotiated : negotiated (clearKept s).side = false := beq_false_of_ne h3
      rcases atVersion_of_mem (s := s) hi with h | h | h | h | h
      · exact exec_unexpected h hruns hlen hnow (beq_false_of_ne h2)
      · exact exec_unexpected h hruns hlen hnow hnegotiated
      · exact exec_unexpected h hruns hlen hnow (Bool.and_eq_false_iff.mpr (.inl hnegotiated))
      · exact exec_unexpected h hruns hlen hnow (Bool.and_eq_false_iff.mpr (.inl hexchange))
      · exact exec_unexpected h hruns hlen hnow hsession
    · intro body
      exact congrArg Host.Outcome.next (getDigestsStep_answers (v := v) (body := body) hruns hlen rfl hnow hstage rfl)
    · intro part body
      exact congrArg Host.Outcome.next
        (getCertificateStep_answers (v := v) (part := part) (body := body) hruns hlen rfl hnow hstage hslot rfl hoff rfl rfl)
    · intro n body m
      exact congrArg Host.Outcome.next
        (challengeStep_signs (v := v) (n := n) (body := body) (m := m) hruns hlen rfl hnow hstage rfl hslot hkind rfl rfl)
    · intro n b body m
      refine ⟨?_, ?_⟩
      · exact congrArg Host.Outcome.next (getMeasurementsStep_signs (v := v) (n := n) (b := b) (body := body 37) (m := m)
          hruns hlen rfl hnow hstage hi.1 hi.2 rfl rfl rfl rfl)
      · exact congrArg Host.Outcome.next (getMeasurementsStep_collects (v := v) (n := n) (b := b) (body := body 4)
          hruns hlen rfl hnow hstage hi.1 hi.2 rfl rfl rfl)
    · intro e hz hres hkind n body th m th' k proof
      exact congrArg Host.Outcome.next (keyExchangeStep_answers (v := v) (e := e) (n := n) (body := body) (th := th) (th' := th') (m := m) (k := k)
        (proof := proof) hruns hlen rfl hnow hstage hfree rfl hz hres hkind rfl rfl rfl rfl rfl rfl rfl)
    · exact congrArg Host.Outcome.next (keyExchangeStep_second (v := v) hruns hlen rfl hnow hheld)
    · intro resp t
      exact congrArg Host.Outcome.next (finishStep_establishes (v := v) (resp := resp) (t := t) hruns hlen rfl hnow hexchange hk hgood rfl rfl)
    · intro t
      exact congrArg Host.Outcome.next (endSessionStep_ends (v := v) (t := t) hruns hlen rfl hnow hsession rfl)
    · intro n
      exact congrArg Host.Outcome.next (vendorSpdmStep_signs (v := v) (n := n) hruns hlen rfl hnow hstd hm rfl rfl)
    · exact congrArg Host.Outcome.next (vendorSpdmStep_unkept (v := v) hruns hlen rfl hnow hstd hnone)
    · have hwords : vendor.toNat ≠ 0x1F4B ∨ payload.toNat ≠ 1 :=
        hother.imp (fun hne heq => hne (BitVec.eq_of_toNat_eq heq)) fun hne heq => hne (BitVec.eq_of_toNat_eq heq)
      exact congrArg Host.Outcome.next (vendorSpdmStep_other (v := v) hruns hlen rfl hnow (.inr hwords))
end
